-- ==== Sys2Proof/Word.lean ====
section
/-! DEFINITION. The word types of the SL20 (R1, R16, R49): bytes, parcels, 64-bit words and 256-bit vectors. -/

namespace Sys2Proof

/-- A byte of memory (8 bits). -/
abbrev Byte := BitVec 8

/-- A 16-bit instruction parcel (R59). -/
abbrev Parcel := BitVec 16

/-- A 64-bit scalar, address or control-register value (R16, R49). -/
abbrev Word := BitVec 64

/-- A 256-bit vector register value or message flit (R49, R198). -/
abbrev VWord := BitVec 256

end Sys2Proof
end

