-- ==== Sys2Proof/Syntax.lean ====
section
/-! DEFINITION. The steps of the SL20 as syntax: one constructor of `Instr` per row of the opcode table, the 190 encoded
instructions (R62 to R68) and the 109 events that have no encoding. -/

namespace Sys2Proof

/-- A scalar register s0–s31 (R49, R61). -/
abbrev Reg := BitVec 5

/-- A vector register v0–v31 (R49, R61). -/
abbrev VReg := BitVec 5

/-- A mask register m0–m7 (R49, R61). -/
abbrev MReg := BitVec 3

/-- A buffer handle h0–h15 (R50, R61). -/
abbrev HReg := BitVec 4

/-- The scopes of R63; code 0b111 is reserved and never built. -/
inductive Scope where
  | lane | core | quad | clu | die | dev | sys
  deriving DecidableEq, Repr

/-- The ordering of an AMO (R63, R66): relaxed has no scope. -/
inductive AmoOrd where
  | relaxed | acq (sc : Scope) | rel (sc : Scope) | acqRel (sc : Scope)
  deriving DecidableEq, Repr

/-- The five rounding modes of R30. -/
inductive RoundMode where
  | rne | rtz | rup | rdn | rs
  deriving DecidableEq, Repr

/-- An RM field (R63): a mode written in the instruction, or the dynamic mode of RMODE. -/
inductive RmField where
  | fixed (m : RoundMode) | dyn
  deriving DecidableEq, Repr

/-- The element views of R63. -/
inductive View where
  | e8 | e16 | e32
  deriving DecidableEq, Repr

/-- VIEW with T (R63): integers in three views, BF16 in the 16-bit and F32 in the 32-bit view. -/
inductive VTy where
  | i8 | i16 | i32 | bf16 | f32
  deriving DecidableEq, Repr

/-- The element types of a conversion (R66, major 13). -/
inductive ElemTy where
  | i8 | i16 | i32 | n32 | f16 | bf16 | f32
  deriving DecidableEq, Repr

/-- The PB32 element formats of R34. -/
inductive BlkFmt where
  | w8 | cw8 | w6 | w4 | w3 | i6 | i4 | i3
  deriving DecidableEq, Repr

/-- A codebook choice (R66, VPACK): one of four, or automatic. -/
inductive CbSel where
  | cb (n : BitVec 2) | auto
  deriving DecidableEq, Repr

/-- The conditions of VCMP (R66). -/
inductive VCond where
  | eq | lt | le | ltu
  deriving DecidableEq, Repr

/-- The CORDIC functions (R66, major 14). -/
inductive CordicFn where
  | sin | cos | atan2 | exp | log | tanh | sigm | sqrt | rsqrt | recip
  deriving DecidableEq, Repr

/-- The selectors of COORD (R92). -/
inductive CoordSel where
  | phys | log | gxy | gidx | stage
  deriving DecidableEq, Repr

/-- The engine FIFOs of R184. -/
inductive Fifo where
  | matrix | brook
  deriving DecidableEq, Repr

/-- The kinds of FENCE (R103); `ionly` is KIND = 0b00 with I = 1. -/
inductive FenceKind where
  | ionly | acq (sc : Scope) (i : Bool) | rel (sc : Scope) (i : Bool) | full (sc : Scope) (i : Bool)
  deriving DecidableEq, Repr

/-- The kind of a memory access, for the checks of R27. -/
inductive Access where
  | load | store | tload | tstore | tagStep | amo | red | fetch | table
  deriving DecidableEq, Repr

/-- A store or AMO that an application core makes at a home (R216, R225): a physical byte address of R306. -/
inductive HostOp where
  | store | add | and | or | xor | swap
  deriving DecidableEq, Repr

/-- The source of a write that arrives at a home: the k-th posted write in flight, or an application core. -/
inductive MergeSrc where
  | posted (k : Nat)
  | host (op : HostOp) (byteAddr width : Nat) (data : Word)
  deriving DecidableEq, Repr

/-- The source of a read that arrives at a home: a lane's request that waits there, or an application core. -/
inductive ReadSrc where
  | lane (core lane : Nat)
  | host (byteAddr width : Nat)
  deriving DecidableEq, Repr

/-- An Ethernet frame of R313 as the receiving hub finds it: source MAC, arrival port, sender's partition,
receiver's partition, sequence number and the message's words, header first. -/
structure EthFrame where
  mac : BitVec 48
  port : BitVec 4
  srcPart : BitVec 8
  rpart : BitVec 8
  seq : BitVec 16
  ethType : BitVec 16
  msg : List Word
  deriving DecidableEq, Repr

/-- One step of the SL20: the 172 instructions of 32 bits, the 18 compact forms, and the events of the opcode table.
Cores are named by physical number (R6), the management core by 2^20; dies by number 0–31, the hub by 32. -/
inductive Instr where
  /- major 0 to 2: memory and tags (R101, R104, R108) -/
  | ldM (d b : Reg) (w : BitVec 5) (off : BitVec 11)
  | stM (d b : Reg) (w : BitVec 5) (off : BitVec 11)
  | ldA (d a : Reg) (w : BitVec 6) (sx : Bool) (acq : Option Scope)
  | stA (d a : Reg) (w : BitVec 6) (rel : Option Scope)
  | ldf (d a : Reg) (acq : Option Scope)
  | ldw (d a : Reg) (ver : BitVec 4) (acq : Option Scope)
  | ste (d a : Reg) (rel : Option Scope)
  | stv (d a : Reg) (ver : BitVec 4) (rel : Option Scope)
  | tagrd (d a : Reg)
  | reclaim (a : Reg) (rel : Option Scope)
  | spillm (d a : Reg) (file : Bool)
  | fillm (d a : Reg) (file : Bool)
  /- major 3: AMOs and reductions (R110); w64 is W -/
  | amoadd (d a b : Reg) (w64 : Bool) (ord : AmoOrd)
  | amoand (d a b : Reg) (w64 : Bool) (ord : AmoOrd)
  | amoor (d a b : Reg) (w64 : Bool) (ord : AmoOrd)
  | amoxor (d a b : Reg) (w64 : Bool) (ord : AmoOrd)
  | amomin (d a b : Reg) (w64 : Bool) (ord : AmoOrd)
  | amomax (d a b : Reg) (w64 : Bool) (ord : AmoOrd)
  | amominu (d a b : Reg) (w64 : Bool) (ord : AmoOrd)
  | amomaxu (d a b : Reg) (w64 : Bool) (ord : AmoOrd)
  | amoswap (d a b : Reg) (w64 : Bool) (ord : AmoOrd)
  | amocas (d a b : Reg) (w64 : Bool) (ord : AmoOrd)
  | redadd (a b : Reg) (w64 : Bool) (rel : Option Scope)
  | redfadd (a b : Reg) (rel : Option Scope)
  | redmin (a b : Reg) (w64 : Bool) (rel : Option Scope)
  | redmax (a b : Reg) (w64 : Bool) (rel : Option Scope)
  | redor (a b : Reg) (w64 : Bool) (rel : Option Scope)
  /- major 4: integer R (R82 to R84); g is the field width minus 1 -/
  | add (d a b : Reg)
  | sub (d a b : Reg)
  | and (d a b : Reg)
  | or (d a b : Reg)
  | xor (d a b : Reg)
  | shl (d a b : Reg)
  | shr (d a b : Reg)
  | sra (d a b : Reg)
  | mul (d a b : Reg)
  | mulh (d a b : Reg)
  | mulhu (d a b : Reg)
  | div (d a b : Reg)
  | divu (d a b : Reg)
  | rem (d a b : Reg)
  | remu (d a b : Reg)
  | slt (d a b : Reg)
  | sltu (d a b : Reg)
  | min (d a b : Reg)
  | max (d a b : Reg)
  | minu (d a b : Reg)
  | maxu (d a b : Reg)
  | clz (d a : Reg)
  | ctz (d a : Reg)
  | popc (d a : Reg)
  | bext (d a b : Reg) (g : BitVec 6)
  | bins (d a b : Reg) (g : BitVec 6)
  | sext (d a : Reg) (g : BitVec 6)
  | zext (d a : Reg) (g : BitVec 6)
  /- major 5 and 6: integer I and LUI (R85, R86) -/
  | addi (d a : Reg) (imm : BitVec 12)
  | andi (d a : Reg) (imm : BitVec 12)
  | ori (d a : Reg) (imm : BitVec 12)
  | xori (d a : Reg) (imm : BitVec 12)
  | shli (d a : Reg) (amt : BitVec 6)
  | shri (d a : Reg) (amt : BitVec 6)
  | srai (d a : Reg) (amt : BitVec 6)
  | slti (d a : Reg) (imm : BitVec 12)
  | sltiu (d a : Reg) (imm : BitVec 12)
  | lui (d : Reg) (k : BitVec 2) (ins : Bool) (imm : BitVec 16)
  /- major 7: address (R89 to R92) -/
  | eaddr (d a b : Reg) (g : BitVec 6)
  | ediff (d a b : Reg) (g : BitVec 6)
  | balign (d a : Reg) (g : BitVec 6)
  | waddr (d a : Reg)
  | gaddr (d a : Reg)
  | coord (d : Reg) (sel : CoordSel)
  /- majors 8 to 10: control (R94 to R96) -/
  | beq (a b : Reg) (off : BitVec 13)
  | bne (a b : Reg) (off : BitVec 13)
  | blt (a b : Reg) (off : BitVec 13)
  | bge (a b : Reg) (off : BitVec 13)
  | bltu (a b : Reg) (off : BitVec 13)
  | bgeu (a b : Reg) (off : BitVec 13)
  | jal (d : Reg) (off : BitVec 21)
  | jalr (d a : Reg) (imm : BitVec 12)
  | loop (a : Reg) (imm : BitVec 12)
  | endh
  /- major 11: vector ALU (R118 to R122) -/
  | vadd (d a b : VReg) (ty : VTy) (m : MReg)
  | vsub (d a b : VReg) (ty : VTy) (m : MReg)
  | vmul (d a b : VReg) (ty : VTy) (m : MReg)
  | vfma (d a b : VReg) (ty : VTy) (m : MReg)
  | vmin (d a b : VReg) (ty : VTy) (m : MReg)
  | vmax (d a b : VReg) (ty : VTy) (m : MReg)
  | vabs (d a : VReg) (ty : VTy) (m : MReg)
  | vneg (d a : VReg) (ty : VTy) (m : MReg)
  | vand (d a b : VReg) (v : View) (m : MReg)
  | vor (d a b : VReg) (v : View) (m : MReg)
  | vxor (d a b : VReg) (v : View) (m : MReg)
  | vshl (d a b : VReg) (v : View) (m : MReg)
  | vshr (d a b : VReg) (v : View) (m : MReg)
  | vsra (d a b : VReg) (v : View) (m : MReg)
  | vcmp (md : MReg) (a b : VReg) (c : VCond) (ty : VTy) (m : MReg)
  | vsel (d a b : VReg) (v : View) (m : MReg)
  | vbcast (d : VReg) (a : Reg) (v : View) (m : MReg)
  | vperm (d a b : VReg) (v : View) (m : MReg)
  | vslide (d a : VReg) (b : Reg) (v : View) (m : MReg)
  | vredadd (d a : VReg) (ty : VTy) (m : MReg)
  | vredmax (d a : VReg) (ty : VTy) (m : MReg)
  | vredmin (d a : VReg) (ty : VTy) (m : MReg)
  | vmovsv (d : Reg) (a : VReg) (v : View) (m : MReg)
  | vmovvs (d : VReg) (a : Reg) (v : View) (m : MReg)
  | mand (md ma mb : MReg)
  | mor (md ma mb : MReg)
  | mnot (md ma : MReg)
  | mpop (d : Reg) (ma : MReg)
  /- major 12: vector memory (R123) -/
  | vld (d : VReg) (a : Reg) (v : View) (m : MReg)
  | vst (d : VReg) (a : Reg) (v : View) (m : MReg)
  | vlds (d : VReg) (a b : Reg) (v : View) (m : MReg)
  | vgather (d : VReg) (a : Reg) (b : VReg) (v : View) (m : MReg)
  | vscatter (d : VReg) (a : Reg) (b : VReg) (v : View) (m : MReg)
  /- major 13: conversions (R125 to R127) -/
  | vcvt (d a : VReg) (tt st : ElemTy) (rm : RmField)
  | vpack (a : VReg) (b : Reg) (fmt : BlkFmt) (st : ElemTy) (rm : RmField) (cb : CbSel) (kquad : Bool)
  | vunpack (d : VReg) (a : Reg) (fmt : BlkFmt) (tt : ElemTy) (rm : RmField)
  /- major 14: CORDIC and the generator (R136, R139); n1 is N − 1 -/
  | vcord (d a b : VReg) (fn : CordicFn) (n1 : BitVec 5)
  | scord (d a b : Reg) (fn : CordicFn) (n1 : BitVec 5)
  | rand (d : Reg)
  /- major 15: handles and streams (R128 to R133) -/
  | hset (h : HReg) (d : Reg)
  | hwaitf (h : HReg) (count : BitVec 12)
  | hwaite (h : HReg) (count : BitVec 12)
  | hadv (h : HReg) (tail : Bool) (count : BitVec 12)
  | ldh (d : Reg) (h : HReg) (k : BitVec 12)
  | sth (d : Reg) (h : HReg) (k : BitVec 12)
  | sbind (n : BitVec 3) (h : HReg) (d : Reg) (out : Bool) (v : View)
  | sunbind (n : BitVec 3)
  /- majors 16 and 17: matrix and accumulator (R153 to R164); p1 is P − 1 -/
  | mma (d a b c : Reg) (p1 : BitVec 4)
  | mmat (d a b c : Reg) (p1 : BitVec 4)
  | mzero (a : Reg)
  | lmap (d a b : Reg)
  | accrow (d : VReg) (a b : Reg) (rm : RmField)
  | bind (d a b : Reg) (rm : RmField) (cm : Bool)
  | accrd (d : VReg) (a b : Reg) (rm : RmField)
  | accsp (d a : Reg)
  | accfl (d a : Reg)
  | mwait (d : Reg)
  | mpoll (d a : Reg)
  /- majors 18 to 20: messages, mailbox, engines (R173 to R184) -/
  | send (a b : Reg) (sc : Scope)
  | sendi (a b : Reg) (sc : Scope)
  | cntwait (n : BitVec 2) (a : Reg)
  | mbxpost (a b d : Reg)
  | mbxtake (d : Reg)
  | mbxcfg (a : Reg)
  | bcopy (d a b : Reg) (sc : Scope)
  | bconv (d a b : Reg) (sc : Scope)
  | bevict (a : Reg)
  | bwait (a : Reg)
  | engpush (f : Fifo) (a : Reg) (sc : Scope)
  | engpop (f : Fifo) (d : Reg)
  /- major 21: tasks (R185 to R189) -/
  | tspawn (d a : Reg)
  | tspawnr (d a b : Reg)
  | tdep (d a b : Reg)
  | tdone (d a : Reg)
  | ttile (d a : Reg)
  | tnote (d a b : Reg)
  | tval (d a b : Reg)
  | tabort (d a : Reg)
  /- majors 22 to 25: fence, system, control registers, debug (R103, R192 to R197) -/
  | fence (k : FenceKind)
  | trap (e : BitVec 10)
  | tret
  | sleep (d a : Reg)
  | dtcr (d : Reg)
  | nop
  | partset (a : Reg)
  | lanegate (a : Reg)
  | imgsave (a : Reg) (inc : Bool)
  | imgload (a : Reg)
  | crr (d : Reg) (n : BitVec 12)
  | crw (a : Reg) (n : BitVec 12)
  | bkpt (e : BitVec 10)
  /- compact forms (R67, R68); c-registers name s8–s15 -/
  | addCompactS0 (d a : Reg)
  | addCompact (d a : Reg)
  | subCompact (d a : Reg)
  | andCompact (d a : Reg)
  | orCompact (d a : Reg)
  | xorCompact (d a : Reg)
  | addiCompactS0 (d : Reg) (imm : BitVec 6)
  | addiCompact (d : Reg) (imm : BitVec 6)
  | shliCompact (d : Reg) (amt : BitVec 6)
  | sraiCompact (d : Reg) (amt : BitVec 6)
  | ldCompact (d b : BitVec 3) (off : BitVec 5)
  | stCompact (d b : BitVec 3) (off : BitVec 5)
  | beqCompact (a : Reg) (off : BitVec 6)
  | bneCompact (a : Reg) (off : BitVec 6)
  | jalCompact (off : BitVec 11)
  | jalrCompact (a : Reg)
  | endhCompact
  | ldfCompact (d b : BitVec 3) (off : BitVec 5)
  /- events at lanes and homes -/
  | jobFaultTrap (core lane : Nat)
  | watchdog (core lane : Nat)
  | promiseMissed (core lane : Nat)
  | sleepTimer (core lane : Nat)
  | homeMerge (src : MergeSrc)
  | homeRead (src : ReadSrc)
  | parkedRequestReissue (core lane : Nat)
  | answerArrival (core lane : Nat)
  | translationWalk (die sid : Nat) (va : Word) (kind : Access)
  /- events of engines -/
  | matrixJobStart (cluster : Nat)
  | matrixJobComplete (cluster : Nat)
  | teamReservation (root set : Nat) (tid : BitVec 8)
  | brookJobStart (cluster pieces : Nat)
  | brookJobComplete (cluster : Nat)
  | barrierArrival (cluster : Nat)
  | residencyEviction (cluster : Nat)
  /- the device-register accesses of the current lane -/
  | mcmdqPush (sc : Scope) (cmd : Word)
  | mresqPop (d : Reg)
  | bcmdqPush (sc : Scope) (cmd : Word)
  | bresqPop (d : Reg)
  | dropcntClear (v : Word)
  | errcntClear (v : Word)
  | deviceRegisterWrite (off : BitVec 16) (v : Word)
  /- events of messages; k picks among the messages in flight to a core -/
  | messageInject (core : Nat)
  | messageEjection (core k : Nat)
  | dispatch (core lane : Nat)
  | mailboxPostArrival (core k : Nat)
  | noticeArrival (core k : Nat)
  | launchRecordIntake (core k : Nat)
  | dependenceRelease (core k : Nat)
  /- events of launch units -/
  | evaluation (die : Nat)
  | placementRound (die : Nat)
  | placementAttempt (die : Nat)
  | reserving (die queue : Nat)
  | dispense (die k : Nat)
  | steal (die : Nat)
  | schedDieSettings (core k : Nat)
  | schedStampRing (core k : Nat)
  /- events of expert pools -/
  | poolOpen (die task : Nat)
  | poolMessageArrival (core k : Nat)
  | flush (core k : Nat)
  | close (core k : Nat)
  | tileMessageEntry (core lane : Nat)
  | poolForcedLaunch (core lane : Nat)
  /- debug and trace -/
  | debugReadRegister (core k : Nat)
  | debugWriteRegister (core k : Nat)
  | debugStop (core k : Nat)
  | debugResume (core k : Nat)
  | debugStep (core k : Nat)
  | debugReadLaneState (core k : Nat)
  | debugWriteLaneState (core k : Nat)
  | debugMark (core k : Nat)
  | debugUnassignedOp (core k : Nat)
  | debugStopEffect (core lane : Nat)
  | traceSync (core : Nat)
  /- sensors, power, registers of the management core -/
  | sectorSample (sector temp : Nat)
  | stackSample (stack temp : Nat)
  | powerPeriod (period : Nat)
  | railCurrent (rail amps : Nat)
  | coolant (sensor : Nat)
  | operatingPointChange (quad : Nat)
  | throttleWrite (v : Word)
  | pshareWrite (v : Word)
  | memguarWrite (v : Word)
  | alertstatClear (v : Word)
  | alertTake
  | flitRetry (router dir : Nat)
  | linkRetrain (router dir : Nat)
  | linkRetrainDone (router dir : Nat)
  | linkstatClear (v : Word)
  | dltstatClear (v : Word)
  | deltaRecord (stack : Nat)
  /- hub: launches, reports, partitions, translation, migration, Ethernet -/
  | hostLaunch (v : Word)
  | faultReportMsi
  | msireq (v : Word)
  | partitionCommit (p : Nat)
  | partitionCommitDone (p : Nat)
  | translationInvalidate
  | invalidateDone
  | pageMigration
  | migrationDone
  | sliceGate (p : Nat) (on : Bool)
  | sliceGateApplied (p : Nat)
  | ethernetFrameReceive (f : EthFrame)
  | retransmitTimeout (port : Nat)
  | peerDown (port : Nat)
  /- management mailbox, SPDM, starting -/
  | mgmtRead
  | mgmtWrite
  | stage
  | activate
  | warm
  | mgmtLog
  | mgmtSpdm
  | mgmtBadOp
  | getVersion (req : List Byte)
  | getCapabilities (req : List Byte)
  | negotiateAlgorithms (req : List Byte)
  | getDigests (req : List Byte)
  | getCertificate (req : List Byte)
  | challenge (req : List Byte)
  | getMeasurements (req : List Byte)
  | powerOn
  | resetPin
  | pcieHotReset (port : Nat)
  | romWatchdog
  /- fetch -/
  | patternNotAnInstruction (raw : BitVec 32)
  | parcelFetchFault
  | zeroLengthReadReturn (core : Nat) (laneAndPort : Nat × Nat)
  | powerLoss
  deriving DecidableEq, Repr

end Sys2Proof
end

