-- ==== Sys2Proof/Config.lean ====
section
/-! DEFINITION. What is fixed for the machine, and the free values: constants with no body, for what the spec leaves open. -/

namespace Sys2Proof

/-- An error that an upset leaves in a storage unit (R330): in a word of memory, correctable or not; in 64 bits of a register of
a lane; in an accumulator cell that a job of a lane reads; in a flit of a receive ring or of a send queue; or in a cell of the
second pass of a redundant job (R169). -/
inductive Upset where
  | memory (pa : Nat) (uncorrectable : Bool)
  | scalar (core lane n : Nat)
  | vector (core lane n part : Nat)
  | mask (core lane n : Nat)
  | handle (core lane n part : Nat)
  | cell (core lane slot cell : Nat)
  | ringFlit (core lane slot : Nat) (uncorrectable : Bool)
  | sendFlit (core lane msg flit : Nat) (uncorrectable : Bool)
  | copy (cluster cell : Nat) (bits : BitVec 32)
  deriving DecidableEq, Repr

/-- What an application core (a hart) or a PCI Express device does to the package besides the single steps of HOME_MERGE and
HOME_READ (R305, R310, R311): cached accesses to HBM, cache-block operations, a FENCE, a line that leaves the caches, a write-back
that reaches its home, a claim of an interrupt identity and the settings of an interrupt file, an access through an endpoint's BAR 0
or 2 by function `fn`, and inbound DMA of function `fn` behind a root port at an address that the hub's IOMMU translates. -/
inductive HostAct where
  | load (byteAddr width : Nat)
  | store (op : HostOp) (byteAddr width : Nat) (data : Word)
  | clean (hart byteAddr : Nat)
  | flush (hart byteAddr : Nat)
  | inval (hart byteAddr : Nat)
  | fence (hart : Nat) (writes : Bool)
  | evict (line : Nat)
  | writeBack (k : Nat)
  | claim (hart file : Nat)
  | setFile (hart file : Nat) (deliver : Bool) (threshold : Nat)
  | setIdentity (hart file id : Nat) (enabled pending : Bool)
  | bar (port fn bar : Nat) (write : Option (HostOp × Word)) (off width : Nat)
  | dma (port fn : Nat) (write : Option (HostOp × Word)) (ioAddr width : Nat)
  deriving DecidableEq, Repr

/-- Which agent moves next: a lane (physical core, lane) issues, an event of the opcode table happens, storage suffers an upset, a host
or device acts, or a link gets a flit across that it retries (R331). The spec fixes
no order between agents (R13, R214, R218), so the order is an input (log entry 1). -/
inductive Choice where
  | lane (core lane : Nat)
  | event (i : Instr)
  | upset (u : Upset)
  | host (h : HostAct)
  | passLink (link : Nat)
  deriving DecidableEq, Repr, Inhabited

namespace Config

/-- Physical number of the management core in this model: one past the compute cores (R8, R326; log entry 4). -/
def mgmtCore : Nat := 1048576

/-- The hub as a die number: one past the 32 compute stacks (R7; log entry 4). -/
def hubDie : Nat := 32

/-- Base of HBM in the physical byte map (R306). -/
def hbmEnd : Nat := 0x20000000000

/-- Base of the coherent window in the physical byte map (R306). -/
def cohBase : Nat := 0x20000000000

/-- Bytes of the coherent window (R8, R306). -/
def cohBytes : Nat := 0x4000000

/-- Base of the scratchpad alias in the physical byte map (R306). -/
def spadBase : Nat := 0x30000000000

/-- Base of the PCI Express windows in the physical byte map (R306). -/
def pcieBase : Nat := 0x40000000000

/-- End of the PCI Express windows (R306). -/
def pcieEnd : Nat := 0x80000000000

/-- Model key of the management core's own 256 KiB scratchpad, which R306 does not map (log entry 4). -/
def mgmtSpadBase : Nat := 0xE0000000000

/-- First byte offset of the management mailbox in the coherent window (R346). -/
def mboxOff : Nat := 0x3FBF000

/-- First byte offset of the global block of the partition control area (R287). -/
def globalOff : Nat := 0x3FBFF80

/-- First byte offset of the partition entries (R285). -/
def entryOff : Nat := 0x3FC0000

/-- The compute budget B in watts (R319). -/
def powerBudget : Nat := 8400

/-- FREE VALUE: the agent that moves next when the agenda of the state is empty (log entry 1). -/
opaque choice : Nat → Choice

/-- FREE VALUE: the ticks that pass on a die during a step (R3, R14; log entry 2). -/
opaque elapsed : Nat → Nat → Nat

/-- FREE VALUE: the eligible cycles of a lane that pass with a turn of it (R210; log entry 2). -/
opaque cycles : Nat → Nat

/-- FREE VALUE: the places in flight of the posted accesses that arrive before a home answers one word of a block or of a job's
operands in the n-th step (R43, R170, R217; log entry 39). -/
opaque landing : Nat → Nat → List Nat

/-- FREE VALUE: how many acts of its running job the matrix engine of a cluster makes with a start in the n-th step (R170; log
entry 39). -/
opaque jobActs : Nat → Nat → Nat

/-- FREE VALUE: how many parcels, at most 16, a lane has fetched ahead after the n-th step (R60; log entry 16). -/
opaque fetchAhead : Nat → Nat

/-- FREE VALUE: the CORDIC result for inputs that R138 does not list (R136, R137; log entry 6). -/
opaque cordic : CordicFn → Nat → BitVec 32 → BitVec 32 → BitVec 32

/-- FREE VALUE: how many of its posted stores the trace encoder of a core has accepted with the n-th step (R340; log entry 86). -/
opaque traceStores : Nat → Nat → Nat

/-- FREE VALUE: what a read through a PCI Express window returns (R306; log entry 7). -/
opaque pcieRead : Nat → Word

/-- FREE VALUE: which translation a full Estuary replaces (R300; log entry 8). -/
opaque estuaryVictim : Nat → Nat

/-- FREE VALUE: the task that a class-57 message releases; no rule gives its body (R204; log entry 18). -/
opaque releaseTask : List Word → BitVec 16

/-- FREE VALUE: the energy charged to a partition during a step, in 1/16 µJ (R256, R319; log entry 9). -/
opaque energy : Nat → Nat → Nat

/-- FREE VALUE: what the SPDM response at the n-th step to a request holds behind a beginning, where R354 does not fix it: nonces,
flags, sizes and summaries (log entries 10 and 94). -/
opaque spdmRest : Nat → List Byte → List Byte → List Byte

/-- FREE VALUES: the messages before its own response that a signature of the n-th step covers besides it, and the secret number of
that signature (R354; log entry 94). -/
opaque spdmTranscript : Nat → List Byte → List Byte
opaque signNonce : Nat → Nat

/-- FREE VALUE: the quads that built-in self-test disables at the n-th start (R352; log entry 10). -/
opaque disabledQuads : Nat → List Nat

/-- FREE VALUE: the device key that the n-th start reconstructs from the PUF and its helper data (R353; log entry 10). -/
opaque deviceKey : Nat → Nat

/-- FREE VALUE: Wicor's ECDSA P-521 public key in the boot ROM, as a point (R344; log entry 10). -/
opaque romKey : Nat × Nat

/-- FREE VALUE: the contents of the boot ROM (R344; log entry 10). -/
opaque bootRom : List Byte

/-- FREE VALUE: where the hub's IOMMU sends an address of a function behind a port in the n-th step, for a read or a write; none where
it faults (R311; log entry 100). -/
opaque iommu : Nat → Nat → Nat → Bool → Nat → Option Nat

/-- FREE VALUES: the PUF helper data and its signature, and the device certificate with the public key in it, as Wicor stored them
(R344, R353; log entry 10). -/
opaque helperData : List Byte
opaque helperSignature : List Byte
opaque certificate : List Byte
opaque certificateKey : Nat × Nat

/-- FREE VALUE: the port configuration in the management flash: bit p is 1 where port p is an endpoint (R311, R344; log entry 10). -/
opaque portModes : Nat

/-- FREE VALUE: the repair map that built-in self-test finds at the n-th start: quad, row, which, spare (R352; log entry 10). -/
opaque repairs : Nat → List (Nat × Bool × Nat × Nat)

/-- The SHA-512 digest of no bytes: of a repair map with no entry (R352; log entry 93). -/
def emptyDigest : List Byte :=
  (List.range 64).map (fun i => BitVec.ofNat 8
    (0xCF83E1357EEFB8BDF1542850D66D8007D620E4050B5715DC83F4A921D36CE9CE47D0D13C5D85F2B0FF8318D2877EEC2F63B931BD47417A81A538327AF927DA3E
      / 256 ^ (63 - i)))

/-- FREE VALUE: the firmware image that bank A holds after reset (R344, R348; log entry 10). -/
opaque firmware : List Byte

/-- FREE VALUE: how many messages to one core the mesh holds for one router input, beyond one, before the injection of another
waits in the n-th step (R201; log entry 55). -/
opaque meshRoom : Nat → Nat → Nat

/-- FREE VALUE: the cells that a team product leaves at an engine whose row or column block another core's decoder refused, which
the spec does not state (R42, R155; log entry 85). -/
opaque lostCell : Nat → Nat → BitVec 32

/-- FREE VALUE: the status of a Brook job that a SLEEP finds complete but that its lane never received (R164, R183;
log entry 15). -/
opaque jobStatus : Nat → Word

/-- FREE VALUE: how many frames a port's peers have acknowledged when a step looks; the frame of an acknowledgement is not
given (R314; log entry 35). -/
opaque ethAcked : Nat → Nat → Nat

/-- FREE VALUE: the digest words of a merged digest request, which no rule gives (R341; log entry 36). -/
opaque mergedDigest : Nat → Nat → Word

end Config

end Sys2Proof
end

