-- ==== Sys2Proof/Machine/State.lean ====
section
/-! DEFINITION. The state of the SL20 as plain data: lanes, cores, clusters, dies, hub, sensors, memory, and the queues of
work in flight between them; and the state after reset. -/

namespace Sys2Proof

/-- A block aligned at a precision (R45): its integers, exponent and zero and NaN flags. -/
structure Aligned where
  q : List Int
  exp : Int
  zero : Bool
  nan : Bool
  deriving DecidableEq, Repr

end Sys2Proof

namespace Sys2Proof.Machine

/-- A lane by physical core number and lane number (R6). -/
structure LaneRef where
  core : Nat
  lane : Nat
  deriving DecidableEq, Repr

/-- A buffer handle (R50). -/
structure Handle where
  base  : Word
  slots : BitVec 16
  slotw : BitVec 16
  role  : BitVec 2
  deriving DecidableEq, Repr

/-- The part of LANESTAT.STATE that gating and debug stops overlay (R54, R195, R337). -/
inductive Run where
  | idle | running | stalled | parked
  deriving DecidableEq, Repr

/-- A trap of a lane that falls due at its next instruction boundary (R166, R213, R355); a job fault brings its report. -/
inductive Due where
  | jobFault (cause : BitVec 8) (job : BitVec 32) (report : List Word)
  | notice (reason : BitVec 8)
  deriving DecidableEq, Repr

/-- A message as words, header first, four words a flit (R198). -/
abbrev Msg := List Word

/-- Who sent a message: the core that injected it, and the sending lane if a lane sent it (R13, R202). -/
structure Sender where
  core : Nat
  lane : Option Nat
  deriving DecidableEq, Repr

/-- A message in the mesh (R13, R202): the core that injected it, the sending lane if a lane sent it, the physical destination,
and the words. -/
structure Flight where
  src : Nat
  lane : Option Nat
  dest : Nat
  words : Msg
  deriving DecidableEq, Repr

/-- What a message in an ejection buffer waits for (R201): slots of its ring, a page of its lane's pool (R233), a page of any pool of
its class on its core, since an image save (R240), or the input of the die's launch unit (R261). -/
inductive Wanted where
  | slots | page | anyPage | unit
  deriving DecidableEq, Repr

/-- The message that an ejection buffer holds (R201). -/
structure Eject where
  flight : Flight
  wants : Wanted
  deriving DecidableEq, Repr

/-- A message held in a receive ring (R199): its first slot, its flit count, its header, body word 2 (R269), for a tile message
its page and kind, its pool's task and place (R234), and its sender (R229). -/
structure RingEntry where
  slot  : Nat
  flits : Nat
  hdr   : Word
  w2    : Word
  tile  : Option (Nat × Nat)
  task  : BitVec 16
  place : BitVec 24
  from_ : Sender
  deriving DecidableEq, Repr

/-- How far an image save of a lane has come (R196, R230, R238, R296): `taken` from its first step on, with the mailbox as it
stood then, `written` from the writing of the image until the lane runs again or is loaded. -/
inductive Save where
  | none
  | taken (k : Nat) (mbx : List (BitVec 32 × BitVec 32))
  | written
  deriving DecidableEq, Repr

/-- A pool buffer of one expert (R233): its page and its row count. -/
structure PoolBuf where
  page  : Nat
  count : Nat
  deriving DecidableEq, Repr

/-- A pending tile message of a pool (R234). -/
structure Tile where
  expert : Nat
  rows   : Nat
  page   : Nat
  kind   : Nat
  deriving DecidableEq, Repr

/-- The open pool of a lane (R231 to R240). -/
structure Pool where
  cls    : BitVec 6
  task   : BitVec 16
  stage  : BitVec 8
  desc   : Word
  pbase  : Nat
  roww   : Nat
  npg    : Nat
  ebase  : Nat
  nexp   : Nat
  bufs   : List (Nat × PoolBuf)
  free   : List Nat
  tiles  : List Tile
  closed : Bool
  deriving DecidableEq, Repr

/-- What a request parked at a home waits for and what its answer completes (R106, R130, R132, R134). -/
inductive Park where
  | ldf (d : Reg) (len : Nat)
  | ldw (d : Reg) (ver : BitVec 4)
  | ste (data : Word)
  | filled (count : Nat)
  | free (count slots : Nat)
  | ldh (d : Reg) (h : HReg) (k : Nat)
  | sth (d : Reg) (h : HReg) (k : Nat)
  | stream (count : Nat)
  | streamOut (count slots : Nat)
  deriving DecidableEq, Repr

/-- A lane's outstanding request at a home: word address, what it waits for, and where it stands. `sent` is refused for
want of a parking entry, `held` is parked, `answered` holds the home's answer (R106). -/
inductive ReqPhase where
  | sent | held | answered (v : Word)
  deriving DecidableEq, Repr

structure Request where
  pa    : Nat
  kind  : Park
  phase : ReqPhase
  deriving DecidableEq, Repr

/-- A lane's wait for its own matrix job (R157): the job's id, or what the finished job hands the lane. -/
inductive JobWait where
  | pending (id : BitVec 32)
  | reply (row : List (BitVec 32)) (value : Word) (fault : Bool)
  deriving DecidableEq, Repr

/-- What the instruction that a lane waits in keeps for its next issue: whether a page migration holds its access (R303,
R304), the register that a held SPILLM or FILLM goes on with (R108), the words and rounding mode of a Brook descriptor that
was read before a wait for a queue entry (R178), and the control words that answered the stream waits made so far (R134). -/
structure Kept where
  held : Bool
  spillAt : Option (BitVec 5)
  desc : Option (List Word × RoundMode)
  waits : List Word
  deriving DecidableEq, Repr

/-- Nothing is kept. -/
def Kept.nothing : Kept := ⟨false, none, none, []⟩

/-- One of the four lanes of a core (R49 to R56). `wrote`: the registers written since the lane's last save or load, in the order
of R295 (R297). `lost`: the 64-bit parts of registers that an uncorrectable error has emptied and that were neither read nor written
since, as 4 times the register's place in that order plus the part (R330). `trapWait`: a trap was taken, and a page migration holds the read of entry 0
of its handler table (R190, R303). -/
structure Lane where
  sreg : Vector Word 32
  vreg : Vector VWord 32
  mreg : Vector (BitVec 32) 8
  hreg : Vector Handle 16
  pc   : Word
  run  : Run
  gate : Bool
  dstop : Bool
  stall : BitVec 4
  sup   : Bool
  intrap : Bool
  abandon : Bool
  spx : BitVec 5
  spv : Bool
  task : BitVec 16
  place : BitVec 24
  trapcause : BitVec 8
  trappc : Word
  trapval : Word
  traptick : Word
  rmode : RoundMode
  amaxM : BitVec 32
  amaxN : Bool
  rseed : Word
  spillbase : Word
  spilllim : Word
  spillptr : Word
  accspill : Word
  ptag : BitVec 8
  supc : BitVec 20
  wlimit : BitVec 32
  wcount : BitVec 31
  wen : Bool
  handlerbase : Word
  noticeq : Word
  region : Vector Word 8
  streamcfg : Vector Word 8
  ring : List RingEntry
  active : Bool
  inl : Bool
  rxcnt : Word
  sendq : List Msg
  waiting : Option Instr
  waitJob : Option JobWait
  req : Option Request
  due : List Due
  point : Nat
  mlast : BitVec 32
  blast : BitVec 32
  bstat : List (Nat × Nat)
  spvEnd : Bool
  relHold : Option Scope
  kept : Kept
  trapWait : Bool
  ahead : Option (Word × List Parcel)
  dbgSkip : Bool
  dbgStopReq : Bool
  dbgStep : Bool
  pool : Option Pool
  ejbuf : Option Eject
  save : Save
  imgSeq : Nat
  imgBase : Option Word
  imgWords : List Word
  wrote : BitVec 86
  lost : List Nat
  deriving DecidableEq, Repr

/-- A matrix job in a queue (R142, R165): the instruction's operation with its operands read at issue. -/
inductive MOp where
  | mma (team : Bool) (p : Nat) (a b desc : Word)
  | mzero (label : BitVec 16)
  | lmap (d : Reg) (label : BitVec 16) (code : Nat)
  | accrow (label : BitVec 16) (row : Nat) (x : List (BitVec 32)) (rm : RoundMode)
  | bind (table dest : Word) (rm : RoundMode) (cm : Bool)
  | accrd (d : VReg) (label : BitVec 16) (row ty : Nat) (rm : RoundMode)
  | accsp (label : BitVec 16)
  | accfl (label : BitVec 16)
  deriving DecidableEq, Repr

structure MJob where
  id    : BitVec 32
  lane  : Nat
  op    : MOp
  fifo  : Option Nat
  pc    : Word
  task  : BitVec 16
  root  : Nat
  placed : Nat × Nat
  deriving DecidableEq, Repr

/-- A Brook job in a queue (R177, R178). `gone`: an eviction has superseded it before it ran (R182). -/
structure BJob where
  id    : BitVec 32
  lane  : Nat
  src   : Word
  dst   : Word
  word2 : Word
  bar   : Word
  rm    : RoundMode
  fifo  : Bool
  pc    : Word
  promise : Word
  order : Nat
  gone : Bool
  deriving DecidableEq, Repr

/-- The debug module of a core (R333). `syncDue`: the ticks of the SYNC packets that are due (R339); `packets`: the encoder's buffer,
oldest first, and `stored` the words of its first packet that the ring has accepted (R340). -/
structure Debug where
  arm : BitVec 4
  ten : Bool
  syncDue : List Word
  packets : List (Word × Word)
  stored : Nat
  tlm : BitVec 4
  tkind : BitVec 6
  bp : Vector Word 4
  bpcfg : Word
  wp : Vector Word 2
  wpcfg : Word
  trcbase : Word
  nsz : BitVec 4
  tdrop : BitVec 32
  dpc : Vector Word 4
  dcause : Vector (BitVec 8) 4
  dval : Vector Word 4
  replies : List (BitVec 4 × (Word × Nat))
  deriving DecidableEq, Repr

/-- A core: its lanes, its Core registers, job queues, result FIFOs, mailbox and counters (R52, R58, R142, R176, R177). `mbxWait`: the
lanes that wait in MBXTAKE, in the order of their issue (R176). -/
structure Core where
  lanes : Vector Lane 4
  mw : BitVec 4
  bw : BitVec 4
  mq : List MJob
  mnext : BitVec 32
  bq : List BJob
  bnext : BitVec 32
  mresq : List Word
  bresq : List Word
  mbx : List (BitVec 32 × BitVec 32)
  mbxK : Nat
  mbxOwner : Nat
  mbxWait : List Nat
  dropcnt : Word
  errCorr : BitVec 32
  errUnc : BitVec 32
  lastInject : Nat
  dbg : Debug
  deriving DecidableEq, Repr

/-- An accumulator slot that holds a label (R146): `cells` lists the cells that are not +0, in rising order; `lost` the cells that
an uncorrectable error has emptied and no job has read since (R330). -/
structure Slot where
  label : BitVec 16
  cells : List (Nat × BitVec 32)
  seq   : Nat
  lost  : List Nat
  deriving DecidableEq, Repr

/-- An accumulator set (R57, R146): slot number to slot, and the update counter. -/
structure AccSet where
  slots : List (Nat × Slot)
  counter : Nat
  deriving DecidableEq, Repr

/-- A fault that a matrix job found (R167): its cause, its address, the label concerned and that label's slot. -/
structure MFault where
  cause : BitVec 8
  addr  : Word
  label : BitVec 16
  slot  : Option Nat
  deriving DecidableEq, Repr

/-- The second copy of a redundant job's tile (R169): the slot that the job writes and the cells of the second pass. -/
structure Copy where
  slot  : Nat
  cells : List (Nat × BitVec 32)
  deriving DecidableEq, Repr

/-- A stream of operand blocks as an engine receives it (R152, R155): the aligned blocks, or the cause and address of the first
one that failed. -/
inductive Stream where
  | blocks (bs : List Aligned)
  | failed (cause : BitVec 8) (addr : Word)
  deriving DecidableEq, Repr

/-- What a matrix job gets from one act (R144, R170): nothing, a word, the lane's set as it stands, or a stream of its team. -/
inductive Ans where
  | unit
  | word (x : Word)
  | set (a : AccSet)
  | stream (x : Stream)
  deriving DecidableEq, Repr

/-- What a matrix job leaves (R144): the slots that its write-back changes, each with its new contents or none where it is freed,
and their SEQ; the row or word that the lane receives; the AMAX sources; the second copy of a redundant job. -/
structure MOut where
  edits : List (Nat × Option (BitVec 16 × List (Nat × BitVec 32)))
  seq   : Nat
  row   : List (BitVec 32)
  value : Word
  amax  : BitVec 32 × Bool
  copy  : Option Copy
  deriving DecidableEq, Repr

/-- How a matrix job has ended, before its completion. -/
inductive MEnd where
  | out (o : MOut)
  | fault (f : MFault)
  deriving DecidableEq, Repr

/-- The matrix job that an engine runs (R144, R170): what its acts so far have given it, oldest first, and its end once it has
made them all. -/
structure MRun where
  core  : Nat
  job   : MJob
  acts  : List Ans
  done  : Option MEnd
  deriving DecidableEq, Repr

/-- The residency slots of a Brook (R182). -/
inductive Resid where
  | empty
  | filling (core : Nat) (job : BitVec 32)
  | resident
  deriving DecidableEq, Repr

/-- The Brook job that runs (R180): the pieces or blocks moved and the bits of blocks passed, its barrier arrival, the AMAX
updates and the outcome so far. -/
structure BRun where
  core : Nat
  job  : BJob
  moved : Nat
  span : Nat
  amax : BitVec 32 × Bool
  arrived : Bool
  superseded : Bool
  fault : Option (BitVec 8 × Word)
  deriving DecidableEq, Repr

/-- A started team as one of its engines holds it (R156): the key, whether the matched jobs differ, and the row block and the
column block once their clusters have read and multicast them (R155). -/
structure Team where
  root : Nat
  set : Nat
  tid : BitVec 8
  bad : Bool
  row : Option Stream
  col : Option Stream
  deriving DecidableEq, Repr

/-- A posted eviction (R182): its slot, the count of jobs accepted before it, and the slot's filler when it was posted. -/
structure Evict where
  slot : Nat
  order : Nat
  filler : Option (Nat × BitVec 32)
  deriving DecidableEq, Repr

/-- A cluster: accumulator sets, the matrix engine and the Brook with their round robins (R57, R143, R156, R177, R182). -/
structure Cluster where
  sets : Vector AccSet 4
  mrun : Option MRun
  mcore : Nat
  mserved : Nat
  reserved : List (Nat × Nat × BitVec 8)
  granted : Option (Nat × Nat × BitVec 8)
  started : List Team
  resid : Vector Resid 16
  brun : Option BRun
  bcore : Nat
  bserved : Nat
  border : Nat
  evicts : List Evict
  deriving DecidableEq, Repr

/-- A successor entry of a task (R248). -/
structure Succ where
  id : BitVec 16
  tile : Option Nat
  fired : Bool
  deriving DecidableEq, Repr

/-- How a record reached its launch unit (R257, R259, R261): the lane through which the unit reads, the partition and the
supervisor core, the record's address for the write-back, its arrival tick, and whether it came from another die. -/
structure Origin where
  reader : LaneRef
  ptag : BitVec 8
  supc : BitVec 20
  home : Option (LaneRef × Word)
  arr : Word
  abroad : Bool
  deriving DecidableEq, Repr

/-- A record that a launch unit has checked (R249): where it came from, its words, its curve and its successor entries. -/
structure Checked where
  origin : Origin
  record : Vector Word 8
  curve : List (Nat × Nat)
  succs : List Succ
  deriving DecidableEq, Repr

/-- What waits for ids in a launch unit's input (R261): a checked record of a class-56 message or of the hub; or that of a lane's
TSPAWN, or of its TSPAWNR with the addresses of the tile records that become tasks. -/
inductive Intake where
  | record (x : Checked)
  | spawn (r : LaneRef) (x : Checked) (tiles : Option (List Word))
  deriving DecidableEq, Repr

/-- The state of a task (R245). -/
inductive TaskState where
  | waiting | ready | running | complete | abandoned
  deriving DecidableEq, Repr

/-- A task as the launch unit holds it (R245 to R258, R265 to R274). -/
structure Task where
  id : BitVec 16
  record : Vector Word 8
  ptag : BitVec 8
  supc : BitVec 20
  home : Option (LaneRef × Word)
  arr : Word
  deps : Nat
  succs : List Succ
  curve : List (Nat × Nat)
  state : TaskState
  enq : Word
  deq : Word
  cmp : Word
  failp : Nat
  fails : Nat
  held : Nat
  tiles : List Nat
  done : List Nat
  status : BitVec 8
  err : Nat
  place : Option (Nat × Nat)
  sent : Bool
  queued : Bool
  point : Nat
  target : Option (List (Nat × Nat))
  deriving DecidableEq, Repr

/-- A dispense order of a committed group at one sector's Sluice (R266, R270): `held` while the Sluice withholds it, `taken` in the
tick in which the Sluice has begun it (R278). -/
structure Order where
  task : BitVec 16
  sector : Nat
  held : Bool
  taken : Option Word
  deriving DecidableEq, Repr

/-- A placement attempt in progress (R266, R267, R278, R282): the entry tried, the heads still to try after it, the tick at
which it resolves, the cluster-lanes held and in others' targets when it began, and the sector whose Sluice has it made for a steal
(R273). -/
structure Attempt where
  head : BitVec 16
  rest : List (BitVec 16)
  due : Word
  held : List (Nat × Nat)
  thief : Option Nat
  deriving DecidableEq, Repr

/-- A die: its tick counter and its launch unit (R14, R245 to R278). `input` holds what waits for an id (R261), `evals` the ticks
whose evaluation is due (R255), `roundAt` the tick of a round that is due (R266, R282), `dieSettings` an AGELIMIT and a STEALP
that wait for the next round (R276), `stealDue` the ticks at which steals are due and `offers` the sectors whose Sluices have still
to offer an order for the last of them (R273), and `keys` the keys of the queued entries as last computed. -/
structure Die where
  dtc : Word
  nextId : Nat
  input : List Intake
  tasks : List Task
  agelimit : BitVec 32
  stealp : BitVec 4
  price : List (Nat × (BitVec 32 × BitVec 3))
  settings : List (Nat × (BitVec 32 × BitVec 3))
  accval : List (Nat × Word)
  accj : List (Nat × Word)
  stamps : List (Nat × (Word × BitVec 4))
  evals : List Word
  roundAt : Option Word
  dieSettings : Option (BitVec 32 × BitVec 4)
  stealDue : List Word
  offers : List Nat
  keys : List (Nat × Nat)
  attempt : Option Attempt
  heads : List (Nat × (BitVec 16 × Word))
  orders : List Order
  deriving DecidableEq, Repr

/-- A sector: its sensor, limits and throttle (R317, R318, R324). -/
structure Sector where
  temp : Nat
  isOver : Bool
  trip : Bool
  arm : Bool
  tick : BitVec 40
  tlim : BitVec 12
  talert : BitVec 12
  hys : BitVec 8
  throttle : BitVec 4
  deriving DecidableEq, Repr

/-- A memory stack's sensor (R322). -/
structure Stack where
  temp : Nat
  hot : Bool
  armed : Bool
  deriving DecidableEq, Repr

/-- A core rail (R321): its current, the hub tick since which it has stayed above its sustained limit, and whether that has
raised its alert. -/
structure Rail where
  amps : Nat
  since : Option Word
  raised : Bool
  deriving DecidableEq, Repr

/-- A quad's operating point (R316): the point in force, and the point of the change in progress. -/
structure Quad where
  point : Nat
  change : Option Nat
  deriving DecidableEq, Repr

/-- The configuration words of a partition entry that a commit applies (R286, R288). -/
structure PartCfg where
  v : Bool
  nr : BitVec 7
  supc : BitVec 20
  sid : BitVec 16
  ppn : BitVec 44
  xv : Bool
  wlo : BitVec 14
  wn : BitVec 15
  rects : List (Nat × Word)
  deriving DecidableEq, Repr

/-- A partition entry (R286): the words as written, the words in force, its counters and gate, and `pgWait` while a write of
PG is being applied (R293). -/
structure Part where
  cfg : PartCfg
  live : PartCfg
  checked : Option (BitVec 8)
  stat : BitVec 8
  gen : BitVec 32
  err : Word
  drop : Word
  stale : Word
  pg : Bool
  pgd : Bool
  pgWait : Bool
  deriving DecidableEq, Repr

/-- A host route for fault reports, and the remote ranges of a partition (R307). -/
structure HostPage where
  ldrop : Word
  fmsi : List (Nat × (Word × Word))
  range : List (Nat × Word)
  deriving DecidableEq, Repr

/-- A page migration that runs (R303): the words of its block as they stood when it began. -/
structure Migration where
  sid : Nat
  va : Word
  pte : Word
  old : Word
  new : Word
  deriving DecidableEq, Repr

/-- An invalidation that runs (R301): what it drops, as the registers stood when it began. -/
structure Inval where
  sid : Nat
  all : Bool
  va : Nat
  len : Nat
  deriving DecidableEq, Repr

/-- The hub's invalidation and migration blocks, the commits asked for in their order, the invalidations (false) and migrations
(true) asked for in theirs (R287, R290, R301, R303), and the power periods that have ended since the start (R320). -/
structure Hub where
  gos : List Nat
  reqs : List Bool
  xsid : BitVec 16
  xall : Bool
  xva : Word
  xlen : Word
  xgen : BitVec 32
  xrun : Option Inval
  msid : BitVec 16
  mva : Word
  mpte : Word
  mold : Word
  mnew : Word
  mstat : BitVec 8
  mgen : BitVec 32
  mig : Option Migration
  periods : Nat
  deriving DecidableEq, Repr

/-- A translation held by an Estuary (R299, R300): die, space identifier, page level (0 is 4 KiB), virtual page number at
that level, and the leaf PTE. -/
structure Xlate where
  die : Nat
  estuary : Nat
  sid : Nat
  level : Nat
  vpn : Nat
  pte : Word
  deriving DecidableEq, Repr

/-- The partition power shares of R319 and R320, in watts; `known` once a period has ended, `withheld` while a Sluice has
withheld for power in the running period, `charged` the partition's energy at the end of the last period. -/
structure Share where
  share : Nat
  draw : Nat
  eff : Nat
  dem : Bool
  known : Bool
  withheld : Bool
  charged : Word
  deriving DecidableEq, Repr

/-- The selectors that each management lane has of its own (R324, R332). -/
structure Selectors where
  sec : BitVec 11
  part : BitVec 8
  stk : BitVec 4
  rail : BitVec 3
  link : BitVec 19
  dlt : BitVec 8
  deriving DecidableEq, Repr

/-- A mesh link (R331, R332): its counters, whether it retrains, and the consecutive failures of the flit that it carries. -/
structure Link where
  retry : BitVec 32
  train : BitVec 16
  down : Bool
  fails : Nat
  deriving DecidableEq, Repr

/-- Delta settings and counters of a partition (R332, R341). -/
structure Delta where
  nsz : BitVec 4
  en : Bool
  base : BitVec 54
  seq : BitVec 32
  lost : BitVec 32
  deriving DecidableEq, Repr

/-- A digest request queued at a Delta engine (R341). -/
structure DeltaReq where
  stack : Nat
  part : Nat
  task : BitVec 16
  die : Nat
  cmp : Word
  seq : BitVec 32
  merged : Bool
  deriving DecidableEq, Repr

/-- A queued alert (R326, R328): its cause, its value and the hub tick at which it was raised. -/
structure Alert where
  cause : BitVec 8
  value : Word
  tick : Word
  deriving DecidableEq, Repr

/-- An entry of the repair map (R352): a quad, whether a row or a column of it is replaced, which, and the spare. -/
structure Repair where
  quad : Nat
  row : Bool
  bad : Nat
  spare : Nat
  deriving DecidableEq, Repr

/-- The management subsystem: alerts, flash, log and start-up state (R326, R344 to R353). -/
structure Mgmt where
  alerts : List Alert
  ovf : Bool
  sel : Vector Selectors 4
  psRefused : Bool
  mgRefused : Bool
  bank : Bool
  pref : Bool
  floor : BitVec 16
  fails : Nat
  verA : BitVec 16
  verB : BitVec 16
  valA : Bool
  valB : Bool
  imgA : List Byte
  imgB : List Byte
  kind : BitVec 2
  safe : Bool
  noid : Bool
  step : BitVec 4
  warm : Bool
  chosen : Option Bool
  repairs : List Repair
  mapDigest : List Byte
  unrep : List Nat
  starts : Nat
  key : Word
  log : List (Word × Word × Word × Word)
  staging : Bool
  helper : List Byte
  helperSig : List Byte
  cert : List Byte
  certKey : Nat × Nat
  deviceKey : Nat
  ports : Nat
  rom : List Byte
  deriving DecidableEq, Repr

/-- What a posted access does at its home (R99): stores and their tags (R104), reductions (R110). -/
inductive RedFn where
  | add | fadd | min | max | or
  deriving DecidableEq, Repr

inductive WriteOp where
  | store (mask data : Word)
  | stv (data : Word) (ver : BitVec 4)
  | reclaim
  | red (fn : RedFn) (off width : Nat) (y : Word)
  deriving DecidableEq, Repr

/-- Who made a posted access: a lane itself, or the matrix or Brook job of a lane. -/
inductive Writer where
  | lane | mjob (id : BitVec 32) | bjob (id : BitVec 32)
  deriving DecidableEq, Repr

/-- A posted access in flight to its home (R99): the physical byte address of its word, the access, its issuer and the
issuer's partition, the instruction it belongs to (for the notice of R27), the address as issued, the space identifier under which
it was translated (R301), whether it is checked at a home (order 7), and whether it is an element of a VST or VSCATTER, which arrive in their order (R123). -/
structure Posted where
  pa : Nat
  op : WriteOp
  who : LaneRef
  ptag : BitVec 8
  writer : Writer
  grp : Nat
  addr : Word
  sid : Nat
  checked : Bool
  inOrder : Bool
  deriving DecidableEq, Repr

/-- A posted write to host memory on its way through a PCI Express port (R306, R312): its issuer, its word with its mask, and for
R301 its address as issued and the space identifier. -/
structure PcieWrite where
  who : LaneRef
  pa : Nat
  mask : Word
  data : Word
  addr : Word
  sid : Nat
  deriving DecidableEq, Repr

/-- A dropped posted access whose notice waits for the rest of its instruction (R27). -/
structure Dropped where
  who : LaneRef
  ptag : BitVec 8
  writer : Writer
  grp : Nat
  addr : Word
  deriving DecidableEq, Repr

/-- A peer of an Ethernet port and its retransmission state (R314). -/
structure Peer where
  mac : BitVec 48
  seq : BitVec 16
  unacked : List EthFrame
  retx : Nat
  down : Bool
  expect : BitVec 16
  deriving DecidableEq, Repr

structure EthPort where
  peers : List Peer
  dropped : Nat
  deriving DecidableEq, Repr

/-- A read answered to an application core: physical byte address, width, and value, or none for an access fault (R216, R306). -/
structure HostRead where
  byteAddr : Nat
  width : Nat
  value : Option Word
  deriving DecidableEq, Repr

/-- A line of HBM in the application cores' caches (R22, R225): its eight words, and whether it differs from its home. -/
structure CacheLine where
  words : List Word
  dirty : Bool
  deriving DecidableEq, Repr

/-- A write-back of a line that has not reached its home (R310): the harts whose cache-block operations it serves, the line and its
words. -/
structure WriteBack where
  harts : List Nat
  line : Nat
  words : List Word
  deriving DecidableEq, Repr

/-- An interrupt file of a hart (R305; log entry 99): whether it delivers, its threshold, and the identities that are enabled and
that are pending, in rising order. -/
structure ImsicFile where
  deliver : Bool
  threshold : Nat
  enabled : List Nat
  pending : List Nat
  deriving DecidableEq, Repr

/-- The whole SL20. Sparse tables list what differs from the reset value of their index. -/
structure State where
  /-- the model's own: the order in which agents move, and the count of steps taken (log entry 1) -/
  agenda : List Choice
  turn : Nat
  cur : LaneRef
  powered : Bool
  cores : List (Nat × Core)
  clusters : List (Nat × Cluster)
  dies : List (Nat × Die)
  sectors : List (Nat × Sector)
  memStacks : List (Nat × Stack)
  rails : List (Nat × Rail)
  hold : Bool
  quads : List (Nat × Quad)
  shares : List (Nat × Share)
  guar : List (Nat × BitVec 17)
  parts : List (Nat × Part)
  hub : Hub
  page : HostPage
  estuary : List Xlate
  mgmt : Mgmt
  links : List (Nat × Link)
  delta : List (Nat × Delta)
  dirty : List (Nat × Nat)
  deltaReqs : List DeltaReq
  mem : List Host.Cell
  tags : List (Nat × BitVec 4)
  /-- scratchpad words written, each with the lanes of its quad that have not been saved or loaded since (R297) -/
  written : List (Nat × BitVec 16)
  corr : List Nat
  unc : List Nat
  parked : List LaneRef
  inflight : List Posted
  dropped : List Dropped
  mesh : List Flight
  /-- messages of the mesh that stand at their destination's router and found no room (R201) -/
  stuck : List Flight
  hubLaunch : List (Nat × Nat × Word × List Word)
  reports : List (BitVec 8 × List Word)
  msis : List Word
  ports : List (Nat × EthPort)
  pcieWrites : List PcieWrite
  hostReads : List HostRead
  cache : List (Nat × CacheLine)
  writeBacks : List WriteBack
  imsic : List (Nat × ImsicFile)
  spdm : List (List Byte)
  deriving DecidableEq, Repr

/-- Why the machine stops. `poweredOff`: raised by step after POWER_LOSS until POWER_ON (R348, R350); safe, since an
unpowered part runs nothing. -/
inductive Fault where
  | poweredOff
  deriving DecidableEq, Repr

/-- Why a step has no meaning. `notModelled`: raised by a dispatch arm that rejects a row by name; safe, since nothing is
claimed of it. -/
inductive Refusal where
  | notModelled (mnemonic : String)
  deriving DecidableEq, Repr

/-- A handle at reset: invalid (R50, R56). -/
def Handle.invalid : Handle := ⟨0, 0, 0, 0⟩

/-- The control and other registers of lane `l` of core `c` at reset (R49 to R58, R350). -/
def Lane.reset (c l : Nat) : Lane where
  sreg := Vector.replicate 32 0
  vreg := Vector.replicate 32 0
  mreg := Vector.replicate 8 0
  hreg := Vector.replicate 16 Handle.invalid
  pc := 0
  run := .idle
  gate := false
  dstop := false
  stall := 0
  sup := false
  intrap := false
  abandon := false
  spx := 0
  spv := false
  task := 0
  place := 0
  trapcause := 0
  trappc := 0
  trapval := 0
  traptick := 0
  rmode := .rne
  amaxM := 0
  amaxN := false
  rseed := BitVec.ofNat 64 (c % 2 ^ 20 * 4 + l + 1)
  spillbase := 0
  spilllim := 0
  spillptr := 0
  accspill := 0
  ptag := 0
  supc := 0
  wlimit := 0
  wcount := 0
  wen := false
  handlerbase := 0
  noticeq := 0
  region := Vector.replicate 8 0
  streamcfg := Vector.replicate 8 0
  ring := []
  active := false
  inl := false
  rxcnt := 0
  sendq := []
  waiting := none
  waitJob := none
  req := none
  due := []
  point := 4
  mlast := 0
  blast := 0
  bstat := []
  spvEnd := false
  relHold := none
  kept := Kept.nothing
  trapWait := false
  ahead := none
  dbgSkip := false
  dbgStopReq := false
  dbgStep := false
  pool := none
  ejbuf := none
  save := .none
  imgSeq := 0
  imgBase := none
  imgWords := []
  wrote := 0
  lost := []

/-- A debug module at reset (R333). -/
def Debug.reset : Debug where
  arm := 0
  ten := false
  syncDue := []
  packets := []
  stored := 0
  tlm := 0
  tkind := 0
  bp := Vector.replicate 4 0
  bpcfg := 0
  wp := Vector.replicate 2 0
  wpcfg := 0
  trcbase := 0
  nsz := 0
  tdrop := 0
  dpc := Vector.replicate 4 0
  dcause := Vector.replicate 4 0
  dval := Vector.replicate 4 0
  replies := []

/-- Core `c` at reset: MWEIGHT 0x88, the first job ids 1, no mailbox (R52, R58, R142, R176, R230). -/
def Core.reset (c : Nat) : Core where
  lanes := #v[Lane.reset c 0, Lane.reset c 1, Lane.reset c 2, Lane.reset c 3]
  mw := 8
  bw := 8
  mq := []
  mnext := 1
  bq := []
  bnext := 1
  mresq := []
  bresq := []
  mbx := []
  mbxK := 0
  mbxOwner := 0
  mbxWait := []
  dropcnt := 0
  errCorr := 0
  errUnc := 0
  lastInject := 3
  dbg := Debug.reset

/-- A cluster at reset: accumulators cleared, residency slots EMPTY (R182, R350). -/
def Cluster.reset : Cluster where
  sets := Vector.replicate 4 ⟨[], 0⟩
  mrun := none
  mcore := 0
  mserved := 0
  reserved := []
  granted := none
  started := []
  resid := Vector.replicate 16 .empty
  brun := none
  bcore := 0
  bserved := 0
  border := 0
  evicts := []

/-- A die at reset: DTC 0, first task id 1, price and slack 0, AGELIMIT 131,072 and STEALP 4 (R246, R250, R276, R350). -/
def Die.reset : Die where
  dtc := 0
  nextId := 1
  input := []
  tasks := []
  agelimit := 131072
  stealp := 4
  price := []
  settings := []
  accval := []
  accj := []
  stamps := []
  evals := []
  roundAt := none
  dieSettings := none
  stealDue := []
  offers := []
  keys := []
  attempt := none
  heads := []
  orders := []

/-- A rail and a quad at reset (R316, R321; log entry 11). -/
def Rail.reset : Rail := ⟨0, none, false⟩
def Quad.reset : Quad := ⟨0, none⟩

/-- A sector at reset (R318, R324). -/
def Sector.reset : Sector where
  temp := 0
  isOver := false
  trip := false
  arm := true
  tick := 0
  tlim := 760
  talert := 704
  hys := 24
  throttle := 0

/-- A memory stack at reset: not hot, alert armed (R322; log entry 11). -/
def Stack.reset : Stack := ⟨0, false, true⟩

/-- A partition configuration at reset (R286). -/
def PartCfg.reset : PartCfg where
  v := false
  nr := 0
  supc := 0
  sid := 0
  ppn := 0
  xv := false
  wlo := 0
  wn := 0
  rects := []

/-- A partition entry at reset (R286). -/
def Part.reset : Part where
  cfg := PartCfg.reset
  live := PartCfg.reset
  checked := none
  stat := 0
  gen := 0
  err := 0
  drop := 0
  stale := 0
  pg := false
  pgd := false
  pgWait := false

/-- A power share at reset: 0 W, no period yet (R320, R324). -/
def Share.reset : Share := ⟨0, 0, 0, false, false, false, 0⟩

/-- A link at reset (R332). -/
def Link.reset : Link := ⟨0, 0, false, 0⟩

/-- Delta settings at reset (R332). -/
def Delta.reset : Delta := ⟨0, false, 0, 0, 0⟩

/-- An Ethernet port with no peer yet (R314; log entry 11). -/
def EthPort.reset : EthPort := ⟨[], 0⟩

/-- An interrupt file at reset: it delivers nothing, and nothing is enabled or pending (log entry 99). -/
def ImsicFile.reset : ImsicFile := ⟨false, 0, [], []⟩

/-- The hub registers at reset (R287, R303). -/
def Hub.reset : Hub where
  gos := []
  reqs := []
  xsid := 0
  xall := false
  xva := 0
  xlen := 0
  xgen := 0
  xrun := none
  msid := 0
  mva := 0
  mpte := 0
  mold := 0
  mnew := 0
  mstat := 0
  mgen := 0
  mig := none
  periods := 0

/-- The management subsystem after a completed cold start (R347, R350; log entry 10). -/
def Mgmt.reset : Mgmt where
  alerts := []
  ovf := false
  sel := Vector.replicate 4 ⟨0, 0, 0, 0, 0, 0⟩
  psRefused := false
  mgRefused := false
  bank := false
  pref := false
  floor := 0
  fails := 0
  verA := 0
  verB := 0
  valA := true
  valB := false
  imgA := Config.firmware
  imgB := []
  kind := 1
  safe := false
  noid := false
  step := 10
  warm := false
  chosen := some false
  repairs := []
  mapDigest := Config.emptyDigest
  unrep := []
  starts := 0
  key := 0x0001000000000001
  log := []
  staging := false
  helper := Config.helperData
  helperSig := Config.helperSignature
  cert := Config.certificate
  certKey := Config.certificateKey
  deviceKey := Config.deviceKey 0
  ports := Config.portModes
  rom := Config.bootRom

/-- The SL20 as a completed cold start leaves it (R350): every register at its reset value, every lane idle, memories
clear, no partition defined, no message anywhere. -/
def State.reset : State where
  agenda := []
  turn := 0
  cur := ⟨0, 0⟩
  powered := true
  cores := []
  clusters := []
  dies := []
  sectors := []
  memStacks := []
  rails := []
  hold := false
  quads := []
  shares := []
  guar := []
  parts := []
  hub := Hub.reset
  page := ⟨0, [], []⟩
  estuary := []
  mgmt := Mgmt.reset
  links := []
  delta := []
  dirty := []
  deltaReqs := []
  mem := []
  tags := []
  written := []
  corr := []
  unc := []
  parked := []
  inflight := []
  dropped := []
  mesh := []
  stuck := []
  hubLaunch := []
  reports := []
  msis := []
  ports := []
  pcieWrites := []
  hostReads := []
  cache := []
  writeBacks := []
  imsic := []
  spdm := []

end Sys2Proof.Machine
end

