-- ==== Sys2Proof/Machine/Bits.lean ====
section
/-! DEFINITION. Bit fields and extensions (R1, R80), and the sparse tables that hold what differs from a default. -/

namespace Sys2Proof.Machine

/-- A word from a number, modulo 2^64 (R16, R28). -/
def word (n : Nat) : Word := BitVec.ofNat 64 n

/-- Bits `h` to `l` of a word as an unsigned number (R80, `bits`). -/
def bits (x : Word) (h l : Nat) : Nat := x.toNat / 2 ^ l % 2 ^ (h + 1 - l)

/-- One bit of a word. -/
def bit (x : Word) (n : Nat) : Bool := x.toNat.testBit n

/-- A word with ones in bits `n - 1` to 0. -/
def ones (n : Nat) : Nat := 2 ^ n - 1

/-- The word `x` with `n` bits from bit `l` up replaced by the low `n` bits of `v`. -/
def putBits (x : Word) (l n v : Nat) : Word :=
  let m := word (ones n * 2 ^ l)
  (x &&& ~~~m) ||| (word (v % 2 ^ n * 2 ^ l) &&& m)

/-- The low `n` bits of a number, zero-extended to a word (R80, `zext`). -/
def zextN (x n : Nat) : Word := word (x % 2 ^ n)

/-- The low `n` bits of a number, sign-extended to a word (R80, `sext`). -/
def sextN (x n : Nat) : Word :=
  let v := x % 2 ^ n
  if n = 0 then 0 else if v < 2 ^ (n - 1) then word v else word (v + (2 ^ 64 - 2 ^ n))

/-- An immediate sign-extended to 64 bits (R62). -/
def sextImm {n : Nat} (x : BitVec n) : Word := x.signExtend 64

/-- A two's complement reading of the low `n` bits of a number (R28). -/
def sgN (x n : Nat) : Int :=
  let v := x % 2 ^ n
  if v < 2 ^ (n - 1) then (v : Int) else (v : Int) - 2 ^ n

/-- An integer wrapped to `n` bits (R28). -/
def wrapN (x : Int) (n : Nat) : Nat := (x % (2 ^ n : Int)).toNat

/-- 1 for true, 0 for false. -/
def b2n (b : Bool) : Nat := if b then 1 else 0

/-- The number of one bits below bit `n`. -/
def popN (x : Nat) : Nat → Nat
  | 0 => 0
  | n + 1 => popN x n + b2n (x.testBit n)

/-- The leading zero bits of an `n`-bit number. -/
def clzN (x : Nat) : Nat → Nat
  | 0 => 0
  | n + 1 => if x.testBit n then 0 else clzN x n + 1

/-- The trailing zero bits of a number, at most `fuel`. -/
def ctzN : Nat → Nat → Nat
  | _, 0 => 0
  | x, fuel + 1 => if x % 2 = 1 then 0 else ctzN (x / 2) fuel + 1

/-- The least multiple of `k` at or above `x`. -/
def ceilDiv (x k : Nat) : Nat := (x + k - 1) / k

/-! Sparse tables: lists of (index, entry) in strictly rising index order. -/

/-- The entry at an index, if listed. -/
def Table.find {α : Type} : List (Nat × α) → Nat → Option α
  | [], _ => none
  | (k, v) :: t, n => if k = n then some v else Table.find t n

/-- The entry at an index, or a default. -/
def Table.get {α : Type} (d : α) (t : List (Nat × α)) (n : Nat) : α := (Table.find t n).getD d

/-- The table with an entry set, in order. -/
def Table.put {α : Type} : List (Nat × α) → Nat → α → List (Nat × α)
  | [], n, v => [(n, v)]
  | (k, w) :: t, n, v =>
    if n < k then (n, v) :: (k, w) :: t else if n = k then (n, v) :: t else (k, w) :: Table.put t n v

/-- The table without the entry at an index. -/
def Table.del {α : Type} : List (Nat × α) → Nat → List (Nat × α)
  | [], _ => []
  | (k, w) :: t, n => if k = n then t else (k, w) :: Table.del t n

/-- The table with an entry set, where an entry equal to the default is not listed. -/
def Table.setD {α : Type} [DecidableEq α] (d : α) (t : List (Nat × α)) (n : Nat) (v : α) : List (Nat × α) :=
  if v = d then Table.del t n else Table.put t n v

/-- Strictly rising indexes. -/
def Table.sorted {α : Type} : List (Nat × α) → Bool
  | [] => true
  | [_] => true
  | (a, _) :: (b, w) :: t => decide (a < b) && Table.sorted ((b, w) :: t)

/-- The elements of a list at the positions from `n` on that satisfy a test, with their positions. -/
def findFrom {α : Type} (p : α → Bool) : List α → Nat → Option (Nat × α)
  | [], _ => none
  | a :: t, n => if p a then some (n, a) else findFrom p t (n + 1)

/-- An element put into a list that is in order. -/
def insertBy {α : Type} (le : α → α → Bool) (a : α) : List α → List α
  | [] => [a]
  | b :: t => if le a b then a :: b :: t else b :: insertBy le a t

/-- The elements of a list in order, equal ones as they stood. -/
def sortBy {α : Type} (le : α → α → Bool) : List α → List α
  | [] => []
  | a :: t => insertBy le a (sortBy le t)

/-- The list without its element at a position. -/
def dropAt {α : Type} : List α → Nat → List α
  | [], _ => []
  | _ :: t, 0 => t
  | a :: t, n + 1 => a :: dropAt t n

/-- The first `some` that a function gives along a list. -/
def firstSome {α β : Type} (f : α → Option β) : List α → Option β
  | [] => none
  | a :: t => match f a with
    | some b => some b
    | none => firstSome f t

end Sys2Proof.Machine
end

