-- ==== Sys2Proof/Machine/Sha512.lean ====
section
/-! DEFINITION. SHA-512, as R341, R348, R352 and R354 use it, and numbers as bytes. The constants are computed from what the
standard defines them to be: fractions of roots of the first primes. -/

namespace Sys2Proof.Machine

/-! Numbers as bytes. -/

/-- A big-endian number from bytes. -/
def bytesBE (bs : List Byte) : Nat := bs.foldl (fun n b => n * 256 + b.toNat) 0

/-- The `n` bytes of a number, most significant first. -/
def natBE (x : Nat) (n : Nat) : List Byte := ((List.range n).reverse).map (fun i => BitVec.ofNat 8 (x / 256 ^ i))

/-- The `n` bytes of a number, least significant first (R1). -/
def natLE (x : Nat) (n : Nat) : List Byte := (List.range n).map (fun i => BitVec.ofNat 8 (x / 256 ^ i))

/-- Words from bytes, the first byte at bit 0 (R342). -/
def wordsLE (bs : List Byte) (n : Nat) : List Word :=
  (List.range n).map (fun i => word (bytesBE ((bs.drop (8 * i)).take 8).reverse))

/-! Constants. -/

/-- The primes below 410: the first 80. -/
def firstPrimes : List Nat :=
  (List.range 410).filter (fun n => decide (2 ≤ n) && !(List.range 21).any (fun d => decide (2 ≤ d) && decide (d < n) && n % d == 0))

/-- The floor of the `k`-th root of a number below 2^(72 k), bit by bit from the top. -/
def rootFloor (k n : Nat) : Nat := (List.range 72).foldr (fun i r => if (r + 2 ^ i) ^ k ≤ n then r + 2 ^ i else r) 0

/-- The first 64 bits of the fraction of the `k`-th root of a number. -/
def rootFraction (k n : Nat) : Word := word (rootFloor k (n * 2 ^ (64 * k)))

/-- What a round adds: from the cube root of its prime. -/
def roundAdds : List Word := firstPrimes.map (rootFraction 3)

/-- The chain's first value: from the square roots of the first eight primes. -/
def chainStart : List Word := (firstPrimes.take 8).map (rootFraction 2)

/-! The compression function. -/

/-- A word rotated right by each amount of a list, combined by exclusive or. -/
def xorRotations (x : Word) (ns : List Nat) : Word := ns.foldl (fun a n => a ^^^ x.rotateRight n) 0

/-- The word that follows sixteen words of a message schedule. -/
def scheduleNext (win : List Word) : Word :=
  let early := win.getD 1 0
  let late := win.getD 14 0
  win.getD 0 0 + win.getD 9 0 + (xorRotations early [1, 8] ^^^ (early >>> 7)) + (xorRotations late [19, 61] ^^^ (late >>> 6))

/-- One round on the eight chain words, by what it adds: its constant and its schedule word. -/
def chainRound (v : List Word) (add : Word) : List Word :=
  let w (i : Nat) : Word := v.getD i 0
  let choice := w 6 ^^^ (w 4 &&& (w 5 ^^^ w 6))
  let most := (w 0 &&& w 1) ||| (w 2 &&& (w 0 ||| w 1))
  let t := add + w 7 + choice + xorRotations (w 4) [14, 18, 41]
  [t + most + xorRotations (w 0) [28, 34, 39], w 0, w 1, w 2, w 3 + t, w 4, w 5, w 6]

/-- The rounds of a block: each takes the oldest of the sixteen words of the schedule and appends the next. -/
def chainRounds (v win : List Word) : List Word → List Word
  | [] => v
  | k :: ks => chainRounds (chainRound v (k + win.getD 0 0)) (win.drop 1 ++ [scheduleNext win]) ks

/-- A block of sixteen words enters the chain. -/
def chainBlock (v win : List Word) : List Word := (v.zip (chainRounds v win roundAdds)).map (fun x => x.1 + x.2)

/-- The blocks of a message: its bits, a one, zeros, and its length in the last 128 bits. -/
def messageBlocks (m : List Byte) : List (List Word) :=
  let len := 8 * m.length
  let n := (len + 1152) / 1024
  let all := (2 * bytesBE m + 1) * 2 ^ (1024 * n - len - 1) + len
  (List.range n).map (fun i => (List.range 16).map (fun j => word (all / 2 ^ (1024 * n - 64 * (16 * i + j + 1)))))

/-- The 64 bytes of the SHA-512 digest of a message. -/
def sha512 (m : List Byte) : List Byte := ((messageBlocks m).foldl chainBlock chainStart).flatMap (fun x => natBE x.toNat 8)

end Sys2Proof.Machine
end

