-- ==== Sys2Proof/Machine/P521.lean ====
section
/-! DEFINITION. ECDSA on the curve P-521 over SHA-512, as R348, R353 and R354 name it: the group of the curve, public keys,
signatures and their verification. -/

namespace Sys2Proof.Machine.P521

/-- The field's prime. -/
def prime : Nat := 2 ^ 521 - 1

/-- The order of the group. -/
def order : Nat := 2 ^ 521 - 2 ^ 260 + 0xA51868783BF2F966B7FCC0148F709A5D03BB5C9B8899C47AEBB6FB71E91386409

/-- The base point. -/
def base : Nat × Nat :=
  (0xC6858E06B70404E9CD9E3ECB662395B4429C648139053FB521F828AF606B4D3DBAA14B5E77EFE75928FE1DC127A2FFA8DE3348B3C1856A429BF97E7E31C2E5BD66,
   0x11839296A789A3BC0045C8A5FB42C7D1BD998F54449579B446817AFBD17273E662C97EE72995EF42640C550B9013FAD0761353C7086A272C24088BE94769FD16650)

/-- A power modulo `m` of an exponent below 2^521. -/
def powMod (x e m : Nat) : Nat :=
  (List.range 521).foldr (fun i r => if e.testBit i then r * r % m * x % m else r * r % m) 1

/-- The inverse modulo a prime. -/
def inverse (x m : Nat) : Nat := powMod (x % m) (m - 2) m

/-- The point at which the line of a slope through (x, y) and through a point at x' meets the curve again, reflected. -/
def chord (slope x y x' : Nat) : Nat × Nat :=
  let u := (slope * slope + (prime - x) + (prime - x')) % prime
  (u, (slope * (x + (prime - u)) + (prime - y)) % prime)

/-- The sum of two points; none is the point at infinity. -/
def add (p q : Option (Nat × Nat)) : Option (Nat × Nat) :=
  match p, q with
  | none, q => q
  | p, none => p
  | some (x, y), some (x', y') =>
    if x ≠ x' then some (chord ((y' + (prime - y)) * inverse (x' + (prime - x)) prime % prime) x y x')
    else if (y + y') % prime = 0 then none
    else some (chord ((3 * x * x + (prime - 3)) * inverse (2 * y) prime % prime) x y x)

/-- A multiple of a point. -/
def mul (k : Nat) (p : Nat × Nat) : Option (Nat × Nat) :=
  (List.range 521).foldr (fun i r => if k.testBit i then add (add r r) (some p) else add r r) none

/-- Is a public key the one of a private key? -/
def keyMatches (priv : Nat) (pub : Nat × Nat) : Bool :=
  decide (0 < priv) && decide (priv < order) && mul priv base == some pub

/-- Is (r, s) a signature of a message by a public key? The 512 bits of a digest are fewer than the order's, so all count. -/
def verify (pub : Nat × Nat) (message : List Byte) (r s : Nat) : Bool :=
  let inRange (x : Nat) : Bool := decide (0 < x) && decide (x < order)
  let w := inverse s order
  inRange r && inRange s &&
    match add (mul (bytesBE (sha512 message) * w % order) base) (mul (r * w % order) pub) with
    | some (x, _) => x % order == r
    | none => false

/-- Is a signature of r and s in 66 bytes each, the first byte at bit 0 (R1, R348), one of a message by a public key? -/
def signedBy (pub : Nat × Nat) (message signature : List Byte) : Bool :=
  signature.length == 132 &&
    verify pub message (bytesBE (signature.take 66).reverse) (bytesBE (signature.drop 66).reverse)

/-- The signature of a message by a private key and a secret number: r and s in 66 bytes each, the first byte at bit 0. -/
def sign (priv secret : Nat) (message : List Byte) : List Byte :=
  let r := ((mul secret base).map (·.1)).getD 0 % order
  let s := inverse secret order * (bytesBE (sha512 message) + r * priv) % order
  natLE r 66 ++ natLE s 66

end Sys2Proof.Machine.P521
end

