-- ==== Sys2Proof/WellFormed.lean ====
section
/-! DEFINITION. Which terms of `Instr` are instructions: the field rules of R61 and R66 that the types do not carry. -/

namespace Sys2Proof

/-- Registers that 32 elements of a type occupy (R124). -/
def ElemTy.regs : ElemTy → Nat
  | .i8 => 1
  | .i16 | .f16 | .bf16 => 2
  | .i32 | .n32 | .f32 => 4

/-- Is a vector type floating point (R63)? -/
def VTy.isFloat : VTy → Bool
  | .bf16 | .f32 => true
  | _ => false

/-- Does a CORDIC instruction obey R66: N from 4 up, and b = 0 unless FN = atan2? -/
def cordicOk (fn : CordicFn) (b : BitVec 5) (n1 : BitVec 5) : Bool :=
  decide (3 ≤ n1.toNat) && (fn == .atan2 || b == 0)

/-- The field rules of R61 and R66. An event has none: its arguments name units. -/
def Instr.wf : Instr → Bool
  | .ldw _ _ ver _ | .stv _ _ ver _ => ver != 0
  | .spillm d a _ | .fillm d a _ => decide (d.toNat ≤ a.toNat)
  | .loop _ imm => imm.msb
  | .vcmp _ _ _ c ty _ => c != .ltu || !ty.isFloat
  | .vpack a _ fmt st _ cb _ => (cb == .cb 0 || fmt == .cw8) && decide (a.toNat + st.regs ≤ 32)
  | .vunpack d _ _ tt _ => decide (d.toNat + tt.regs ≤ 32)
  | .vcord _ _ b fn n1 | .scord _ _ b fn n1 => cordicOk fn b n1
  | .hwaitf _ count | .hwaite _ count => count != 0
  | .hadv _ _ count => count != 0
  | .mma _ _ _ _ p1 | .mmat _ _ _ _ p1 => p1 != 0
  | .accrow d _ _ _ => decide (d.toNat ≤ 28)
  | .bcopy d _ _ _ | .bconv d _ _ _ => d.toNat % 2 == 0 && d != 0
  | .beqCompact _ off | .bneCompact _ off => off != 0
  | _ => true

end Sys2Proof
end

