-- ==== Sys2Proof/Decode.lean ====
section
/-! DEFINITION. From bits to an instruction and back (R59 to R70): the decoder, total on any bytes, and the encoder. -/

namespace Sys2Proof

/-- Why bits are no instruction (R70): RESERVED_ENCODING, ILLEGAL_INSTRUCTION, or bytes that end too early. -/
inductive Reject where
  | illegal | reserved | truncated
  deriving DecidableEq, Repr

/-! Codes of the shared fields (R63, R66). -/

/-- `n` bits of a number from bit `lo` up. -/
def fld (w lo n : Nat) : Nat := w / 2 ^ lo % 2 ^ n

def Scope.code : Scope → Nat
  | .lane => 0 | .core => 1 | .quad => 2 | .clu => 3 | .die => 4 | .dev => 5 | .sys => 6
def Scope.ofCode : Nat → Option Scope
  | 0 => some .lane | 1 => some .core | 2 => some .quad | 3 => some .clu | 4 => some .die | 5 => some .dev | 6 => some .sys
  | _ => none

/-- ORD with SC of an AMO (R63): relaxed demands SC = 0. -/
def AmoOrd.code : AmoOrd → Nat × Nat
  | .relaxed => (0, 0)
  | .acq sc => (1, sc.code)
  | .rel sc => (2, sc.code)
  | .acqRel sc => (3, sc.code)
def AmoOrd.ofCode (ord sc : Nat) : Option AmoOrd :=
  match ord with
  | 0 => if sc = 0 then some .relaxed else none
  | 1 => (Scope.ofCode sc).map .acq
  | 2 => (Scope.ofCode sc).map .rel
  | _ => (Scope.ofCode sc).map .acqRel

/-- ORD with SC where only relaxed and the code `k` are legal (R66). -/
def ordCode (k : Nat) : Option Scope → Nat × Nat
  | none => (0, 0)
  | some sc => (k, sc.code)
def ordOf (k ord sc : Nat) : Option (Option Scope) :=
  if ord = 0 then (if sc = 0 then some none else none)
  else if ord = k then (Scope.ofCode sc).map some else none

def RmField.code : RmField → Nat
  | .fixed .rne => 0 | .fixed .rtz => 1 | .fixed .rup => 2 | .fixed .rdn => 3 | .fixed .rs => 4 | .dyn => 7
def RmField.ofCode : Nat → Option RmField
  | 0 => some (.fixed .rne) | 1 => some (.fixed .rtz) | 2 => some (.fixed .rup) | 3 => some (.fixed .rdn)
  | 4 => some (.fixed .rs) | 7 => some .dyn | _ => none

def View.code : View → Nat
  | .e8 => 0 | .e16 => 1 | .e32 => 2
def View.ofCode : Nat → Option View
  | 0 => some .e8 | 1 => some .e16 | 2 => some .e32 | _ => none

/-- VIEW and T (R63). -/
def VTy.code : VTy → Nat × Nat
  | .i8 => (0, 0) | .i16 => (1, 0) | .i32 => (2, 0) | .bf16 => (1, 1) | .f32 => (2, 1)
def VTy.ofCode (v t : Nat) : Option VTy :=
  if t = 0 then (match v with | 0 => some .i8 | 1 => some .i16 | 2 => some .i32 | _ => none)
  else (match v with | 1 => some .bf16 | 2 => some .f32 | _ => none)

def ElemTy.code : ElemTy → Nat
  | .i8 => 0 | .i16 => 1 | .i32 => 2 | .n32 => 3 | .f16 => 4 | .bf16 => 5 | .f32 => 6
def ElemTy.ofCode : Nat → Option ElemTy
  | 0 => some .i8 | 1 => some .i16 | 2 => some .i32 | 3 => some .n32 | 4 => some .f16 | 5 => some .bf16 | 6 => some .f32
  | _ => none

/-- FMT (R34). -/
def BlkFmt.fieldCode : BlkFmt → Nat
  | .w8 => 0 | .cw8 => 1 | .w6 => 2 | .w4 => 3 | .w3 => 4 | .i6 => 5 | .i4 => 6 | .i3 => 7
def BlkFmt.ofFieldCode : Nat → BlkFmt
  | 0 => .w8 | 1 => .cw8 | 2 => .w6 | 3 => .w4 | 4 => .w3 | 5 => .i6 | 6 => .i4 | _ => .i3

def CbSel.code : CbSel → Nat
  | .cb n => n.toNat | .auto => 4
def CbSel.ofCode (c : Nat) : Option CbSel := if c < 4 then some (.cb (BitVec.ofNat 2 c)) else if c = 4 then some .auto else none

def VCond.code : VCond → Nat
  | .eq => 0 | .lt => 1 | .le => 2 | .ltu => 3
def VCond.ofCode : Nat → VCond
  | 0 => .eq | 1 => .lt | 2 => .le | _ => .ltu

def CordicFn.code : CordicFn → Nat
  | .sin => 0 | .cos => 1 | .atan2 => 2 | .exp => 3 | .log => 4 | .tanh => 5 | .sigm => 6 | .sqrt => 7 | .rsqrt => 8 | .recip => 9
def CordicFn.ofCode : Nat → Option CordicFn
  | 0 => some .sin | 1 => some .cos | 2 => some .atan2 | 3 => some .exp | 4 => some .log | 5 => some .tanh | 6 => some .sigm
  | 7 => some .sqrt | 8 => some .rsqrt | 9 => some .recip | _ => none

def CoordSel.code : CoordSel → Nat
  | .phys => 0 | .log => 1 | .gxy => 2 | .gidx => 3 | .stage => 4
def CoordSel.ofCode : Nat → Option CoordSel
  | 0 => some .phys | 1 => some .log | 2 => some .gxy | 3 => some .gidx | 4 => some .stage | _ => none

def Fifo.code : Fifo → Nat
  | .matrix => 0 | .brook => 1
def Fifo.ofCode : Nat → Option Fifo
  | 0 => some .matrix | 1 => some .brook | _ => none

/-- E of a FENCE (R66, R103): KIND, I and SC. -/
def FenceKind.code : FenceKind → Nat
  | .ionly => 4
  | .acq sc i => 1 + i.toNat * 4 + sc.code * 8
  | .rel sc i => 2 + i.toNat * 4 + sc.code * 8
  | .full sc i => 3 + i.toNat * 4 + sc.code * 8
def FenceKind.ofCode (e : Nat) : Option FenceKind :=
  let i := fld e 2 1 == 1
  let sc := fld e 3 3
  if fld e 6 4 ≠ 0 then none
  else match fld e 0 2 with
    | 0 => if i ∧ sc = 0 then some .ionly else none
    | 1 => (Scope.ofCode sc).map (fun s => .acq s i)
    | 2 => (Scope.ofCode sc).map (fun s => .rel s i)
    | _ => (Scope.ofCode sc).map (fun s => .full s i)

/-! The 32-bit formats (R62). -/

def fD (w : Nat) : BitVec 5 := BitVec.ofNat 5 (w / 2 ^ 6)
def fA (w : Nat) : BitVec 5 := BitVec.ofNat 5 (w / 2 ^ 11)
def fB (w : Nat) : BitVec 5 := BitVec.ofNat 5 (w / 2 ^ 16)
def fC (w : Nat) : BitVec 5 := BitVec.ofNat 5 (w / 2 ^ 21)
def fImm12 (w : Nat) : BitVec 12 := BitVec.ofNat 12 (w / 2 ^ 20)

/-- Fields as a number: MAJOR, bit 0, and the five-bit fields d, a, b. -/
def mkWord (major d a b : Nat) : Nat := 1 + 2 * major + 2 ^ 6 * d + 2 ^ 11 * a + 2 ^ 16 * b
/-- R format. -/
def mkR (major f g d a b : Nat) : Nat := mkWord major d a b + 2 ^ 21 * f + 2 ^ 26 * g
/-- K format. -/
def mkK (major f d a imm : Nat) : Nat := mkWord major d a 0 + 2 ^ 16 * f + 2 ^ 20 * imm
/-- A format. -/
def mkA (f : Nat) (os : Nat × Nat) (sx w d a : Nat) : Nat :=
  mkWord 2 d a 0 + 2 ^ 16 * w + 2 ^ 22 * sx + 2 ^ 23 * os.1 + 2 ^ 25 * os.2 + 2 ^ 28 * f
/-- Q format. -/
def mkQ (major f sel sc d a b : Nat) : Nat := mkWord major d a b + 2 ^ 21 * sc + 2 ^ 24 * sel + 2 ^ 28 * f
/-- S format. -/
def mkS (major f e d a : Nat) : Nat := mkWord major d a 0 + 2 ^ 16 * e + 2 ^ 26 * f

/-- An instruction that stands if a condition holds. -/
def keep (c : Bool) (i : Instr) : Option Instr := if c then some i else none

/-- An instruction that stands if it is well-formed (R66). -/
def keepWf (i : Instr) : Option Instr := if i.wf then some i else none

/-! The majors (R64, R66). -/

/-- Major 2, A format. -/
def decTagged (w : Nat) : Option Instr :=
  let d := fD w
  let a := fA w
  let wf := fld w 16 6
  let sx := fld w 22 1
  let ord := fld w 23 2
  let sc := fld w 25 3
  let ver := BitVec.ofNat 4 wf
  let plain := wf == 0 && sx == 0
  let bare := sx == 0 && ord == 0 && sc == 0
  match fld w 28 4 with
  | 0 => (ordOf 1 ord sc).map (fun o => .ldA d a (BitVec.ofNat 6 wf) (sx == 1) o)
  | 1 => if sx = 0 then (ordOf 2 ord sc).map (fun o => .stA d a (BitVec.ofNat 6 wf) o) else none
  | 2 => if plain then (ordOf 1 ord sc).map (fun o => .ldf d a o) else none
  | 3 => if sx = 0 ∧ wf < 16 then (ordOf 1 ord sc).bind (fun o => keepWf (.ldw d a ver o)) else none
  | 4 => if plain then (ordOf 2 ord sc).map (fun o => .ste d a o) else none
  | 5 => if sx = 0 ∧ wf < 16 then (ordOf 2 ord sc).bind (fun o => keepWf (.stv d a ver o)) else none
  | 6 => keep (plain && bare) (.tagrd d a)
  | 7 => if plain ∧ d = 0 then (ordOf 2 ord sc).map (fun o => .reclaim a o) else none
  | 8 => if bare ∧ wf < 2 then keepWf (.spillm d a (wf == 1)) else none
  | 9 => if bare ∧ wf < 2 then keepWf (.fillm d a (wf == 1)) else none
  | _ => none

/-- Major 3. -/
def decAtomic (w : Nat) : Option Instr :=
  let d := fD w
  let a := fA w
  let b := fB w
  let w64 := fld w 26 1 == 1
  let ord := fld w 27 2
  let sc := fld w 29 3
  let amo (f : AmoOrd → Instr) : Option Instr := (AmoOrd.ofCode ord sc).map f
  let red (f : Option Scope → Instr) : Option Instr := if d = 0 then (ordOf 2 ord sc).map f else none
  match fld w 21 5 with
  | 0 => amo (.amoadd d a b w64)
  | 1 => amo (.amoand d a b w64)
  | 2 => amo (.amoor d a b w64)
  | 3 => amo (.amoxor d a b w64)
  | 4 => amo (.amomin d a b w64)
  | 5 => amo (.amomax d a b w64)
  | 6 => amo (.amominu d a b w64)
  | 7 => amo (.amomaxu d a b w64)
  | 8 => amo (.amoswap d a b w64)
  | 9 => amo (.amocas d a b w64)
  | 10 => red (.redadd a b w64)
  | 11 => if w64 then none else red (.redfadd a b)
  | 12 => red (.redmin a b w64)
  | 13 => red (.redmax a b w64)
  | 14 => red (.redor a b w64)
  | _ => none

/-- Major 4. -/
def decInt (w : Nat) : Option Instr :=
  let d := fD w
  let a := fA w
  let b := fB w
  let g := fld w 26 6
  let gw := BitVec.ofNat 6 g
  match fld w 21 5 with
  | 0 => keep (g == 0) (.add d a b)
  | 1 => keep (g == 0) (.sub d a b)
  | 2 => keep (g == 0) (.and d a b)
  | 3 => keep (g == 0) (.or d a b)
  | 4 => keep (g == 0) (.xor d a b)
  | 5 => keep (g == 0) (.shl d a b)
  | 6 => keep (g == 0) (.shr d a b)
  | 7 => keep (g == 0) (.sra d a b)
  | 8 => keep (g == 0) (.mul d a b)
  | 9 => keep (g == 0) (.mulh d a b)
  | 10 => keep (g == 0) (.mulhu d a b)
  | 11 => keep (g == 0) (.div d a b)
  | 12 => keep (g == 0) (.divu d a b)
  | 13 => keep (g == 0) (.rem d a b)
  | 14 => keep (g == 0) (.remu d a b)
  | 15 => keep (g == 0) (.slt d a b)
  | 16 => keep (g == 0) (.sltu d a b)
  | 17 => keep (g == 0) (.min d a b)
  | 18 => keep (g == 0) (.max d a b)
  | 19 => keep (g == 0) (.minu d a b)
  | 20 => keep (g == 0) (.maxu d a b)
  | 21 => keep (g == 0 && b == 0) (.clz d a)
  | 22 => keep (g == 0 && b == 0) (.ctz d a)
  | 23 => keep (g == 0 && b == 0) (.popc d a)
  | 24 => some (.bext d a b gw)
  | 25 => some (.bins d a b gw)
  | 26 => keep (b == 0) (.sext d a gw)
  | 27 => keep (b == 0) (.zext d a gw)
  | _ => none

/-- Major 5. -/
def decImm (w : Nat) : Option Instr :=
  let d := fD w
  let a := fA w
  let i := fImm12 w
  let amt := BitVec.ofNat 6 (w / 2 ^ 20)
  let low := fld w 26 6 == 0
  match fld w 16 4 with
  | 0 => some (.addi d a i)
  | 1 => some (.andi d a i)
  | 2 => some (.ori d a i)
  | 3 => some (.xori d a i)
  | 4 => keep low (.shli d a amt)
  | 5 => keep low (.shri d a amt)
  | 6 => keep low (.srai d a amt)
  | 7 => some (.slti d a i)
  | 8 => some (.sltiu d a i)
  | _ => none

/-- Major 7. -/
def decAddr (w : Nat) : Option Instr :=
  let d := fD w
  let a := fA w
  let b := fB w
  let g := fld w 26 6
  let gw := BitVec.ofNat 6 g
  match fld w 21 5 with
  | 0 => some (.eaddr d a b gw)
  | 1 => some (.ediff d a b gw)
  | 2 => keep (b == 0) (.balign d a gw)
  | 3 => keep (b == 0 && g == 0) (.waddr d a)
  | 4 => keep (b == 0 && g == 0) (.gaddr d a)
  | 5 => if a = 0 ∧ b = 0 then (CoordSel.ofCode g).map (.coord d) else none
  | _ => none

/-- Major 8. -/
def decBranch (w : Nat) : Option Instr :=
  let a := fD w
  let b := fA w
  let off := BitVec.ofNat 13 (w / 2 ^ 19)
  match fld w 16 3 with
  | 0 => some (.beq a b off)
  | 1 => some (.bne a b off)
  | 2 => some (.blt a b off)
  | 3 => some (.bge a b off)
  | 4 => some (.bltu a b off)
  | 5 => some (.bgeu a b off)
  | _ => none

/-- Major 10. -/
def decJump (w : Nat) : Option Instr :=
  let d := fD w
  let a := fA w
  let i := fImm12 w
  match fld w 16 4 with
  | 0 => some (.jalr d a i)
  | 1 => if d = 0 then keepWf (.loop a i) else none
  | 2 => keep (d == 0 && a == 0 && i == 0) .endh
  | _ => none

/-- Major 11. -/
def decVector (w : Nat) : Option Instr :=
  let d := fD w
  let a := fA w
  let b := fB w
  let m := BitVec.ofNat 3 (w / 2 ^ 28)
  let ty (f : VTy → Instr) : Option Instr := (VTy.ofCode (fld w 26 2) (fld w 31 1)).map f
  let vw (f : View → Instr) : Option Instr := if fld w 31 1 = 0 then (View.ofCode (fld w 26 2)).map f else none
  let b0 (x : Option Instr) : Option Instr := if b = 0 then x else none
  let g0 := fld w 26 6 == 0
  let md := BitVec.ofNat 3 d.toNat
  let ma := BitVec.ofNat 3 a.toNat
  let mb := BitVec.ofNat 3 b.toNat
  let dm := decide (d.toNat < 8)
  let am := decide (a.toNat < 8)
  let bm := decide (b.toNat < 8)
  match fld w 21 5 with
  | 0 => ty (fun t => .vadd d a b t m)
  | 1 => ty (fun t => .vsub d a b t m)
  | 2 => ty (fun t => .vmul d a b t m)
  | 3 => ty (fun t => .vfma d a b t m)
  | 4 => ty (fun t => .vmin d a b t m)
  | 5 => ty (fun t => .vmax d a b t m)
  | 6 => b0 (ty (fun t => .vabs d a t m))
  | 7 => b0 (ty (fun t => .vneg d a t m))
  | 8 => vw (fun v => .vand d a b v m)
  | 9 => vw (fun v => .vor d a b v m)
  | 10 => vw (fun v => .vxor d a b v m)
  | 11 => vw (fun v => .vshl d a b v m)
  | 12 => vw (fun v => .vshr d a b v m)
  | 13 => vw (fun v => .vsra d a b v m)
  | 14 => (VTy.ofCode (fld w 26 2) (fld w 31 1)).bind (fun t => keepWf (.vcmp md a b (VCond.ofCode (fld w 9 2)) t m))
  | 15 => vw (fun v => .vsel d a b v m)
  | 16 => b0 (vw (fun v => .vbcast d a v m))
  | 17 => vw (fun v => .vperm d a b v m)
  | 18 => vw (fun v => .vslide d a b v m)
  | 19 => b0 (ty (fun t => .vredadd d a t m))
  | 20 => b0 (ty (fun t => .vredmax d a t m))
  | 21 => b0 (ty (fun t => .vredmin d a t m))
  | 22 => b0 (vw (fun v => .vmovsv d a v m))
  | 23 => b0 (vw (fun v => .vmovvs d a v m))
  | 24 => keep (g0 && dm && am && bm) (.mand md ma mb)
  | 25 => keep (g0 && dm && am && bm) (.mor md ma mb)
  | 26 => keep (g0 && dm && am && b == 0) (.mnot md ma)
  | 27 => keep (g0 && am && b == 0) (.mpop d ma)
  | _ => none

/-- Major 12. -/
def decVectorMem (w : Nat) : Option Instr :=
  let d := fD w
  let a := fA w
  let b := fB w
  let m := BitVec.ofNat 3 (w / 2 ^ 28)
  let vw (f : View → Instr) : Option Instr := if fld w 31 1 = 0 then (View.ofCode (fld w 26 2)).map f else none
  match fld w 21 5 with
  | 0 => if b = 0 then vw (fun v => .vld d a v m) else none
  | 1 => if b = 0 then vw (fun v => .vst d a v m) else none
  | 2 => vw (fun v => .vlds d a b v m)
  | 3 => vw (fun v => .vgather d a b v m)
  | 4 => vw (fun v => .vscatter d a b v m)
  | _ => none

/-- Major 13. -/
def decConvert (w : Nat) : Option Instr :=
  let d := fD w
  let a := fA w
  let b := fB w
  let hi := fld w 29 3
  let mid := fld w 23 3
  match RmField.ofCode (fld w 26 3) with
  | none => none
  | some rm =>
    match fld w 21 2 with
    | 0 => match ElemTy.ofCode mid, ElemTy.ofCode hi with
      | some tt, some st => keep (b == 0) (.vcvt d a tt st rm)
      | _, _ => none
    | 1 => match ElemTy.ofCode hi, CbSel.ofCode (fld w 6 3) with
      | some st, some cb =>
        if fld w 10 1 = 0 then keepWf (.vpack a b (BlkFmt.ofFieldCode mid) st rm cb (fld w 9 1 == 1)) else none
      | _, _ => none
    | 2 => match ElemTy.ofCode mid with
      | some tt => if b = 0 then keepWf (.vunpack d a (BlkFmt.ofFieldCode hi) tt rm) else none
      | none => none
    | _ => none

/-- Major 14. -/
def decCordic (w : Nat) : Option Instr :=
  let d := fD w
  let a := fA w
  let b := fB w
  let n1 := fC w
  match fld w 30 2 with
  | 0 => (CordicFn.ofCode (fld w 26 4)).bind (fun fn => keepWf (.vcord d a b fn n1))
  | 1 => (CordicFn.ofCode (fld w 26 4)).bind (fun fn => keepWf (.scord d a b fn n1))
  | 2 => keep (fld w 26 4 == 0 && a == 0 && b == 0 && n1 == 0) (.rand d)
  | _ => none

/-- Major 15. -/
def decHandle (w : Nat) : Option Instr :=
  let d := fD w
  let a := fA w
  let h := BitVec.ofNat 4 a.toNat
  let i := fImm12 w
  if fld w 15 1 ≠ 0 then none
  else match fld w 16 4 with
    | 0 => keep (i == 0) (.hset h d)
    | 1 => if d = 0 then keepWf (.hwaitf h i) else none
    | 2 => if d = 0 then keepWf (.hwaite h i) else none
    | 3 => if fld w 7 4 = 0 then keepWf (.hadv h (fld w 6 1 == 1) i) else none
    | 4 => some (.ldh d h i)
    | 5 => some (.sth d h i)
    | 6 => if fld w 26 6 = 0 then
        (View.ofCode (fld w 24 2)).map (fun v => .sbind (BitVec.ofNat 3 (w / 2 ^ 20)) h d (fld w 23 1 == 1) v)
      else none
    | 7 => keep (fld w 23 9 == 0 && a == 0 && d == 0) (.sunbind (BitVec.ofNat 3 (w / 2 ^ 20)))
    | _ => none

/-- Major 16. -/
def decMatrix (w : Nat) : Option Instr :=
  let d := fD w
  let a := fA w
  let b := fB w
  let c := fC w
  let p := BitVec.ofNat 4 (w / 2 ^ 26)
  match fld w 30 2 with
  | 0 => keepWf (.mma d a b c p)
  | 1 => keepWf (.mmat d a b c p)
  | 2 => keep (p == 0 && b == 0 && c == 0 && d == 0) (.mzero a)
  | _ => none

/-- Major 17. -/
def decAccum (w : Nat) : Option Instr :=
  let d := fD w
  let a := fA w
  let b := fB w
  let g := fld w 26 6
  let hi := fld w 29 3
  let rm (f : RmField → Option Instr) : Option Instr := (RmField.ofCode (fld w 26 3)).bind f
  match fld w 21 5 with
  | 0 => keep (g == 0) (.lmap d a b)
  | 1 => if hi = 0 then rm (fun r => keepWf (.accrow d a b r)) else none
  | 2 => if hi < 2 then rm (fun r => some (.bind d a b r (hi == 1))) else none
  | 3 => if hi = 0 then rm (fun r => some (.accrd d a b r)) else none
  | 4 => keep (g == 0 && b == 0) (.accsp d a)
  | 5 => keep (g == 0 && b == 0) (.accfl d a)
  | 6 => keep (g == 0 && b == 0 && a == 0) (.mwait d)
  | 7 => keep (g == 0 && b == 0) (.mpoll d a)
  | _ => none

/-- Majors 18 to 20, Q format. -/
def decMessage (w : Nat) : Option Instr :=
  let d := fD w
  let a := fA w
  let b := fB w
  let sel := fld w 24 4
  let sc := fld w 21 3
  match fld w 28 4 with
  | 0 => if sel = 0 ∧ d = 0 then (Scope.ofCode sc).map (.send a b) else none
  | 1 => if sel = 0 ∧ d = 0 then (Scope.ofCode sc).map (.sendi a b) else none
  | 2 => keep (decide (sel < 4) && sc == 0 && b == 0 && d == 0) (.cntwait (BitVec.ofNat 2 sel) a)
  | _ => none

def decMailbox (w : Nat) : Option Instr :=
  let d := fD w
  let a := fA w
  let b := fB w
  let z := fld w 21 7 == 0
  match fld w 28 4 with
  | 0 => keep z (.mbxpost a b d)
  | 1 => keep (z && a == 0 && b == 0) (.mbxtake d)
  | 2 => keep (z && b == 0 && d == 0) (.mbxcfg a)
  | _ => none

def decEngine (w : Nat) : Option Instr :=
  let d := fD w
  let a := fA w
  let b := fB w
  let sel := fld w 24 4
  let sc := fld w 21 3
  match fld w 28 4 with
  | 0 => if sel = 0 then (Scope.ofCode sc).bind (fun s => keepWf (.bcopy d a b s)) else none
  | 1 => if sel = 0 then (Scope.ofCode sc).bind (fun s => keepWf (.bconv d a b s)) else none
  | 2 => keep (sel == 0 && sc == 0 && b == 0 && d == 0) (.bevict a)
  | 3 => keep (sel == 0 && sc == 0 && b == 0 && d == 0) (.bwait a)
  | 4 => match Fifo.ofCode sel, Scope.ofCode sc with
    | some f, some s => keep (b == 0 && d == 0) (.engpush f a s)
    | _, _ => none
  | 5 => match Fifo.ofCode sel with
    | some f => keep (sc == 0 && b == 0 && a == 0) (.engpop f d)
    | none => none
  | _ => none

/-- Major 21 (R66, R185). A non-zero b in TSPAWN, TDONE, TTILE and TABORT, for which the spec names no rule, is refused (log entry 89,
DEDUCED). -/
def decTask (w : Nat) : Option Instr :=
  let d := fD w
  let a := fA w
  let b := fB w
  let z := b == 0
  if fld w 26 6 ≠ 0 then none
  else match fld w 21 5 with
    | 0 => keep z (.tspawn d a)
    | 1 => some (.tspawnr d a b)
    | 2 => some (.tdep d a b)
    | 3 => keep z (.tdone d a)
    | 4 => keep z (.ttile d a)
    | 5 => some (.tnote d a b)
    | 6 => some (.tval d a b)
    | 7 => keep z (.tabort d a)
    | _ => none

/-- Majors 22, 23 and 25, S format. -/
def decFence (w : Nat) : Option Instr :=
  if fD w = 0 ∧ fA w = 0 ∧ fld w 26 6 = 0 then (FenceKind.ofCode (fld w 16 10)).map .fence else none

def decSystem (w : Nat) : Option Instr :=
  let d := fD w
  let a := fA w
  let e := fld w 16 10
  let e0 := e == 0
  match fld w 26 6 with
  | 0 => keep (d == 0 && a == 0) (.trap (BitVec.ofNat 10 e))
  | 1 => keep (e0 && d == 0 && a == 0) .tret
  | 2 => keep e0 (.sleep d a)
  | 3 => keep (e0 && a == 0) (.dtcr d)
  | 4 => keep (e0 && d == 0 && a == 0) .nop
  | 5 => keep (e0 && d == 0) (.partset a)
  | 6 => keep (e0 && d == 0) (.lanegate a)
  | 7 => keep (decide (e < 2) && d == 0) (.imgsave a (e == 1))
  | 8 => keep (e0 && d == 0) (.imgload a)
  | _ => none

/-- Major 24. -/
def decControl (w : Nat) : Option Instr :=
  match fld w 16 4 with
  | 0 => keep (fA w == 0) (.crr (fD w) (fImm12 w))
  | 1 => keep (fD w == 0) (.crw (fA w) (fImm12 w))
  | _ => none

/-- Major 25. -/
def decDebug (w : Nat) : Option Instr :=
  keep (fld w 26 6 == 0 && fD w == 0 && fA w == 0) (.bkpt (BitVec.ofNat 10 (fld w 16 10)))

/-- A 32-bit word (R64, R70): reserved majors first. -/
def decode32 (w : Nat) : Except Reject Instr :=
  let m := fld w 1 5
  if 26 ≤ m then .error .reserved
  else
    let r := match m with
      | 0 => some (.ldM (fD w) (fA w) (fB w) (BitVec.ofNat 11 (w / 2 ^ 21)))
      | 1 => some (.stM (fD w) (fA w) (fB w) (BitVec.ofNat 11 (w / 2 ^ 21)))
      | 2 => decTagged w
      | 3 => decAtomic w
      | 4 => decInt w
      | 5 => decImm w
      | 6 => keep (fld w 14 2 == 0) (.lui (fD w) (BitVec.ofNat 2 (w / 2 ^ 11)) (fld w 13 1 == 1) (BitVec.ofNat 16 (w / 2 ^ 16)))
      | 7 => decAddr w
      | 8 => decBranch w
      | 9 => some (.jal (fD w) (BitVec.ofNat 21 (w / 2 ^ 11)))
      | 10 => decJump w
      | 11 => decVector w
      | 12 => decVectorMem w
      | 13 => decConvert w
      | 14 => decCordic w
      | 15 => decHandle w
      | 16 => decMatrix w
      | 17 => decAccum w
      | 18 => decMessage w
      | 19 => decMailbox w
      | 20 => decEngine w
      | 21 => decTask w
      | 22 => decFence w
      | 23 => decSystem w
      | 24 => decControl w
      | _ => decDebug w
    match r with
    | some i => .ok i
    | none => .error .illegal

/-- A compact form (R67, R68). -/
def decCompact (x : Nat) : Option Instr :=
  let d := BitVec.ofNat 5 (x / 2 ^ 5)
  let a := BitVec.ofNat 5 (x / 2 ^ 10)
  let f := fld x 15 1
  let imm := BitVec.ofNat 6 (x / 2 ^ 10)
  let cd := BitVec.ofNat 3 (x / 2 ^ 5)
  let cb := BitVec.ofNat 3 (x / 2 ^ 8)
  let off := BitVec.ofNat 5 (x / 2 ^ 11)
  match fld x 1 4 with
  | 1 => some (if f = 0 then .addCompactS0 d a else .addCompact d a)
  | 2 => some (if f = 0 then .subCompact d a else .andCompact d a)
  | 3 => some (if f = 0 then .orCompact d a else .xorCompact d a)
  | 4 => some (.addiCompactS0 d imm)
  | 5 => some (.addiCompact d imm)
  | 6 => some (.shliCompact d imm)
  | 7 => some (.sraiCompact d imm)
  | 8 => some (.ldCompact cd cb off)
  | 9 => some (.stCompact cd cb off)
  | 10 => keepWf (.beqCompact d imm)
  | 11 => keepWf (.bneCompact d imm)
  | 12 => some (.jalCompact (BitVec.ofNat 11 (x / 2 ^ 5)))
  | 13 => if f = 0 then keep (d == 0) (.jalrCompact a) else keep (d == 0 && a == 0) .endhCompact
  | 14 => some (.ldfCompact cd cb off)
  | _ => none

/-- A 16-bit parcel (R67, R68, R70): OP 15 is reserved. -/
def decode16 (x : Nat) : Except Reject Instr :=
  if fld x 1 4 = 15 then .error .reserved
  else match decCompact x with
    | some i => .ok i
    | none => .error .illegal

/-- Is a compact form in the inline-code subset (R69)? -/
def inlineOk : Instr → Bool
  | .jalCompact off => !off.msb && off != 0
  | .jalrCompact _ => false
  | _ => true

/-- A parcel of inline code (R69): whatever is outside the subset is illegal. -/
def decodeInline (x : Nat) : Except Reject Instr :=
  if x % 2 = 1 then .error .illegal
  else match decode16 x with
    | .ok i => if inlineOk i then .ok i else .error .illegal
    | .error _ => .error .illegal

/-- The instruction at the head of a list of bytes, and the bytes after it (R59): parcels are little-endian. -/
def decodeBytes : List Byte → Except Reject (Instr × List Byte)
  | b0 :: b1 :: rest =>
    let x := b0.toNat + 256 * b1.toNat
    if x % 2 = 0 then (decode16 x).map (fun i => (i, rest))
    else match rest with
      | b2 :: b3 :: rest => (decode32 (x + 65536 * b2.toNat + 16777216 * b3.toNat)).map (fun i => (i, rest))
      | _ => .error .truncated
  | _ => .error .truncated

/-- The low `n` bytes of a number, least significant first. -/
def leBytes (w : Nat) : Nat → List Byte
  | 0 => []
  | n + 1 => BitVec.ofNat 8 w :: leBytes (w / 256) n

/-- The instruction that the decoder reads from the bits of a row of the opcode table. -/
def decodeTableWord (nbits w : Nat) : Option Instr :=
  match decodeBytes (leBytes (w % 2 ^ nbits) 4) with
  | .ok (i, _) => some i
  | .error _ => none

/-! The encoder. -/

/-- A CR form of OP `op` with F. -/
def mkCR (op f d a : Nat) : Nat := 2 * op + 2 ^ 5 * d + 2 ^ 10 * a + 2 ^ 15 * f
/-- A CI or CB form. -/
def mkCI (op d imm : Nat) : Nat := 2 * op + 2 ^ 5 * d + 2 ^ 10 * imm
/-- A CM form. -/
def mkCM (op d b off : Nat) : Nat := 2 * op + 2 ^ 5 * d + 2 ^ 8 * b + 2 ^ 11 * off

/-- g of a vector instruction: VIEW, MASK and T (R66, major 11). -/
def gOf (v : Nat × Nat) (m : BitVec 3) : Nat := v.1 + 4 * m.toNat + 32 * v.2

/-- The compact form's parcel, if the term is one (R67, R68). -/
def encode16 : Instr → Option Nat
  | .addCompactS0 d a => some (mkCR 1 0 d.toNat a.toNat)
  | .addCompact d a => some (mkCR 1 1 d.toNat a.toNat)
  | .subCompact d a => some (mkCR 2 0 d.toNat a.toNat)
  | .andCompact d a => some (mkCR 2 1 d.toNat a.toNat)
  | .orCompact d a => some (mkCR 3 0 d.toNat a.toNat)
  | .xorCompact d a => some (mkCR 3 1 d.toNat a.toNat)
  | .addiCompactS0 d imm => some (mkCI 4 d.toNat imm.toNat)
  | .addiCompact d imm => some (mkCI 5 d.toNat imm.toNat)
  | .shliCompact d amt => some (mkCI 6 d.toNat amt.toNat)
  | .sraiCompact d amt => some (mkCI 7 d.toNat amt.toNat)
  | .ldCompact d b off => some (mkCM 8 d.toNat b.toNat off.toNat)
  | .stCompact d b off => some (mkCM 9 d.toNat b.toNat off.toNat)
  | .beqCompact a off => some (mkCI 10 a.toNat off.toNat)
  | .bneCompact a off => some (mkCI 11 a.toNat off.toNat)
  | .jalCompact off => some (2 * 12 + 2 ^ 5 * off.toNat)
  | .jalrCompact a => some (mkCR 13 0 0 a.toNat)
  | .endhCompact => some (mkCR 13 1 0 0)
  | .ldfCompact d b off => some (mkCM 14 d.toNat b.toNat off.toNat)
  | _ => none

/-- The word of a 32-bit instruction, if the term is one (R62 to R66). -/
def encode32 : Instr → Option Nat
  | .ldM d b w off => some (mkWord 0 d.toNat b.toNat w.toNat + 2 ^ 21 * off.toNat)
  | .stM d b w off => some (mkWord 1 d.toNat b.toNat w.toNat + 2 ^ 21 * off.toNat)
  | .ldA d a w sx acq => some (mkA 0 (ordCode 1 acq) sx.toNat w.toNat d.toNat a.toNat)
  | .stA d a w rel => some (mkA 1 (ordCode 2 rel) 0 w.toNat d.toNat a.toNat)
  | .ldf d a acq => some (mkA 2 (ordCode 1 acq) 0 0 d.toNat a.toNat)
  | .ldw d a ver acq => some (mkA 3 (ordCode 1 acq) 0 ver.toNat d.toNat a.toNat)
  | .ste d a rel => some (mkA 4 (ordCode 2 rel) 0 0 d.toNat a.toNat)
  | .stv d a ver rel => some (mkA 5 (ordCode 2 rel) 0 ver.toNat d.toNat a.toNat)
  | .tagrd d a => some (mkA 6 (0, 0) 0 0 d.toNat a.toNat)
  | .reclaim a rel => some (mkA 7 (ordCode 2 rel) 0 0 0 a.toNat)
  | .spillm d a file => some (mkA 8 (0, 0) 0 file.toNat d.toNat a.toNat)
  | .fillm d a file => some (mkA 9 (0, 0) 0 file.toNat d.toNat a.toNat)
  | .amoadd d a b w64 o => some (amo 0 o w64 d a b)
  | .amoand d a b w64 o => some (amo 1 o w64 d a b)
  | .amoor d a b w64 o => some (amo 2 o w64 d a b)
  | .amoxor d a b w64 o => some (amo 3 o w64 d a b)
  | .amomin d a b w64 o => some (amo 4 o w64 d a b)
  | .amomax d a b w64 o => some (amo 5 o w64 d a b)
  | .amominu d a b w64 o => some (amo 6 o w64 d a b)
  | .amomaxu d a b w64 o => some (amo 7 o w64 d a b)
  | .amoswap d a b w64 o => some (amo 8 o w64 d a b)
  | .amocas d a b w64 o => some (amo 9 o w64 d a b)
  | .redadd a b w64 r => some (red 10 r w64 a b)
  | .redfadd a b r => some (red 11 r false a b)
  | .redmin a b w64 r => some (red 12 r w64 a b)
  | .redmax a b w64 r => some (red 13 r w64 a b)
  | .redor a b w64 r => some (red 14 r w64 a b)
  | .add d a b => some (mkR 4 0 0 d.toNat a.toNat b.toNat)
  | .sub d a b => some (mkR 4 1 0 d.toNat a.toNat b.toNat)
  | .and d a b => some (mkR 4 2 0 d.toNat a.toNat b.toNat)
  | .or d a b => some (mkR 4 3 0 d.toNat a.toNat b.toNat)
  | .xor d a b => some (mkR 4 4 0 d.toNat a.toNat b.toNat)
  | .shl d a b => some (mkR 4 5 0 d.toNat a.toNat b.toNat)
  | .shr d a b => some (mkR 4 6 0 d.toNat a.toNat b.toNat)
  | .sra d a b => some (mkR 4 7 0 d.toNat a.toNat b.toNat)
  | .mul d a b => some (mkR 4 8 0 d.toNat a.toNat b.toNat)
  | .mulh d a b => some (mkR 4 9 0 d.toNat a.toNat b.toNat)
  | .mulhu d a b => some (mkR 4 10 0 d.toNat a.toNat b.toNat)
  | .div d a b => some (mkR 4 11 0 d.toNat a.toNat b.toNat)
  | .divu d a b => some (mkR 4 12 0 d.toNat a.toNat b.toNat)
  | .rem d a b => some (mkR 4 13 0 d.toNat a.toNat b.toNat)
  | .remu d a b => some (mkR 4 14 0 d.toNat a.toNat b.toNat)
  | .slt d a b => some (mkR 4 15 0 d.toNat a.toNat b.toNat)
  | .sltu d a b => some (mkR 4 16 0 d.toNat a.toNat b.toNat)
  | .min d a b => some (mkR 4 17 0 d.toNat a.toNat b.toNat)
  | .max d a b => some (mkR 4 18 0 d.toNat a.toNat b.toNat)
  | .minu d a b => some (mkR 4 19 0 d.toNat a.toNat b.toNat)
  | .maxu d a b => some (mkR 4 20 0 d.toNat a.toNat b.toNat)
  | .clz d a => some (mkR 4 21 0 d.toNat a.toNat 0)
  | .ctz d a => some (mkR 4 22 0 d.toNat a.toNat 0)
  | .popc d a => some (mkR 4 23 0 d.toNat a.toNat 0)
  | .bext d a b g => some (mkR 4 24 g.toNat d.toNat a.toNat b.toNat)
  | .bins d a b g => some (mkR 4 25 g.toNat d.toNat a.toNat b.toNat)
  | .sext d a g => some (mkR 4 26 g.toNat d.toNat a.toNat 0)
  | .zext d a g => some (mkR 4 27 g.toNat d.toNat a.toNat 0)
  | .addi d a imm => some (mkK 5 0 d.toNat a.toNat imm.toNat)
  | .andi d a imm => some (mkK 5 1 d.toNat a.toNat imm.toNat)
  | .ori d a imm => some (mkK 5 2 d.toNat a.toNat imm.toNat)
  | .xori d a imm => some (mkK 5 3 d.toNat a.toNat imm.toNat)
  | .shli d a amt => some (mkK 5 4 d.toNat a.toNat amt.toNat)
  | .shri d a amt => some (mkK 5 5 d.toNat a.toNat amt.toNat)
  | .srai d a amt => some (mkK 5 6 d.toNat a.toNat amt.toNat)
  | .slti d a imm => some (mkK 5 7 d.toNat a.toNat imm.toNat)
  | .sltiu d a imm => some (mkK 5 8 d.toNat a.toNat imm.toNat)
  | .lui d k ins imm => some (mkWord 6 d.toNat (k.toNat + 4 * ins.toNat) 0 + 2 ^ 16 * imm.toNat)
  | .eaddr d a b g => some (mkR 7 0 g.toNat d.toNat a.toNat b.toNat)
  | .ediff d a b g => some (mkR 7 1 g.toNat d.toNat a.toNat b.toNat)
  | .balign d a g => some (mkR 7 2 g.toNat d.toNat a.toNat 0)
  | .waddr d a => some (mkR 7 3 0 d.toNat a.toNat 0)
  | .gaddr d a => some (mkR 7 4 0 d.toNat a.toNat 0)
  | .coord d sel => some (mkR 7 5 sel.code d.toNat 0 0)
  | .beq a b off => some (br 0 a b off)
  | .bne a b off => some (br 1 a b off)
  | .blt a b off => some (br 2 a b off)
  | .bge a b off => some (br 3 a b off)
  | .bltu a b off => some (br 4 a b off)
  | .bgeu a b off => some (br 5 a b off)
  | .jal d off => some (mkWord 9 d.toNat 0 0 + 2 ^ 11 * off.toNat)
  | .jalr d a imm => some (mkK 10 0 d.toNat a.toNat imm.toNat)
  | .loop a imm => some (mkK 10 1 0 a.toNat imm.toNat)
  | .endh => some (mkK 10 2 0 0 0)
  | .vadd d a b ty m => some (mkR 11 0 (gOf ty.code m) d.toNat a.toNat b.toNat)
  | .vsub d a b ty m => some (mkR 11 1 (gOf ty.code m) d.toNat a.toNat b.toNat)
  | .vmul d a b ty m => some (mkR 11 2 (gOf ty.code m) d.toNat a.toNat b.toNat)
  | .vfma d a b ty m => some (mkR 11 3 (gOf ty.code m) d.toNat a.toNat b.toNat)
  | .vmin d a b ty m => some (mkR 11 4 (gOf ty.code m) d.toNat a.toNat b.toNat)
  | .vmax d a b ty m => some (mkR 11 5 (gOf ty.code m) d.toNat a.toNat b.toNat)
  | .vabs d a ty m => some (mkR 11 6 (gOf ty.code m) d.toNat a.toNat 0)
  | .vneg d a ty m => some (mkR 11 7 (gOf ty.code m) d.toNat a.toNat 0)
  | .vand d a b v m => some (mkR 11 8 (gOf (v.code, 0) m) d.toNat a.toNat b.toNat)
  | .vor d a b v m => some (mkR 11 9 (gOf (v.code, 0) m) d.toNat a.toNat b.toNat)
  | .vxor d a b v m => some (mkR 11 10 (gOf (v.code, 0) m) d.toNat a.toNat b.toNat)
  | .vshl d a b v m => some (mkR 11 11 (gOf (v.code, 0) m) d.toNat a.toNat b.toNat)
  | .vshr d a b v m => some (mkR 11 12 (gOf (v.code, 0) m) d.toNat a.toNat b.toNat)
  | .vsra d a b v m => some (mkR 11 13 (gOf (v.code, 0) m) d.toNat a.toNat b.toNat)
  | .vcmp md a b c ty m => some (mkR 11 14 (gOf ty.code m) (md.toNat + 8 * c.code) a.toNat b.toNat)
  | .vsel d a b v m => some (mkR 11 15 (gOf (v.code, 0) m) d.toNat a.toNat b.toNat)
  | .vbcast d a v m => some (mkR 11 16 (gOf (v.code, 0) m) d.toNat a.toNat 0)
  | .vperm d a b v m => some (mkR 11 17 (gOf (v.code, 0) m) d.toNat a.toNat b.toNat)
  | .vslide d a b v m => some (mkR 11 18 (gOf (v.code, 0) m) d.toNat a.toNat b.toNat)
  | .vredadd d a ty m => some (mkR 11 19 (gOf ty.code m) d.toNat a.toNat 0)
  | .vredmax d a ty m => some (mkR 11 20 (gOf ty.code m) d.toNat a.toNat 0)
  | .vredmin d a ty m => some (mkR 11 21 (gOf ty.code m) d.toNat a.toNat 0)
  | .vmovsv d a v m => some (mkR 11 22 (gOf (v.code, 0) m) d.toNat a.toNat 0)
  | .vmovvs d a v m => some (mkR 11 23 (gOf (v.code, 0) m) d.toNat a.toNat 0)
  | .mand md ma mb => some (mkR 11 24 0 md.toNat ma.toNat mb.toNat)
  | .mor md ma mb => some (mkR 11 25 0 md.toNat ma.toNat mb.toNat)
  | .mnot md ma => some (mkR 11 26 0 md.toNat ma.toNat 0)
  | .mpop d ma => some (mkR 11 27 0 d.toNat ma.toNat 0)
  | .vld d a v m => some (mkR 12 0 (gOf (v.code, 0) m) d.toNat a.toNat 0)
  | .vst d a v m => some (mkR 12 1 (gOf (v.code, 0) m) d.toNat a.toNat 0)
  | .vlds d a b v m => some (mkR 12 2 (gOf (v.code, 0) m) d.toNat a.toNat b.toNat)
  | .vgather d a b v m => some (mkR 12 3 (gOf (v.code, 0) m) d.toNat a.toNat b.toNat)
  | .vscatter d a b v m => some (mkR 12 4 (gOf (v.code, 0) m) d.toNat a.toNat b.toNat)
  | .vcvt d a tt st rm => some (mkR 13 (4 * tt.code) (rm.code + 8 * st.code) d.toNat a.toNat 0)
  | .vpack a b fmt st rm cb kq =>
    some (mkR 13 (1 + 4 * fmt.fieldCode) (rm.code + 8 * st.code) (cb.code + 8 * kq.toNat) a.toNat b.toNat)
  | .vunpack d a fmt tt rm => some (mkR 13 (2 + 4 * tt.code) (rm.code + 8 * fmt.fieldCode) d.toNat a.toNat 0)
  | .vcord d a b fn n1 => some (mkR 14 n1.toNat fn.code d.toNat a.toNat b.toNat)
  | .scord d a b fn n1 => some (mkR 14 n1.toNat (16 + fn.code) d.toNat a.toNat b.toNat)
  | .rand d => some (mkR 14 0 32 d.toNat 0 0)
  | .hset h d => some (mkK 15 0 d.toNat h.toNat 0)
  | .hwaitf h n => some (mkK 15 1 0 h.toNat n.toNat)
  | .hwaite h n => some (mkK 15 2 0 h.toNat n.toNat)
  | .hadv h tail n => some (mkK 15 3 tail.toNat h.toNat n.toNat)
  | .ldh d h k => some (mkK 15 4 d.toNat h.toNat k.toNat)
  | .sth d h k => some (mkK 15 5 d.toNat h.toNat k.toNat)
  | .sbind n h d out v => some (mkK 15 6 d.toNat h.toNat (n.toNat + 8 * out.toNat + 16 * v.code))
  | .sunbind n => some (mkK 15 7 0 0 n.toNat)
  | .mma d a b c p1 => some (mkWord 16 d.toNat a.toNat b.toNat + 2 ^ 21 * c.toNat + 2 ^ 26 * p1.toNat)
  | .mmat d a b c p1 => some (mkWord 16 d.toNat a.toNat b.toNat + 2 ^ 21 * c.toNat + 2 ^ 26 * p1.toNat + 2 ^ 30)
  | .mzero a => some (mkWord 16 0 a.toNat 0 + 2 ^ 31)
  | .lmap d a b => some (mkR 17 0 0 d.toNat a.toNat b.toNat)
  | .accrow d a b rm => some (mkR 17 1 rm.code d.toNat a.toNat b.toNat)
  | .bind d a b rm cm => some (mkR 17 2 (rm.code + 8 * cm.toNat) d.toNat a.toNat b.toNat)
  | .accrd d a b rm => some (mkR 17 3 rm.code d.toNat a.toNat b.toNat)
  | .accsp d a => some (mkR 17 4 0 d.toNat a.toNat 0)
  | .accfl d a => some (mkR 17 5 0 d.toNat a.toNat 0)
  | .mwait d => some (mkR 17 6 0 d.toNat 0 0)
  | .mpoll d a => some (mkR 17 7 0 d.toNat a.toNat 0)
  | .send a b sc => some (mkQ 18 0 0 sc.code 0 a.toNat b.toNat)
  | .sendi a b sc => some (mkQ 18 1 0 sc.code 0 a.toNat b.toNat)
  | .cntwait n a => some (mkQ 18 2 n.toNat 0 0 a.toNat 0)
  | .mbxpost a b d => some (mkQ 19 0 0 0 d.toNat a.toNat b.toNat)
  | .mbxtake d => some (mkQ 19 1 0 0 d.toNat 0 0)
  | .mbxcfg a => some (mkQ 19 2 0 0 0 a.toNat 0)
  | .bcopy d a b sc => some (mkQ 20 0 0 sc.code d.toNat a.toNat b.toNat)
  | .bconv d a b sc => some (mkQ 20 1 0 sc.code d.toNat a.toNat b.toNat)
  | .bevict a => some (mkQ 20 2 0 0 0 a.toNat 0)
  | .bwait a => some (mkQ 20 3 0 0 0 a.toNat 0)
  | .engpush f a sc => some (mkQ 20 4 f.code sc.code 0 a.toNat 0)
  | .engpop f d => some (mkQ 20 5 f.code 0 d.toNat 0 0)
  | .tspawn d a => some (mkR 21 0 0 d.toNat a.toNat 0)
  | .tspawnr d a b => some (mkR 21 1 0 d.toNat a.toNat b.toNat)
  | .tdep d a b => some (mkR 21 2 0 d.toNat a.toNat b.toNat)
  | .tdone d a => some (mkR 21 3 0 d.toNat a.toNat 0)
  | .ttile d a => some (mkR 21 4 0 d.toNat a.toNat 0)
  | .tnote d a b => some (mkR 21 5 0 d.toNat a.toNat b.toNat)
  | .tval d a b => some (mkR 21 6 0 d.toNat a.toNat b.toNat)
  | .tabort d a => some (mkR 21 7 0 d.toNat a.toNat 0)
  | .fence k => some (mkS 22 0 k.code 0 0)
  | .trap e => some (mkS 23 0 e.toNat 0 0)
  | .tret => some (mkS 23 1 0 0 0)
  | .sleep d a => some (mkS 23 2 0 d.toNat a.toNat)
  | .dtcr d => some (mkS 23 3 0 d.toNat 0)
  | .nop => some (mkS 23 4 0 0 0)
  | .partset a => some (mkS 23 5 0 0 a.toNat)
  | .lanegate a => some (mkS 23 6 0 0 a.toNat)
  | .imgsave a inc => some (mkS 23 7 inc.toNat 0 a.toNat)
  | .imgload a => some (mkS 23 8 0 0 a.toNat)
  | .crr d n => some (mkK 24 0 d.toNat 0 n.toNat)
  | .crw a n => some (mkK 24 1 0 a.toNat n.toNat)
  | .bkpt e => some (mkS 25 0 e.toNat 0 0)
  | _ => none
where
  /-- An AMO (R66, major 3). -/
  amo (f : Nat) (o : AmoOrd) (w64 : Bool) (d a b : Reg) : Nat :=
    mkR 3 f (w64.toNat + 2 * o.code.1 + 8 * o.code.2) d.toNat a.toNat b.toNat
  /-- A reduction. -/
  red (f : Nat) (r : Option Scope) (w64 : Bool) (a b : Reg) : Nat :=
    mkR 3 f (w64.toNat + 2 * (ordCode 2 r).1 + 8 * (ordCode 2 r).2) 0 a.toNat b.toNat
  /-- B format. -/
  br (cond : Nat) (a b : Reg) (off : BitVec 13) : Nat :=
    mkWord 8 a.toNat b.toNat 0 + 2 ^ 16 * cond + 2 ^ 19 * off.toNat

/-- The length in bits and the bits of an instruction; none for an event. -/
def encode (i : Instr) : Option (Nat × Nat) :=
  match encode16 i with
  | some x => some (16, x)
  | none => (encode32 i).map (fun w => (32, w))

/-- Is the term an event, which no bits encode? -/
def Instr.isEvent (i : Instr) : Bool := (encode i).isNone

end Sys2Proof
end

