-- ==== Sys2Proof/Machine/Float.lean ====
section
/-! DEFINITION. Floating point (R29 to R31): exact values as signed binary fractions, rounding to a format in a mode, and
the operations of the vector unit, the engines and the homes. -/

namespace Sys2Proof.Machine

/-- An IEEE-style target: exponent bits and mantissa bits (R29). -/
structure FFmt where
  ebits : Nat
  mbits : Nat
  deriving DecidableEq, Repr

def FFmt.f32 : FFmt := ⟨8, 23⟩
def FFmt.f16 : FFmt := ⟨5, 10⟩
def FFmt.bf16 : FFmt := ⟨8, 7⟩

/-- The exponent bias. -/
def FFmt.bias (f : FFmt) : Int := 2 ^ (f.ebits - 1) - 1

/-- Width in bits. -/
def FFmt.width (f : FFmt) : Nat := 1 + f.ebits + f.mbits

/-- Code of +infinity. -/
def FFmt.infCode (f : FFmt) : Nat := (2 ^ f.ebits - 1) * 2 ^ f.mbits

/-- The sign bit. -/
def FFmt.signBit (f : FFmt) : Nat := 2 ^ (f.ebits + f.mbits)

/-- The canonical quiet NaN (R29). -/
def FFmt.nanCode (f : FFmt) : Nat := f.infCode + 2 ^ (f.mbits - 1)

/-- A floating-point value: NaN, an infinity, or the exact number (−1)^neg × m × 2^e. -/
inductive FVal where
  | nan
  | inf (neg : Bool)
  | fin (neg : Bool) (m : Nat) (e : Int)
  deriving DecidableEq, Repr

/-- The value of a code (R29). -/
def FFmt.decode (f : FFmt) (c : Nat) : FVal :=
  let neg := c.testBit (f.ebits + f.mbits)
  let e := c / 2 ^ f.mbits % 2 ^ f.ebits
  let m := c % 2 ^ f.mbits
  if e = 2 ^ f.ebits - 1 then (if m = 0 then .inf neg else .nan)
  else if e = 0 then .fin neg m (1 - f.bias - f.mbits)
  else .fin neg (2 ^ f.mbits + m) ((e : Int) - f.bias - f.mbits)

/-- A value of an integer. -/
def FVal.ofInt (x : Int) : FVal := .fin (x < 0) x.natAbs 0

/-- The sign of a value; a NaN counts as positive. -/
def FVal.neg : FVal → Bool
  | .nan => false
  | .inf n => n
  | .fin n _ _ => n

/-- Does truncating `m` by `sh` bits round up in a mode (R30)? `draw` is the 16-bit draw that RS uses. -/
def roundsUp (rm : RoundMode) (neg : Bool) (m sh draw : Nat) : Bool :=
  let rem := m % 2 ^ sh
  match rm with
  | .rne => decide (2 ^ sh < 2 * rem) || (decide (2 ^ sh = 2 * rem) && (m / 2 ^ sh).testBit 0)
  | .rtz => false
  | .rup => rem != 0 && !neg
  | .rdn => rem != 0 && neg
  | .rs => decide (2 ^ 16 ≤ (if 16 ≤ sh then rem / 2 ^ (sh - 16) else rem * 2 ^ (16 - sh)) + draw)

/-- The magnitude m × 2^e in units of 2^q, rounded in a mode (R30). -/
def roundMag (rm : RoundMode) (neg : Bool) (m : Nat) (e q : Int) (draw : Nat) : Nat :=
  if m = 0 then 0
  else if q ≤ e then m * 2 ^ (e - q).toNat
  else
    let sh := (q - e).toNat
    m / 2 ^ sh + b2n (sh ≠ 0 && roundsUp rm neg m sh draw)

/-- The code of a result that overflows (R31). -/
def FFmt.overflow (f : FFmt) (rm : RoundMode) (neg : Bool) : Nat :=
  let s := if neg then f.signBit else 0
  match rm with
  | .rne | .rs => s + f.infCode
  | .rtz => s + f.infCode - 1
  | .rup => if neg then s + f.infCode - 1 else f.infCode
  | .rdn => if neg then s + f.infCode else f.infCode - 1

/-- round_to (R30, R31, R80): a value rounded to a format; `draw` is used under RS only. -/
def FFmt.round (f : FFmt) (rm : RoundMode) (draw : Nat) (x : FVal) : Nat :=
  match x with
  | .nan => f.nanCode
  | .inf n => (if n then f.signBit else 0) + f.infCode
  | .fin n m e =>
    let s := if n then f.signBit else 0
    if m = 0 then s
    else
      let q := max ((Nat.log2 m : Int) + e - f.mbits) (1 - f.bias - f.mbits)
      let k := roundMag rm n m e q draw
      let ef := (q + f.mbits + f.bias).toNat
      let c := ef * 2 ^ f.mbits + k - 2 ^ f.mbits
      if f.infCode ≤ c then f.overflow rm n else s + c

/-- A value rounded to an integer in a mode (R125); infinities and NaN are the caller's. -/
def FVal.toInt (rm : RoundMode) (draw : Nat) : FVal → Int
  | .fin n m e => let k := roundMag rm n m e 0 draw; if n then -(k : Int) else k
  | _ => 0

/-- The signed mantissa of a value at a common exponent `q` not above its own. -/
def FVal.at (q : Int) : FVal → Int
  | .fin n m e => let k : Int := m * 2 ^ (e - q).toNat; if n then -k else k
  | _ => 0

/-- The exact sum of two values; an exact zero whose summands differ in sign is +0, or −0 under RDN (R30). -/
def FVal.add (rm : RoundMode) : FVal → FVal → FVal
  | .nan, _ => .nan
  | _, .nan => .nan
  | .inf a, .inf b => if a = b then .inf a else .nan
  | .inf a, _ => .inf a
  | _, .inf b => .inf b
  | .fin na ma ea, .fin nb mb eb =>
    let q := min ea eb
    let s := (FVal.fin na ma ea).at q + (FVal.fin nb mb eb).at q
    if s = 0 then .fin (if na = nb then na else rm = .rdn) 0 q else .fin (s < 0) s.natAbs q

/-- The exact product of two values. -/
def FVal.mul : FVal → FVal → FVal
  | .nan, _ => .nan
  | _, .nan => .nan
  | .inf a, .inf b => .inf (a != b)
  | .inf a, .fin b m _ => if m = 0 then .nan else .inf (a != b)
  | .fin a m _, .inf b => if m = 0 then .nan else .inf (a != b)
  | .fin a m e, .fin b m' e' => .fin (a != b) (m * m') (e + e')

/-- A value with its sign flipped. -/
def FVal.negate : FVal → FVal
  | .nan => .nan
  | .inf n => .inf (!n)
  | .fin n m e => .fin (!n) m e

/-- x × y + z as one exact value (R118, VFMA). -/
def FVal.fma (rm : RoundMode) (x y z : FVal) : FVal := FVal.add rm (FVal.mul x y) z

/-- Order of two values: x < y, with −0 equal to +0; a NaN is below nothing (R119). -/
def FVal.lt : FVal → FVal → Bool
  | .nan, _ => false
  | _, .nan => false
  | .inf a, .inf b => a && !b
  | .inf a, .fin _ _ _ => a
  | .fin _ _ _, .inf b => !b
  | .fin na ma ea, .fin nb mb eb =>
    let q := min ea eb
    decide ((FVal.fin na ma ea).at q < (FVal.fin nb mb eb).at q)

/-- Equality of two values: −0 equals +0, and a NaN equals nothing (R119). -/
def FVal.eqv : FVal → FVal → Bool
  | .nan, _ => false
  | _, .nan => false
  | x, y => !x.lt y && !y.lt x

/-- Is the value a NaN? -/
def FVal.isNan : FVal → Bool
  | .nan => true
  | _ => false

/-- Is the value a NaN or an infinity? -/
def FVal.isSpecial : FVal → Bool
  | .fin _ _ _ => false
  | _ => true

/-- Minimum and maximum with −0 < +0 and the canonical NaN for a NaN (R118), on codes. -/
def FFmt.minmax (f : FFmt) (max : Bool) (x y : Nat) : Nat :=
  let a := f.decode x
  let b := f.decode y
  if a.isNan || b.isNan then f.nanCode
  else
    let xLess := a.lt b || (a.eqv b && a.neg && !b.neg)
    if xLess != max then x else y

/-- F32 addition with RNE (R48, R110 REDFADD). -/
def f32Add (x y : Nat) : Nat := FFmt.f32.round .rne 0 (FVal.add .rne (FFmt.f32.decode x) (FFmt.f32.decode y))

/-- F32 fused multiply-add with RNE (R163). -/
def f32Fma (x y z : Nat) : Nat :=
  FFmt.f32.round .rne 0 (FVal.fma .rne (FFmt.f32.decode x) (FFmt.f32.decode y) (FFmt.f32.decode z))

/-- One step of the generator (R139). -/
def rngStep (x : Word) : Word :=
  let x := x ^^^ (x <<< 13)
  let x := x ^^^ (x >>> 7)
  x ^^^ (x <<< 17)

/-- rand16(): the generator after a draw, and the draw, bits 63:48 (R139). -/
def rand16 (x : Word) : Word × Nat :=
  let y := rngStep x
  (y, bits y 63 48)

/-- The draw used by an element in a mode: only RS draws (R30). -/
def drawIf (rm : RoundMode) (x : Word) : Word × Nat := if rm = .rs then rand16 x else (x, 0)

/-- The generator after `n` draws. -/
def drawMany (x : Word) : Nat → Word
  | 0 => x
  | n + 1 => drawMany (rand16 x).1 n

/-- The magnitude that AMAX.M holds, compared as a non-negative F32 value whatever its bit 31 (R47). -/
def amaxMag (m : BitVec 32) : FVal := FFmt.f32.decode (m.toNat % 2 ^ 31)

/-- AMAX after one source value (R47): the larger magnitude stays, so M is never lowered; a NaN sets N. An M that a CRW filled
with a NaN pattern is never replaced (log entry 81, DESIGN CHOICE). -/
def amaxUpdate (a : BitVec 32 × Bool) (x : FVal) : BitVec 32 × Bool :=
  match x with
  | .nan => (a.1, true)
  | .inf _ => (if (amaxMag a.1).lt (.inf false) then BitVec.ofNat 32 FFmt.f32.infCode else a.1, a.2)
  | .fin _ m e =>
    if (amaxMag a.1).lt (.fin false m e) then (BitVec.ofNat 32 (FFmt.f32.round .rne 0 (.fin false m e)), a.2)
    else a

/-- AMAX after a list of source values. -/
def amaxAll (a : BitVec 32 × Bool) (xs : List FVal) : BitVec 32 × Bool := xs.foldl amaxUpdate a

end Sys2Proof.Machine
end

