-- ==== Sys2Proof/Machine/Block.lean ====
section
/-! DEFINITION. The PB32 block format (R32 to R48): header, planes, cW8 tokens, the decoder's checks, alignment to integer
planes, element values, and encoding. A block is read as a list of 32-bit words, header first. -/

namespace Sys2Proof

open Machine

/-- The FMT code of a format (R34). -/
def BlkFmt.code : BlkFmt → Nat
  | .w8 => 0 | .cw8 => 1 | .w6 => 2 | .w4 => 3 | .w3 => 4 | .i6 => 5 | .i4 => 6 | .i3 => 7

/-- The format of an FMT code; 8 to 15 are reserved (R34). -/
def blkFmtOf : Nat → Option BlkFmt
  | 0 => some .w8 | 1 => some .cw8 | 2 => some .w6 | 3 => some .w4
  | 4 => some .w3 | 5 => some .i6 | 6 => some .i4 | 7 => some .i3 | _ => none

/-- Code width in bits (R34). -/
def BlkFmt.width : BlkFmt → Nat
  | .w8 | .cw8 => 8 | .w6 | .i6 => 6 | .w4 | .i4 => 4 | .w3 | .i3 => 3

/-- Is it an integer format? -/
def BlkFmt.isInt : BlkFmt → Bool
  | .i6 | .i4 | .i3 => true
  | _ => false

/-- Mantissa bits M of a float format (R34). -/
def BlkFmt.mbits : BlkFmt → Nat
  | .w8 | .cw8 => 3 | .w6 => 2 | .w4 | .w3 => 1 | _ => 0

/-- Bias B of a float format (R34). -/
def BlkFmt.bias : BlkFmt → Int
  | .w8 | .cw8 => 8 | .w6 => 4 | .w4 => 2 | .w3 => 1 | _ => 0

/-- The reserved code (R34). -/
def BlkFmt.reserved (f : BlkFmt) : Nat := 2 ^ (f.width - 1)

/-- The largest unbiased exponent T of R46, or w − 2 for an integer format. -/
def BlkFmt.topExp : BlkFmt → Int
  | .w8 | .cw8 => 7 | .w6 => 3 | .w4 => 1 | .w3 => 0 | .i6 => 4 | .i4 => 2 | .i3 => 1

/-- The planes of a block before any token stream (R32, R34). -/
def BlkFmt.planes : BlkFmt → Nat
  | .cw8 => 4
  | f => f.width

/-- The header fields (R33). -/
structure BlkHdr where
  s : Nat
  fmt : Nat
  cb : Nat
  layout : Nat
  chk : Nat
  len : Nat
  deriving DecidableEq, Repr

/-- The header of a 32-bit word (R33). -/
def BlkHdr.ofNat (x : Nat) : BlkHdr :=
  ⟨x % 1024, x / 2 ^ 10 % 16, x / 2 ^ 14 % 4, x / 2 ^ 16 % 16, x / 2 ^ 20 % 64, x / 2 ^ 26 % 64⟩

/-- The header as a 32-bit word. -/
def BlkHdr.toNat (h : BlkHdr) : Nat :=
  h.s + h.fmt * 2 ^ 10 + h.cb * 2 ^ 14 + h.layout * 2 ^ 16 + h.chk * 2 ^ 20 + h.len * 2 ^ 26

/-- The check field (R36). -/
def blkChk (s fmt layout len : Nat) : Nat := (s + 7 * fmt + 11 * layout + 13 * len + 29) % 64

/-- Block size in bits by FMT and LEN (R34). -/
def blkBits (f : BlkFmt) (len : Nat) : Nat :=
  match f with
  | .cw8 => 160 + 32 * len
  | f => 32 * (f.planes + 1)

/-- The bit of element j in a plane (R35). -/
def blkPos (kquad : Bool) (j : Nat) : Nat := if kquad then 8 * (j % 4) + j / 4 else j

/-- The codebooks of R38: for each exponent the token's length and its code, most significant bit first. -/
def codebook (cb e : Nat) : Nat × Nat :=
  match cb with
  | 0 => (4, e)
  | 1 => [(8, 0xFC), (8, 0xFD), (7, 0x7C), (6, 0x3C), (5, 0x1C), (4, 0xC), (3, 4), (2, 0), (2, 1), (3, 5), (4, 0xD), (5, 0x1D),
      (6, 0x3D), (7, 0x7D), (8, 0xFE), (8, 0xFF)].getD e (0, 0)
  | 2 => [(5, 0x1C), (4, 0xC), (3, 2), (3, 3), (2, 0), (3, 4), (3, 5), (4, 0xD), (5, 0x1D), (5, 0x1E), (7, 0x7C), (7, 0x7D),
      (8, 0xFC), (8, 0xFD), (8, 0xFE), (8, 0xFF)].getD e (0, 0)
  | _ => [(5, 0x18), (5, 0x19), (5, 0x1A), (5, 0x1B), (5, 0x1C), (5, 0x1D), (5, 0x1E), (5, 0x1F), (4, 8), (4, 9), (3, 0), (3, 1),
      (3, 2), (3, 3), (4, 0xA), (4, 0xB)].getD e (0, 0)

/-- The bits of a token in stream order (R37). -/
def tokenBits (cb e : Nat) : List Bool :=
  let (n, c) := codebook cb e
  (List.range n).map (fun i => c.testBit (n - 1 - i))

/-- The exponent whose token starts a stream, and the rest of the stream (R37, R38). -/
def readToken (cb : Nat) (st : List Bool) : Option (Nat × List Bool) :=
  firstSome (fun e => let t := tokenBits cb e; if t.isPrefixOf st then some (e, st.drop t.length) else none) (List.range 16)

/-- `n` exponents from a token stream, and the pad that is left. -/
def readTokens (cb : Nat) : Nat → List Bool → Option (List Nat × List Bool)
  | 0, st => some ([], st)
  | n + 1, st => do
    let (e, st) ← readToken cb st
    let (es, st) ← readTokens cb n st
    return (e :: es, st)

/-- A decoded block (R41): format, header and element codes, or a zero or NaN block. -/
inductive BlkBody where
  | zero | nan | codes (c : List Nat)
  deriving DecidableEq, Repr

structure Blk where
  fmt : BlkFmt
  s : Nat
  body : BlkBody
  deriving DecidableEq, Repr

/-- The fates of the decoder (R41). -/
inductive DecFault where
  | check | reserved | layout | address
  deriving DecidableEq, Repr

/-- The cause code of a decoder fate (R193). -/
def DecFault.cause : DecFault → BitVec 8
  | .check => 0x0B | .reserved => 0x09 | .layout => 0x0A | .address => 0x05

/-- Element j's code from the planes of a fixed format: the sign plane is the code's top bit, and the next planes follow
down (integers), or the mantissa planes and then the exponent planes (floats) (R32, R34). -/
def planeCode (f : BlkFmt) (plane : Nat → Nat → Bool) (j : Nat) : Nat :=
  let w := f.width
  let bitAt (p : Nat) : Nat :=
    if f.isInt then w - 1 - p
    else if p = 0 then w - 1
    else if p ≤ f.mbits then f.mbits - p
    else w - 1 - (p - f.mbits)
  (List.range w).foldl (fun c p => c + b2n (plane p j) * 2 ^ bitAt p) 0

/-- The checks of R41 on a header, up to the format and the layout. -/
def checkHeader (h : BlkHdr) (accepts : BlkFmt → Bool) (kquad : Bool) : Except DecFault BlkFmt :=
  if h.chk ≠ blkChk h.s h.fmt h.layout h.len then .error .check
  else match blkFmtOf h.fmt with
    | none => .error .reserved
    | some f =>
      if h.cb ≠ 0 ∧ f ≠ .cw8 then .error .reserved
      else if !accepts f || h.layout != b2n kquad then .error .layout
      else .ok f

/-- The decoder (R41) on a block's words, for an expected layout, the formats accepted, and the bits that remain to the
end of the window from the header on. -/
def decodeBlock (ws : Nat → Nat) (accepts : BlkFmt → Bool) (kquad : Bool) (room : Nat) : Except DecFault (Blk × Nat) := do
  let h := BlkHdr.ofNat (ws 0)
  let f ← checkHeader h accepts kquad
  if room < blkBits f h.len then .error .address
  if f ≠ .cw8 ∧ h.len ≠ 0 then .error .check
  let special := h.s = 0 ∨ h.s = 1023
  if f = .cw8 ∧ (if special then h.len ≠ 0 else h.len = 0 ∨ 8 < h.len) then .error .check
  let size := blkBits f h.len
  if h.s = 0 then return (⟨f, h.s, .zero⟩, size)
  if h.s = 1023 then return (⟨f, h.s, .nan⟩, size)
  let plane (p j : Nat) : Bool := (ws (1 + p)).testBit (blkPos kquad j)
  let codes ←
    if f = .cw8 then
      let stream := (List.range (32 * h.len)).map (fun i => (ws (5 + i / 32)).testBit (i % 32))
      match readTokens h.cb 32 stream with
      | none => .error .check
      | some (es, pad) =>
        if pad.any id || decide (32 ≤ pad.length) then .error .check
        else pure ((List.range 32).map (fun j =>
          b2n (plane 0 j) * 128 + es.getD j 0 * 8 + b2n (plane 1 j) * 4 + b2n (plane 2 j) * 2 + b2n (plane 3 j)))
    else pure ((List.range 32).map (planeCode f plane))
  if codes.any (· == f.reserved) then .error .reserved
  return (⟨f, h.s, .codes codes⟩, size)

/-- Sign, effective exponent and full mantissa of a float code (R34, R45). -/
def BlkFmt.fields (f : BlkFmt) (c : Nat) : Bool × Nat × Nat :=
  let e := c % 2 ^ (f.width - 1) / 2 ^ f.mbits
  let m := c % 2 ^ f.mbits
  (c.testBit (f.width - 1), max e 1, if e = 0 then m else 2 ^ f.mbits + m)

/-- The value of an element code, scaled by 2^(S−512) (R34). -/
def BlkFmt.value (f : BlkFmt) (s c : Nat) : FVal :=
  if f.isInt then
    let v := sgN c f.width
    .fin (v < 0) v.natAbs ((s : Int) - 512)
  else
    let (n, e, m) := f.fields c
    .fin n m ((e : Int) - f.bias - f.mbits + s - 512)

/-- The 32 element values of a decoded block; a zero block is +0, a NaN block NaN (R39, R127). -/
def Blk.values (b : Blk) : List FVal :=
  match b.body with
  | .zero => List.replicate 32 (.fin false 0 0)
  | .nan => List.replicate 32 .nan
  | .codes c => c.map (b.fmt.value b.s)

/-- align_block (R45). -/
def Blk.align (b : Blk) (p : Nat) : Aligned :=
  match b.body with
  | .zero => ⟨List.replicate 32 0, 0, true, false⟩
  | .nan => ⟨List.replicate 32 0, 0, false, true⟩
  | .codes cs =>
    if b.fmt.isInt then
      let w := b.fmt.width
      let q (c : Nat) : Int :=
        let v := sgN c w
        let a := v.natAbs * 2 ^ p / 2 ^ w
        if v < 0 then -(a : Int) else a
      ⟨cs.map q, (b.s : Int) - 512 + w - p, false, false⟩
    else
      let fs := cs.map b.fmt.fields
      let emax := fs.foldl (fun a x => max a x.2.1) 0
      let q (x : Bool × Nat × Nat) : Int :=
        let a := x.2.2 * 2 ^ p / 2 ^ (2 + b.fmt.mbits + (emax - x.2.1))
        if x.1 then -(a : Int) else a
      ⟨fs.map q, (b.s : Int) - 512 + emax - b.fmt.bias - (p - 2), false, false⟩

/-- One step of a product (R48): the sum of a block pair converted once to F32 with RNE. A NaN block beside a zero block gives
the canonical NaN (log entry 82, DESIGN CHOICE: step 2 names both results). -/
def blockProduct (a b : Aligned) : Nat :=
  if a.nan || b.nan then FFmt.f32.nanCode
  else if a.zero || b.zero then 0
  else
    let s := (List.zipWith (· * ·) a.q b.q).foldl (· + ·) 0
    FFmt.f32.round .rne 0 (.fin (s < 0) s.natAbs (a.exp + b.exp))

/-- floor(log2 x) of a magnitude m × 2^e. -/
def magLog (m : Nat) (e : Int) : Int := (Nat.log2 m : Int) + e

/-- The code of one scaled element rounded to an element format (R46 step 4, R31): saturating, zero with sign 0. -/
def BlkFmt.encode (f : BlkFmt) (rm : RoundMode) (draw : Nat) (n : Bool) (m : Nat) (e : Int) : Nat :=
  if f.isInt then
    let top := 2 ^ (f.width - 1) - 1
    let k := min (roundMag rm n m e 0 draw) top
    if n && k != 0 then 2 ^ f.width - k else k
  else
    let q := max (magLog m e - f.mbits) (1 - f.bias - f.mbits)
    let k := roundMag rm n m e q draw
    let ef := (q + f.mbits + f.bias).toNat
    let c := min (ef * 2 ^ f.mbits + k - 2 ^ f.mbits) (2 ^ (f.width - 1) - 1)
    if n && c != 0 then 2 ^ (f.width - 1) + c else c

/-- The scale of R46 step 3 for the largest magnitude amax = m × 2^e. -/
def blkScale (f : BlkFmt) (m : Nat) (e : Int) : Nat := (max 1 (min 1022 (magLog m e - f.topExp + 512))).toNat

/-- The element codes and the generator after the draws of R30: one draw an element under RS. -/
def encodeElems (f : BlkFmt) (s : Nat) (rm : RoundMode) : List FVal → Word → List Nat
  | [], _ => []
  | x :: xs, g =>
    let (g, d) := drawIf rm g
    (match x with
     | .fin n m e => if m = 0 then 0 else f.encode rm d n m (e - ((s : Int) - 512))
     | _ => 0) :: encodeElems f s rm xs g

/-- A plane of element bits as a 32-bit word in a layout (R32, R35). -/
def planeWord (kquad : Bool) (bitOf : Nat → Bool) : Nat :=
  (List.range 32).foldl (fun a j => a + b2n (bitOf j) * 2 ^ blkPos kquad j) 0

/-- The token stream of a cW8 block's exponents. -/
def tokenStream (cb : Nat) (codes : List Nat) : List Bool := codes.flatMap (fun c => tokenBits cb (c / 8 % 16))

/-- Bits as 32-bit words, first bit lowest, padded with zeros (R37). -/
def streamWords (st : List Bool) : List Nat :=
  (List.range (ceilDiv st.length 32)).map (fun i =>
    (List.range 32).foldl (fun a j => a + b2n (st.getD (32 * i + j) false) * 2 ^ j) 0)

/-- The codebook of an automatic choice: the shortest stream, ties to the lower number (R46 step 5). -/
def autoBook (codes : List Nat) : Nat :=
  (List.range 4).foldl (fun b c => if (tokenStream c codes).length < (tokenStream b codes).length then c else b) 0

/-- encode_block (R46): the 32-bit words of the block that 32 values make. -/
def encodeBlock (v : List FVal) (f : BlkFmt) (cb : CbSel) (kquad : Bool) (rm : RoundMode) (g : Word) : List Nat :=
  let named := match cb with
    | .cb n => if f = .cw8 then n.toNat else 0
    | .auto => 0
  let hdr (s cb len : Nat) : Nat :=
    BlkHdr.toNat ⟨s, f.code, cb, b2n kquad, blkChk s f.code (b2n kquad) len, len⟩
  if v.any (·.isSpecial) then hdr 1023 named 0 :: List.replicate f.planes 0
  else
    let mags := v.map (fun x => match x with
      | .fin _ m e => (m, e)
      | _ => (0, 0))
    let big := mags.foldl (fun (a : Nat × Int) x =>
      if FVal.lt (.fin false a.1 a.2) (.fin false x.1 x.2) then x else a) (0, 0)
    if big.1 = 0 then hdr 0 named 0 :: List.replicate f.planes 0
    else
      let s := blkScale f big.1 big.2
      let codes := encodeElems f s rm v g
      let code (j : Nat) : Nat := codes.getD j 0
      let w := f.width
      if f = .cw8 then
        let book := match cb with
          | .cb n => n.toNat
          | .auto => autoBook codes
        let toks := streamWords (tokenStream book codes)
        hdr s book toks.length :: planeWord kquad (fun j => (code j).testBit 7)
          :: (List.range 3).map (fun p => planeWord kquad (fun j => (code j).testBit (2 - p))) ++ toks
      else
        let bitAt (p : Nat) : Nat :=
          if f.isInt then w - 1 - p else if p = 0 then w - 1 else if p ≤ f.mbits then f.mbits - p else w - 1 - (p - f.mbits)
        hdr s 0 0 :: (List.range w).map (fun p => planeWord kquad (fun j => (code j).testBit (bitAt p)))

/-- The formats that a window accepts (R39), by space code. -/
def windowAccepts (win : Nat) (f : BlkFmt) : Bool :=
  match win with
  | 9 | 10 | 12 => true
  | 11 => f.isInt
  | 13 => f = .w8 || f = .cw8
  | 14 => f = .w4 || f = .w3 || f = .i4 || f = .i3
  | 15 => f = .w6 || f = .i6
  | _ => false

/-- Container width c of a window (R39). -/
def windowWidth (win : Nat) : Nat :=
  match win with
  | 9 | 12 => 32
  | 10 => 16
  | 14 => 4
  | _ => 8

/-- Element j of a decoded block through a window other than aligned planes (R39). -/
def windowElem (win : Nat) (b : Blk) (j : Nat) : Nat :=
  match win with
  | 9 => FFmt.f32.round .rne 0 (b.values.getD j .nan)
  | 10 => FFmt.bf16.round .rne 0 (FFmt.f32.decode (FFmt.f32.round .rne 0 (b.values.getD j .nan)))
  | _ =>
    let c := match b.body with
      | .zero => 0
      | .nan => b.fmt.reserved
      | .codes cs => cs.getD j 0
    if win = 11 then wrapN (sgN c b.fmt.width) 8 else c

/-- A word of the aligned-planes window (R40), by its index p from the header. -/
def planesWord (b : Blk) (p : Nat) : Nat :=
  let a := b.align 16
  if p < 16 then (List.range 32).foldl (fun w j => w + b2n ((wrapN (a.q.getD j 0) 16).testBit (15 - p)) * 2 ^ j) 0
  else if p = 16 then wrapN a.exp 16 + b2n a.zero * 2 ^ 30 + b2n a.nan * 2 ^ 31
  else 0

end Sys2Proof
end

