-- ==== Sys2Proof/Machine/Access.lean ====
section
/-! DEFINITION. Reading and writing the parts of the state by their index: cores, lanes, clusters, dies, sectors,
partitions; registers with their hard-wired members (R49). -/

namespace Sys2Proof.Machine

/-- Core `c` (R6). -/
def State.core (s : State) (c : Nat) : Core := (Table.find s.cores c).getD (Core.reset c)

/-- The state with core `c` replaced. -/
def State.setCore (s : State) (c : Nat) (k : Core) : State := { s with cores := Table.put s.cores c k }

/-- Lane `l` of a core; lane numbers count modulo 4 (R6). -/
def Core.lane (k : Core) (l : Nat) : Lane := k.lanes[l % 4]'(Nat.mod_lt _ (by decide))

/-- The core with lane `l` replaced. -/
def Core.setLane (k : Core) (l : Nat) (x : Lane) : Core :=
  { k with lanes := k.lanes.set (l % 4) x (Nat.mod_lt _ (by decide)) }

/-- The lane that a reference names. -/
def State.laneAt (s : State) (r : LaneRef) : Lane := (s.core r.core).lane r.lane

/-- The state with the named lane replaced. -/
def State.setLaneAt (s : State) (r : LaneRef) (x : Lane) : State :=
  s.setCore r.core ((s.core r.core).setLane r.lane x)

/-- The issuing lane. -/
def State.lane (s : State) : Lane := s.laneAt s.cur

/-- The state with the issuing lane replaced. -/
def State.setLane (s : State) (x : Lane) : State := s.setLaneAt s.cur x

/-- The issuing core. -/
def State.myCore (s : State) : Core := s.core s.cur.core

/-- The state with the issuing core replaced. -/
def State.setMyCore (s : State) (k : Core) : State := s.setCore s.cur.core k

/-- The lane with the n-th register of R295 marked as written since its last save or load (R297), which ends an error in it (R330). -/
def Lane.mark (l : Lane) (n : Nat) : Lane :=
  { l with wrote := l.wrote ||| BitVec.twoPow 86 n, lost := l.lost.filter (fun k => k / 4 != n) }

/-- Scalar register n of a lane; s0 reads as zero (R49). -/
def Lane.s (l : Lane) (n : Reg) : Word := if n = 0 then 0 else l.sreg[n.toNat]'(n.isLt)

/-- The lane with scalar register n written; a write to s0 is discarded (R49). -/
def Lane.setS (l : Lane) (n : Reg) (v : Word) : Lane :=
  if n = 0 then l else { l.mark (n.toNat - 1) with sreg := l.sreg.set n.toNat v n.isLt }

/-- Vector register n of a lane (R49). -/
def Lane.v (l : Lane) (n : VReg) : VWord := l.vreg[n.toNat]'(n.isLt)

/-- The lane with vector register n written. -/
def Lane.setV (l : Lane) (n : VReg) (v : VWord) : Lane := { l.mark (31 + n.toNat) with vreg := l.vreg.set n.toNat v n.isLt }

/-- Mask register n of a lane; m0 reads as all ones (R49). -/
def Lane.m (l : Lane) (n : MReg) : BitVec 32 := if n = 0 then BitVec.allOnes 32 else l.mreg[n.toNat]'(n.isLt)

/-- The lane with mask register n written; a write to m0 is discarded (R49). -/
def Lane.setM (l : Lane) (n : MReg) (v : BitVec 32) : Lane :=
  if n = 0 then l else { l.mark (62 + n.toNat) with mreg := l.mreg.set n.toNat v n.isLt }

/-- Handle n of a lane (R50). -/
def Lane.h (l : Lane) (n : HReg) : Handle := l.hreg[n.toNat]'(n.isLt)

/-- The lane with handle n written. -/
def Lane.setH (l : Lane) (n : HReg) (v : Handle) : Lane := { l.mark (70 + n.toNat) with hreg := l.hreg.set n.toNat v n.isLt }

/-- Scalar register n of the issuing lane. -/
def State.s (s : State) (n : Reg) : Word := s.lane.s n

/-- Has a lane that waits been handed what it waits for: the result of its own matrix job (R157), its ids (R185), or its mailbox entry
(R176)? -/
def Lane.replied (l : Lane) : Bool :=
  match l.waitJob with
  | some (.reply ..) => true
  | _ => false

/-- The state with scalar register n of the issuing lane written. -/
def State.setS (s : State) (n : Reg) (v : Word) : State := s.setLane (s.lane.setS n v)

/-- The state with vector register n of the issuing lane written. -/
def State.setV (s : State) (n : VReg) (v : VWord) : State := s.setLane (s.lane.setV n v)

/-- The state with mask register n of the issuing lane written. -/
def State.setM (s : State) (n : MReg) (v : BitVec 32) : State := s.setLane (s.lane.setM n v)

/-- The issuing lane moves past an instruction of `len` bits, running (R59, R94): a stall that it ends is over (R54). -/
def Lane.advance (l : Lane) (len : Nat) : Lane :=
  { l with pc := l.pc + word len, run := .running, stall := 0, waiting := none, waitJob := none, dbgSkip := false }

/-- The issuing lane completes an instruction of `len` bits. -/
def State.advance (s : State) (len : Nat) : State := s.setLane (s.lane.advance len)

/-- The issuing lane completes a taken branch or jump (R94). -/
def Lane.jump (l : Lane) (target : Word) : Lane :=
  { l with pc := target, run := .running, stall := 0, waiting := none, waitJob := none, dbgSkip := false }

/-- The issuing lane completes with its pc at a target. -/
def State.jump (s : State) (target : Word) : State := s.setLane (s.lane.jump target)

/-- Cluster number of a core: X × 256 + Y (R6; the cluster of physical core c is c / 8). -/
def clusterOf (c : Nat) : Nat := c / 8

/-- Cluster `n`. -/
def State.cluster (s : State) (n : Nat) : Cluster := Table.get Cluster.reset s.clusters n

/-- The state with cluster `n` replaced. -/
def State.setCluster (s : State) (n : Nat) (k : Cluster) : State := { s with clusters := Table.put s.clusters n k }

/-- Residency slot `n` of a Brook (R182). -/
def Cluster.residAt (c : Cluster) (n : Nat) : Resid := c.resid[n % 16]'(Nat.mod_lt _ (by decide))

/-- The filler of residency slot `n` of a Brook (R182): the core and the id of its job. -/
def Cluster.fillerOf (c : Cluster) (n : Nat) : Option (Nat × BitVec 32) :=
  match c.residAt n with
  | .filling core id => some (core, id)
  | _ => none

/-- X of a core or cluster (R6). -/
def coreX (c : Nat) : Nat := c / 2048 % 512

/-- Y of a core (R6). -/
def coreY (c : Nat) : Nat := c / 8 % 256

/-- The die of a core: its compute stack S = sy × 8 + sx (R7), or the hub for the management core (R344). -/
def dieOf (c : Nat) : Nat :=
  if c ≥ Config.mgmtCore then Config.hubDie else (coreY c / 64) * 8 + coreX c / 64

/-- The sector number of a core (R318). -/
def sectorOf (c : Nat) : Nat := (coreX c / 8) * 32 + coreY c / 8

/-- Die `n`. -/
def State.die (s : State) (n : Nat) : Die := Table.get Die.reset s.dies n

/-- The state with die `n` replaced. -/
def State.setDie (s : State) (n : Nat) (d : Die) : State := { s with dies := Table.put s.dies n d }

/-- The issuing lane's die. -/
def State.myDie (s : State) : Nat := dieOf s.cur.core

/-- The DTC of the issuing lane's die (R3). -/
def State.dtc (s : State) : Word := (s.die s.myDie).dtc

/-- Sector `n`. -/
def State.sector (s : State) (n : Nat) : Sector := Table.get Sector.reset s.sectors n

/-- The state with sector `n` replaced. -/
def State.setSector (s : State) (n : Nat) (x : Sector) : State := { s with sectors := Table.put s.sectors n x }

/-- Memory stack `n`. -/
def State.memStack (s : State) (n : Nat) : Stack := Table.get Stack.reset s.memStacks n

/-- Partition entry `p` (R286). -/
def State.part (s : State) (p : Nat) : Part := Table.get Part.reset s.parts p

/-- The state with partition entry `p` replaced. -/
def State.setPart (s : State) (p : Nat) (x : Part) : State := { s with parts := Table.put s.parts p x }

/-- The power share of partition `p` (R319). -/
def State.share (s : State) (p : Nat) : Share := Table.get Share.reset s.shares p

/-- Link counters of a router and direction (R332), indexed as LINKSEL selects them. -/
def State.link (s : State) (n : Nat) : Link := Table.get Link.reset s.links n

/-- Delta settings of partition `p` (R332). -/
def State.deltaOf (s : State) (p : Nat) : Delta := Table.get Delta.reset s.delta p

/-- The Ethernet port `n` (R314). -/
def State.port (s : State) (n : Nat) : EthPort := Table.get EthPort.reset s.ports n

/-- Is the lane gated by its lane gate or its partition's slice gate (R293)? -/
def State.gated (s : State) (l : Lane) : Bool := l.gate || (l.ptag != 0 && (s.part l.ptag.toNat).pg)

/-- LANESTAT.STATE of a lane (R54): gating covers a debug stop, which covers the rest (log entry 12). -/
def State.stateCode (s : State) (l : Lane) : Nat :=
  if s.gated l then 4 else if l.dstop then 5 else
    match l.run with
    | .idle => 0
    | .running => 1
    | .stalled => 2
    | .parked => 3

/-- May the lane issue or take its messages: neither gated nor debug-stopped (R206)? -/
def State.free (s : State) (l : Lane) : Bool := !s.gated l && !l.dstop

/-- The number of a partition's count word adds `n`, modulo 2^64 (R286, R292). -/
def State.countDrop (s : State) (p n : Nat) : State :=
  s.setPart p { s.part p with drop := (s.part p).drop + word n }

/-- One uncorrectable error charged to partition `p` (R26, R100, R292). -/
def State.countErr (s : State) (p : Nat) : State :=
  s.setPart p { s.part p with err := (s.part p).err + 1 }

/-- DROPCNT of core `c` adds `n` (R58). -/
def State.countDropcnt (s : State) (c n : Nat) : State :=
  s.setCore c { s.core c with dropcnt := (s.core c).dropcnt + word n }

end Sys2Proof.Machine
end

