-- ==== Sys2Proof/Machine/Mesh.lean ====
section
/-! DEFINITION. The mesh (R7, R12, R13, R331): routers, links, the fixed paths of messages and accesses, and what a link that
retrains or retries a flit holds back. -/

namespace Sys2Proof.Machine

/-- The pseudo core that messages from the hub or another SL20 come from, and that hub launches are taken at. -/
def hubSource : Nat := Config.mgmtCore + 1

/-! The mesh (R12, R13, R331). -/

/-- The index of a link as LINKSEL selects it (R332). -/
def linkIndex (router dir : Nat) : Nat := router % 2 ^ 17 + dir % 4 * 2 ^ 17

/-- Has a router a link in a direction: not past the edge of the mesh, and across a boundary of compute stacks only in even rows
and columns (R12)? What joins the hub to column 0 counts as no mesh link (log entry 96). -/
def linkExists (router dir : Nat) : Bool :=
  let x := router / 256
  let y := router % 256
  router < 131072 && match dir with
    | 0 => x != 511 && (x % 64 != 63 || y % 2 == 0)
    | 1 => x != 0 && (x % 64 != 0 || y % 2 == 0)
    | 2 => y != 255 && (y % 64 != 63 || x % 2 == 0)
    | 3 => y != 0 && (y % 64 != 0 || x % 2 == 0)
    | _ => false

/-- The links of one step in X from a router: a step across a boundary of compute stacks from an odd row goes by the even row of
its pair (R12; log entry 55). -/
def stepX (x y : Nat) (up : Bool) : List Nat :=
  let dir := if up then 0 else 1
  let x' := if up then x + 1 else x - 1
  if linkExists (x * 256 + y) dir then [linkIndex (x * 256 + y) dir]
  else [linkIndex (x * 256 + y) 3, linkIndex (x * 256 + (y - 1)) dir, linkIndex (x' * 256 + (y - 1)) 2]

/-- The links of one step in Y. -/
def stepY (x y : Nat) (up : Bool) : List Nat :=
  let dir := if up then 2 else 3
  let y' := if up then y + 1 else y - 1
  if linkExists (x * 256 + y) dir then [linkIndex (x * 256 + y) dir]
  else [linkIndex (x * 256 + y) 1, linkIndex ((x - 1) * 256 + y) dir, linkIndex ((x - 1) * 256 + y') 0]

/-- The links on the path from a router to a router: X first, then Y (R13). -/
def meshPath (x y x' y' : Nat) : List Nat :=
  (List.range (x' - x)).flatMap (fun i => stepX (x + i) y true) ++
  (List.range (x - x')).flatMap (fun i => stepX (x - i) y false) ++
  (List.range (y' - y)).flatMap (fun i => stepY x' (y + i) true) ++
  (List.range (y - y')).flatMap (fun i => stepY x' (y - i) false)

/-- The router at which a unit joins the mesh: a core's own; for the Sluice of a sector the first of the sector; for the hub, one of
column 0 in the row of the other end (log entries 27 and 96). -/
def routerOf (c other : Nat) : Nat × Nat :=
  if c < Config.mgmtCore then (coreX c, coreY c)
  else if hubSource < c then ((c - hubSource - 1) / 32 * 8, (c - hubSource - 1) % 32 * 8)
  else (0, other)

/-- Is a unit the hub's: the management core, or the hub itself? -/
def onHub (c : Nat) : Bool := c == Config.mgmtCore || c == hubSource

/-- The links that a message crosses; between the hub and a core, those of the core's row (log entry 96). -/
def Flight.path (f : Flight) : List Nat :=
  if onHub f.src && onHub f.dest then []
  else
    let row (c : Nat) : Nat := (routerOf c 0).2
    let a := routerOf f.src (row f.dest)
    let b := routerOf f.dest (row f.src)
    meshPath a.1 a.2 b.1 b.2

/-- The router of the home of a physical byte address: its core's; for a memory stack the router at its edge in the first column
of its compute stack; none where the hub holds it (R7; log entry 96). -/
def homeRouter (pa : Nat) : Option (Nat × Nat) :=
  if pa < Config.hbmEnd then
    let n := pa / 2 ^ 37
    some (64 * (n % 8), if n < 8 then 0 else 255)
  else if Config.spadBase ≤ pa ∧ pa < Config.spadBase + 2 ^ 36 then
    let c := (pa - Config.spadBase) / 65536
    some (coreX c, coreY c)
  else none

/-- The links that an access of a core, or of the hub, crosses to a home. -/
def accessPath (core pa : Nat) : List Nat :=
  match homeRouter pa with
  | none => if onHub core then [] else meshPath (coreX core) (coreY core) 0 (coreY core)
  | some (x, y) => if onHub core then meshPath 0 y x y else meshPath (coreX core) (coreY core) x y

/-- The links that its answer crosses. -/
def answerPath (core pa : Nat) : List Nat :=
  match homeRouter pa with
  | none => if onHub core then [] else meshPath 0 (coreY core) (coreX core) (coreY core)
  | some (x, y) => if onHub core then meshPath x y 0 y else meshPath x y (coreX core) (coreY core)

/-- The links that a posted access crosses. -/
def Posted.path (q : Posted) : List Nat := accessPath q.who.core q.pa

/-- Does no link retrain, and none retry a flit? -/
def State.linksClear (s : State) : Bool := s.links.all (fun l => !l.2.down && l.2.fails == 0)

/-- Does a link carry nothing at all: it retrains, or is about to after 8 failures of one flit (R331)? -/
def Link.stopped (x : Link) : Bool := x.down || decide (8 ≤ x.fails)

/-- Does a link of a path hold back what would cross it: a stopped one, or one that retries a flit of something that crosses it
before, by a test (R12, R331)? -/
def State.heldOn (s : State) (path : List Nat) (earlier : Nat → Bool) : Bool :=
  !s.linksClear && path.any (fun n => (s.link n).stopped || ((s.link n).fails != 0 && earlier n))

/-- Has a message of the mesh a link still to cross: not one that has come to its destination's router (R201)? -/
def State.crosses (s : State) (n : Nat) (g : Flight) : Bool := g.path.contains n && !s.stuck.contains g

/-- Is the `j`-th message in the mesh held back by a link? -/
def State.linkWait (s : State) (j : Nat) (f : Flight) : Bool :=
  !s.stuck.contains f && s.heldOn f.path (fun n => (s.mesh.take j).any (s.crosses n))

/-- Does a message in the mesh, or one of some posted accesses, cross a link? -/
def State.carries (s : State) (qs : List Posted) (n : Nat) : Bool := s.mesh.any (s.crosses n) || qs.any (fun q => q.path.contains n)

/-- Is the `k`-th posted access in flight held back by a link? -/
def State.postWait (s : State) (k : Nat) (q : Posted) : Bool := s.heldOn q.path (s.carries (s.inflight.take k))

/-- Is an answered access of a core, on its way or on its answer's, held back by a link? -/
def State.accessWait (s : State) (core pa : Nat) : Bool :=
  s.heldOn (accessPath core pa ++ answerPath core pa) (s.carries s.inflight)

/-- What crossed a path has passed its links: the flit that one of them retried is through (R331). -/
def State.passLinks (s : State) (path : List Nat) : State :=
  if s.linksClear then s
  else { s with links := s.links.map (fun l => if !l.2.stopped && path.contains l.1 then (l.1, { l.2 with fails := 0 }) else l) }

/-- A link gets the flit that it retries across (R12, R331). -/
def State.passLink (s : State) (n : Nat) : State := s.passLinks [n]

end Sys2Proof.Machine
end

