-- ==== Sys2Proof/Machine/Homes.lean ====
section
/-! DEFINITION. Homes (R25, R26, R215): memory as bytes at physical byte addresses (R306), the partition control area,
tags, errors, merges, reductions, parked requests, and drops at foreign homes (R27 order 7). -/

namespace Sys2Proof.Machine

/-! Memory: bytes in rising address order, none equal to what an unlisted address reads as. -/

/-- What an address that memory does not list reads as (R350 clears memories at a start; log entry 5). -/
def Memory.unlisted : Byte := 0

/-- The byte at a physical byte address. -/
def Memory.byte (m : List Host.Cell) (a : Nat) : Byte := Table.get Memory.unlisted m a

/-- The memory with one byte written. -/
def Memory.setByte (m : List Host.Cell) (a : Nat) (b : Byte) : List Host.Cell := Table.setD Memory.unlisted m a b

/-- The canonical form: addresses strictly rising, and no byte equal to the unlisted one. -/
def Memory.wf (m : List Host.Cell) : Bool := Table.sorted m && m.all (fun c => c.2 != Memory.unlisted)

/-- The `n` bytes from an address up as a number, lower addresses less significant (R1). -/
def Memory.bytes (m : List Host.Cell) (a : Nat) : Nat → Nat
  | 0 => 0
  | n + 1 => (Memory.byte m a).toNat + 256 * Memory.bytes m (a + 1) n

/-- The memory with `n` bytes of a number written from an address up. -/
def Memory.setBytes (m : List Host.Cell) (a v : Nat) : Nat → List Host.Cell
  | 0 => m
  | n + 1 => Memory.setBytes (Memory.setByte m a (BitVec.ofNat 8 v)) (a + 1) (v / 256) n

/-- The 64-bit word at a physical byte address. -/
def Memory.word (m : List Host.Cell) (a : Nat) : Word := Machine.word (Memory.bytes m a 8)

/-- The memory with a 64-bit word written. -/
def Memory.setWord (m : List Host.Cell) (a : Nat) (v : Word) : List Host.Cell := Memory.setBytes m a v.toNat 8

/-- The homes of R25 and R306 by physical byte address. -/
inductive Home where
  | spad (core : Nat) | hbm | coh | control (off : Nat) | pcie | none
  deriving DecidableEq, Repr

/-- The home of a physical byte address (R306); the management core's own scratchpad counts as core 2^20. -/
def homeOf (pa : Nat) : Home :=
  if pa < Config.hbmEnd then .hbm
  else if pa < Config.cohBase + Config.globalOff then .coh
  else if pa < Config.cohBase + Config.cohBytes then .control (pa - Config.cohBase)
  else if Config.spadBase ≤ pa ∧ pa < Config.spadBase + 2 ^ 36 then .spad ((pa - Config.spadBase) / 65536)
  else if Config.pcieBase ≤ pa ∧ pa < Config.pcieEnd then .pcie
  else if Config.mgmtSpadBase ≤ pa ∧ pa < Config.mgmtSpadBase + 262144 then .spad Config.mgmtCore
  else .none

/-- The place whose accesses of one lane arrive in program order (R13, R99): a quad port, an HBM line, the hub SRAM, a
PCI Express port. -/
def pathOf (pa : Nat) : Nat :=
  match homeOf pa with
  | .spad c => Config.spadBase + c / 4
  | .hbm => pa / 64
  | .coh | .control _ => Config.cohBase
  | .pcie => Config.pcieBase + pa / 2 ^ 40
  | .none => Config.pcieEnd

/-- The word or line that an error makes unreadable (R25, R100). -/
def errKey (pa : Nat) : Nat := match homeOf pa with
  | .hbm => pa / 64 * 64
  | _ => pa

/-- The tag of a word (R25). -/
def State.tag (s : State) (pa : Nat) : BitVec 4 := Table.get 0 s.tags pa

/-- The state with a word's tag set; tag 0 is not listed. -/
def State.setTag (s : State) (pa : Nat) (t : BitVec 4) : State := { s with tags := Table.setD 0 s.tags pa t }

/-- A configuration's words of a partition entry (R286). -/
def PartCfg.word (c : PartCfg) (k : Nat) : Word :=
  match k with
  | 0 => Machine.word (b2n c.v + c.nr.toNat * 2 + c.supc.toNat * 256)
  | 2 => Machine.word (c.sid.toNat + c.ppn.toNat * 2 ^ 16 + b2n c.xv * 2 ^ 60)
  | 3 => Machine.word (c.wlo.toNat + c.wn.toNat * 2 ^ 16)
  | k => if 64 ≤ k ∧ k < 128 then Table.get 0 c.rects (k - 64) else 0

/-- A configuration with one of its words written (R286). -/
def PartCfg.setWord (c : PartCfg) (k : Nat) (x : Word) : PartCfg :=
  match k with
  | 0 => { c with v := bit x 0, nr := BitVec.ofNat 7 (bits x 7 1), supc := BitVec.ofNat 20 (bits x 27 8) }
  | 2 => { c with sid := BitVec.ofNat 16 (bits x 15 0), ppn := BitVec.ofNat 44 (bits x 59 16), xv := bit x 60 }
  | 3 => { c with wlo := BitVec.ofNat 14 (bits x 13 0), wn := BitVec.ofNat 15 (bits x 30 16) }
  | k => if 64 ≤ k ∧ k < 128 then { c with rects := Table.setD 0 c.rects (k - 64) x } else c

/-- A word of the partition control area, by byte offset in the coherent window (R286, R287, R303). -/
def State.ctlRead (s : State) (off : Nat) : Word :=
  if off < Config.entryOff then
    match (off - Config.globalOff) / 8 with
    | 0 => word (s.hub.xsid.toNat + b2n s.hub.xall * 2 ^ 16)
    | 1 => s.hub.xva
    | 2 => s.hub.xlen
    | 3 => word s.hub.xgen.toNat
    | 4 => word s.hub.msid.toNat
    | 5 => s.hub.mva
    | 6 => s.hub.mpte
    | 7 => s.hub.mold
    | 8 => s.hub.mnew
    | 9 => word s.hub.mstat.toNat
    | 10 => word s.hub.mgen.toNat
    | 12 => s.mgmt.key
    | _ => 0
  else
    let p := s.part ((off - Config.entryOff) / 1024)
    match (off - Config.entryOff) / 8 % 128 with
    | 1 => word (p.stat.toNat * 2 ^ 8 + p.gen.toNat * 2 ^ 32)
    | 4 => p.err
    | 5 => p.drop
    | 6 => p.stale
    | 7 => word (b2n p.pg + b2n p.pgd * 2)
    | k => p.cfg.word k

/-- A write of a word of the partition control area: GO, XGO and MGO are requests that the hub takes up in their own
steps, PG takes effect at once (R286, R287, R290, R293, R301, R303). -/
def State.ctlWrite (s : State) (off : Nat) (x : Word) : State :=
  if off < Config.entryOff then
    let h := s.hub
    match (off - Config.globalOff) / 8 with
    | 0 =>
      let h := { h with xsid := BitVec.ofNat 16 (bits x 15 0), xall := bit x 16 }
      { s with hub := if bit x 17 && h.xrun.isNone && !h.reqs.contains false then { h with reqs := h.reqs ++ [false] } else h }
    | 1 => { s with hub := { h with xva := x } }
    | 2 => { s with hub := { h with xlen := x } }
    | 4 =>
      let h := { h with msid := BitVec.ofNat 16 (bits x 15 0) }
      { s with hub := if bit x 16 then { h with reqs := h.reqs ++ [true] } else h }
    | 5 => { s with hub := { h with mva := x } }
    | 6 => { s with hub := { h with mpte := x } }
    | 7 => { s with hub := { h with mold := x } }
    | 8 => { s with hub := { h with mnew := x } }
    | _ => s
  else
    let n := (off - Config.entryOff) / 1024
    let p := s.part n
    match (off - Config.entryOff) / 8 % 128 with
    | 1 => if bit x 0 then { s with hub := { s.hub with gos := s.hub.gos ++ [n] } } else s
    | 4 => s.setPart n { p with err := x }
    | 5 => s.setPart n { p with drop := x }
    | 6 => s.setPart n { p with stale := x }
    | 7 => s.setPart n { p with pg := bit x 0, pgd := false, pgWait := true }
    | k => s.setPart n { p with cfg := p.cfg.setWord k x }

/-- The stored word at a home, as it stands, with no error effect: what a raw probe finds. -/
def State.peek (s : State) (pa : Nat) : Word :=
  match homeOf pa with
  | .control off => s.ctlRead off
  | .pcie => Config.pcieRead (s.turn * 2 ^ 64 + pa)
  | .none => 0
  | _ => Memory.word s.mem pa

/-- HBM frames that a write of partition `p` makes dirty (R341). -/
def State.markDirty (s : State) (pa p : Nat) : State :=
  match homeOf pa with
  | .hbm => if s.dirty.contains (p, pa / 4096) then s else { s with dirty := (p, pa / 4096) :: s.dirty }
  | _ => s

/-- A word of a scratchpad is written, by whatever party, since every lane of its quad was last saved or loaded (R295, R297). -/
def State.markWritten (s : State) (pa : Nat) : State :=
  match homeOf pa with
  | .spad _ => { s with written := Table.put s.written pa (BitVec.allOnes 16) }
  | _ => s

/-- A whole word as the unit of its home sets it, with its tag kept. -/
def State.setHome (s : State) (pa : Nat) (v : Word) (p : Nat) : State :=
  match homeOf pa with
  | .control off => s.ctlWrite off v
  | .pcie | .none => s
  | _ => { (s.markDirty pa p).markWritten pa with mem := Memory.setWord s.mem pa v }

/-- The bits of a word of the management mailbox that only the management core changes (R346): DONE, STATUS and RES. -/
def readOnlyBits (pa : Nat) : Word :=
  let off := pa - (Config.cohBase + Config.mboxOff)
  if pa < Config.cohBase + Config.mboxOff ∨ Config.cohBase + Config.globalOff ≤ pa then 0
  else if off = 8 then BitVec.allOnes 64
  else if 0x80 ≤ off ∧ off < 0x480 then
    if off % 64 = 0 then 0xFF0000 else if 32 ≤ off % 64 then BitVec.allOnes 64 else 0
  else 0

/-- A whole word stored at a home, with its tag kept (R26); the read-only bits of the mailbox stay (R346). -/
def State.poke (s : State) (pa : Nat) (v : Word) (p : Nat) : State :=
  if readOnlyBits pa = 0 then s.setHome pa v p
  else s.setHome pa ((s.peek pa &&& readOnlyBits pa) ||| (v &&& ~~~(readOnlyBits pa))) p

/-- A word or line gets a fresh code: no error of it is left (R26, R100, R330). -/
def State.freshCode (s : State) (pa : Nat) : State :=
  { s with corr := s.corr.filter (· != errKey pa), unc := s.unc.filter (· != errKey pa) }

/-- The zero rewrite of an uncorrectable word, or of the words of an uncorrectable line, with tag 0 (R100). -/
def State.zeroRewrite (s : State) (pa p : Nat) : State :=
  let s := s.freshCode pa
  match homeOf pa with
  | .hbm => (List.range 8).foldl (fun s i => s.setHome (errKey pa + 8 * i) 0 p) s
  | _ => (s.setHome pa 0 p).setTag pa 0

/-- ERRCNT.CORR of the home core of a scratchpad word adds 1 (R58, R330). -/
def State.countCorr (s : State) (pa : Nat) : State :=
  match homeOf pa with
  | .spad c => s.setCore c { s.core c with errCorr := (s.core c).errCorr + 1 }
  | _ => s

/-- A correctable error that a home meets is corrected, with a fresh code, and counted (R330). -/
def State.correct (s : State) (pa : Nat) : State :=
  if s.corr.contains (errKey pa) then (s.freshCode pa).countCorr pa else s

/-- ERRCNT.UNC of the home core of a scratchpad word adds 1 (R58, R100). -/
def State.countUnc (s : State) (pa : Nat) : State :=
  match homeOf pa with
  | .spad c => s.setCore c { s.core c with errUnc := (s.core c).errUnc + 1 }
  | _ => s

/-- One uncorrectable read is charged to the reading lane's task, saturating (R100, R247 W7.ERR). -/
def State.chargeTask (s : State) (r : LaneRef) : State :=
  let t := (s.laneAt r).task
  if t = 0 then s else
    let d := s.die (dieOf r.core)
    s.setDie (dieOf r.core) { d with tasks := d.tasks.map (fun x =>
      if x.id = t ∧ x.state = .running then { x with err := min (x.err + 1) 65535 } else x) }

/-- An uncorrectable error of a lane's own storage is counted (R330): ERRCNT.UNC of its core, ERR of its partition and W7.ERR of its
task. -/
def State.countLane (s : State) (r : LaneRef) : State :=
  let k := s.core r.core
  ((s.setCore r.core { k with errUnc := k.errUnc + 1 }).countErr (s.laneAt r).ptag.toNat).chargeTask r

/-- The 64-bit parts of registers that a test names, as `Lane.lost` numbers them, are read: each lost one reads as zero and is
counted (R330). -/
def State.meetLost (s : State) (r : LaneRef) (p : Nat → Bool) : State :=
  let l := s.laneAt r
  if l.lost.any p then
    (l.lost.filter p).foldl (fun s _ => s.countLane r) (s.setLaneAt r { l with lost := l.lost.filter (fun k => !p k) })
  else s

/-- A read at a home for partition `p` and a lane (R100, R215, R330): the word and its tag. A correctable error is
corrected and counted; an uncorrectable one gives zeros and tag 0, is rewritten, and is counted once. -/
def State.readHome (s : State) (pa p : Nat) (who : Option LaneRef) : State × Word × BitVec 4 :=
  if s.unc.contains (errKey pa) then
    let s := ((s.zeroRewrite pa p).countUnc pa).countErr p
    (match who with
     | some r => s.chargeTask r
     | none => s, 0, 0)
  else (s.correct pa, s.peek pa, s.tag pa)

/-- A masked merge at a home (R26). A store of the whole word, its home's unit outside HBM, reads nothing and counts nothing.
Any other meets the error of the old word or line: a correctable one is corrected and counted (R330); an uncorrectable one
merges into zeros and is counted in ERRCNT.UNC of the home core and in ERR of the partition (R26, R58, R100). The tag is
unchanged (log entry 13). -/
def State.merge (s : State) (pa : Nat) (m v : Word) (p : Nat) : State :=
  let old := s.peek pa
  if m = BitVec.allOnes 64 ∧ homeOf pa ≠ .hbm then (s.freshCode pa).poke pa v p
  else if s.unc.contains (errKey pa) then
    let t := s.tag pa
    ((((s.zeroRewrite pa p).countUnc pa).countErr p).poke pa (v &&& m) p).setTag pa t
  else (s.correct pa).poke pa ((old &&& ~~~m) ||| (v &&& m)) p

/-- HEAD and TAIL of a control word (R50). -/
def ctlHead (x : Word) : Nat := bits x 31 0
def ctlTail (x : Word) : Nat := bits x 63 32

/-- Filled slots of a control word (R50). -/
def ctlFilled (x : Word) : Nat := (ctlTail x + 2 ^ 32 - ctlHead x) % 2 ^ 32

/-- Does a parked request's condition hold for a word and its tag (R104, R130, R132, R134)? -/
def Park.holds (k : Park) (l : Lane) (x : Word) (t : BitVec 4) : Bool :=
  match k with
  | .ldf _ _ => t != 0
  | .ldw _ v => t == v
  | .ste _ => t == 0
  | .filled n | .stream n => n ≤ ctlFilled x
  | .free n m | .streamOut n m => n + ctlFilled x ≤ m
  | .ldh _ _ n => n + 1 ≤ ctlFilled x
  | .sth _ h n => n + 1 + ctlFilled x ≤ (l.h h).slots.toNat

/-- Does a request wait for a tag (R104), not for a control word (R130, R132, R134)? -/
def Park.onTag : Park → Bool
  | .ldf _ _ | .ldw _ _ | .ste _ => true
  | _ => false

/-- The home completes the request of lane `r` at word `pa`, of a kind that `ok` names, if its condition holds: the answer is
held for the lane, and a completed STE fills the word with tag 1 (R104, R106). -/
def State.tryRequest (s : State) (pa : Nat) (ok : Park → Bool) (r : LaneRef) : State :=
  let l := s.laneAt r
  match l.req with
  | none => s
  | some q =>
    if q.pa = pa ∧ q.phase = .held ∧ ok q.kind then
      let (s, x, t) := s.readHome pa l.ptag.toNat (some r)
      if q.kind.holds l x t then
        let s := match q.kind with
          | .ste d => (s.poke pa d l.ptag.toNat).setTag pa 1
          | _ => s
        s.setLaneAt r { s.laneAt r with req := some { q with phase := .answered x } }
      else s
    else s

/-- Is the request of lane `r` still parked? -/
def State.isHeld (s : State) (r : LaneRef) : Bool :=
  match (s.laneAt r).req with
  | some q => q.phase == .held
  | none => false

/-- One pass over the requests parked on a word, of the kinds that `ok` names, in their order of arrival. -/
def State.examine (s : State) (pa : Nat) (ok : Park → Bool) : State :=
  let s := s.parked.foldl (fun s r => s.tryRequest pa ok r) s
  { s with parked := s.parked.filter s.isHeld }

/-- Passes over the requests parked on a word until its tag stays: a completed STE changes the tag (R106). -/
def State.settleTag (s : State) (pa : Nat) : Nat → State
  | 0 => s
  | n + 1 =>
    let t := s.examine pa (fun _ => true)
    if t.tag pa = s.tag pa then t else t.settleTag pa n

/-- The home re-examines the requests parked on a word that a write has changed, whose tag was `old` before it (R106, R130):
those that wait for a tag only where the tag has changed, so that a lane parked on a word that an error emptied stays parked
until a later store sets a tag (R100). -/
def State.reexamine (s : State) (pa : Nat) (old : BitVec 4) : State :=
  if s.tag pa = old then s.examine pa (fun k => !k.onTag) else s.settleTag pa (s.parked.length + 1)

/-- A masked merge at a home, after which the requests parked on the word are re-examined (R26, R106, R215). -/
def State.storeAt (s : State) (pa : Nat) (m v : Word) (p : Nat) : State := (s.merge pa m v p).reexamine pa (s.tag pa)

/-- A whole line of HBM stored at its home: nothing is read, no error is counted, and the line has a fresh code (R26); the
requests parked on its words are re-examined (R130). -/
def State.mergeLine (s : State) (line : Nat) (ws : List Word) (p : Nat) : State :=
  let s := ws.zipIdx.foldl (fun s w => s.poke (line + 8 * w.2) w.1 p) (s.freshCode line)
  (List.range ws.length).foldl (fun s i => s.examine (line + 8 * i) (fun k => !k.onTag)) s

/-- The write-backs of a line that are under way reach its home, in their order. -/
def State.drainBacks (s : State) (line : Nat) : State :=
  (s.writeBacks.filter (fun b => b.line == line)).foldl (fun s b => s.mergeLine line b.words 0)
    { s with writeBacks := s.writeBacks.filter (fun b => b.line != line) }

/-- What the application cores' caches hold of a line beyond its home reaches the home, as for an access that is coherent with
them: the write-backs under way, and a changed copy (R299, R311). -/
def State.snoop (s : State) (pa : Nat) : State :=
  let line := pa / 64 * 64
  let s := s.drainBacks line
  match Table.find s.cache line with
  | some c => if c.dirty then { s with cache := Table.put s.cache line { c with dirty := false } }.mergeLine line c.words 0 else s
  | none => s

/-- The caches' copy of a line is gone, as a coherent write at its home takes it away. -/
def State.uncache (s : State) (pa : Nat) : State := { s with cache := Table.del s.cache (pa / 64 * 64) }

/-- A lane's request is withdrawn (R106). Its callers see to it that a request that its home has completed is answered
first. -/
def State.withdraw (s : State) (r : LaneRef) : State :=
  { s.setLaneAt r { s.laneAt r with req := none } with parked := s.parked.filter (· != r) }

/-- A message header (R198). -/
def mkHeader (dest ctx cls ptag len src : Nat) (ln hw mb : Bool) : Word :=
  word (dest % 2 ^ 20 + ctx % 4 * 2 ^ 20 + cls % 64 * 2 ^ 22 + ptag % 256 * 2 ^ 28 + len % 8 * 2 ^ 36
    + src % 2 ^ 20 * 2 ^ 39 + b2n ln * 2 ^ 59 + b2n hw * 2 ^ 60 + b2n mb * 2 ^ 61)

/-- A body padded with zeros behind a header to whole flits (R198). -/
def mkMsg (h : Word) (body : List Word) : Msg :=
  let f := ceilDiv (body.length + 1) 4
  h :: body ++ List.replicate (4 * f - 1 - body.length) 0

/-- A hardware message from core `src` to lane `ctx` of physical core `dest` enters the mesh (R173, R198). -/
def State.sendHw (s : State) (src dest ctx cls ptag : Nat) (body : List Word) : State :=
  let f := ceilDiv (body.length + 1) 4
  let h := mkHeader dest ctx cls ptag (f - 1) src false true false
  { s with mesh := s.mesh ++ [⟨src, none, dest, mkMsg h body⟩] }

/-- The four words of a notice record (R257). -/
def noticeWords (reason ptag task anchor code : Nat) (tick w2 w3 : Word) : List Word :=
  [word (reason % 256 + ptag % 256 * 2 ^ 8 + task % 65536 * 2 ^ 16 + anchor % 65536 * 2 ^ 32 + code % 65536 * 2 ^ 48),
    tick, w2, w3]

/-- A local notice to lane `r` itself (R213): it travels as a class-58 message of the lane's own core. -/
def State.postNotice (s : State) (r : LaneRef) (body : List Word) : State :=
  s.sendHw r.core r.core r.lane 58 (s.laneAt r).ptag.toNat body

/-- The DROP notice of R27 and R173 to lane `r`, with the address or header in EXTRA (R257). -/
def State.dropNotice (s : State) (r : LaneRef) (extra : Word) : State :=
  s.postNotice r (noticeWords 0x08 (s.laneAt r).ptag.toNat (s.laneAt r).task.toNat 0 0 (s.die (dieOf r.core)).dtc 0 extra)

/-- QTAG of the quad of a core (R291): the partition whose rectangles in force hold lane 0 of all four cores, else 0. -/
def rectNames (x : Word) (core lane : Nat) : Bool :=
  bit x 63 && decide (bits x 25 17 ≤ coreX core) && decide (coreX core ≤ bits x 25 17 + bits x 42 34) &&
  decide (bits x 33 26 ≤ coreY core) && decide (coreY core ≤ bits x 33 26 + bits x 50 43) &&
  bit x (51 + core % 8) && bit x (59 + lane)

/-- The rectangles in use of a configuration, 0 to NR − 1 (R288, R289). -/
def PartCfg.inUse (c : PartCfg) : List Word := (c.rects.filter (fun r => r.1 < c.nr.toNat)).map (·.2)

/-- Does partition `p` hold lane `lane` of a core by its rectangles in force (R288)? -/
def State.holds (s : State) (p core lane : Nat) : Bool :=
  (s.part p).live.v && (s.part p).live.inUse.any (fun r => rectNames r core lane)

def State.qtag (s : State) (core : Nat) : Nat :=
  let q := core / 4 * 4
  ((s.parts.map (·.1)).find? (fun p => p != 0 && (List.range 4).all (fun i => s.holds p (q + i) 0))).getD 0

/-- May an access of partition `p` reach the partition control area (R285): an ordinary 64-bit load or store, of tag 0, or a
supervisor's load of its own entry or of the global block? -/
def mayControl (p : Nat) (ordinary supRead : Bool) (off : Nat) : Bool :=
  ordinary && (p == 0 || (supRead && (decide (off < Config.entryOff) || (off - Config.entryOff) / 1024 == p)))

/-- Is an access of partition `p` to a checked home foreign (R285, R291)? `ordinary` marks an ordinary 64-bit load or store,
`supRead` a supervisor's read. -/
def State.foreign (s : State) (p : Nat) (ordinary supRead : Bool) (pa : Nat) : Bool :=
  match homeOf pa with
  | .spad c => p != 0 && !(p == s.qtag c || (List.range 4).any (fun l => s.holds p c l))
  | .coh =>
    let c := (s.part p).live
    let u := (pa - Config.cohBase) * 8 / 2 ^ 15
    p != 0 && !(decide (c.wlo.toNat ≤ u) && decide (u < c.wlo.toNat + c.wn.toNat))
  | .control off => !mayControl p ordinary supRead off
  | _ => false

/-- The reductions of R110 at width `w`. -/
def redOp (fn : RedFn) (old y w : Nat) : Nat :=
  match fn with
  | .add => (old + y) % 2 ^ w
  | .fadd => f32Add old y
  | .min => if sgN old w ≤ sgN y w then old else y
  | .max => if sgN old w ≤ sgN y w then y else old
  | .or => old ||| y

/-- The mask of `w` bits from bit `off` up. -/
def maskAt (off w : Nat) : Word := word (ones w * 2 ^ off)

/-- `w` bits of a number placed from bit `off` up. -/
def placeAt (off w x : Nat) : Word := word (x % 2 ^ w * 2 ^ off)

/-- A read-modify-write at a home as one step (R26, R110): the `w` bits at `off` are replaced by `f` of them; on an
uncorrectable word they read as 0. Answers the old bits. -/
def State.rmw (s : State) (pa off w p : Nat) (who : Option LaneRef) (f : Nat → Nat) : State × Nat :=
  let (s, x, _) := s.readHome pa p who
  let old := bits x (off + w - 1) off
  (s.merge pa (maskAt off w) (placeAt off w (f old)) p, old)

/-- A read-modify-write after which the requests parked on the word are re-examined (R106): an error that it finds empties the
word first, which completes no request (R100). -/
def State.rmwAt (s : State) (pa off w p : Nat) (who : Option LaneRef) (f : Nat → Nat) : State × Nat :=
  let s := (s.readHome pa p who).1
  let (t, old) := s.rmw pa off w p who f
  (t.reexamine pa (s.tag pa), old)

/-- A posted access takes effect at its home (R26, R104, R110), and the requests parked on the word are re-examined
(R106). RECLAIM, which reads nothing, leaves an error of the word to the next read (log entry 90, DEDUCED). -/
def State.land (s : State) (q : Posted) : State :=
  let p := q.ptag.toNat
  let old := s.tag q.pa
  match q.op with
  | .store m v => (s.merge q.pa m v p).reexamine q.pa old
  | .stv v t => ((s.merge q.pa (BitVec.allOnes 64) v p).setTag q.pa t).reexamine q.pa old
  | .reclaim => (s.setTag q.pa 0).reexamine q.pa old
  | .red fn off w y => (s.rmwAt q.pa off w p (some q.who) (fun old => redOp fn old (bits y (w - 1) 0) w)).1

/-- A dropped access is remembered for the notice of its instruction or job, which names the lowest dropped address (R27). -/
def addDropped (ds : List Dropped) (d : Dropped) : List Dropped :=
  match ds with
  | [] => [d]
  | x :: t =>
    if x.who = d.who ∧ x.writer = d.writer ∧ x.grp = d.grp then
      { x with addr := if d.addr.toNat < x.addr.toNat then d.addr else x.addr } :: t
    else x :: addDropped t d

/-- Is the job that a writer names still in its core's queue? -/
def State.jobOpen (s : State) (r : LaneRef) : Writer → Bool
  | .lane => false
  | .mjob id => (s.core r.core).mq.any (fun j => j.id == id)
  | .bjob id => (s.core r.core).bq.any (fun j => j.id == id)

/-- The notices of the instructions and jobs whose accesses have all been accepted or dropped (R27): a job's comes once the
job is over. -/
def State.settleDropped (s : State) : State :=
  let open_ (d : Dropped) : Bool := s.jobOpen d.who d.writer ||
    s.inflight.any (fun q => q.who == d.who && q.writer == d.writer && q.grp == d.grp)
  let done := s.dropped.filter (fun d => !open_ d)
  done.foldl (fun s d => s.dropNotice d.who d.addr) { s with dropped := s.dropped.filter open_ }

/-- An access is dropped at a foreign home: DROPCNT and DROP count it, and its notice is owed (R27 order 7, R292). -/
def State.dropAccess (s : State) (d : Dropped) : State :=
  let s := (s.countDropcnt d.who.core 1).countDrop d.ptag.toNat 1
  { s with dropped := addDropped s.dropped d }

/-- Is a posted access an ordinary 64-bit store of a lane (R285)? -/
def Posted.ordinary (q : Posted) : Bool :=
  q.writer == .lane && match q.op with
    | .store m _ => m == BitVec.allOnes 64
    | _ => false

/-- A posted access arrives at its home: it is dropped if the home is foreign (R27 order 7), else it takes effect. -/
def State.arrive (s : State) (q : Posted) : State :=
  if q.checked && s.foreign q.ptag.toNat q.ordinary false q.pa then s.dropAccess ⟨q.who, q.ptag, q.writer, q.grp, q.addr⟩
  else s.land q

/-- Must the first of two posted accesses, the earlier one, arrive first: of one lane or job on one path (R13, R99), or two
elements of one VST or VSCATTER (R123)? -/
def Posted.before (a b : Posted) : Bool :=
  a.who == b.who && a.writer == b.writer && (pathOf a.pa == pathOf b.pa || (a.inOrder && b.inOrder && a.grp == b.grp))

/-- The posted access at a place in flight arrives, unless one that must arrive before it is under way (R13, R99, R123, R218) or a
link holds it back (R331). -/
def State.arriveAt (s : State) (k : Nat) : State :=
  match s.inflight[k]? with
  | none => s
  | some q =>
    if (s.inflight.take k).any (fun x => x.before q) || s.postWait k q then s
    else (({ s.passLinks q.path with inflight := dropAt s.inflight k }).arrive q).settleDropped

/-- The posted accesses of a list, each marked if a test names it or one that must arrive after it is marked. -/
def needed (p : Posted → Bool) : List Posted → List (Posted × Bool)
  | [] => []
  | q :: t =>
    let rest := needed p t
    (q, p q || rest.any (fun x => x.2 && q.before x.1)) :: rest

/-- Marked accesses less those that a link holds back, and those that must arrive after one that stays. -/
def State.movable (s : State) (qs : List (Posted × Bool)) : List (Posted × Bool) :=
  (qs.zipIdx).foldl (fun done x =>
    let q := x.1.1
    done ++ [(q, x.1.2 && !s.postWait x.2 q && !done.any (fun y => !y.2 && y.1.before q))]) []

/-- The posted accesses in flight that a test names arrive, in their order, and with them those that must arrive before one of them
(R99, R102, R123); those that a link holds back stay (R331). -/
def State.drain (s : State) (p : Posted → Bool) : State :=
  let qs := needed p s.inflight
  let qs := if s.linksClear then qs else s.movable qs
  let go := (qs.filter (·.2)).map (·.1)
  let s := (go.foldl (fun s q => s.passLinks q.path) s)
  (go.foldl State.arrive { s with inflight := (qs.filter (fun x => !x.2)).map (·.1) }).settleDropped

/-- Does a link hold back a posted access of lane `r` to a path, so that an answered access to that path waits behind it (R99, R123,
R331)? -/
def State.behind (s : State) (r : LaneRef) (path : Nat) : Bool :=
  let mine (q : Posted) : Bool := q.who == r && q.writer == .lane && pathOf q.pa == path
  !s.linksClear && ((s.movable (needed mine s.inflight)).any (fun x => mine x.1 && !x.2))

/-- Other parties' posted accesses arrive before a home answers the word at a place (R43, R170, R217): which is free. -/
def State.meanwhile (s : State) (pa : Nat) : State := (Config.landing s.turn pa).foldl State.arriveAt s

/-- The posted accesses of one lane to one path arrive, so that an answered access finds them applied (R99). -/
def State.drainPath (s : State) (r : LaneRef) (path : Nat) : State :=
  s.drain (fun q => q.who == r && q.writer == .lane && pathOf q.pa == path)

/-- Every posted access of a lane is accepted (R102), but for those that a link holds back. -/
def State.drainLane (s : State) (r : LaneRef) : State := s.drain (fun q => q.who == r && q.writer == .lane)

/-- Are no posted accesses of lane `r` that a test of their writer names in flight? -/
def State.landed (s : State) (r : LaneRef) (ok : Writer → Bool) : Bool := !s.inflight.any (fun q => q.who == r && ok q.writer)

end Sys2Proof.Machine
end

