-- ==== Sys2Proof/Machine/Resolve.lean ====
section
/-! DEFINITION. From an address to its home: windows (R17 to R19), device registers (R21, R58, R324, R327, R332, R347), the
formats' windows (R39), the order of fates (R27), Sv57 translation (R299 to R303), and watchpoints (R334). -/

namespace Sys2Proof.Machine

/-- How an instruction ends other than by completing: in a trap taken at a state, or waiting with a STALL code (R54). -/
inductive Stop where
  | trap (s : State) (cause : BitVec 8) (val : Word)
  | wait (s : State) (stall : BitVec 4)
  deriving DecidableEq, Repr

/-- The trap causes of R193. -/
def Cause.illegal : BitVec 8 := 0x01
def Cause.reserved : BitVec 8 := 0x02
def Cause.privilege : BitVec 8 := 0x03
def Cause.alignment : BitVec 8 := 0x04
def Cause.address : BitVec 8 := 0x05
def Cause.pageLoad : BitVec 8 := 0x06
def Cause.pageStore : BitVec 8 := 0x07
def Cause.pageAmo : BitVec 8 := 0x08
def Cause.format : BitVec 8 := 0x09
def Cause.layout : BitVec 8 := 0x0A
def Cause.check : BitVec 8 := 0x0B
def Cause.promise : BitVec 8 := 0x0C
def Cause.spillLimit : BitVec 8 := 0x0D
def Cause.accspill : BitVec 8 := 0x0E
def Cause.redundant : BitVec 8 := 0x0F
def Cause.stream : BitVec 8 := 0x10
def Cause.handle : BitVec 8 := 0x11
def Cause.watchdog : BitVec 8 := 0x12
def Cause.software : BitVec 8 := 0x13
def Cause.breakpoint : BitVec 8 := 0x14
def Cause.debugStop : BitVec 8 := 0x15
def Cause.drop : BitVec 8 := 0x16
def Cause.notice : BitVec 8 := 0x17
def Cause.sectorThermal : BitVec 8 := 0x20
def Cause.stackThermal : BitVec 8 := 0x21
def Cause.railCurrent : BitVec 8 := 0x22
def Cause.coolant : BitVec 8 := 0x23

/-- The space of an address with its fields (R17, R18). -/
inductive Place where
  | trans
  | raw (off : Nat)
  | fmt (win off : Nat)
  | global (core off : Nat)
  | dev (off : Nat)
  | coh (off : Nat)
  deriving DecidableEq, Repr

/-- decode_window (R80): the space of an address, or none where rows 1 and 2 of R27 apply. -/
def decodeWindow (a : Word) : Option Place :=
  let n := bits a 62 59
  if !bit a 63 then if n = 0 then some .trans else none
  else if n = 0 then
    if bits a 38 19 = 0 then some (.global (bits a 58 50 * 2048 + bits a 49 42 * 8 + bits a 41 39) (bits a 18 0)) else none
  else if n = 1 then if bits a 58 16 = 0 then some (.dev (bits a 15 0)) else none
  else if n = 2 then if bits a 58 29 = 0 then some (.coh (bits a 28 0)) else none
  else if n < 8 then none
  else if bits a 58 21 ≠ 0 then none
  else if n = 8 then some (.raw (bits a 20 0)) else some (.fmt n (bits a 20 0))

/-- Is the place scratchpad: the local raw or the global window? -/
def Place.isSpad : Place → Bool
  | .raw _ | .global _ _ => true
  | _ => false

/-- The local raw window's byte address in the physical map for a core (R18, R306, R326). -/
def rawByte (core off : Nat) : Nat :=
  if core ≥ Config.mgmtCore then Config.mgmtSpadBase + off / 8
  else Config.spadBase + (core / 4 * 4 + off / 2 ^ 19) * 65536 + off % 2 ^ 19 / 8

/-- The physical byte address of an untranslated place (R306). -/
def Place.byteAddr (core : Nat) : Place → Nat
  | .raw off | .fmt _ off => rawByte core off
  | .global c off => Config.spadBase + c * 65536 + off / 8
  | .coh off => Config.cohBase + off / 8
  | _ => 0

/-! Device registers. -/

/-- The device registers of R58 and, at the management core, of R324, R327, R332 and R347. -/
inductive DevReg where
  | mcmdq | mresq | bcmdq | bresq | mbxstat | mbxhead | dtc | rxcnt (n : Nat) | dropcnt | errcnt
  | secsel | sectemp | seclim | throttle | partsel | pshare | pdraw | stksel | stkstat | memguar | railsel | railstat
  | alertstat | linksel | linkstat | dltsel | dltring | dltstat | msireq | bootstat | fwstat
  deriving DecidableEq, Repr

/-- The register assigned to a bit offset of a core's page (R21, R58). -/
def devRegAt (mgmt : Bool) (off : Nat) : Option DevReg :=
  match off / 64 with
  | 0 => some .mcmdq | 1 => some .mresq | 2 => some .bcmdq | 3 => some .bresq | 4 => some .mbxstat | 5 => some .mbxhead
  | 6 => some .dtc | 7 => some (.rxcnt 0) | 8 => some (.rxcnt 1) | 9 => some (.rxcnt 2) | 10 => some (.rxcnt 3)
  | 11 => some .dropcnt | 12 => some .errcnt
  | k =>
    if !mgmt then none else match k with
    | 0x40 => some .secsel | 0x41 => some .sectemp | 0x42 => some .seclim | 0x43 => some .throttle
    | 0x44 => some .partsel | 0x45 => some .pshare | 0x46 => some .pdraw | 0x47 => some .stksel
    | 0x48 => some .stkstat | 0x49 => some .memguar | 0x4A => some .railsel | 0x4B => some .railstat
    | 0x4C => some .alertstat | 0x4D => some .linksel | 0x4E => some .linkstat | 0x50 => some .dltsel
    | 0x51 => some .dltring | 0x52 => some .dltstat | 0x54 => some .msireq | 0x55 => some .bootstat | 0x56 => some .fwstat
    | _ => none

/-- Is it one of the four FIFOs, which take 64-bit accesses only (R58)? -/
def DevReg.isFifo : DevReg → Bool
  | .mcmdq | .mresq | .bcmdq | .bresq => true
  | _ => false

/-- Write-only registers (R58, R347). -/
def DevReg.isWO : DevReg → Bool
  | .mcmdq | .bcmdq | .msireq => true
  | _ => false

/-- Registers whose access is RO throughout (R58, R324, R347). -/
def DevReg.isRO : DevReg → Bool
  | .mresq | .bresq | .mbxstat | .mbxhead | .dtc | .sectemp | .pdraw | .stkstat | .railstat | .bootstat | .fwstat => true
  | _ => false

/-- Registers that only a privileged lane may store to (R58). -/
def DevReg.isS : DevReg → Bool
  | .dropcnt | .errcnt => true
  | _ => false

/-! Translation (R299 to R303). -/

/-- Does an access write, so that its leaf needs W and D (R299)? -/
def accWrites : Access → Bool
  | .store | .tstore | .amo | .red => true
  | _ => false

/-- The page cause of an access kind (R27 order 6). -/
def pageCause : Access → BitVec 8
  | .store | .tstore => Cause.pageStore
  | .amo | .red => Cause.pageAmo
  | _ => Cause.pageLoad

/-- Is a PTE a leaf? -/
def pteLeaf (x : Word) : Bool := bit x 1 || bit x 3

/-- May a leaf PTE serve a U-mode access (R299)? -/
def pteAllows (x : Word) (k : Access) : Bool :=
  bit x 4 && (if accWrites k then bit x 2 else bit x 1 && (k != Access.fetch || bit x 3))

/-- A PTE that no walk may use: V = 0, W without R, N = 1, PBMT ≠ 0 or a reserved bit (R299; log entry 14). -/
def pteBad (x : Word) : Bool :=
  !bit x 0 || (bit x 2 && !bit x 1) || bits x 63 54 != 0

/-- May a page table or a translated access lie at this physical byte address (R306)? -/
def physOk (pa : Nat) (table : Bool) : Bool :=
  match homeOf pa with
  | .hbm | .coh | .control _ => true
  | .pcie => !table
  | _ => false

/-- What a walk of page tables ends in (R299, R304): a leaf with its physical byte address and its level, no valid mapping,
or a PTE that a migration is about to replace. -/
inductive Walk where
  | leaf (x : Word) (at_ level : Nat)
  | fail
  | hold
  deriving DecidableEq, Repr

/-- Is the PTE at a physical byte address the one that the running migration replaces (R304)? -/
def State.migratingPte (s : State) (pa : Nat) : Bool :=
  match s.hub.mig with
  | some m => m.pte.toNat / 8 * 8 == pa
  | none => false

/-- Below a PTE that was read, where the walk goes: a leaf, a table of the next level, or neither (R299; log entry 14). -/
def pteNext (x : Word) : Option Bool :=
  if pteBad x then none else if pteLeaf x then some true else if bit x 4 || bit x 6 || bit x 7 then none else some false

/-- The physical byte address of the PTE of a level in the table at physical page `ppn`. -/
def pteByte (vb ppn l : Nat) : Nat := ppn * 4096 + vb / 2 ^ (12 + 9 * l) % 512 * 8

/-- A PTE read at its home, coherently with the application cores' caches (R299), where an unreadable one gives zeros, is rewritten
and counted (R100, R223, R292): none where no table may lie, `some none` where a migration holds the read (R304). -/
def State.readPte (s : State) (pa p : Nat) : State × Option (Option Word) :=
  if !physOk pa true then (s, none)
  else if s.migratingPte pa then (s, some none)
  else
    let (s, x, _) := (s.snoop pa).readHome pa p none
    (s, some (some x))

/-- The walk of Sv57 for partition `p` below a table at physical page `ppn`, from a level down (R299). -/
def State.walk (s : State) (vb p ppn : Nat) : Nat → State × Walk
  | 0 =>
    match s.readPte (pteByte vb ppn 0) p with
    | (s, none) => (s, .fail)
    | (s, some none) => (s, .hold)
    | (s, some (some x)) => (s, if pteNext x = some true then .leaf x (pteByte vb ppn 0) 0 else .fail)
  | l + 1 =>
    match s.readPte (pteByte vb ppn (l + 1)) p with
    | (s, none) => (s, .fail)
    | (s, some none) => (s, .hold)
    | (s, some (some x)) => match pteNext x with
      | none => (s, .fail)
      | some true => (s, .leaf x (pteByte vb ppn (l + 1)) (l + 1))
      | some false => s.walk vb p (bits x 53 10) l

/-- The physical byte address that a leaf of a level gives, or none for a misaligned superpage. -/
def leafAddr (x : Word) (l vb : Nat) : Option Nat :=
  let ppn := bits x 53 10
  if ppn % 2 ^ (9 * l) ≠ 0 then none else some (ppn * 4096 + vb % 2 ^ (12 + 9 * l))

/-- The outcome of a translation: a physical byte address, a failure, or a hold by a migration (R302, R303). -/
inductive Xres where
  | ok (pa : Nat)
  | fail
  | hold
  deriving DecidableEq, Repr

/-- Does a held translation cover a virtual byte address? -/
def Xlate.covers (x : Xlate) (die est sid vb : Nat) : Bool :=
  x.die == die && x.estuary == est && x.sid == sid && x.vpn == vb / 2 ^ (12 + 9 * x.level)

/-- An Estuary keeps a translation; a full one (8,192, R300) replaces one of its choice (log entry 8). -/
def State.keepXlate (s : State) (x : Xlate) : State :=
  let mine := s.estuary.filter (fun y => y.die == x.die && y.estuary == x.estuary)
  let others := s.estuary.filter (fun y => !(y.die == x.die && y.estuary == x.estuary))
  let mine := if 8192 ≤ mine.length then dropAt mine (Config.estuaryVictim s.turn % 8192) else mine
  { s with estuary := others ++ mine ++ [x] }

/-- Is the page of a virtual byte address being migrated for a space identifier (R303)? -/
def State.migrating (s : State) (sid vb : Nat) : Bool :=
  match s.hub.mig with
  | some m => m.sid == sid && bits m.va 58 15 == vb / 4096
  | none => false

/-- A translated request of partition `p` on a die: a held translation that allows it serves it; otherwise the tables are
walked at their homes, A and for a write D are set in the leaf, and the translation is kept (R299, R300). -/
def State.translate (s : State) (die p : Nat) (a : Word) (k : Access) : State × Xres :=
  let c := (s.part p).live
  let vb := bits a 58 3
  let sid := c.sid.toNat
  let est := bits a 19 15
  if p = 0 || !c.v || !c.xv then (s, .fail)
  else if s.migrating sid vb then (s, .hold)
  else
    match s.estuary.find? (fun x => x.covers die est sid vb) with
    | some x =>
      if pteAllows x.pte k && (!(accWrites k) || bit x.pte 7) then
        match leafAddr x.pte x.level vb with
        | some pa => (s, if physOk pa false then .ok pa else .fail)
        | none => (s, .fail)
      else walkNow s die est sid c.ppn.toNat p vb k
    | none => walkNow s die est sid c.ppn.toNat p vb k
where
  /-- A fresh walk. -/
  walkNow (s : State) (die est sid root p vb : Nat) (k : Access) : State × Xres :=
    match s.walk vb p root 4 with
    | (s, .fail) => (s, .fail)
    | (s, .hold) => (s, .hold)
    | (s, .leaf x at_ l) =>
      match leafAddr x l vb with
      | none => (s, .fail)
      | some pa =>
        if !pteAllows x k || !physOk pa false then (s, .fail)
        else
          let y := x ||| 0x40 ||| (if accWrites k then 0x80 else 0)
          let s := if y = x then s else (s.uncache at_).storeAt at_ (BitVec.allOnes 64) y p
          let s := { s with estuary := s.estuary.filter (fun z => !z.covers die est sid vb) }
          (s.keepXlate ⟨die, est, sid, l, vb / 2 ^ (12 + 9 * l), y⟩, .ok pa)

/-! Watchpoints (R334). -/

/-- Does a watchpoint watch the kind of an access? LDF, LDW and TAGRD are reads, STE a write, an AMO both. -/
def watchKind (r w : Bool) : Access → Bool
  | .load | .tload => r
  | .store | .tstore | .tagStep | .red => w
  | .amo => r || w
  | .fetch | .table => false

/-- The lowest address of an access that a watchpoint of the core matches for a lane. -/
def Debug.watch (d : Debug) (lane : Nat) (a : Word) (w : Nat) (k : Access) : Option Word :=
  let one (n : Nat) (ad : Word) : Option Nat :=
    if bit d.wpcfg (32 * n) && watchKind (bit d.wpcfg (32 * n + 1)) (bit d.wpcfg (32 * n + 2)) k &&
        bit d.wpcfg (32 * n + 4 + lane) then
      let lo := max a.toNat ad.toNat
      if lo < min (a.toNat + w) (ad.toNat + bits d.wpcfg (32 * n + 31) (32 * n + 16) + 1) then some lo else none
    else none
  match one 0 d.wp[0], one 1 d.wp[1] with
  | some x, some y => some (word (min x y))
  | some x, none => some (word x)
  | none, some y => some (word y)
  | none, none => none

/-! The fates of an access (R27). -/

/-- Where an access that passed its checks goes: its space, the physical byte address of its word, its first bit in the
word, and whether its home checks its owner (order 7). -/
structure Target where
  place : Place
  pa : Nat
  sh : Nat
  checked : Bool
  deriving DecidableEq, Repr

/-- Is the width a power of two up to 64? -/
def isPow2 (w : Nat) : Bool := w == 1 || w == 2 || w == 4 || w == 8 || w == 16 || w == 32 || w == 64

/-- The scalar alignment rule (R23). -/
def aligned (a : Word) (w : Nat) : Bool :=
  (!isPow2 w || a.toNat % w == 0) && decide (a.toNat % 64 + w ≤ 64)

/-- The shape of a format-window read (R39, R40). -/
def windowShape (win off w : Nat) : Bool :=
  let c := windowWidth win
  if win = 12 then w == 32
  else
    let m := w / c
    w % c == 0 && isPow2 m && m ≤ 32 && off % 32 % m == 0 && decide (off % 32 + m ≤ 32)

/-- Is the kind a tagged step (R104)? -/
def accTagged : Access → Bool
  | .tload | .tstore | .tagStep => true
  | _ => false

/-- Order 3 of R27. -/
def order3 (mgmt : Bool) (pl : Place) (k : Access) : Bool :=
  match pl with
  | .fmt _ _ => k != .load
  | .dev off =>
    (k == .amo || k == .red || k == .fetch || k == .table || accTagged k) ||
    match devRegAt mgmt off with
    | none => true
    | some r => if k == .load then r.isWO else r.isRO
  | .trans | .coh _ => accTagged k
  | _ => false

/-- Order 4 of R27: width and alignment. -/
def order4 (mgmt : Bool) (pl : Place) (a : Word) (w : Nat) (k : Access) : Bool :=
  match pl with
  | .fmt win off => !windowShape win off w
  | .dev off =>
    !((w == 32 || w == 64) && off % w == 0) ||
    match devRegAt mgmt off with
    | some r => r.isFifo && w == 32
    | none => false
  | _ =>
    if k == .amo || k == .red then !((w == 32 || w == 64) && a.toNat % w == 0)
    else if accTagged k then a.toNat % 64 != 0
    else !aligned a w

/-- The lane's partition tag as a number. -/
def Lane.part (l : Lane) : Nat := l.ptag.toNat

/-- Does a target lie in the core itself, where no link carries the access: a device register or a local window? -/
def Target.local (g : Target) : Bool :=
  match g.place with
  | .dev _ | .raw _ | .fmt _ _ => true
  | _ => false

/-- Lane `r` waits in an instruction whose access a page migration or a link holds on its way (R303, R331). -/
def State.holdAccess (s : State) (r : LaneRef) : State :=
  s.setLaneAt r { s.laneAt r with kept := { (s.laneAt r).kept with held := true } }

/-- Orders 1 to 6 of R27 for lane `r`; a request to a migrating page waits (R303). Translated space never meets order 7 (R27). -/
def State.resolve (s : State) (r : LaneRef) (a : Word) (w : Nat) (k : Access) : Except Stop (State × Target) :=
  let mgmt := decide (Config.mgmtCore ≤ r.core)
  let l := s.laneAt r
  match decodeWindow a with
  | none => .error (.trap s Cause.address a)
  | some pl =>
    if order3 mgmt pl k then .error (.trap s Cause.address a)
    else if order4 mgmt pl a w k then .error (.trap s Cause.alignment a)
    else match pl with
      | .dev off =>
        if (k == .store) && ((devRegAt mgmt off).map (·.isS)).getD false && !l.sup then
          .error (.trap s Cause.privilege a)
        else .ok (s, ⟨pl, 0, off % 64, false⟩)
      | .trans =>
        match s.translate (dieOf r.core) l.part a k with
        | (s, .ok b) => .ok (s, ⟨pl, b / 8 * 8, a.toNat % 64, false⟩)
        | (s, .fail) => .error (.trap s (pageCause k) a)
        | (s, .hold) => .error (.wait (s.holdAccess r) 6)
      | .global c off => .ok (s, ⟨pl, (Place.byteAddr r.core (.global c off)) / 8 * 8, a.toNat % 64, true⟩)
      | .coh off => .ok (s, ⟨pl, (Place.byteAddr r.core (.coh off)) / 8 * 8, a.toNat % 64, true⟩)
      | _ => .ok (s, ⟨pl, pl.byteAddr r.core / 8 * 8, a.toNat % 64, false⟩)

/-- The whole of R27 for lane `r`. A posted kind meets order 7 at its home; an answered access waits while a link on its way is
held (R331). -/
def State.fates (s : State) (r : LaneRef) (a : Word) (w : Nat) (k : Access) : Except Stop (State × Target) :=
  match s.resolve r a w k with
  | .error e => .error e
  | .ok (t, g) =>
    let posted := k == .store || k == .tstore || k == .red
    if !posted && g.checked && t.foreign (t.laneAt r).part (k == .load && w == 64) (t.laneAt r).sup g.pa then
      .error (.trap t Cause.drop a)
    else if posted || g.local then .ok (t, g)
    else if t.accessWait r.core g.pa || t.behind r (pathOf g.pa) then .error (.wait (t.holdAccess r) 6)
    else .ok (t.passLinks (accessPath r.core g.pa), g)

/-- The address of a watchpoint match of lane `r`, unless matches are suppressed (R334). -/
def State.watched (s : State) (r : LaneRef) (a : Word) (w : Nat) (k : Access) : Option Word :=
  if (s.laneAt r).dbgSkip then none else (s.core r.core).dbg.watch r.lane a w k

/-- check_access (R80) for lane `r`: R27, then the watchpoints (R334). -/
def State.checkAccess (s : State) (r : LaneRef) (a : Word) (w : Nat) (k : Access) : Except Stop (State × Target) :=
  match s.fates r a w k with
  | .error e => .error e
  | .ok (t, g) => match s.watched r a w k with
    | some x => .error (.trap t Cause.breakpoint x)
    | none => .ok (t, g)

/-- The word that an answered access finds at its home, with its tag: the lane's earlier posted accesses to that home have
arrived (R99), and errors are met as R100 says. -/
def State.homeWord (s : State) (r : LaneRef) (pa : Nat) : State × Word × BitVec 4 :=
  let s := s.drainPath r (pathOf pa)
  s.readHome pa (s.laneAt r).part (some r)

/-- A posted access leaves lane `r` (R99); a write to host memory waits on its port (R312). -/
def State.post (s : State) (r : LaneRef) (w : Writer) (grp : Nat) (a : Word) (t : Target) (op : WriteOp)
    (inOrder : Bool := false) : State :=
  let sid := (s.part (s.laneAt r).part).live.sid.toNat
  match homeOf t.pa with
  | .pcie =>
    match op with
    | .store m v => { s with pcieWrites := s.pcieWrites ++ [⟨r, t.pa, m, v, a, sid⟩] }
    | .red _ off n y => { s with pcieWrites := s.pcieWrites ++ [⟨r, t.pa, maskAt off n, placeAt off n y.toNat, a, sid⟩] }
    | _ => s
  | _ => { s with inflight := s.inflight ++ [⟨t.pa, op, r, (s.laneAt r).ptag, w, grp, a, sid, t.checked, inOrder⟩] }

/-! Blocks through the window of a core's quad (R39). -/

/-- The word at index `i` of the quad of a core, by its physical byte address. -/
def quadByte (core i : Nat) : Nat := rawByte core (64 * i)

/-- A word of a block is read at its home, single-copy atomically; other parties' writes may land before it (R43). A lane's
read finds the lane's own earlier stores applied (R99); a job's may miss the later ones (R170). -/
def State.readPart (s : State) (r : LaneRef) (own : Bool) (pa : Nat) : State × Word :=
  let s := s.meanwhile pa
  let s := if own then s.drainPath r (pathOf pa) else s
  let (s, x, _) := s.readHome pa (s.laneAt r).part (some r)
  (s, x)

/-- `n` words of a quad from index `i` up, each read once, in rising order of address (log entry 39): index and value. -/
def State.readQuad (s : State) (r : LaneRef) (own : Bool) (i : Nat) : Nat → State × List (Nat × Word)
  | 0 => (s, [])
  | n + 1 =>
    let (s, x) := s.readPart r own (quadByte r.core i)
    let (s, xs) := s.readQuad r own (i + 1) n
    (s, (i, x) :: xs)

/-- The 32-bit word at bit offset `h + 32 k` of a quad, from the words read of it. -/
def part32 (ws : List (Nat × Word)) (h k : Nat) : Nat :=
  let o := h + 32 * k
  bits (Table.get 0 ws (o / 64)) (o % 64 + 31) (o % 64)

/-- The size in bits of the block that the decoder reads behind a header that passes the checks before its body, else of the
header alone (R41). -/
def blockSpan (hdr h : Nat) : Nat :=
  let x := BlkHdr.ofNat hdr
  match blkFmtOf x.fmt with
  | some f =>
    if x.chk = blkChk x.s x.fmt x.layout x.len ∧ x.s ≠ 0 ∧ x.s ≠ 1023 ∧ blkBits f x.len ≤ 2 ^ 21 - h then blkBits f x.len else 32
  | none => 32

/-- The block at bit offset `h` of the quad of a lane's core is read, word by word, and decoded (R41, R43). -/
def State.readBlock (s : State) (r : LaneRef) (own : Bool) (h : Nat) (accepts : BlkFmt → Bool) (kquad : Bool) :
    State × Except DecFault (Blk × Nat) :=
  let (s, ws) := s.readQuad r own (h / 64) 1
  let last := (h + blockSpan (part32 ws h 0) h - 1) / 64
  let (s, more) := s.readQuad r own (h / 64 + 1) (last - h / 64)
  (s, decodeBlock (part32 (ws ++ more) h) accepts kquad (2 ^ 21 - h))

/-- A scalar read through a format window (R39 to R42): the element or plane bits, or the decoder's fate. -/
def State.windowRead (s : State) (r : LaneRef) (a : Word) (win off w : Nat) : Except Stop (State × Nat) :=
  let h := off / 32 * 32
  let j := off % 32
  match s.readBlock r true h (windowAccepts win) false with
  | (s, .error e) => .error (.trap s e.cause a)
  | (s, .ok (b, _)) =>
    if win = 12 then .ok (s, planesWord b j)
    else
      let c := windowWidth win
      let m := w / c
      .ok (s, (List.range m).foldl (fun x i => x + windowElem win b (j + i) * 2 ^ (c * i)) 0)

end Sys2Proof.Machine
end

