-- ==== Sys2Proof/Machine/Ops.lean ====
section
/-! DEFINITION. The operations that the meanings share: trace packets (R339, R340), the handler table (R203), taking a trap
and returning from one (R190 to R192, R335), stalls (R54), releases (R102, R171), answered and posted accesses (R99). -/

namespace Sys2Proof.Machine

/-! Trace (R339, R340). -/

/-- Base of a ring that a unit writes by itself, in the global scratchpad or the coherent window: its physical byte address
(R340, R275). -/
def ringByte (a : Word) : Option Nat :=
  match decodeWindow a with
  | some (.global c off) => some (Place.byteAddr 0 (.global c off))
  | some (.coh off) => some (Place.byteAddr 0 (.coh off))
  | _ => none

/-- An entry is written into a ring with the layout of a notice queue: entry TAIL mod 2^nsz, then TAIL + 1; false when the
ring is full (R213, R340, R342). The control word is read at its home (R100). -/
def State.ringPut (s : State) (base ctl nsz size : Nat) (ws : List Word) (p : Nat) : State × Bool :=
  let (s, x, _) := s.readHome ctl p none
  if ctlFilled x = 2 ^ nsz then (s, false)
  else
    let at_ := base + size / 8 * (ctlTail x % 2 ^ nsz)
    let s := (ws.zipIdx).foldl (fun s w => s.storeAt (at_ + 8 * w.2) (BitVec.allOnes 64) w.1 p) s
    (s.storeAt ctl (maskAt 32 32) (placeAt 32 32 (ctlTail x + 1)) p, true)

/-- A packet enters the encoder's buffer of 32; one that finds it full is dropped and counted (R340). -/
def Debug.emit (d : Debug) (p : Word × Word) : Debug :=
  if 32 ≤ d.packets.length then { d with tdrop := d.tdrop + 1 } else { d with packets := d.packets ++ [p] }

/-- Word 0 of a packet (R339): TICK, KIND, LANE and PHYS. -/
def packetHead (tick : Word) (kind lane core : Nat) : Word :=
  word (bits tick 35 0 + kind * 2 ^ 36 + lane * 2 ^ 40 + core % 2 ^ 20 * 2 ^ 44)

/-- The SYNC packets that are due enter the buffer, each with its tick at which DTC[31:0] was 0 (R339). -/
def Debug.emitSync (d : Debug) (core : Nat) : Debug :=
  d.syncDue.foldl (fun d t => d.emit (packetHead t 0 0 core, t)) { d with syncDue := [] }

/-- The packet ring of a module (R340): the base of its packets and its control word, by physical byte address. -/
def Debug.ring (d : Debug) : Option (Nat × Nat) :=
  match ringByte d.trcbase, ringByte (d.trcbase - 64) with
  | some b, some c => some (b, c)
  | _, _ => none

/-- The encoder's first packet is gone from the buffer: stored, or dropped and counted (R340). -/
def Debug.shift (d : Debug) (lost : Bool) : Debug :=
  { d with packets := d.packets.drop 1, stored := 0, tdrop := if lost then d.tdrop + 1 else d.tdrop }

/-- The encoder's next posted store is accepted (R340): a word of its first packet, or TAIL + 1 after both; a packet that finds
the ring full, or no ring, is dropped and counted. -/
def State.encoderStore (s : State) (core : Nat) : State :=
  let d := (s.core core).dbg
  let put (s : State) (d : Debug) : State := s.setCore core { s.core core with dbg := d }
  match d.packets, d.ring with
  | [], _ => s
  | _ :: _, none => put s (d.shift true)
  | p :: _, some (base, ctl) =>
    let (s, x, _) := s.readHome ctl 0 none
    let at_ := base + 16 * (ctlTail x % 2 ^ d.nsz.toNat)
    match d.stored with
    | 0 =>
      if ctlFilled x = 2 ^ d.nsz.toNat then put s (d.shift true)
      else (put s { d with stored := 1 }).storeAt at_ (BitVec.allOnes 64) p.1 0
    | 1 => (put s { d with stored := 2 }).storeAt (at_ + 8) (BitVec.allOnes 64) p.2 0
    | _ => (put s (d.shift false)).storeAt ctl (maskAt 32 32) (placeAt 32 32 (ctlTail x + 1)) 0

/-- The encoder of a core has its next `n` stores accepted. -/
def State.encoderStores (s : State) (core : Nat) : Nat → State
  | 0 => s
  | n + 1 => (s.encoderStore core).encoderStores core n

/-- The debug module emits a packet of a kind for lane `r` if it is traced (R339). -/
def State.trace (s : State) (r : LaneRef) (kind : Nat) (data : Word) : State :=
  let d := (s.core r.core).dbg
  if d.ten && (kind == 0 || kind == 7 || (d.tlm.toNat.testBit r.lane && d.tkind.toNat.testBit (kind - 1))) then
    let w0 := packetHead (s.die (dieOf r.core)).dtc kind r.lane r.core
    s.setCore r.core { s.core r.core with dbg := (d.emitSync r.core).emit (w0, data) }
  else s

/-! Reads that the lane makes for itself. -/

/-- An answered read of `w` bits by lane `r` (R99): through a format window the decoder's element (R39), else the bits at
the home. Device registers are the caller's. -/
def State.readBits (s : State) (r : LaneRef) (a : Word) (w : Nat) (k : Access) : Except Stop (State × Nat) :=
  match s.checkAccess r a w k with
  | .error e => .error e
  | .ok (s, t) =>
    match t.place with
    | .fmt win off => s.windowRead r a win off w
    | _ =>
      let (s, x, _) := s.homeWord r t.pa
      .ok (s, bits x (t.sh + w - 1) t.sh)

/-- Several 64-bit words from an address up, as answered reads. -/
def State.readWords (s : State) (r : LaneRef) (a : Word) (k : Access) : Nat → Except Stop (State × List Word)
  | 0 => .ok (s, [])
  | n + 1 =>
    match s.readBits r a 64 k with
    | .error e => .error e
    | .ok (s, x) =>
      match s.readWords r (a + 64) k n with
      | .error e => .error e
      | .ok (s, xs) => .ok (s, word x :: xs)

/-- Entry `n` of the handler table of lane `r`, one relaxed answered load (R203). -/
def State.tableEntry (s : State) (r : LaneRef) (n : Nat) : Except Stop (State × Word) :=
  match s.readBits r ((s.laneAt r).handlerbase + word (64 * n)) 64 .table with
  | .ok (s, x) => .ok (s, word x)
  | .error e => .error e

/-- Is a table entry valid: non-zero with bits 3:0 zero (R203)? -/
def entryValid (x : Word) : Bool := x != 0 && bits x 3 0 == 0

/-- The trap handler of a lane, if entry 0 is valid; a read that meets any fate counts as not valid (R190). -/
def State.trapHandler (s : State) (r : LaneRef) : State × Option Word :=
  match s.tableEntry r 0 with
  | .ok (s, x) => (s, if entryValid x then some x else none)
  | .error (.trap s _ _) => (s, none)
  | .error (.wait s _) => (s, none)

/-! Traps (R190, R191, R335). -/

/-- The deliveries of R193. -/
inductive Delivery where
  | h | p | d | m
  deriving DecidableEq, Repr

/-- The delivery of a cause (R193). -/
def delivery (c : BitVec 8) : Delivery :=
  if c = Cause.format ∨ c = Cause.layout ∨ c = Cause.check ∨ c = Cause.accspill ∨ c = Cause.redundant ∨ c = Cause.watchdog
  then .p
  else if c = Cause.breakpoint ∨ c = Cause.debugStop then .d
  else if 0x20 ≤ c.toNat ∧ c.toNat ≤ 0x23 then .m
  else .h

/-- Bits 3:0 of a program counter read as zero (R52, R59). -/
def parcelAlign (x : Word) : Word := x &&& ~~~(15 : Word)

/-- The body of a lane trap's fault report (R191), two flits. -/
def trapReport (c : BitVec 8) (v pc : Word) (r : LaneRef) : List Word :=
  [word (c.toNat * 2 ^ 32 + r.lane * 2 ^ 44 + 2 ^ 46), pc, v, word (clusterOf r.core % 2 ^ 17 + r.core % 8 * 2 ^ 25), 0, 0, 0]

/-- The core of lane `r` sends a fault report to lane 0 of its partition's supervisor core (R191). -/
def State.sendReport (s : State) (r : LaneRef) (body : List Word) : State :=
  let l := s.laneAt r
  s.sendHw r.core l.supc.toNat 0 59 l.part body

/-- The lane stops at the debug module (R335): the cause, value and pc go to DCAUSE, DVAL and DPC. -/
def State.debugHalt (s : State) (r : LaneRef) (c : BitVec 8) (v pc : Word) : State :=
  let k := s.core r.core
  let i := r.lane % 4
  let d := k.dbg
  let d := { d with
    dpc := d.dpc.set i (parcelAlign pc) (Nat.mod_lt _ (by decide))
    dcause := d.dcause.set i c (Nat.mod_lt _ (by decide))
    dval := d.dval.set i v (Nat.mod_lt _ (by decide)) }
  let l := k.lane r.lane
  let l := { l with dstop := true, stall := 0, waiting := none, waitJob := none, dbgSkip := false, dbgStep := false,
                    run := if l.run = .stalled then .running else l.run }
  (s.setCore r.core ({ k with dbg := d }.setLane r.lane l)).trace r 6 (parcelAlign pc)

/-- The trap registers of a lane (R80). -/
def Lane.trapRegs (l : Lane) (c : BitVec 8) (v pc tick : Word) : Lane :=
  { l with trapcause := c, trapval := v, trappc := parcelAlign pc, traptick := tick, stall := 0, waiting := none, waitJob := none, dbgSkip := false,
           trapWait := false }

/-- A lane parks with the trap that its registers hold, and its core reports it (R191). -/
def State.parkTrap (s : State) (r : LaneRef) (l : Lane) : State :=
  (s.setLaneAt r { l with run := .parked, stall := 0, trapWait := false }).sendReport r
    (trapReport l.trapcause l.trapval l.trappc r)

/-- Does a page migration hold the read of entry 0 of a lane's handler table (R303)? -/
def State.handlerHeld (s : State) (r : LaneRef) : Bool :=
  match s.tableEntry r 0 with
  | .error (.wait _ _) => true
  | _ => false

/-- The end of a trap's delivery (R190): the handler where entry 0 is valid, else parking with a fault report; where a
migration holds the read of entry 0, the lane waits for it. -/
def State.enterHandler (s : State) (r : LaneRef) (l : Lane) : State :=
  if s.handlerHeld r then s.setLaneAt r { l with run := .stalled, stall := 6, trapWait := true }
  else match s.trapHandler r with
    | (s, some e) => s.setLaneAt r { l with run := .running, stall := 0, intrap := true, pc := e, trapWait := false }
    | (s, none) => s.parkTrap r l

/-- A lane takes a trap at a pc (R80, R190): its parked request is withdrawn; then debug stop, handler, or parking with a
fault report. -/
def State.takeTrapAt (s : State) (r : LaneRef) (c : BitVec 8) (v pc : Word) : State :=
  let s := s.withdraw r
  if delivery c = .d && (s.core r.core).dbg.arm.toNat.testBit r.lane then s.debugHalt r c v pc
  else
    let s := s.trace r 4 (word (c.toNat + bits pc 63 12 * 2 ^ 8))
    let l := (s.laneAt r).trapRegs c v pc (s.die (dieOf r.core)).dtc
    if delivery c = .p || l.intrap then s.parkTrap r l else s.enterHandler r l

/-- The issuing lane takes a trap at its own instruction (R80). -/
def State.takeTrap (s : State) (c : BitVec 8) (v : Word) : State := s.takeTrapAt s.cur c v s.lane.pc

/-- The issuing lane stalls in an instruction with a STALL code (R54, R79). -/
def State.stallOn (s : State) (i : Instr) (c : BitVec 4) : State :=
  s.setLane { s.lane with run := .stalled, stall := c, waiting := some i }

/-- How an instruction's result becomes the outcome of a step: completed, trapped, or waiting in `i`. -/
def finish (i : Instr) : Except Stop State → Host.Outcome State Fault Refusal
  | .ok s => .next s
  | .error (.trap s c v) => .next (s.takeTrap c v)
  | .error (.wait s c) => .next (s.stallOn i c)

/-- TRET of the issuing lane (R192, R334): pc := TRAPPC, INTRAP := 0; SPV is cleared after the re-executed instruction. -/
def State.trapReturn (s : State) : State :=
  let l := s.lane
  let j := l.jump l.trappc
  s.setLane { j with intrap := false, spvEnd := l.spv, dbgSkip := l.trapcause == Cause.breakpoint }

/-! Branches. -/

/-- A taken branch, jump or LOOP to a target, with its trace packet (R94, R339). -/
def State.branchTo (s : State) (target : Word) : State := (s.jump target).trace s.cur 3 target

/-! Releases (R102, R171). -/

/-- May an unfinished matrix job of a lane still store (R148, R171)? BIND always; others where a spill area exists (log
entry 17). -/
def mayStore (l : Lane) (j : MJob) : Bool :=
  match j.op with
  | .bind _ _ _ _ => true
  | _ => l.accspill != 0

/-- Has lane `r` an unfinished matrix job that may store? -/
def State.jobMayStore (s : State) (r : LaneRef) : Bool :=
  (s.core r.core).mq.any (fun j => j.lane == r.lane && mayStore (s.laneAt r) j)

/-- release(sc) of lane `r` (R102, R171): above .lane it waits for the lane's posted accesses and its jobs' stores; at .sys
also for its writes to host memory (R312). -/
def State.release (s : State) (r : LaneRef) (sc : Scope) : Except Stop State :=
  if sc = .lane then .ok s
  else
    let s := s.drain (fun q => q.who == r && (match q.writer with
      | .bjob _ => false
      | _ => true))
    if s.jobMayStore r || !s.landed r (fun w => match w with
        | .bjob _ => false
        | _ => true) then .error (.wait s 6)
    else if sc = .sys && s.pcieWrites.any (fun w => w.who == r) then .error (.wait s 6)
    else .ok s

/-- The release of an optional ordering. -/
def State.releaseOpt (s : State) (r : LaneRef) : Option Scope → Except Stop State
  | none => .ok s
  | some sc => s.release r sc

/-! Stores. -/

/-- The masked merge of `w` bits at a checked target, posted (R26, R80 merge_at_home). -/
def State.postStore (s : State) (r : LaneRef) (w : Writer) (grp : Nat) (a : Word) (t : Target) (n x : Nat) : State :=
  s.post r w grp a t (.store (maskAt t.sh n) (placeAt t.sh n x))

/-- One posted store of `n` bits: the checks of R27, then the merge. -/
def State.storeBits (s : State) (r : LaneRef) (a : Word) (n x : Nat) : Except Stop State :=
  match s.checkAccess r a n .store with
  | .error e => .error e
  | .ok (s, t) => .ok (s.postStore r .lane s.turn a t n x)

end Sys2Proof.Machine
end

