-- ==== Sys2Proof/Machine/Operands.lean ====
section
/-! DEFINITION. Operand forms: the widths of the M form (R65), compact register names (R61, R67), rounding modes (R63), and the
elements of vector registers in a view (R49, R115, R124). -/

namespace Sys2Proof.Machine

/-- Access width of an M-format w field (R65). -/
def mWidth (w : BitVec 5) : Nat :=
  if w.toNat ≤ 23 then w.toNat + 1
  else match w.toNat with
    | 24 => 28 | 25 => 32 | 26 => 36 | 27 => 40 | 28 => 44 | 29 => 48 | 30 => 56 | _ => 64

/-- Address of an M-form access: s[base] + sext(off11) × width (R65). -/
def mAddr (base : Word) (off : BitVec 11) (width : Nat) : Word := base + sextImm off * word width

/-- The scalar s8–s15 that a 3-bit compact field names (R67). -/
def cReg (n : BitVec 3) : Reg := BitVec.ofNat 5 (8 + n.toNat)

/-- Address of a compact memory form: s[base] + 64 × off5 (R68). -/
def cAddr (base : Word) (off : BitVec 5) : Word := base + word (64 * off.toNat)

/-- The target of a parcel offset (R59, R94). -/
def parcelTarget {n : Nat} (pc : Word) (off : BitVec n) : Word := pc + sextImm off * 16

/-- Element width of a view in bits (R49). -/
def viewBits : View → Nat
  | .e8 => 8 | .e16 => 16 | .e32 => 32

/-- The view of a typed operation (R63). -/
def tyView : VTy → View
  | .i8 => .e8 | .i16 | .bf16 => .e16 | .i32 | .f32 => .e32

/-- The float format of a typed operation, none for integers (R115). -/
def tyFloat : VTy → Option FFmt
  | .bf16 => some .bf16 | .f32 => some .f32 | _ => none

/-- Element `i` of the `e`-bit view (R49). -/
def vget (x : VWord) (e i : Nat) : Nat := x.toNat / 2 ^ (e * i) % 2 ^ e

/-- A vector from a function of the element number in the `e`-bit view. -/
def vmake (e : Nat) (f : Nat → Nat) : VWord :=
  BitVec.ofNat 256 ((List.range (256 / e)).foldl (fun a i => a + f i % 2 ^ e * 2 ^ (e * i)) 0)

/-- A masked result: active elements from `f`, the others from `old` (R115). -/
def vmerge (e : Nat) (m : BitVec 32) (old : VWord) (f : Nat → Nat) : VWord :=
  vmake e (fun i => if m.toNat.testBit i then f i else vget old e i)

/-- A mask with the first `n` bits set. -/
def maskFirst (n : Nat) : BitVec 32 := BitVec.ofNat 32 (ones n)

/-- The rounding mode of an RM field (R63). -/
def Lane.rm (l : Lane) : RmField → RoundMode
  | .fixed m => m
  | .dyn => l.rmode

/-- The code of a rounding mode (R30). -/
def rmCode : RoundMode → Nat
  | .rne => 0 | .rtz => 1 | .rup => 2 | .rdn => 3 | .rs => 4

/-- The rounding mode of a code, if it is not reserved (R30). -/
def rmOfCode : Nat → Option RoundMode
  | 0 => some .rne | 1 => some .rtz | 2 => some .rup | 3 => some .rdn | 4 => some .rs | _ => none

/-- Bits of an element type (R124). -/
def elemBits : ElemTy → Nat
  | .i8 => 8 | .i16 | .f16 | .bf16 => 16 | .i32 | .n32 | .f32 => 32

/-- Registers that 32 elements of a type occupy (R124). -/
def elemRegs (t : ElemTy) : Nat := elemBits t / 8

/-- The float format of an element type. -/
def elemFloat : ElemTy → Option FFmt
  | .f16 => some .f16 | .bf16 => some .bf16 | .f32 => some .f32 | _ => none

/-- The value of an element code of a type (R28, R29). -/
def elemVal (t : ElemTy) (c : Nat) : FVal :=
  match elemFloat t with
  | some f => f.decode c
  | none => if t = .n32 then .fin false (c % 2 ^ 32) 0 else FVal.ofInt (sgN c (elemBits t))

/-- An integer saturated to an integer element type, as its code (R125). -/
def elemSat (t : ElemTy) (x : Int) : Nat :=
  let w := elemBits t
  let lo : Int := if t = .n32 then 0 else -(2 ^ (w - 1))
  let hi : Int := if t = .n32 then 2 ^ 32 - 1 else 2 ^ (w - 1) - 1
  wrapN (max lo (min hi x)) w

/-- Element conversion (R125): a value to a type in a mode; `draw` is used under RS. -/
def convert (t : ElemTy) (rm : RoundMode) (draw : Nat) (x : FVal) : Nat :=
  match elemFloat t with
  | some f => f.round rm draw x
  | none =>
    match x with
    | .nan => 0
    | .inf n => elemSat t (if n then -(2 ^ 40) else 2 ^ 40)
    | _ => elemSat t (x.toInt rm draw)

/-- A register number `k` after a vector register. -/
def vregAt (v : VReg) (k : Nat) : VReg := BitVec.ofNat 5 (v.toNat + k)

/-- The registers `v` to `v + n - 1`. -/
def vregRange (v : VReg) (n : Nat) : List VReg := (List.range n).map (vregAt v)

/-- Element `j` of the 32 elements of a type that consecutive registers hold (R124, R126). -/
def elemOf (rd : VReg → VWord) (v : VReg) (t : ElemTy) (j : Nat) : Nat :=
  let e := elemBits t
  let per := 256 / e
  vget (rd (vregAt v (j / per))) e (j % per)

/-- Consecutive register values from 32 element codes of a type. -/
def elemPack (v : VReg) (t : ElemTy) (c : Nat → Nat) : List (VReg × VWord) :=
  let e := elemBits t
  let per := 256 / e
  (List.range (elemRegs t)).map (fun k => (vregAt v k, vmake e (fun i => c (k * per + i))))

end Sys2Proof.Machine
end

