-- ==== Sys2Proof/Machine/Flags.lean ====
section
/-! DEFINITION. Conditions and status. Nelnan has no flags register: branches compare registers (R94), vector compares write
masks (R119), and a lane's status is LANESTAT (R54), with the map that gives COREID.LOG (R289). -/

namespace Sys2Proof.Machine

/-- The six branch conditions (R94). -/
inductive BCond where
  | eq | ne | lt | ge | ltu | geu
  deriving DecidableEq, Repr

/-- Does a branch condition hold (R94)? -/
def BCond.holds (c : BCond) (x y : Word) : Bool :=
  match c with
  | .eq => x == y
  | .ne => x != y
  | .lt => x.slt y
  | .ge => !x.slt y
  | .ltu => x.ult y
  | .geu => !x.ult y

/-- Does a vector compare hold for two elements of a type (R119)? -/
def vcmpHolds (c : VCond) (ty : VTy) (x y : Nat) : Bool :=
  match tyFloat ty with
  | some f =>
    let a := f.decode x
    let b := f.decode y
    match c with
    | .eq => a.eqv b
    | .lt => a.lt b
    | .le => a.lt b || a.eqv b
    | .ltu => false
  | none =>
    let e := viewBits (tyView ty)
    match c with
    | .eq => x == y
    | .lt => decide (sgN x e < sgN y e)
    | .le => decide (sgN x e ≤ sgN y e)
    | .ltu => decide (x < y)

/-- LANESTAT of a lane (R54). -/
def State.laneStat (s : State) (r : LaneRef) : Word :=
  let l := s.laneAt r
  word (b2n l.sup + s.stateCode l * 2 + b2n l.intrap * 2 ^ 4 + b2n l.abandon * 2 ^ 5 + l.spx.toNat * 2 ^ 8
    + b2n l.spv * 2 ^ 13 + l.stall.toNat * 2 ^ 16 + r.lane % 4 * 2 ^ 24 + l.task.toNat * 2 ^ 32)

/-- The fields of a rectangle (R288). -/
structure Rect where
  lx : Nat
  ly : Nat
  px : Nat
  py : Nat
  w : Nat
  h : Nat
  cm : Nat
  lm : Nat
  v : Bool
  deriving DecidableEq, Repr

/-- A rectangle from its word (R288). -/
def Rect.ofWord (x : Word) : Rect :=
  ⟨bits x 8 0, bits x 16 9, bits x 25 17, bits x 33 26, bits x 42 34, bits x 50 43, bits x 58 51, bits x 62 59, bit x 63⟩

/-- Is a rectangle invalid (R288)? -/
def Rect.invalid (r : Rect) : Bool :=
  decide (511 < r.px + r.w) || decide (255 < r.py + r.h) || decide (511 < r.lx + r.w) || decide (255 < r.ly + r.h) ||
  r.cm == 0 || r.lm == 0

/-- Does a rectangle cover a logical core (R289)? -/
def Rect.covers (r : Rect) (c : Nat) : Bool :=
  r.v && decide (r.lx ≤ coreX c) && decide (coreX c ≤ r.lx + r.w) && decide (r.ly ≤ coreY c) && decide (coreY c ≤ r.ly + r.h)
  && r.cm.testBit (c % 8)

/-- The physical core of a covered logical core (R289). -/
def Rect.toPhys (r : Rect) (c : Nat) : Nat := (r.px + coreX c - r.lx) * 2048 + (r.py + coreY c - r.ly) * 8 + c % 8

/-- The logical core of a physical core that a rectangle holds. -/
def Rect.toLog (r : Rect) (c : Nat) : Nat := (r.lx + coreX c - r.px) * 2048 + (r.ly + coreY c - r.py) * 8 + c % 8

/-- The map of partition `p` for a logical core and, where a lane is named, its LM bit (R289); tag 0 maps by identity. -/
def State.mapCore (s : State) (p c : Nat) (lane : Option Nat) : Option Nat :=
  if p = 0 then some c
  else if !(s.part p).live.v then none
  else match ((s.part p).live.inUse.map Rect.ofWord).find? (fun r => r.covers c) with
    | none => none
    | some r => match lane with
      | some l => if r.lm.testBit l then some (r.toPhys c) else none
      | none => some (r.toPhys c)

/-- COREID.LOG of lane `r` (R289). -/
def State.logical (s : State) (r : LaneRef) : Nat :=
  let p := (s.laneAt r).part
  if p = 0 || !(s.part p).live.v then r.core
  else match (s.part p).live.inUse.find? (fun x => rectNames x r.core r.lane) with
    | some x => (Rect.ofWord x).toLog r.core
    | none => r.core

end Sys2Proof.Machine
end

