-- ==== Sys2Proof/Machine/Control.lean ====
section
/-! DEFINITION. Control registers (R52 to R55) and the device registers other than the FIFOs (R58, R324, R327, R332, R347). -/

namespace Sys2Proof.Machine

/-- COREID of lane `r` (R52). -/
def State.coreId (s : State) (r : LaneRef) : Word :=
  word (r.core % 2 ^ 20 + r.lane % 4 * 2 ^ 20 + s.logical r % 2 ^ 20 * 2 ^ 32)

/-- WDOG of a lane (R52). -/
def Lane.wdog (l : Lane) : Word := word (l.wlimit.toNat + l.wcount.toNat * 2 ^ 32 + b2n l.wen * 2 ^ 63)

/-- MWEIGHT of a core (R52). -/
def Core.mweight (k : Core) : Word := word (k.mw.toNat + k.bw.toNat * 16)

/-- The value of control register `n` of lane `r`, if the number is assigned (R52). -/
def State.crRead (s : State) (r : LaneRef) (n : Nat) : Option Word :=
  let l := s.laneAt r
  match n with
  | 0x000 => some (s.laneStat r)
  | 0x001 => some (word l.trapcause.toNat)
  | 0x002 => some l.trappc
  | 0x003 => some l.trapval
  | 0x004 => some l.traptick
  | 0x005 => some (word (rmCode l.rmode))
  | 0x006 => some (word (l.amaxM.toNat + b2n l.amaxN * 2 ^ 32))
  | 0x007 => some l.rseed
  | 0x010 => some l.spillbase
  | 0x011 => some l.spilllim
  | 0x012 => some l.spillptr
  | 0x013 => some l.accspill
  | 0x020 => some (s.core r.core).mweight
  | 0x021 => some (s.coreId r)
  | 0x022 => some (word (l.ptag.toNat + l.supc.toNat * 2 ^ 32))
  | 0x023 => some l.wdog
  | 0x024 => some l.handlerbase
  | 0x025 => some l.noticeq
  | n =>
    if 0x030 ≤ n ∧ n ≤ 0x037 then some (l.region[(n - 0x030) % 8]'(Nat.mod_lt _ (by decide)))
    else if 0x040 ≤ n ∧ n ≤ 0x047 then some (l.streamcfg[(n - 0x040) % 8]'(Nat.mod_lt _ (by decide)))
    else none

/-- Is a control register privileged (S) to write (R52)? -/
def crPriv (n : Nat) : Bool := n == 0x020 || n == 0x023 || n == 0x024 || n == 0x025

/-- Bits below `k` cleared. -/
def clearLow (x : Word) (k : Nat) : Word := x &&& ~~~word (ones k)

/-- The REGION value stored for a written one (R55). -/
def regionBits (v : Word) : Word := v &&& word (2 ^ 63 + (ones 37 * 2 ^ 6 - ones 6 * 2 ^ 21))

/-- Is a REGION write refused (R55)? -/
def regionBad (v : Word) : Bool :=
  let x := regionBits v
  bit x 63 && decide (2097152 < bits x 20 0 + bits x 42 21)

/-- The STREAMCFG value stored for a written one (R55). -/
def streamBits (v : Word) : Word := v &&& 0x0000FFFFFFFF00FF

/-- The lane with stream configuration `n` written. -/
def Lane.setStream (l : Lane) (n : Nat) (v : Word) : Lane :=
  { l with streamcfg := l.streamcfg.set (n % 8) v (Nat.mod_lt _ (by decide)) }

/-- Stream configuration `n` of a lane. -/
def Lane.streamOf (l : Lane) (n : Nat) : Word := l.streamcfg[n % 8]'(Nat.mod_lt _ (by decide))

/-- Is a value refused by a control register's field rules (R53, R55)? -/
def crRefuses (n : Nat) (v : Word) : Bool :=
  if n = 0x005 then decide (4 < bits v 2 0)
  else if 0x030 ≤ n ∧ n ≤ 0x037 then regionBad v
  else if 0x040 ≤ n ∧ n ≤ 0x047 then bit v 0 && decide (bits v 3 2 = 3)
  else false

/-- A lane with a per-lane control register written under the field rules of R53 to R55; RO fields are ignored. -/
def Lane.crSet (l : Lane) (n : Nat) (v : Word) : Lane :=
  match n with
  | 0x000 => { l with spx := BitVec.ofNat 5 (bits v 12 8), spv := bit v 13 }
  | 0x002 => { l with trappc := parcelAlign v }
  | 0x005 => { l with rmode := (rmOfCode (bits v 2 0)).getD l.rmode }
  | 0x006 => { l with amaxM := BitVec.ofNat 32 (bits v 31 0), amaxN := bit v 32 }
  | 0x007 => { l with rseed := if v = 0 then 1 else v }
  | 0x010 => { l with spillbase := clearLow v 6 }
  | 0x011 => { l with spilllim := clearLow v 6 }
  | 0x012 => { l with spillptr := clearLow v 6 }
  | 0x013 => { l with accspill := clearLow v 15 }
  | 0x023 => { l with wlimit := BitVec.ofNat 32 (bits v 31 0), wcount := 0, wen := bit v 63 }
  | 0x024 => { l with handlerbase := clearLow v 12 }
  | 0x025 => { l with noticeq := v &&& ~~~(0xF0 : Word) }
  | n =>
    if 0x030 ≤ n ∧ n ≤ 0x037 then
      { l with region := l.region.set ((n - 0x030) % 8) (regionBits v) (Nat.mod_lt _ (by decide)) }
    else if 0x040 ≤ n ∧ n ≤ 0x047 then l.setStream (n - 0x040) (streamBits v)
    else l

/-- A weight field written as 0 stores 1 (R53). -/
def weight (x : Nat) : BitVec 4 := if x = 0 then 1 else BitVec.ofNat 4 x

/-- A control register of lane `r` written (R52 to R55); MWEIGHT belongs to the core. -/
def State.crSet (s : State) (r : LaneRef) (n : Nat) (v : Word) : State :=
  if n = 0x020 then
    s.setCore r.core { s.core r.core with mw := weight (bits v 3 0), bw := weight (bits v 7 4) }
  else s.setLaneAt r ((s.laneAt r).crSet n v)

/-! Device registers (R58) other than the four FIFOs. -/

/-- ALERTSTAT (R327). -/
def State.alertStat (s : State) : Word := word (s.mgmt.alerts.length + b2n s.mgmt.ovf * 2 ^ 8)

/-- Is `T` of a sector held at 15 by TRIP (R318, R324)? -/
def Sector.effT (x : Sector) : Nat := if x.trip then 15 else x.throttle.toNat

/-- The value of a management selector record of a lane (R324). -/
def State.selOf (s : State) (lane : Nat) : Selectors := s.mgmt.sel[lane % 4]'(Nat.mod_lt _ (by decide))

/-- The state with the selectors of a management lane replaced. -/
def State.setSel (s : State) (lane : Nat) (x : Selectors) : State :=
  { s with mgmt := { s.mgmt with sel := s.mgmt.sel.set (lane % 4) x (Nat.mod_lt _ (by decide)) } }

/-- E_p as it stands: S_p until the partition's first period (R320). -/
def Share.inForce (x : Share) : Nat := if x.known then x.eff else x.share

/-- D_p as it stands: 0 until the partition's first period (R320). -/
def Share.drawn (x : Share) : Nat := if x.known then x.draw else 0

/-- CAP of a memory stack (R322). -/
def Stack.cap (x : Stack) : Nat := if x.hot then 0xC000 else 0x10000

/-- The guaranteed share of (partition, stack) (R323). -/
def State.guarOf (s : State) (p k : Nat) : BitVec 17 := Table.get 0 s.guar (p * 16 + k)

/-- BOOTSTAT (R347). -/
def Mgmt.bootStat (m : Mgmt) : Word :=
  word (b2n m.bank + m.kind.toNat * 2 + b2n m.safe * 2 ^ 3 + b2n m.noid * 2 ^ 4 + m.fails % 16 * 2 ^ 8 + m.step.toNat * 2 ^ 16
    + m.unrep.length % 2 ^ 16 * 2 ^ 32)

/-- FWSTAT (R347). -/
def Mgmt.fwStat (m : Mgmt) : Word :=
  word (m.verA.toNat + m.verB.toNat * 2 ^ 16 + b2n m.valA * 2 ^ 32 + b2n m.valB * 2 ^ 33 + b2n m.pref * 2 ^ 34
    + m.floor.toNat * 2 ^ 48)

/-- The mailbox as MBXSTAT and MBXHEAD show it (R58, R176). -/
def Core.mbxStat (k : Core) : Word := word (k.mbx.length + k.mbxK * 2 ^ 8)
def Core.mbxHead (k : Core) : Word :=
  match k.mbx with
  | [] => 0
  | (p, y) :: _ => word (p.toNat * 2 ^ 32 + y.toNat)

/-- The 64-bit value of a readable device register, other than a FIFO, for lane `r` (R58, R324, R327, R332, R347). -/
def State.devRead (s : State) (r : LaneRef) (d : DevReg) : Word :=
  let k := s.core r.core
  let x := s.selOf r.lane
  match d with
  | .mbxstat => k.mbxStat
  | .mbxhead => k.mbxHead
  | .dtc => (s.die (dieOf r.core)).dtc
  | .rxcnt n => (k.lane n).rxcnt
  | .dropcnt => k.dropcnt
  | .errcnt => word (k.errCorr.toNat + k.errUnc.toNat * 2 ^ 32)
  | .secsel => word x.sec.toNat
  | .sectemp =>
    let t := s.sector x.sec.toNat
    word (t.temp % 2 ^ 12 + b2n t.isOver * 2 ^ 16 + b2n t.trip * 2 ^ 17 + b2n t.arm * 2 ^ 18 + t.tick.toNat * 2 ^ 24)
  | .seclim =>
    let t := s.sector x.sec.toNat
    word (t.tlim.toNat + t.talert.toNat * 2 ^ 16 + t.hys.toNat * 2 ^ 32)
  | .throttle =>
    let t := s.sector x.sec.toNat
    word (t.throttle.toNat + b2n t.trip * 2 ^ 4)
  | .partsel => word x.part.toNat
  | .pshare => word ((s.share x.part.toNat).share % 2 ^ 14 + b2n s.mgmt.psRefused * 2 ^ 31)
  | .pdraw =>
    let p := s.share x.part.toNat
    word (p.drawn % 2 ^ 14 + p.inForce % 2 ^ 14 * 2 ^ 16 + b2n p.dem * 2 ^ 31)
  | .stksel => word x.stk.toNat
  | .stkstat =>
    let t := s.memStack x.stk.toNat
    word (t.temp % 2 ^ 12 + b2n t.hot * 2 ^ 16 + t.cap * 2 ^ 32)
  | .memguar => word ((s.guarOf x.part.toNat x.stk.toNat).toNat + b2n s.mgmt.mgRefused * 2 ^ 31)
  | .railsel => word x.rail.toNat
  | .railstat =>
    let t := Table.get Rail.reset s.rails x.rail.toNat
    word (t.amps % 2 ^ 16 + b2n t.since.isSome * 2 ^ 16 + b2n s.hold * 2 ^ 17)
  | .alertstat => s.alertStat
  | .linksel => word x.link.toNat
  | .linkstat =>
    let t := s.link x.link.toNat
    word (t.retry.toNat + t.train.toNat * 2 ^ 32 + b2n t.down * 2 ^ 48)
  | .dltsel => word x.dlt.toNat
  | .dltring =>
    let t := s.deltaOf x.dlt.toNat
    word (t.nsz.toNat + b2n t.en * 2 ^ 4 + t.base.toNat * 2 ^ 10)
  | .dltstat =>
    let t := s.deltaOf x.dlt.toNat
    word (t.seq.toNat + t.lost.toNat * 2 ^ 32)
  | .bootstat => s.mgmt.bootStat
  | .fwstat => s.mgmt.fwStat
  | .mcmdq | .mresq | .bcmdq | .bresq | .msireq => 0

/-- The sum of all partition shares but one (R319). -/
def State.sharesBut (s : State) (p : Nat) : Nat :=
  (s.shares.filter (fun x => x.1 != p)).foldl (fun a x => a + x.2.share) 0

/-- PSHARE (R319, R324): a share that would pass the budget is refused. -/
def State.setShare (s : State) (p v : Nat) : State :=
  if Config.powerBudget < s.sharesBut p + v then { s with mgmt := { s.mgmt with psRefused := true } }
  else { s with shares := Table.put s.shares p { s.share p with share := v }, mgmt := { s.mgmt with psRefused := false } }

/-- MEMGUAR (R323, R324): a guarantee that would pass a stack's full capacity is refused. -/
def State.setGuar (s : State) (p k : Nat) (g : BitVec 17) : State :=
  let others := (s.guar.filter (fun x => x.1 % 16 == k && x.1 / 16 != p)).foldl (fun a x => a + x.2.toNat) 0
  if 0x10000 < others + g.toNat then { s with mgmt := { s.mgmt with mgRefused := true } }
  else { s with guar := Table.put s.guar (p * 16 + k) g, mgmt := { s.mgmt with mgRefused := false } }

/-- An identity becomes pending in an IMSIC file of a hart (R305): file 0 is the S-level file, 1 to 7 are guest files. -/
def State.pendIdentity (s : State) (hart file id : Nat) : State :=
  if id = 0 ∨ 2047 < id ∨ 63 < hart ∨ 7 < file then s
  else
    let k := hart * 8 + file
    let x := Table.get ImsicFile.reset s.imsic k
    if x.pending.contains id then s
    else { s with imsic := Table.put s.imsic k { x with pending := insertBy (fun a b => decide (a ≤ b)) id x.pending } }

/-- A partition's FMSI route is sent, if it is valid (R307, R309, R347): the identity word leaves for its target, and becomes
pending where that is an IMSIC file. -/
def State.sendMsi (s : State) (p : Nat) : State :=
  match Table.find s.page.fmsi p with
  | some (a, _) =>
    if bit a 0 && bits a 21 11 != 0 then
      let s : State := { s with msis := s.msis ++ [word (p + bits a 21 1 * 2 ^ 8)] }
      if bit a 1 then s else s.pendIdentity (bits a 7 2) (bits a 10 8) (bits a 21 11)
    else s
  | none => s

/-- A store of the bits in `m` to a device register other than a FIFO by lane `r`: RW fields take the written bits, W1C fields
are cleared where a 1 is written, RO fields are ignored (R2, R58, R324, R327, R332, R347). -/
def State.devWrite (s : State) (r : LaneRef) (d : DevReg) (m v : Word) : State :=
  let k := s.core r.core
  let x := s.selOf r.lane
  let new := (s.devRead r d &&& ~~~m) ||| (v &&& m)
  let cleared := s.devRead r d &&& ~~~(v &&& m)
  match d with
  | .rxcnt n => s.setCore r.core (k.setLane n { k.lane n with rxcnt := new })
  | .dropcnt => s.setCore r.core { k with dropcnt := cleared }
  | .errcnt => s.setCore r.core { k with errCorr := BitVec.ofNat 32 (bits cleared 31 0), errUnc := BitVec.ofNat 32 (bits cleared 63 32) }
  | .secsel => s.setSel r.lane { x with sec := BitVec.ofNat 11 new.toNat }
  | .seclim =>
    s.setSector x.sec.toNat { s.sector x.sec.toNat with
      tlim := BitVec.ofNat 12 (bits new 11 0), talert := BitVec.ofNat 12 (bits new 27 16), hys := BitVec.ofNat 8 (bits new 39 32) }
  | .throttle => s.setSector x.sec.toNat { s.sector x.sec.toNat with throttle := BitVec.ofNat 4 (bits new 3 0) }
  | .partsel => s.setSel r.lane { x with part := BitVec.ofNat 8 new.toNat }
  | .pshare => s.setShare x.part.toNat (bits new 13 0)
  | .stksel => s.setSel r.lane { x with stk := BitVec.ofNat 4 new.toNat }
  | .memguar => s.setGuar x.part.toNat x.stk.toNat (BitVec.ofNat 17 (bits new 16 0))
  | .railsel => s.setSel r.lane { x with rail := BitVec.ofNat 3 new.toNat }
  | .alertstat => { s with mgmt := { s.mgmt with ovf := bit cleared 8 } }
  | .linksel => s.setSel r.lane { x with link := BitVec.ofNat 19 new.toNat }
  | .linkstat =>
    { s with links := Table.put s.links x.link.toNat { s.link x.link.toNat with
        retry := BitVec.ofNat 32 (bits cleared 31 0), train := BitVec.ofNat 16 (bits cleared 47 32) } }
  | .dltsel => s.setSel r.lane { x with dlt := BitVec.ofNat 8 new.toNat }
  | .dltring =>
    { s with delta := Table.put s.delta x.dlt.toNat { s.deltaOf x.dlt.toNat with
        nsz := BitVec.ofNat 4 (bits new 3 0), en := bit new 4, base := BitVec.ofNat 54 (bits new 63 10) } }
  | .dltstat =>
    { s with delta := Table.put s.delta x.dlt.toNat { s.deltaOf x.dlt.toNat with lost := BitVec.ofNat 32 (bits cleared 63 32) } }
  | .msireq => s.sendMsi 0
  | _ => s

end Sys2Proof.Machine
end

