-- ==== Sys2Proof/Machine/Tasks.lean ====
section
/-! DEFINITION. Tasks as the launch unit of a die holds them (R245 to R260, R264): record fields, ids, curves, keys, readiness,
completion and abandonment. -/

namespace Sys2Proof.Machine

/-! Record fields (R247). -/

/-- Word `k` of a record. -/
def recWord (x : Vector Word 8) (k : Nat) : Word := x[k % 8]'(Nat.mod_lt _ (by decide))

def recKind (x : Vector Word 8) : Nat := bits (recWord x 0) 2 0
def recQueue (x : Vector Word 8) : Nat := bits (recWord x 0) 5 3
def recLane (x : Vector Word 8) : Nat := bits (recWord x 0) 7 6
def recClass (x : Vector Word 8) : Nat := bits (recWord x 0) 13 8
def recCols (x : Vector Word 8) : Nat := bits (recWord x 0) 16 14
def recRows (x : Vector Word 8) : Nat := bits (recWord x 0) 19 17
def recCmask (x : Vector Word 8) : Nat := bits (recWord x 0) 27 20
def recGid (x : Vector Word 8) : Nat := bits (recWord x 0) 35 28
def recGidx (x : Vector Word 8) : Nat := bits (recWord x 0) 39 36
def recGsize (x : Vector Word 8) : Nat := bits (recWord x 0) 43 40
def recStage (x : Vector Word 8) : Nat := bits (recWord x 0) 51 44
def recIcv (x : Vector Word 8) : Bool := bit (recWord x 0) 52
def recNp (x : Vector Word 8) : Bool := bit (recWord x 0) 53
def recEst (x : Vector Word 8) : Nat := bits (recWord x 3) 31 0
def recEnergy (x : Vector Word 8) : Nat := bits (recWord x 3) 63 32
def recDeps (x : Vector Word 8) : Nat := bits (recWord x 6) 15 0
def recScore (x : Vector Word 8) : Nat := bits (recWord x 6) 35 16
def recSword (x : Vector Word 8) : Nat := bits (recWord x 6) 48 36
def recSn (x : Vector Word 8) : Nat := bits (recWord x 6) 55 49

/-- The anchors that a record lists with their lags in ticks (R247, R252). -/
def recAnchors (x : Vector Word 8) : List (BitVec 16 × Nat) :=
  ((List.range 4).map (fun k =>
    (BitVec.ofNat 16 (bits (recWord x 4) (16 * k + 15) (16 * k)), 64 * bits (recWord x 5) (16 * k + 15) (16 * k)))).filter
      (fun e => e.1 != 0)

/-- W0 with its reserved bits zero (R257). -/
def recW0 (x : Vector Word 8) : Word := word (bits (recWord x 0) 53 0)

/-- Has a record a curve (R247)? -/
def recHasCurve (x : Vector Word 8) : Bool := recIcv x || recWord x 2 != 0

/-- The inline curve of a record (R251). -/
def inlineCurve (x : Vector Word 8) : List (Nat × Nat) :=
  [(0, bits (recWord x 2) 47 32), (bits (recWord x 2) 31 0, bits (recWord x 2) 63 48)]

/-- A curve breakpoint word (R251). -/
def breakpoint (x : Word) : Nat × Nat := (bits x 31 0, bits x 63 32)

/-- Strictly rising breakpoint ticks (R249). -/
def risingTicks : List (Nat × Nat) → Bool
  | (a, _) :: (b, w) :: t => decide (a < b) && risingTicks ((b, w) :: t)
  | _ => true

/-- The successor entries of a list word (R248), low entry first. -/
def succEntries (x : Word) : List Succ :=
  let one (k : Nat) : Succ :=
    ⟨BitVec.ofNat 16 (bits x (32 * k + 15) (32 * k)),
      if bit x (32 * k + 26) then some (bits x (32 * k + 25) (32 * k + 16)) else none, false⟩
  [one 0, one 1]

/-! Tasks of a die. -/

/-- Is a task neither complete nor abandoned (R245)? -/
def Task.unfinished (t : Task) : Bool := t.state != .complete && t.state != .abandoned

/-- The task of an id. -/
def Die.task? (d : Die) (id : BitVec 16) : Option Task := d.tasks.find? (fun t => t.id == id)

/-- The earlier of two ticks. -/
def earlier (a b : Word) : Word := if a.toNat ≤ b.toNat then a else b

/-- The earliest of some ticks. -/
def earliest : List Word → Option Word
  | [] => none
  | t :: r => match earliest r with
    | none => some t
    | some u => some (earlier t u)

/-- An evaluation is due at the die's tick: several triggers in one tick make one (R255). -/
def Die.evalNow (d : Die) : Die := if d.evals.contains d.dtc then d else { d with evals := d.evals ++ [d.dtc] }

/-- A placement round is due at the die's tick, unless an earlier one is due still (R266). -/
def Die.roundNow (d : Die) : Die :=
  { d with roundAt := some (match d.roundAt with
    | some r => earlier r d.dtc
    | none => d.dtc) }

/-- The checked record of an entry of a launch unit's input. -/
def Intake.checked : Intake → Checked
  | .record x => x
  | .spawn _ x _ => x

/-- Is an id in use (R246)? A record that waits for an id keeps its anchors' ids in use too. -/
def Die.inUse (d : Die) (id : BitVec 16) : Bool :=
  d.tasks.any (fun t => t.unfinished && (t.id == id || (t.curve.isEmpty && (recAnchors t.record).any (fun e => e.1 == id)))) ||
    d.input.any (fun e => (recAnchors e.checked.record).any (fun a => a.1 == id))

/-- Is a run of `n` ids from `k` up free? -/
def Die.runFree (d : Die) (k n : Nat) : Bool := (List.range n).all (fun i => !d.inUse (BitVec.ofNat 16 (k + i)))

/-- The first free run of `n` ids in `k`, `k + 1`, …, that ends at or below 65,535. -/
def Die.findRun (d : Die) (n : Nat) : Nat → Nat → Option Nat
  | _, 0 => none
  | k, fuel + 1 =>
    if 65536 < k + n then none else if d.runFree k n then some k else d.findRun n (k + 1) fuel

/-- The first id of the next run of `n` free ids (R246). -/
def Die.allocRun (d : Die) (n : Nat) : Option Nat :=
  match d.findRun n d.nextId 65536 with
  | some k => some k
  | none => d.findRun n 1 65536

/-- The die with a task added under its id; a finished task that had the id is forgotten. -/
def Die.addTask (d : Die) (t : Task) : Die :=
  { d with
    tasks := d.tasks.filter (fun x => x.id != t.id) ++ [t]
    nextId := if t.id.toNat = 65535 then 1 else t.id.toNat + 1 }

/-- A task of a die changed. -/
def Die.upd (d : Die) (id : BitVec 16) (f : Task → Task) : Die :=
  { d with tasks := d.tasks.map (fun t => if t.id = id then f t else t) }

/-- A task of a die of the state changed. -/
def State.updTask (s : State) (die : Nat) (id : BitVec 16) (f : Task → Task) : State := s.setDie die ((s.die die).upd id f)

/-! Curves, critical paths and keys (R251 to R253). -/

/-- The value of a curve at a curve time (R251). -/
def curveAt : List (Nat × Nat) → Nat → Int
  | [], _ => 0
  | [(_, v)], _ => v
  | (t1, v1) :: (t2, v2) :: r, t =>
    if t < t1 then v1
    else if t < t2 then (v1 : Int) + (((v2 : Int) - v1) * ((t : Int) - t1)) / ((t2 : Int) - t1)
    else curveAt ((t2, v2) :: r) t

/-- V_a at a tick (R251). -/
def Task.value (a : Task) (tick : Word) : Int := curveAt a.curve (tick - a.arr).toNat

/-- Anchors with their lags, each once: of an anchor listed twice the larger lag counts (log entry 87, DESIGN CHOICE). -/
def oneLag (xs : List (BitVec 16 × Nat)) : List (BitVec 16 × Nat) :=
  xs.foldl (fun a e =>
    if a.any (fun f => f.1 == e.1) then a.map (fun f => if f.1 == e.1 then (f.1, max f.2 e.2) else f) else a ++ [e]) []

/-- The anchors that a task serves with their lags in ticks (R252). -/
def Task.serves (x : Task) : List (BitVec 16 × Nat) := if x.curve.isEmpty then oneLag (recAnchors x.record) else [(x.id, 0)]

/-- The live anchors that a task serves, with their lags (R252). -/
def Die.liveAnchors (d : Die) (x : Task) : List (Task × Nat) :=
  x.serves.filterMap (fun e =>
    match d.task? e.1 with
    | some a => if a.unfinished && !a.curve.isEmpty then some (a, e.2) else none
    | none => none)

/-- r_x (R252). -/
def Task.remaining (x : Task) (now : Word) : Nat :=
  match x.state with
  | .running => max (recEst x.record - (now - x.deq).toNat) 1
  | .waiting | .ready => recEst x.record
  | _ => 0

/-- e_x in 1/16 µJ (R252). -/
def Task.energyLeft (x : Task) (now : Word) : Nat :=
  match x.state with
  | .running => recEnergy x.record * x.remaining now / recEst x.record
  | .waiting | .ready => recEnergy x.record
  | _ => 0

/-- CP_a (R252). -/
def Die.criticalPath (d : Die) (a : Task) : Nat :=
  d.tasks.foldl (fun m x =>
    if x.unfinished then (x.serves.filter (fun e => e.1 == a.id)).foldl (fun m e => max m (x.remaining d.dtc + e.2)) m
    else m) 0

/-- RE_a in 1/16 µJ (R252). -/
def Die.remainingEnergy (d : Die) (a : Task) : Nat :=
  d.tasks.foldl (fun m x =>
    if x.unfinished && x.serves.any (fun e => e.1 == a.id) then
      m + x.energyLeft d.dtc / max (d.liveAnchors x).length 1
    else m) 0

/-- D_x at a tick (R252). -/
def Die.derived (d : Die) (x : Task) (tick : Word) : Int :=
  (d.liveAnchors x).foldl (fun v e => v + e.1.value (tick + word e.2)) 0

/-- U of a task (R253). -/
def Die.urgency (d : Die) (x : Task) : Nat :=
  ((d.liveAnchors x).foldl (fun (v : Int) e =>
    let cp := d.dtc + word (d.criticalPath e.1)
    v + (e.1.value cp - e.1.value (cp + 1024))) 0).toNat

/-- Is the task a member of a gang (R264)? -/
def Task.inGang (t : Task) : Bool := recGid t.record != 0

/-- The unfinished members of a task's gang on a die, in ascending id. -/
def Die.gang (d : Die) (t : Task) : List Task :=
  sortBy (fun x y => decide (x.id.toNat ≤ y.id.toNat))
    (d.tasks.filter (fun x => x.unfinished && x.ptag == t.ptag && recGid x.record == recGid t.record))

/-- The groups that a task places: its gang in ascending GIDX, or the task alone. -/
def Die.groups (d : Die) (t : Task) : List Task :=
  if t.inGang then sortBy (fun x y => decide (recGidx x.record ≤ recGidx y.record)) (d.gang t) else [t]

/-- The key of a queue entry (R253, R264). -/
def Die.key (d : Die) (t : Task) : Nat :=
  let g := d.groups t
  g.foldl (fun n x => n + d.urgency x) 0 * 2 ^ 16 / max (g.foldl (fun n x => n + recEnergy x.record) 0) 1

/-- Does entry `x` go before entry `y` (R253)? Arrival is compared by age, so that a wrapped counter does no harm. -/
def Die.before (d : Die) (x y : Task) : Bool :=
  let kx := d.key x
  let ky := d.key y
  let ax := (d.dtc - x.arr).toNat
  let ay := (d.dtc - y.arr).toNat
  decide (ky < kx) || (kx == ky && (decide (ay < ax) || (ax == ay && decide (x.id.toNat < y.id.toNat))))

/-- The price and slack point of a partition on a die (R250). -/
def Die.priceOf (d : Die) (p : Nat) : BitVec 32 × BitVec 3 := Table.get (0, 0) d.price p

/-! Queues (R263, R264). -/

/-- The entries of a queue: single tasks, and gangs by their GIDX 0 member. -/
def Die.entries (d : Die) (q : Nat) : List Task :=
  d.tasks.filter (fun t => t.queued && recQueue t.record == q && (!t.inGang || recGidx t.record == 0))

/-- The first of a list in the order of R253. -/
def Die.best (d : Die) (ts : List Task) : Option Task :=
  ts.foldl (fun b t => match b with
    | none => some t
    | some x => if d.before t x then some t else some x) none

/-- The queues' heads as they stand, each with the tick at which it became head (R263, R268). -/
def Die.markHeads (d : Die) : Die :=
  let hs := (List.range 8).filterMap (fun q => (d.best (d.entries q)).map (fun t =>
    (q, t.id, match Table.find d.heads q with
      | some (id, since) => if id = t.id then since else d.dtc
      | none => d.dtc)))
  { d with heads := hs }

/-! Withholding (R270, R318 to R321). -/

/-- Is a sector over its thermal limit (R318)? -/
def State.hot (s : State) (sector : Nat) : Bool := (s.sector sector).isOver || (s.sector sector).trip

/-- Does a Sluice withhold for a partition for power: its draw exceeds its effective share, or the package hold is set
(R320, R321)? -/
def State.overPower (s : State) (p : Nat) : Bool :=
  s.hold || ((s.share p).known && decide ((s.share p).eff < (s.share p).draw))

/-- Does the Sluice of a sector withhold for a partition (R270)? -/
def State.withholds (s : State) (sector p : Nat) : Bool := s.hot sector || s.overPower p

/-- An order of a partition has been withheld for power in the period (R320). -/
def State.demand (s : State) (p : Nat) : State := { s with shares := Table.put s.shares p { s.share p with withheld := true } }

/-- Does a Sluice hold an order of a task? -/
def Die.holdsOrder (d : Die) (id : BitVec 16) : Bool := d.orders.any (fun o => o.held && o.task == id)

/-! Writes that a launch unit makes for a partition. -/

/-- A posted 64-bit store made under a partition for lane `r` and accepted at once, or none where a fate of R27 meets it
(R247). A migration in progress is ordered after it. -/
def State.storeAs (s : State) (r : LaneRef) (p : BitVec 8) (a v : Word) : Option State :=
  let old := (s.laneAt r).ptag
  let hub := s.hub
  let s := { s.setLaneAt r { s.laneAt r with ptag := p } with hub := { hub with mig := none } }
  let back (s : State) : State := { s.setLaneAt r { s.laneAt r with ptag := old } with hub := { s.hub with mig := hub.mig } }
  match s.resolve r a 64 .store with
  | .error _ => none
  | .ok (s, t) =>
    if t.checked && s.foreign p.toNat false false t.pa then none
    else match t.place, homeOf t.pa with
      | .dev _, _ => none
      | _, .pcie => some (back { s with
        pcieWrites := s.pcieWrites ++ [⟨r, t.pa, BitVec.allOnes 64, v, a, (s.part p.toNat).live.sid.toNat⟩] })
      | _, _ => some (back (s.storeAt t.pa (BitVec.allOnes 64) v p.toNat))

/-- Answered relaxed 64-bit loads made under a partition for lane `r` (R247, R249). -/
def State.loadAs (s : State) (r : LaneRef) (p : BitVec 8) (a : Word) (n : Nat) : Except Stop (State × List Word) :=
  let old := (s.laneAt r).ptag
  let back (s : State) : State := s.setLaneAt r { s.laneAt r with ptag := old }
  match (s.setLaneAt r { s.laneAt r with ptag := p }).readWords r a .table n with
  | .ok (s, ws) => .ok (back s, ws)
  | .error (.trap s c v) => .error (.trap (back s) c v)
  | .error (.wait s c) => .error (.wait (back s) c)

/-! Completion and abandonment. -/

/-- A task's notice to lane 0 of its supervisor core (R257); it enters the mesh at that core (log entry 19). -/
def State.taskNotice (s : State) (die : Nat) (t : Task) (reason anchor : Nat) (w2 extra : Word) : State :=
  s.sendHw t.supc.toNat t.supc.toNat 0 58 t.ptag.toNat
    (noticeWords reason t.ptag.toNat t.id.toNat anchor 0 (s.die die).dtc w2 extra)

/-- W7 as the write-back stores it (R247). -/
def Task.w7 (t : Task) (val : Nat) : Word :=
  word (t.err % 2 ^ 16 + t.status.toNat * 2 ^ 16 + (if t.state = .complete then 3 else 4) * 2 ^ 24 + val % 2 ^ 32 * 2 ^ 32)

/-- The write-back of W7 (R247). -/
def State.writeBack (s : State) (die : Nat) (t : Task) (val : Nat) : State :=
  match t.home with
  | none => s
  | some (r, a) =>
    match s.storeAs r t.ptag (a + 448) (t.w7 val) with
    | some s => s
    | none => (s.countDrop t.ptag.toNat 1).taskNotice die t 0x08 0 0 (a + 448)

/-- The stamp record of a finished task (R274, R275). -/
def State.stamp (s : State) (die : Nat) (t : Task) : State :=
  match Table.find (s.die die).stamps t.ptag.toNat with
  | none => s
  | some (base, nsz) =>
    let w0 := word (t.id.toNat + t.ptag.toNat * 2 ^ 16 + (if t.state = .complete then 3 else 4) * 2 ^ 24
      + min t.failp 255 * 2 ^ 32 + min t.fails 255 * 2 ^ 40 + min (t.held / 16) 0xFFFF * 2 ^ 48)
    match ringByte base, ringByte (base - 64) with
    | some b, some c => (s.ringPut b c nsz.toNat 256 [w0, t.enq, t.deq, t.cmp] 0).1
    | _, _ => s

/-- The digest requests of a completion at the 16 Delta engines (R341): a full queue of 64 merges the request. -/
def State.requestDigest (s : State) (die : Nat) (t : Task) : State :=
  let p := t.ptag.toNat
  let q := (s.deltaOf p).seq
  let add (s : State) (k : Nat) : State :=
    let full := decide (64 ≤ (s.deltaReqs.filter (fun x => x.stack == k && !x.merged)).length)
    { s with deltaReqs := s.deltaReqs ++ [⟨k, p, t.id, die, t.cmp, q, full⟩] }
  let s := (List.range 16).foldl add s
  { s with delta := Table.put s.delta p { s.deltaOf p with seq := q + 1 } }

/-- Does a task run for the abandonments of a tick: it is dispensed, or it is committed in this very tick (R255, R260, R272)? -/
def Die.runs (d : Die) (t : Task) : Bool := t.state == .running || (t.place.isSome && t.deq == d.dtc)

/-- May the task still be abandoned: unfinished and not running (R255, R260, R272)? -/
def Die.abandonable (d : Die) (t : Task) : Bool := t.unfinished && !d.runs t

/-- One task is abandoned with a notice (R255, R257, R272, R274); an order of it that is withheld for power has counted in the
period (R320). -/
def State.abandonMark (s : State) (die : Nat) (t : Task) (reason anchor : Nat) (w2 extra : Word) : State :=
  let d := s.die die
  let t' := { t with state := .abandoned, cmp := d.dtc, queued := false, place := none, target := none }
  let s := if d.holdsOrder t.id && s.overPower t.ptag.toNat then s.demand t.ptag.toNat else s
  let s := s.setDie die { d.upd t.id (fun _ => t') with orders := d.orders.filter (fun o => o.task != t.id) }.roundNow.markHeads
  ((s.taskNotice die t' reason anchor w2 extra).writeBack die t' 0).stamp die t'

/-- ABANDON is set in every lane that runs a task of a die (R189, R255). -/
def State.flagAbandon (s : State) (die : Nat) (id : BitVec 16) : State :=
  { s with cores := s.cores.map (fun c =>
      if dieOf c.1 = die then
        (c.1, { c.2 with lanes := c.2.lanes.map (fun l => if l.task = id then { l with abandon := true } else l) })
      else c) }

/-- A task to abandon, with its notice's reason, anchor, word 2 and EXTRA. -/
structure Doom where
  id : BitVec 16
  reason : Nat
  anchor : Nat
  w2 : Word
  extra : Word
  deriving DecidableEq, Repr

/-- The task of a doom is abandoned; one that already runs only gets ABANDON (R255, R264, R272). -/
def State.applyDoom (s : State) (die : Nat) (x : Doom) : State :=
  match (s.die die).task? x.id with
  | none => s
  | some t =>
    if (s.die die).abandonable t then s.abandonMark die t x.reason x.anchor x.w2 x.extra
    else if t.unfinished then s.flagAbandon die t.id else s

/-- A doomed task with the rest of its gang, in ascending id (R264). -/
def Die.doomBlock (d : Die) (x : Doom) (t : Task) : List Doom :=
  x :: (if t.inGang then ((d.gang t).filter (fun y => y.id != t.id)).map (fun y => ⟨y.id, 0x0C, 0, 0, word t.id.toNat⟩) else [])

/-- The successors that the abandonment of a task dooms (R255). -/
def Die.doomSuccs (d : Die) (t : Task) : List Doom :=
  (t.succs.filter (fun e => match d.task? e.id with
    | some y => y.ptag == t.ptag
    | none => false)).map (fun e => ⟨e.id, 0x02, 0, 0, word t.id.toNat⟩)

/-- All that is abandoned with some tasks, as blocks of a task and its gang: the tasks first, then the successors of every
abandoned task, transitively (R255, R264). -/
def Die.doomed (d : Die) : List Doom → List (List Doom) → Nat → List (List Doom)
  | [], acc, _ => acc
  | _, acc, 0 => acc
  | x :: rest, acc, fuel + 1 =>
    match d.task? x.id with
    | none => d.doomed rest acc fuel
    | some t =>
      if !d.abandonable t || acc.any (fun b => b.any (fun y => y.id == x.id)) then d.doomed rest acc fuel
      else
        let block := d.doomBlock x t
        let succs := block.flatMap (fun y => match d.task? y.id with
          | some u => if d.abandonable u then d.doomSuccs u else []
          | none => [])
        d.doomed (rest ++ succs) (acc ++ [block]) fuel

/-- Enough rounds for every task and successor of a die. -/
def Die.doomFuel (d : Die) (n : Nat) : Nat := d.tasks.foldl (fun m t => m + 1 + t.succs.length) (n + 1)

/-- Tasks are abandoned with all that follows from it (R255, R264). -/
def State.abandon (s : State) (die : Nat) (xs : List Doom) : State :=
  ((s.die die).doomed xs [] ((s.die die).doomFuel xs.length)).flatten.foldl (fun s x => s.applyDoom die x) s

/-- The abandonments of an evaluation, whose notices go out in ascending task id, a gang's after the member that caused them
(R255, R257, R264). -/
def State.abandonInOrder (s : State) (die : Nat) (xs : List Doom) : State :=
  let blocks := (s.die die).doomed xs [] ((s.die die).doomFuel xs.length)
  let key (b : List Doom) : Nat := (b.head?.map (fun x => x.id.toNat)).getD 0
  (sortBy (fun a b => decide (key a ≤ key b)) blocks).flatten.foldl (fun s x => s.applyDoom die x) s

/-! Geometry (R265). -/

/-- A region: its bounds in clusters and the lanes it holds. -/
structure Region where
  x0 : Nat
  y0 : Nat
  x1 : Nat
  y1 : Nat
  lm : Nat
  deriving DecidableEq, Repr

/-- The regions of a partition on a die (R265, R288): the rectangles in force that hold whole clusters of that die alone, in map
order; for partition 0 the whole die. -/
def State.regions (s : State) (die p : Nat) : List Region :=
  let dx := die % 8 * 64
  let dy := die / 8 * 64
  if p = 0 then [⟨dx, dy, dx + 63, dy + 63, 15⟩]
  else ((s.part p).live.inUse.map Rect.ofWord).filterMap (fun r =>
    if r.v && r.cm == 255 && decide (dx ≤ r.px) && decide (dy ≤ r.py) && decide (r.px + r.w ≤ dx + 63) &&
        decide (r.py + r.h ≤ dy + 63) then some ⟨r.px, r.py, r.px + r.w, r.py + r.h, r.lm⟩ else none)

/-- The clusters of a group at an origin, in ascending order (R266). -/
def groupClusters (t : Task) (x0 y0 : Nat) : List Nat :=
  (List.range (recCols t.record + 1)).flatMap (fun gx =>
    (List.range (recRows t.record + 1)).map (fun gy => (x0 + gx) * 256 + y0 + gy))

/-- The cluster-lanes that committed tasks of a die hold (R265). -/
def Die.held (d : Die) : List (Nat × Nat) :=
  d.tasks.flatMap (fun t => match t.place with
    | some (x, y) => if t.unfinished then (groupClusters t x y).map (fun c => (c, recLane t.record)) else []
    | none => [])

/-- The origins of a region where a group fits, in ascending y0, then x0 (R266). -/
def Region.origins (r : Region) (t : Task) : List (Nat × Nat) :=
  if r.lm.testBit (recLane t.record) then
    (List.range (r.y1 + 1 - r.y0 - recRows t.record)).flatMap (fun j =>
      (List.range (r.x1 + 1 - r.x0 - recCols t.record)).map (fun i => (r.x0 + i, r.y0 + j)))
  else []

/-- Groups placed first-fit in one region under a test of cluster-lanes, each counted as occupied for the next (R267). -/
def Region.fit (r : Region) (usable : Nat × Nat → Bool) : List Task → List (Nat × Nat) → Option (List (BitVec 16 × (Nat × Nat)))
  | [], _ => some []
  | t :: rest, taken =>
    let l := recLane t.record
    match (r.origins t).find? (fun o =>
        (groupClusters t o.1 o.2).all (fun c => usable (c, l) && !taken.contains (c, l))) with
    | none => none
    | some o =>
      match r.fit usable rest (taken ++ (groupClusters t o.1 o.2).map (fun c => (c, l))) with
      | none => none
      | some xs => some ((t.id, o) :: xs)

/-- Can any region of the partition ever hold the entry, whatever is occupied (R266)? -/
def State.placeable (s : State) (die : Nat) (t : Task) : Bool :=
  (s.regions die t.ptag.toNat).any (fun r => (r.fit (fun _ => true) ((s.die die).groups t) []).isSome)

/-! Readiness (R245, R263, R264). -/

/-- An entry reaches its queue at this tick, or is abandoned as unplaceable (R263, R266, R274). -/
def State.enqueue (s : State) (die : Nat) (t : Task) : State :=
  let g := (s.die die).groups t
  let d := g.foldl (fun d x => d.upd x.id (fun y => { y with queued := true, enq := d.dtc })) (s.die die)
  if s.placeable die t then s.setDie die d.roundNow.markHeads
  else
    let head := (g.head?.getD t)
    (s.setDie die d).abandon die [⟨head.id, 0x0B, 0, 0, recW0 head.record⟩]

/-- A task becomes ready: it enters its queue, a gang member when its whole gang is ready, none of it committed (R245, R264). -/
def State.makeReady (s : State) (die : Nat) (id : BitVec 16) : State :=
  let d := (s.die die).upd id (fun t => { t with state := .ready })
  let s := s.setDie die d.evalNow
  match (s.die die).task? id with
  | none => s
  | some t =>
    if t.inGang then
      let g := (s.die die).gang t
      if g.length = recGsize t.record + 1 ∧ g.all (fun x => x.state == .ready && x.place.isNone) then s.enqueue die t else s
    else s.enqueue die t

/-- A successor entry fires: the dependence count of a waiting task of the same partition falls (R248). -/
def State.fire (s : State) (die : Nat) (p : BitVec 8) (id : BitVec 16) : State :=
  match (s.die die).task? id with
  | none => s
  | some t =>
    if t.ptag = p ∧ t.state = .waiting ∧ 0 < t.deps then
      let s := s.updTask die id (fun t => { t with deps := t.deps - 1 })
      if t.deps = 1 then s.makeReady die id else s
    else s

/-- The unfired entries of a task that a test names fire in list order (R248). -/
def State.fireEntries (s : State) (die : Nat) (t : Task) (p : Succ → Bool) : State :=
  let go := t.succs.filter (fun e => !e.fired && p e)
  let s := s.updTask die t.id (fun t =>
    { t with succs := t.succs.map (fun e => if !e.fired && p e then { e with fired := true } else e) })
  go.foldl (fun s e => s.fire die t.ptag e.id) s

/-- A task completes (R245, R247, R248, R256, R260, R274, R341). -/
def State.completeTask (s : State) (die : Nat) (t : Task) : State :=
  let d := s.die die
  let v := if t.curve.isEmpty then 0 else (t.value d.dtc).toNat
  let t' := { t with state := .complete, cmp := d.dtc, place := none, target := none, queued := false }
  let p := t.ptag.toNat
  let s := s.setDie die { d.upd t.id (fun _ => t') with
    accval := Table.put d.accval p (Table.get 0 d.accval p + word v)
    orders := d.orders.filter (fun o => o.task != t.id) }.evalNow.roundNow
  (((s.writeBack die t' v).fireEntries die t' (fun _ => true)).requestDigest die t').stamp die t'

/-- The cores of a placed task's shape (R188, R269), in ascending physical number. -/
def Task.cores (t : Task) : List Nat :=
  match t.place with
  | none => []
  | some (x, y) => (groupClusters t x y).flatMap (fun c =>
      ((List.range 8).filter (fun k => (recCmask t.record).testBit k)).map (fun k => c * 8 + k))

/-- A core's TDONE with a status for a running task; the one that completes the task answers true: the last core of its shape, or
the close tile of its pool, on whatever core the pool is (R188, R235, R240, R245, R271). -/
def State.recordDone (s : State) (r : LaneRef) (id : BitVec 16) (status : BitVec 8) : State × Bool :=
  let die := dieOf r.core
  match (s.die die).task? id with
  | none => (s, false)
  | some t =>
    if t.state = .running then
      let t' := { t with done := r.core :: t.done, status := t.status ||| status }
      let s := s.updTask die id (fun _ => t')
      if recKind t.record = 1 ∨ t'.cores.all (fun c => t'.done.contains c) then (s.completeTask die t', true) else (s, false)
    else (s, false)

end Sys2Proof.Machine
end

