-- ==== Sys2Proof/Machine/Handlers.lean ====
section
/-! DEFINITION. Receive rings, activations and their end (R56, R96, R199 to R208, R212, R234, R235, R271). -/

namespace Sys2Proof.Machine

/-! Header fields (R198). -/

def hdrDest (h : Word) : Nat := bits h 19 0
def hdrCtx (h : Word) : Nat := bits h 21 20
def hdrClass (h : Word) : Nat := bits h 27 22
def hdrPtag (h : Word) : Nat := bits h 35 28
def hdrFlits (h : Word) : Nat := bits h 38 36 + 1
def hdrSrc (h : Word) : Nat := bits h 58 39
def hdrLn (h : Word) : Bool := bit h 59
def hdrHw (h : Word) : Bool := bit h 60
def hdrMb (h : Word) : Bool := bit h 61
def hdrRm (h : Word) : Bool := bit h 62

/-- Local raw-window offset of ring slot `k` of a lane (R199). -/
def ringOff (r : LaneRef) (k : Nat) : Nat := r.core % 4 * 2 ^ 19 + r.lane % 4 * 0x4000 + 256 * k

/-- Local raw-window address of ring slot `k` of a lane (R18, R199). -/
def ringAddr (r : LaneRef) (k : Nat) : Word := word (0xC000000000000000 + ringOff r k)

/-- Where a message of `f` flits starts in a ring, if its slots are free (R199). -/
def ringStart (ring : List RingEntry) (f : Nat) : Option Nat :=
  match ring.head?, ring.getLast? with
  | some h, some e =>
    let n := e.slot + e.flits
    if h.slot ≤ e.slot then
      if n + f ≤ 64 then some n else if f ≤ h.slot then some 0 else none
    else if n + f ≤ h.slot then some n else none
  | _, _ => some 0

/-- Words stored by a core into scratchpad from a physical byte address up, each accepted at once (R200, R233). -/
def State.coreStores (s : State) (pa : Nat) (ws : List Word) (p : Nat) : State :=
  ws.zipIdx.foldl (fun s w => s.storeAt (pa + 8 * w.2) (BitVec.allOnes 64) w.1 p) s

/-- A message is accepted into the ring of lane `r`, if slots are free: its flits are written and RXCNT adds 1 (R175, R199,
R200). A tile message brings its page and kind, and its pool's task and stage (R234). -/
def State.acceptRing (s : State) (r : LaneRef) (ws : Msg) (tile : Option (Nat × Nat)) (pool : Option Pool) (from_ : Sender) :
    Option State :=
  let f := ws.length / 4
  match ringStart (s.laneAt r).ring f with
  | none => none
  | some k =>
    let s := s.coreStores (rawByte r.core (ringOff r k)) ws 0
    let l := s.laneAt r
    let task := (pool.map (·.task)).getD 0
    let place := (pool.map (fun p => (p.stage.setWidth 24 : BitVec 24) <<< (16 : Nat))).getD 0
    let e : RingEntry := ⟨k, f, ws.headD 0, ws.getD 2 0, tile, task, place, from_⟩
    some (s.setLaneAt r { l with ring := l.ring ++ [e], rxcnt := l.rxcnt + 1 })

/-- The task and the place that an activation by a message has (R52, R92): a launch's own, or those of the pool. -/
def RingEntry.taskOf (e : RingEntry) : BitVec 16 := if hdrLn e.hdr then BitVec.ofNat 16 (bits e.w2 47 32) else e.task
def RingEntry.placeOf (e : RingEntry) : BitVec 24 := if hdrLn e.hdr then BitVec.ofNat 24 (bits e.w2 23 0) else e.place

/-- The registers of a lane when an activation begins at `pc` with a message (R56, R52). -/
def Lane.activate (l : Lane) (r : LaneRef) (e : RingEntry) (pc : Word) : Lane :=
  let launch := hdrLn e.hdr
  let base := { l with
    sreg := Vector.replicate 32 0
    vreg := Vector.replicate 32 0
    mreg := Vector.replicate 8 0
    hreg := Vector.replicate 16 Handle.invalid
    streamcfg := Vector.replicate 8 0
    pc := pc, run := .running, intrap := false, abandon := false, spv := false, spvEnd := false, stall := 0
    waiting := none, waitJob := none, req := none, ahead := none, dbgSkip := false, trapWait := false
    trapcause := 0, trappc := 0, trapval := 0, traptick := 0
    amaxM := 0, amaxN := false, wcount := 0, spillptr := l.spillbase
    task := e.taskOf, place := e.placeOf
    kept := Kept.nothing, save := .none, wrote := BitVec.allOnes 86, active := true, inl := hdrClass e.hdr == 63 }
  ((((base.setS 1 (ringAddr r e.slot)).setS 2 (word (256 * e.flits))).setS 3 (word (hdrClass e.hdr))).setS 4
    (word (hdrSrc e.hdr))).setS 5 (if launch then word (bits e.w2 23 0) else 0)

/-- An activation begins (R206), with its trace packet (R339) and, for a launch, the requested point (R316). -/
def State.begin_ (s : State) (r : LaneRef) (e : RingEntry) (pc : Word) : State :=
  let l := (s.laneAt r).activate r e pc
  let pt := match (s.die (dieOf r.core)).task? l.task with
    | some t => if hdrLn e.hdr then t.point else l.point
    | none => l.point
  (s.setLaneAt r { l with point := pt }).trace r 1
    (word (hdrClass e.hdr + hdrSrc e.hdr * 2 ^ 12 + b2n (hdrLn e.hdr) * 2 ^ 32))

/-- The oldest message of a ring is freed (R96, R199). -/
def Lane.freeHead (l : Lane) : Lane := { l with ring := l.ring.drop 1 }

/-- `n` words of a ring from a word of a slot on, as the core reads them at their home (R100, R330). -/
def State.ringWords (s : State) (r : LaneRef) (slot first : Nat) : Nat → State × List Word
  | 0 => (s, [])
  | n + 1 =>
    let (s, x, _) := s.readHome (rawByte r.core (ringOff r slot) + 8 * first) (s.laneAt r).part none
    let (s, xs) := s.ringWords r slot (first + 1) n
    (s, x :: xs)

/-- The fate of an unbound message (R204, R205, R271): a class-59 report goes to the hub, others are counted; classes 1 to 55
and 63 post UNBOUND, and a launch counts as its core's TDONE with status 0xFF. -/
def State.unbound (s : State) (r : LaneRef) (e : RingEntry) : State :=
  let c := hdrClass e.hdr
  let (s, body) := s.ringWords r e.slot 1 (4 * e.flits - 1)
  let s := s.setLaneAt r (s.laneAt r).freeHead
  if c = 59 then { s with reports := s.reports ++ [(BitVec.ofNat 8 (hdrPtag e.hdr), body)] }
  else
    let s := s.countDropcnt r.core 1
    if c = 61 then s.countDrop (hdrPtag e.hdr) 1
    else
      let l := s.laneAt r
      let s := s.postNotice r (noticeWords 0x06 l.part 0 0 0 (s.die (dieOf r.core)).dtc (word c) (word (hdrSrc e.hdr)))
      if hdrLn e.hdr then (s.recordDone r (BitVec.ofNat 16 (bits e.w2 47 32)) 0xFF).1 else s

/-- A lane parks at dispatch because its table read met a fate (R205). -/
def State.parkDispatch (s : State) (r : LaneRef) (c : BitVec 8) (entry : Word) : State :=
  let s := s.trace r 4 (word c.toNat)
  let l := (s.laneAt r).trapRegs c entry 0 (s.die (dieOf r.core)).dtc
  (s.setLaneAt r { l with run := .parked }).sendReport r (trapReport c entry 0 r)

/-- The oldest message of an idle lane meets its fate (R205, R206, R212). -/
def State.dispatchHead (s : State) (r : LaneRef) : State :=
  match (s.laneAt r).ring with
  | [] => s
  | e :: _ =>
    let c := hdrClass e.hdr
    match s.tableEntry r c with
    | .error (.trap s x _) => s.parkDispatch r x ((s.laneAt r).handlerbase + word (64 * c))
    | .error (.wait s _) => s
    | .ok (s, x) =>
      if c = 63 then if bit x 0 then s.begin_ r e (ringAddr r e.slot + 64) else s.unbound r e
      else if entryValid x then s.begin_ r e x
      else s.unbound r e

/-- Management lane 0. -/
def mgmtLane0 : LaneRef := ⟨Config.mgmtCore, 0⟩

/-- Does an alert go before what lane `r` does next (R326)? One is queued at lane 0 of the management core, which is in no trap
handler, and entry 0 is valid, or its read is held by a migration. -/
def State.alertFirst (s : State) (r : LaneRef) : Bool :=
  r == mgmtLane0 && !s.mgmt.alerts.isEmpty && !(s.laneAt r).intrap && (s.handlerHeld r || (s.trapHandler r).2.isSome)

/-- May a lane dispatch: idle, free to run, no trap or alert due first (R166, R326), a message accepted (R206), and its quad not
disabled (R352)? -/
def State.canDispatch (s : State) (r : LaneRef) : Bool :=
  !s.mgmt.unrep.contains (r.core / 4) && (s.laneAt r).run == .idle && s.free (s.laneAt r) && (s.laneAt r).due.isEmpty &&
    !(s.laneAt r).ring.isEmpty && !s.alertFirst r

/-- Dispatch goes on with the next message until one begins an activation (R205). -/
def State.dispatchLoop (s : State) (r : LaneRef) : Nat → State
  | 0 => s
  | n + 1 => if s.canDispatch r then (s.dispatchHead r).dispatchLoop r n else s

/-- Dispatch at an idle lane (R205, R206). -/
def State.dispatchNow (s : State) (r : LaneRef) : State := s.dispatchLoop r (s.laneAt r).ring.length

/-- The pool after the end of a tile activation (R235): a page is freed, a close tile closes the pool. -/
def Pool.endTile (p : Option Pool) (e : RingEntry) : Option Pool :=
  match p, e.tile with
  | some q, some (page, kind) =>
    if kind = 3 then none else some { q with free := insertBy (fun a b => decide (a ≤ b)) page q.free }
  | p, _ => p

/-- The activation of a lane ends (R96, R195, R235): its message's slots are freed, INTRAP is cleared, the lane is idle. -/
def State.endActivation (s : State) (r : LaneRef) : State :=
  let l := s.laneAt r
  let done := { l with run := .idle, intrap := false, active := false, inl := false, stall := 0, waiting := none,
                       waitJob := none, spvEnd := false, dbgSkip := false, trapWait := false }
  match l.active, l.ring with
  | true, e :: t => s.setLaneAt r { done with ring := t, pool := Pool.endTile l.pool e }
  | _, _ => s.setLaneAt r done

/-- ENDH of lane `r` (R96): once the lane's own posted accesses are accepted the activation ends and the next one begins; where a
link holds one of them, ENDH waits (R331). -/
def State.endh (s : State) (r : LaneRef) : Except Stop State :=
  let s := s.drainLane r
  if s.landed r (· == .lane) then .ok (((s.trace r 2 (s.laneAt r).pc).endActivation r).dispatchNow r) else .error (.wait s 6)

/-- The end of inline code at a pc beyond its twelfth parcel (R69): as ENDH; the lane stays there while ENDH would wait. -/
def State.endPast (s : State) (r : LaneRef) : State :=
  match s.endh r with
  | .ok t => t
  | .error (.wait t _) => t
  | .error (.trap t _ _) => t

/-- DISPATCH (R205, R206): the event at an idle lane that holds an accepted message; otherwise nothing is due. -/
def execDispatch (core lane : Nat) (s : State) : Host.Outcome State Fault Refusal := .next (s.dispatchNow ⟨core, lane⟩)

/-- A lane's answered or waiting request is over and the lane resumes at the next instruction (R99, R106). -/
def State.resumeAt (s : State) (r : LaneRef) (len : Nat) : State :=
  s.setLaneAt r { (s.laneAt r).advance len with req := none }

end Sys2Proof.Machine
end

