-- ==== Sys2Proof/Machine/Scalar.lean ====
section
/-! DEFINITION. Integer instructions (R81 to R86). -/

namespace Sys2Proof.Machine

/-- The issuing lane completes a 32-bit instruction that writes scalar register `d` (R79). -/
def State.writeS (s : State) (d : Reg) (v : Word) : State := (s.setS d v).advance 32

/-- The outcome of a scalar instruction with one result. -/
def scalar (d : Reg) (v : Word) (s : State) : Host.Outcome State Fault Refusal := .next (s.writeS d v)

/-- The shift amount that a register gives (R82). -/
def shAmt (y : Word) : Nat := bits y 5 0

/-- Quotient and remainder of R83, signed. -/
def divS (x y : Word) : Word × Word :=
  if y = 0 then (BitVec.allOnes 64, x)
  else if x = BitVec.intMin 64 ∧ y = BitVec.allOnes 64 then (BitVec.intMin 64, 0)
  else (BitVec.ofInt 64 (x.toInt.tdiv y.toInt), BitVec.ofInt 64 (x.toInt.tmod y.toInt))

/-- Quotient and remainder of R83, unsigned. -/
def divU (x y : Word) : Word × Word :=
  if y = 0 then (BitVec.allOnes 64, x) else (word (x.toNat / y.toNat), word (x.toNat % y.toNat))

/-- The field mask of BINS (R84), for width `g + 1` at `pos`. -/
def insMask (g : BitVec 6) (pos : Nat) : Word := word (ones (g.toNat + 1) * 2 ^ pos)

/-- The value of BINS (R84). -/
def insField (old x : Word) (g : BitVec 6) (pos : Nat) : Word :=
  (old &&& ~~~insMask g pos) ||| (word (x.toNat * 2 ^ pos) &&& insMask g pos)

/-- The value of LUI (R86). -/
def luiValue (old : Word) (k : BitVec 2) (ins : Bool) (imm : BitVec 16) : Word :=
  let v := word (imm.toNat * 2 ^ (16 * k.toNat))
  if ins then (old &&& ~~~word (ones 16 * 2 ^ (16 * k.toNat))) ||| v else v

/-- 1 for true, 0 for false, as a word (R82). -/
def flag (b : Bool) : Word := if b then 1 else 0

/-- ADD (R82). -/
def execAdd (d a b : Reg) (s : State) : Host.Outcome State Fault Refusal := scalar d (s.s a + s.s b) s
/-- SUB (R82). -/
def execSub (d a b : Reg) (s : State) : Host.Outcome State Fault Refusal := scalar d (s.s a - s.s b) s
/-- AND (R82). -/
def execAnd (d a b : Reg) (s : State) : Host.Outcome State Fault Refusal := scalar d (s.s a &&& s.s b) s
/-- OR (R82). -/
def execOr (d a b : Reg) (s : State) : Host.Outcome State Fault Refusal := scalar d (s.s a ||| s.s b) s
/-- XOR (R82). -/
def execXor (d a b : Reg) (s : State) : Host.Outcome State Fault Refusal := scalar d (s.s a ^^^ s.s b) s
/-- SHL (R82). -/
def execShl (d a b : Reg) (s : State) : Host.Outcome State Fault Refusal := scalar d (s.s a <<< shAmt (s.s b)) s
/-- SHR (R82). -/
def execShr (d a b : Reg) (s : State) : Host.Outcome State Fault Refusal := scalar d (s.s a >>> shAmt (s.s b)) s
/-- SRA (R82). -/
def execSra (d a b : Reg) (s : State) : Host.Outcome State Fault Refusal :=
  scalar d ((s.s a).sshiftRight (shAmt (s.s b))) s
/-- MUL (R82). -/
def execMul (d a b : Reg) (s : State) : Host.Outcome State Fault Refusal := scalar d (s.s a * s.s b) s
/-- MULH (R82). -/
def execMulh (d a b : Reg) (s : State) : Host.Outcome State Fault Refusal :=
  scalar d (BitVec.ofInt 64 ((s.s a).toInt * (s.s b).toInt / 2 ^ 64)) s
/-- MULHU (R82). -/
def execMulhu (d a b : Reg) (s : State) : Host.Outcome State Fault Refusal :=
  scalar d (word ((s.s a).toNat * (s.s b).toNat / 2 ^ 64)) s
/-- DIV (R83). -/
def execDiv (d a b : Reg) (s : State) : Host.Outcome State Fault Refusal := scalar d (divS (s.s a) (s.s b)).1 s
/-- DIVU (R83). -/
def execDivu (d a b : Reg) (s : State) : Host.Outcome State Fault Refusal := scalar d (divU (s.s a) (s.s b)).1 s
/-- REM (R83). -/
def execRem (d a b : Reg) (s : State) : Host.Outcome State Fault Refusal := scalar d (divS (s.s a) (s.s b)).2 s
/-- REMU (R83). -/
def execRemu (d a b : Reg) (s : State) : Host.Outcome State Fault Refusal := scalar d (divU (s.s a) (s.s b)).2 s
/-- SLT (R82). -/
def execSlt (d a b : Reg) (s : State) : Host.Outcome State Fault Refusal := scalar d (flag ((s.s a).slt (s.s b))) s
/-- SLTU (R82). -/
def execSltu (d a b : Reg) (s : State) : Host.Outcome State Fault Refusal := scalar d (flag ((s.s a).ult (s.s b))) s
/-- MIN (R82). -/
def execMin (d a b : Reg) (s : State) : Host.Outcome State Fault Refusal :=
  scalar d (if (s.s a).sle (s.s b) then s.s a else s.s b) s
/-- MAX (R82). -/
def execMax (d a b : Reg) (s : State) : Host.Outcome State Fault Refusal :=
  scalar d (if (s.s a).sle (s.s b) then s.s b else s.s a) s
/-- MINU (R82). -/
def execMinu (d a b : Reg) (s : State) : Host.Outcome State Fault Refusal :=
  scalar d (if (s.s a).ule (s.s b) then s.s a else s.s b) s
/-- MAXU (R82). -/
def execMaxu (d a b : Reg) (s : State) : Host.Outcome State Fault Refusal :=
  scalar d (if (s.s a).ule (s.s b) then s.s b else s.s a) s
/-- CLZ (R82). -/
def execClz (d a : Reg) (s : State) : Host.Outcome State Fault Refusal := scalar d (word (clzN (s.s a).toNat 64)) s
/-- CTZ (R82). -/
def execCtz (d a : Reg) (s : State) : Host.Outcome State Fault Refusal := scalar d (word (ctzN (s.s a).toNat 64)) s
/-- POPC (R82). -/
def execPopc (d a : Reg) (s : State) : Host.Outcome State Fault Refusal := scalar d (word (popN (s.s a).toNat 64)) s
/-- BEXT (R84). -/
def execBext (d a b : Reg) (g : BitVec 6) (s : State) : Host.Outcome State Fault Refusal :=
  scalar d (zextN ((s.s a).toNat / 2 ^ shAmt (s.s b)) (g.toNat + 1)) s
/-- BINS (R84). -/
def execBins (d a b : Reg) (g : BitVec 6) (s : State) : Host.Outcome State Fault Refusal :=
  scalar d (insField (s.s d) (s.s a) g (shAmt (s.s b))) s
/-- SEXT (R84). -/
def execSext (d a : Reg) (g : BitVec 6) (s : State) : Host.Outcome State Fault Refusal :=
  scalar d (sextN (s.s a).toNat (g.toNat + 1)) s
/-- ZEXT (R84). -/
def execZext (d a : Reg) (g : BitVec 6) (s : State) : Host.Outcome State Fault Refusal :=
  scalar d (zextN (s.s a).toNat (g.toNat + 1)) s
/-- ADDI (R85). -/
def execAddi (d a : Reg) (imm : BitVec 12) (s : State) : Host.Outcome State Fault Refusal :=
  scalar d (s.s a + sextImm imm) s
/-- ANDI (R85). -/
def execAndi (d a : Reg) (imm : BitVec 12) (s : State) : Host.Outcome State Fault Refusal :=
  scalar d (s.s a &&& sextImm imm) s
/-- ORI (R85). -/
def execOri (d a : Reg) (imm : BitVec 12) (s : State) : Host.Outcome State Fault Refusal :=
  scalar d (s.s a ||| sextImm imm) s
/-- XORI (R85). -/
def execXori (d a : Reg) (imm : BitVec 12) (s : State) : Host.Outcome State Fault Refusal :=
  scalar d (s.s a ^^^ sextImm imm) s
/-- SHLI (R85). -/
def execShli (d a : Reg) (amt : BitVec 6) (s : State) : Host.Outcome State Fault Refusal :=
  scalar d (s.s a <<< amt.toNat) s
/-- SHRI (R85). -/
def execShri (d a : Reg) (amt : BitVec 6) (s : State) : Host.Outcome State Fault Refusal :=
  scalar d (s.s a >>> amt.toNat) s
/-- SRAI (R85). -/
def execSrai (d a : Reg) (amt : BitVec 6) (s : State) : Host.Outcome State Fault Refusal :=
  scalar d ((s.s a).sshiftRight amt.toNat) s
/-- SLTI (R85). -/
def execSlti (d a : Reg) (imm : BitVec 12) (s : State) : Host.Outcome State Fault Refusal :=
  scalar d (flag ((s.s a).slt (sextImm imm))) s
/-- SLTIU (R85). -/
def execSltiu (d a : Reg) (imm : BitVec 12) (s : State) : Host.Outcome State Fault Refusal :=
  scalar d (flag ((s.s a).ult (sextImm imm))) s
/-- LUI (R86). -/
def execLui (d : Reg) (k : BitVec 2) (ins : Bool) (imm : BitVec 16) (s : State) : Host.Outcome State Fault Refusal :=
  scalar d (luiValue (s.s d) k ins imm) s

end Sys2Proof.Machine
end

