-- ==== Sys2Proof/Machine/AddressControl.lean ====
section
/-! DEFINITION. Address instructions (R88 to R92) and control instructions (R93 to R96). -/

namespace Sys2Proof.Machine

/-- fit_addr (R24, R80): the address of element `i` of a fitted array of width `w`. -/
def fitAddr (b i : Word) (w : Nat) : Word :=
  let n := 64 / w
  b + word (64 * (i.toNat / n)) + word (w * (i.toNat % n))

/-- The index of EDIFF (R89), or none where the address starts no element. -/
def fitIndex (b a : Word) (w : Nat) : Option Word :=
  let n := 64 / w
  let o := (a - b).toNat
  let k := o % 64
  if k % w ≠ 0 ∨ n ≤ k / w then none else some (word (o / 64 * n + k / w))

/-- EADDR (R89). -/
def execEaddr (d a b : Reg) (g : BitVec 6) (s : State) : Host.Outcome State Fault Refusal :=
  if bits (s.s a) 5 0 ≠ 0 then .next (s.takeTrap Cause.alignment (s.s a))
  else scalar d (fitAddr (s.s a) (s.s b) (g.toNat + 1)) s

/-- EDIFF (R89). -/
def execEdiff (d a b : Reg) (g : BitVec 6) (s : State) : Host.Outcome State Fault Refusal :=
  if bits (s.s a) 5 0 ≠ 0 then .next (s.takeTrap Cause.alignment (s.s a))
  else match fitIndex (s.s a) (s.s b) (g.toNat + 1) with
    | none => .next (s.takeTrap Cause.alignment (s.s b))
    | some k => scalar d k s

/-- BALIGN (R90). -/
def execBalign (d a : Reg) (g : BitVec 6) (s : State) : Host.Outcome State Fault Refusal :=
  scalar d ((s.s a + word (ones g.toNat)) &&& ~~~word (ones g.toNat)) s

/-- WADDR (R90). -/
def execWaddr (d a : Reg) (s : State) : Host.Outcome State Fault Refusal := scalar d (s.s a &&& ~~~(0x3F : Word)) s

/-- The global address of a bit of a core's slice (R18). -/
def globalAddr (core off : Nat) : Word :=
  word (2 ^ 63 + coreX core * 2 ^ 50 + coreY core * 2 ^ 42 + core % 8 * 2 ^ 39 + off)

/-- The value of GADDR on a core, or none where it traps (R91). On the management core, which has no X and Y, a local address gives
the one of cluster (0, 0) (log entry 4, DESIGN CHOICE). -/
def gaddrValue (core : Nat) (x : Word) : Option Word :=
  let sp := bits x 63 59
  if sp = 0b11000 then
    if bits x 58 21 ≠ 0 then none
    else some (globalAddr (core / 4 * 4 + bits x 20 19) (bits x 18 0))
  else if sp = 0b10000 ∧ bits x 38 19 = 0 then some x
  else none

/-- GADDR (R91). -/
def execGaddr (d a : Reg) (s : State) : Host.Outcome State Fault Refusal :=
  match gaddrValue s.cur.core (s.s a) with
  | none => .next (s.takeTrap Cause.address (s.s a))
  | some x => scalar d x s

/-- The value of COORD (R92). On the management core, which has no number, .phys and .log read 0 (log entry 4, DESIGN CHOICE). -/
def State.coordValue (s : State) (sel : CoordSel) : Word :=
  let l := s.lane
  let p := if l.task = 0 then 0 else l.place.toNat
  match sel with
  | .phys => word (s.cur.core % 2 ^ 20)
  | .log => word (s.logical s.cur % 2 ^ 20)
  | .gxy => word (p % 256)
  | .gidx => word (p / 256 % 16)
  | .stage => word (p / 65536 % 256)

/-- COORD (R92). -/
def execCoord (d : Reg) (sel : CoordSel) (s : State) : Host.Outcome State Fault Refusal := scalar d (s.coordValue sel) s

/-- A conditional branch of `len` bits (R94). -/
def State.branch (s : State) (c : BCond) (x y : Word) (target : Word) (len : Nat) : State :=
  if c.holds x y then s.branchTo target else s.advance len

/-- BEQ (R94). -/
def execBeq (a b : Reg) (off : BitVec 13) (s : State) : Host.Outcome State Fault Refusal :=
  .next (s.branch .eq (s.s a) (s.s b) (parcelTarget s.lane.pc off) 32)
/-- BNE (R94). -/
def execBne (a b : Reg) (off : BitVec 13) (s : State) : Host.Outcome State Fault Refusal :=
  .next (s.branch .ne (s.s a) (s.s b) (parcelTarget s.lane.pc off) 32)
/-- BLT (R94). -/
def execBlt (a b : Reg) (off : BitVec 13) (s : State) : Host.Outcome State Fault Refusal :=
  .next (s.branch .lt (s.s a) (s.s b) (parcelTarget s.lane.pc off) 32)
/-- BGE (R94). -/
def execBge (a b : Reg) (off : BitVec 13) (s : State) : Host.Outcome State Fault Refusal :=
  .next (s.branch .ge (s.s a) (s.s b) (parcelTarget s.lane.pc off) 32)
/-- BLTU (R94). -/
def execBltu (a b : Reg) (off : BitVec 13) (s : State) : Host.Outcome State Fault Refusal :=
  .next (s.branch .ltu (s.s a) (s.s b) (parcelTarget s.lane.pc off) 32)
/-- BGEU (R94). -/
def execBgeu (a b : Reg) (off : BitVec 13) (s : State) : Host.Outcome State Fault Refusal :=
  .next (s.branch .geu (s.s a) (s.s b) (parcelTarget s.lane.pc off) 32)

/-- JAL (R94). -/
def execJal (d : Reg) (off : BitVec 21) (s : State) : Host.Outcome State Fault Refusal :=
  .next ((s.setS d (s.lane.pc + 32)).branchTo (parcelTarget s.lane.pc off))

/-- A jump through a register with its link, of `len` bits (R94). -/
def jumpReg (d : Reg) (t : Word) (len : Nat) (s : State) : Host.Outcome State Fault Refusal :=
  if bits t 3 0 ≠ 0 then .next (s.takeTrap Cause.alignment t)
  else .next ((s.setS d (s.lane.pc + word len)).branchTo t)

/-- JALR (R94). -/
def execJalr (d a : Reg) (imm : BitVec 12) (s : State) : Host.Outcome State Fault Refusal :=
  jumpReg d (s.s a + sextImm imm * 16) 32 s

/-- LOOP (R95). -/
def execLoop (a : Reg) (imm : BitVec 12) (s : State) : Host.Outcome State Fault Refusal :=
  let x := s.s a
  if x = 0 then .next (s.advance 32)
  else if x = 1 then .next (s.writeS a 0)
  else .next ((s.setS a (x - 1)).branchTo (parcelTarget s.lane.pc imm))

/-- ENDH (R96). -/
def execEndh (s : State) : Host.Outcome State Fault Refusal := finish .endh (s.endh s.cur)

end Sys2Proof.Machine
end

