-- ==== Sys2Proof/Machine/Issue.lean ====
section
/-! DEFINITION. Issue of matrix and Brook jobs, by instruction and through the FIFOs, with their checks (R142, R151 to R165,
R177 to R184), and the pops of the result FIFOs (R58). -/

namespace Sys2Proof.Machine

/-- The id after a job id, modulo 2^32 with 0 skipped (R142). -/
def nextJob (x : BitVec 32) : BitVec 32 := if x + 1 = 0 then 1 else x + 1

/-- A trap at the issuing lane with nothing changed. -/
def trapNow (s : State) (c : BitVec 8) (v : Word) : Except Stop State := .error (.trap s c v)

/-! Matrix jobs. -/

/-- Descriptor fields (R151). -/
def dLabel (x : Word) : BitVec 16 := BitVec.ofNat 16 (bits x 15 0)
def dKb (x : Word) : Nat := bits x 23 16
def dPb (x : Word) : Nat := bits x 27 24 + 1
def dLa (x : Word) : Bool := bit x 28
def dLb (x : Word) : Bool := bit x 29
def dRed (x : Word) : Bool := bit x 30
def dZero (x : Word) : Bool := bit x 31
def dNr (x : Word) : Nat := bits x 36 32
def dNc (x : Word) : Nat := bits x 41 37
def dTc (x : Word) : Nat := bits x 44 42
def dTr (x : Word) : Nat := bits x 47 45
def dTid (x : Word) : BitVec 8 := BitVec.ofNat 8 (bits x 55 48)

/-- Does a descriptor break a rule of R151 and R153? -/
def descBad (team : Bool) (x : Word) : Bool :=
  bits x 63 56 != 0 || dKb x == 0 || bits x 27 24 == 0 ||
  (if team then dNr x != 31 || dNc x != 31 else bits x 55 42 != 0)

/-- The check of a stream address (R153): the cause of its trap, if any. -/
def streamBad (a : Word) : Option (BitVec 8) :=
  match decodeWindow a with
  | some (.fmt _ _) => if bits a 4 0 ≠ 0 then some Cause.alignment else none
  | _ => some Cause.address

/-- The columns and rows of the group of a lane's task, 0 for none (R155). -/
def State.groupShape (s : State) (r : LaneRef) : Nat × Nat :=
  let l := s.laneAt r
  if l.task = 0 then (0, 0)
  else match (s.die (dieOf r.core)).task? l.task with
    | some t => (recCols t.record + 1, recRows t.record + 1)
    | none => (0, 0)

/-- The position of a lane's cluster in its group (R56). -/
def Lane.gxy (l : Lane) : Nat × Nat := (l.place.toNat % 16, l.place.toNat / 16 % 16)

/-- The physical cluster of a group's cluster (0,0) (R156). -/
def teamRoot (core : Nat) (l : Lane) : Nat := clusterOf core - l.gxy.1 * 256 - l.gxy.2

/-- The team checks of R155. -/
def State.teamBad (s : State) (r : LaneRef) (desc : Word) : Bool :=
  let g := s.groupShape r
  let p := (s.laneAt r).gxy
  (s.laneAt r).task == 0 || decide (g.1 < dTc desc + 1) || decide (g.2 < dTr desc + 1) ||
  decide (dTc desc < p.1) || decide (dTr desc < p.2)

/-- The issue checks of MMA and MMAT (R153, R155): the trap, if any. -/
def State.mmaBad (s : State) (r : LaneRef) (team : Bool) (a b desc : Word) : Option (BitVec 8 × Word) :=
  let p := (s.laneAt r).gxy
  if descBad team desc || (team && s.teamBad r desc) then some (Cause.illegal, desc)
  else
    let ca := if team && p.1 != 0 then none else streamBad a
    let cb := if team && p.2 != 0 then none else streamBad b
    match ca, cb with
    | some c, _ => some (c, a)
    | none, some c => some (c, b)
    | none, none => none

/-- A rounding mode that the accumulator instructions refuse: RS, written or dynamic (R157, R178). -/
def Lane.rmRefused (l : Lane) (rm : RmField) : Bool := l.rm rm == .rs

/-- The check of a label register (R157). -/
def labelBad (x : Word) : Bool := decide (2 ^ 16 ≤ x.toNat)

/-- An address in the local raw window or the global window (R162, R163)? -/
def inScratch (a : Word) : Bool :=
  match decodeWindow a with
  | some p => p.isSpad
  | none => false

/-- The issue checks of BIND (R157, R163): rounding mode, alignment, space. -/
def Lane.bindBad (l : Lane) (a b : Word) (rm : RmField) : Option (BitVec 8 × Word) :=
  if l.rmRefused rm then some (Cause.illegal, 4)
  else if bits a 5 0 ≠ 0 then some (Cause.alignment, a)
  else if bits b 5 0 ≠ 0 then some (Cause.alignment, b)
  else if !inScratch a then some (Cause.address, a)
  else if !inScratch b then some (Cause.address, b)
  else none

/-- A matrix job enters the core's queue, and its id (R142). -/
def State.enterMatrix (s : State) (r : LaneRef) (op : MOp) (fifo : Option Nat) : State × BitVec 32 :=
  let k := s.core r.core
  let l := s.laneAt r
  let j : MJob := ⟨k.mnext, r.lane, op, fifo, l.pc, l.task, teamRoot r.core l, l.gxy⟩
  (s.setCore r.core { k with mq := k.mq ++ [j], mnext := nextJob k.mnext }, k.mnext)

/-- release, the wait for a queue entry, and the entry (R142, R153, R157). -/
def State.issueMatrix (s : State) (r : LaneRef) (op : MOp) : Except Stop (State × BitVec 32) :=
  match s.release r .dev with
  | .error e => .error e
  | .ok s => if 16 ≤ (s.core r.core).mq.length then .error (.wait s 3) else .ok (s.enterMatrix r op none)

/-- Is a record's address one of scratchpad, translated space or the coherent window (R177, R185, R196)? -/
def recordSpace (a : Word) : Bool :=
  match decodeWindow a with
  | some (.dev _) | some (.fmt _ _) | none => false
  | _ => true

/-- The checks of a record of `n` words at an address (R27 as a load): space, alignment, then each word. -/
def State.recordCheck (s : State) (r : LaneRef) (a : Word) (n : Nat) : Except Stop State :=
  if !recordSpace a then .error (.trap s Cause.address a)
  else if bits a 5 0 ≠ 0 then .error (.trap s Cause.alignment a)
  else go s a n
where
  /-- The words in order. -/
  go (s : State) (a : Word) : Nat → Except Stop State
    | 0 => .ok s
    | n + 1 => match s.checkAccess r a 64 .table with
      | .error e => .error e
      | .ok (s, _) => go s (a + 64) n

/-- The RM code of a record (R165, R177): a mode, if the code is legal there. -/
def recordRm (l : Lane) (c : Nat) : Option RoundMode :=
  if c < 4 then rmOfCode c
  else if c = 7 ∧ l.rmode ≠ .rs then some l.rmode
  else none

/-- The matrix command of a record with its checks (R165): a trap or the job. Bits 63:12 and 3 of word 0 are reserved and
ignored (R2). For fields that R165 has as 0 otherwise, and gives no fate, the model's choice is log entry 103: a P that is not 0
traps under an OP other than 0 and 1, and B, RM and CM are ignored where the OP does not use them. -/
def State.matrixCommand (s : State) (r : LaneRef) (w : List Word) : Except (BitVec 8 × Word) MOp :=
  let l := s.laneAt r
  let w0 := w.getD 0 0
  let a := w.getD 1 0
  let b := w.getD 2 0
  let desc := w.getD 3 0
  let op := bits w0 2 0
  let p := bits w0 7 4
  if 5 < op ∨ (op < 2 ∧ p = 0) ∨ (2 ≤ op ∧ p ≠ 0) then .error (Cause.illegal, w0)
  else if op < 2 then
    match s.mmaBad r (op == 1) a b desc with
    | some e => .error e
    | none => .ok (.mma (op == 1) (p + 1) a b desc)
  else if desc ≠ 0 then .error (Cause.illegal, desc)
  else if op = 3 then
    match recordRm l (bits w0 10 8) with
    | none => .error (Cause.illegal, w0)
    | some rm => match l.bindBad a b (.fixed rm) with
      | some e => .error e
      | none => .ok (.bind a b rm (bit w0 11))
  else if labelBad a then .error (Cause.illegal, a)
  else
    let lab := BitVec.ofNat 16 a.toNat
    .ok (if op = 2 then .mzero lab else if op = 4 then .accsp lab else .accfl lab)

/-- A push of a record's address to MCMDQ (R58, R165, R184): it releases, reads the record, makes the instruction's checks
and enters the job. -/
def State.pushMatrix (s : State) (r : LaneRef) (a : Word) (sc : Scope) : Except Stop State :=
  match s.release r sc with
  | .error e => .error e
  | .ok s => match s.recordCheck r a 4 with
    | .error e => .error e
    | .ok s =>
      if 16 ≤ (s.core r.core).mq.length then .error (.wait s 3)
      else match s.readWords r a .table 4 with
        | .error e => .error e
        | .ok (s, w) => match s.matrixCommand r w with
          | .error (c, v) => .error (.trap s c v)
          | .ok op => .ok (s.enterMatrix r op (some (bits (w.getD 0 0) 2 0))).1

/-! Brook jobs (R177 to R179). -/

def bLen (x : Word) : Nat := bits x 31 0
def bRslot (x : Word) : Nat := bits x 35 32
def bRv (x : Word) : Bool := bit x 36
def bOp (x : Word) : Nat := bits x 38 37
def bBv (x : Word) : Bool := bit x 39
def bVer (x : Word) : BitVec 4 := BitVec.ofNat 4 (bits x 43 40)
def bEt (x : Word) : Nat := bits x 46 44
def bFmt (x : Word) : Nat := bits x 50 47
def bCb (x : Word) : Nat := bits x 53 51
def bLay (x : Word) : Bool := bit x 54
def bRm (x : Word) : Nat := bits x 57 55
def bHb (x : Word) : Bool := bit x 58

/-- The element type of a code (R66); 7 is reserved. -/
def elemOfCode : Nat → Option ElemTy
  | 0 => some .i8 | 1 => some .i16 | 2 => some .i32 | 3 => some .n32 | 4 => some .f16 | 5 => some .bf16 | 6 => some .f32
  | _ => none

/-- The codebook choice of a code (R66, R177); 5 to 7 are reserved. -/
def cbOfCode (c : Nat) : Option CbSel := if c < 4 then some (.cb (BitVec.ofNat 2 c)) else if c = 4 then some .auto else none

/-- Does a descriptor break a rule of R177? -/
def brookBad (src dst w2 : Word) : Bool :=
  let op := bOp w2
  bits src 5 0 != 0 || bits dst 5 0 != 0 || bits w2 63 59 != 0 || op == 3 || bLen w2 == 0 ||
  (bBv w2 && bVer w2 == 0) ||
  (if op = 0 then bLen w2 % 64 != 0 || bits w2 57 44 != 0
   else bRv w2 || (elemOfCode (bEt w2)).isNone || (blkFmtOf (bFmt w2)).isNone || (cbOfCode (bCb w2)).isNone ||
     (bCb w2 != 0 && !(bFmt w2 == 1 && op == 1)))

/-- In a format window or the device-register space (R178)? An address with such a space code and a reserved field that is not 0 is in
no space, and passes here (log entry 102). -/
def brookSpaceBad (a : Word) : Bool :=
  match decodeWindow a with
  | some (.fmt _ _) | some (.dev _) => true
  | _ => false

/-- B of R179 for one address; 0 for one that is in no space (log entry 102). -/
def brookLatency (a : Word) : Nat :=
  match decodeWindow a with
  | some (.raw _) => 40
  | some (.global _ _) => 400
  | some (.coh _) => 800
  | some .trans => 1600
  | _ => 0

/-- The promise of a job accepted at tick `a` (R179). -/
def promiseOf (a tprev : Nat) (src dst bar w2 : Word) : Nat :=
  let b := if bHb w2 then 4000
    else max (brookLatency src) (max (brookLatency dst) (if bar = 0 then 0 else brookLatency bar))
  max a tprev + b + (if bOp w2 = 0 then ceilDiv (bLen w2) 256 else 4 * bLen w2)

/-- Tprev of a cluster's Brook (R179): the promise of the latest accepted job that is unfinished. -/
def State.lastPromise (s : State) (cl : Nat) : Nat :=
  let js := (List.range 8).flatMap (fun k => (s.core (cl * 8 + k)).bq)
  (js.foldl (fun (m : Nat × Nat) j => if m.1 ≤ j.order + 1 then (j.order + 1, j.promise.toNat) else m) (0, 0)).2

/-- The checks of R178 on a descriptor read, and the rounding mode: a trap or the mode. `conv` is the kind that the
instruction demands, none for a FIFO record. -/
def Lane.brookCheck (l : Lane) (src dst w2 bar : Word) (conv : Option Bool) : Except (BitVec 8 × Word) RoundMode :=
  let rm := if bOp w2 = 0 then some RoundMode.rne else recordRm l (bRm w2)
  let kindBad := match conv with
    | some c => c == (bOp w2 == 0)
    | none => false
  match rm with
  | none => .error (Cause.illegal, w2)
  | some m =>
    if brookBad src dst w2 || kindBad || bBv w2 != (bar != 0) then .error (Cause.illegal, w2)
    else if brookSpaceBad src then .error (Cause.address, src)
    else if brookSpaceBad dst then .error (Cause.address, dst)
    else if bar != 0 && !inScratch bar then .error (Cause.address, bar)
    else if bits bar 5 0 ≠ 0 then .error (Cause.alignment, bar)
    else .ok m

/-- A Brook job enters the core's queue (R177, R182): its id and promise. -/
def State.enterBrook (s : State) (r : LaneRef) (src dst w2 bar : Word) (rm : RoundMode) (fifo : Bool) :
    State × BitVec 32 × Word :=
  let k := s.core r.core
  let cl := clusterOf r.core
  let c := s.cluster cl
  let t := word (promiseOf (s.die (dieOf r.core)).dtc.toNat (s.lastPromise cl) src dst bar w2)
  let j : BJob := ⟨k.bnext, r.lane, src, dst, w2, bar, rm, fifo, (s.laneAt r).pc, t, c.border, false⟩
  let s := s.setCore r.core { k with bq := k.bq ++ [j], bnext := nextJob k.bnext }
  let c := { c with border := c.border + 1 }
  let c := if bRv w2 then
      { c with resid := c.resid.set (bRslot w2 % 16) (.filling r.core k.bnext) (Nat.mod_lt _ (by decide)) }
    else c
  (s.setCluster cl c, k.bnext, t)

/-- The reading of a Brook descriptor (R178): its alignment, its access checks, the release, its words, and their rules. The
answer is its four words, `bar` in place of the last where the instruction names the barrier, with the rounding mode. -/
def State.readBrook (s : State) (r : LaneRef) (a : Word) (bar : Option Word) (conv : Option Bool) (sc : Scope) :
    Except Stop (State × List Word × RoundMode) :=
  if bits a 5 0 ≠ 0 then .error (.trap s Cause.alignment a)
  else match s.recordCheck r a 4 with
    | .error e => .error e
    | .ok s => match s.release r sc with
      | .error e => .error e
      | .ok s => match s.readWords r a .table (if bar.isSome then 3 else 4) with
        | .error e => .error e
        | .ok (s, w) =>
          let w := w.take 3 ++ [bar.getD (w.getD 3 0)]
          match (s.laneAt r).brookCheck (w.getD 0 0) (w.getD 1 0) (w.getD 2 0) (w.getD 3 0) conv with
          | .error (c, v) => .error (.trap s c v)
          | .ok rm => .ok (s, w, rm)

/-- The descriptor of a Brook job at its issue: the one that the waiting instruction has read (R178), or a reading now. -/
def State.brookDesc (s : State) (r : LaneRef) (a : Word) (bar : Option Word) (conv : Option Bool) (sc : Scope) :
    Except Stop (State × List Word × RoundMode) :=
  match (s.laneAt r).waiting, (s.laneAt r).kept.desc with
  | some _, some (w, rm) => .ok (s, w, rm)
  | _, _ => s.readBrook r a bar conv sc

/-- Issue of a Brook job (R178): its descriptor, read once, then a queue entry. -/
def State.issueBrook (s : State) (r : LaneRef) (a : Word) (bar : Option Word) (conv : Option Bool) (sc : Scope) :
    Except Stop (State × BitVec 32 × Word) :=
  match s.brookDesc r a bar conv sc with
  | .error e => .error e
  | .ok (s, w, rm) =>
    if 16 ≤ (s.core r.core).bq.length then
      .error (.wait (s.setLaneAt r { s.laneAt r with kept := { (s.laneAt r).kept with desc := some (w, rm) } }) 3)
    else .ok (s.enterBrook r (w.getD 0 0) (w.getD 1 0) (w.getD 2 0) (w.getD 3 0) rm bar.isNone)

/-- A push of a record's address to BCMDQ (R58, R178, R184). -/
def State.pushBrook (s : State) (r : LaneRef) (a : Word) (sc : Scope) : Except Stop State :=
  match s.release r sc with
  | .error e => .error e
  | .ok s => match s.issueBrook r a none none sc with
    | .error e => .error e
    | .ok (s, _, _) => .ok s

/-- A push to a command FIFO (R58, R184). -/
def State.pushFifo (s : State) (r : LaneRef) (f : Fifo) (a : Word) (sc : Scope) : Except Stop State :=
  match f with
  | .matrix => s.pushMatrix r a sc
  | .brook => s.pushBrook r a sc

/-- A pop of a result FIFO, with its acquire (R58, R184): an empty FIFO stalls the lane. -/
def State.popFifo (s : State) (r : LaneRef) (f : Fifo) : Except Stop (State × Word) :=
  let k := s.core r.core
  match f with
  | .matrix => match k.mresq with
    | [] => .error (.wait s 3)
    | x :: t => .ok (s.setCore r.core { k with mresq := t }, x)
  | .brook => match k.bresq with
    | [] => .error (.wait s 3)
    | x :: t => .ok (s.setCore r.core { k with bresq := t }, x)

/-! Device registers as loads and stores meet them. -/

/-- A load of `w` bits from a device register (R21, R58). -/
def State.devLoad (s : State) (r : LaneRef) (off w : Nat) : Except Stop (State × Nat) :=
  match devRegAt (decide (Config.mgmtCore ≤ r.core)) off with
  | some .mresq => match s.popFifo r .matrix with
    | .error e => .error e
    | .ok (s, x) => .ok (s, x.toNat)
  | some .bresq => match s.popFifo r .brook with
    | .error e => .error e
    | .ok (s, x) => .ok (s, x.toNat)
  | some d => .ok (s, bits (s.devRead r d) (off % 64 + w - 1) (off % 64))
  | none => .ok (s, 0)

/-- A store of `w` bits to a device register with the scope of its release (R21, R58): it takes effect at once. -/
def State.devStore (s : State) (r : LaneRef) (off w x : Nat) (sc : Scope) : Except Stop State :=
  match devRegAt (decide (Config.mgmtCore ≤ r.core)) off with
  | some .mcmdq => s.pushFifo r .matrix (word x) sc
  | some .bcmdq => s.pushFifo r .brook (word x) sc
  | some d => .ok (s.devWrite r d (maskAt (off % 64) w) (placeAt (off % 64) w x))
  | none => .ok s

end Sys2Proof.Machine
end

