-- ==== Sys2Proof/Machine/MemoryInstrs.lean ====
section
/-! DEFINITION. LD and ST, tagged instructions with their waits, FENCE, SPILLM and FILLM, AMOs and reductions (R99 to R112). -/

namespace Sys2Proof.Machine

/-! LD and ST (R101). -/

/-- A scalar load of `w` bits by the issuing lane (R101): a window's elements, a device register, or the bits at the home. -/
def State.loadBits (s : State) (r : LaneRef) (a : Word) (w : Nat) : Except Stop (State × Nat) :=
  match s.checkAccess r a w .load with
  | .error e => .error e
  | .ok (s, t) =>
    match t.place with
    | .fmt win off => s.windowRead r a win off w
    | .dev off => s.devLoad r off w
    | _ =>
      let (s, x, _) := s.homeWord r t.pa
      .ok (s, bits x (t.sh + w - 1) t.sh)

/-- A load into a scalar register, completing an instruction of `len` bits (R101). -/
def State.loadTo (s : State) (d : Reg) (a : Word) (w : Nat) (sx : Bool) (len : Nat) : Except Stop State :=
  match s.loadBits s.cur a w with
  | .error e => .error e
  | .ok (s, x) => .ok ((s.setS d (if sx then sextN x w else zextN x w)).advance len)

/-- A store of the low `w` bits of a value with an optional release, completing an instruction of `len` bits (R101). -/
def State.storeFrom (s : State) (v : Word) (a : Word) (w : Nat) (rel : Option Scope) (len : Nat) : Except Stop State :=
  match s.checkAccess s.cur a w .store with
  | .error e => .error e
  | .ok (s, t) => match s.releaseOpt s.cur rel with
    | .error e => .error e
    | .ok s =>
      match t.place with
      | .dev off => match s.devStore s.cur off w (bits v (w - 1) 0) (rel.getD .dev) with
        | .error e => .error e
        | .ok s => .ok (s.advance len)
      | _ => .ok ((s.postStore s.cur .lane s.turn a t w (bits v (w - 1) 0)).advance len)

/-- LD, M form (R65, R101). -/
def execLdM (d b : Reg) (w : BitVec 5) (off : BitVec 11) (s : State) : Host.Outcome State Fault Refusal :=
  finish (.ldM d b w off) (s.loadTo d (mAddr (s.s b) off (mWidth w)) (mWidth w) false 32)

/-- ST, M form (R65, R101). -/
def execStM (d b : Reg) (w : BitVec 5) (off : BitVec 11) (s : State) : Host.Outcome State Fault Refusal :=
  finish (.stM d b w off) (s.storeFrom (s.s d) (mAddr (s.s b) off (mWidth w)) (mWidth w) none 32)

/-- LD, A form (R101). The acquire holds whenever the lane issues (R102). -/
def execLdA (d a : Reg) (w : BitVec 6) (sx : Bool) (acq : Option Scope) (s : State) : Host.Outcome State Fault Refusal :=
  finish (.ldA d a w sx acq) (s.loadTo d (s.s a) (w.toNat + 1) sx 32)

/-- ST, A form (R101). -/
def execStA (d a : Reg) (w : BitVec 6) (rel : Option Scope) (s : State) : Host.Outcome State Fault Refusal :=
  finish (.stA d a w rel) (s.storeFrom (s.s d) (s.s a) (w.toNat + 1) rel 32)

/-! Tagged requests that may wait at a home (R104, R106). -/

/-- Has the quad port of a word room for another parked request (R106)? -/
def State.parkRoom (s : State) (pa : Nat) : Bool :=
  decide ((s.parked.filter (fun r => match (s.laneAt r).req with
    | some q => pathOf q.pa == pathOf pa
    | none => false)).length < 64)

/-- A request of lane `r` arrives at its home (R104, R106): it is completed, parked, or refused for want of room. -/
def State.arriveRequest (s : State) (r : LaneRef) (pa : Nat) (k : Park) : State :=
  let s := s.drainPath r (pathOf pa)
  let room := s.parkRoom pa
  let old := s.tag pa
  let s := (s.setLaneAt r { s.laneAt r with req := some ⟨pa, k, .held⟩ }).tryRequest pa (fun _ => true) r
  match (s.laneAt r).req with
  | some q =>
    if q.phase = .held then
      if room then { s with parked := s.parked ++ [r] }
      else s.setLaneAt r { s.laneAt r with req := some { q with phase := .sent } }
    else match k with
      | .ste _ => s.reexamine pa old
      | _ => s
  | none => s

/-- The answer that a home holds for lane `r`, if its request is complete. -/
def Lane.answer (l : Lane) : Option (Park × Word) :=
  match l.req with
  | some ⟨_, k, .answered v⟩ => some (k, v)
  | _ => none

/-- The completion of LDF, LDW and STE by the home's answer (R104). -/
def State.completeTag (s : State) (r : LaneRef) (k : Park) (v : Word) : State :=
  match k with
  | .ldf d len => (s.setLaneAt r ((s.laneAt r).setS d v)).resumeAt r len
  | .ldw d _ => (s.setLaneAt r ((s.laneAt r).setS d v)).resumeAt r 32
  | _ => s.resumeAt r 32

/-- A tagged request of the issuing lane: the checks, the release, the arrival; its wait has STALL = 1 (R104, R106). -/
def State.tagRequest (s : State) (a : Word) (acc : Access) (k : Park) (rel : Option Scope) : Except Stop State :=
  match s.checkAccess s.cur a 64 acc with
  | .error e => .error e
  | .ok (s, t) => match s.releaseOpt s.cur rel with
    | .error e => .error e
    | .ok s =>
      let s := s.arriveRequest s.cur t.pa k
      match s.lane.answer with
      | some (k, v) => .ok (s.completeTag s.cur k v)
      | none => .error (.wait s 1)

/-- LDF (R104). -/
def execLdf (d a : Reg) (acq : Option Scope) (s : State) : Host.Outcome State Fault Refusal :=
  finish (.ldf d a acq) (s.tagRequest (s.s a) .tload (.ldf d 32) none)

/-- LDW (R104). -/
def execLdw (d a : Reg) (ver : BitVec 4) (acq : Option Scope) (s : State) : Host.Outcome State Fault Refusal :=
  finish (.ldw d a ver acq) (s.tagRequest (s.s a) .tload (.ldw d ver) none)

/-- STE (R104). -/
def execSte (d a : Reg) (rel : Option Scope) (s : State) : Host.Outcome State Fault Refusal :=
  finish (.ste d a rel) (s.tagRequest (s.s a) .tagStep (.ste (s.s d)) rel)

/-- A posted tagged access of the issuing lane (R104). -/
def State.tagPost (s : State) (a : Word) (op : WriteOp) (rel : Option Scope) : Except Stop State :=
  match s.checkAccess s.cur a 64 .tstore with
  | .error e => .error e
  | .ok (s, t) => match s.releaseOpt s.cur rel with
    | .error e => .error e
    | .ok s => .ok ((s.post s.cur .lane s.turn a t op).advance 32)

/-- STV (R104). -/
def execStv (d a : Reg) (ver : BitVec 4) (rel : Option Scope) (s : State) : Host.Outcome State Fault Refusal :=
  finish (.stv d a ver rel) (s.tagPost (s.s a) (.stv (s.s d) ver) rel)

/-- RECLAIM (R104). -/
def execReclaim (a : Reg) (rel : Option Scope) (s : State) : Host.Outcome State Fault Refusal :=
  finish (.reclaim a rel) (s.tagPost (s.s a) .reclaim rel)

/-- TAGRD (R104). -/
def execTagrd (d a : Reg) (s : State) : Host.Outcome State Fault Refusal :=
  finish (.tagrd d a) (match s.checkAccess s.cur (s.s a) 64 .tload with
    | .error e => .error e
    | .ok (s, t) =>
      let (s, _, g) := s.homeWord s.cur t.pa
      .ok (s.writeS d (word g.toNat)))

/-! FENCE (R102, R103). -/

/-- Parcels fetched ahead of the next instruction are discarded (R60, R103). -/
def Lane.dropAhead (l : Lane) : Lane := { l with ahead := none }

/-- The release that FENCE.rel leaves for later stores to wait on (R103): a scope of .lane leaves none. -/
def Lane.holdRelease (l : Lane) (sc : Scope) : Lane :=
  if sc = .lane then l else if l.relHold = some .sys then l else { l with relHold := some sc }

/-- The completion of a fence with its I bit. -/
def State.fenced (s : State) (i : Bool) : State :=
  let s := if i then s.setLane s.lane.dropAhead else s
  s.advance 32

/-- FENCE (R103): .acq already holds; .rel holds back later stores until its release is satisfied; .full waits for it. -/
def execFence (k : FenceKind) (s : State) : Host.Outcome State Fault Refusal :=
  finish (.fence k) (match k with
    | .ionly => .ok (s.fenced true)
    | .acq _ i => .ok (s.fenced i)
    | .rel sc i => .ok ((s.setLane (s.lane.holdRelease sc)).fenced i)
    | .full sc i => match s.release s.cur sc with
      | .error e => .error e
      | .ok s => .ok (s.fenced i))

/-! SPILLM and FILLM (R108). -/

/-- Is an address in a space that a spill area may lie in (R108)? -/
def spillSpace (a : Word) : Bool :=
  match decodeWindow a with
  | some (.raw _) | some (.global _ _) | some .trans => true
  | _ => false

/-- The words of one register at an address pass their checks (R108). -/
def State.spillTargets (s : State) (r : LaneRef) (a : Word) (k : Access) : Nat → Except Stop (State × List (Word × Target))
  | 0 => .ok (s, [])
  | n + 1 =>
    if !spillSpace a then .error (.trap s Cause.address a)
    else match s.fates r a 64 k with
      | .error e => .error e
      | .ok (s, t) => match s.spillTargets r (a + 64) k n with
        | .error e => .error e
        | .ok (s, ts) => .ok (s, (a, t) :: ts)

/-- The value of register `n` of a file as 64-bit words (R108); s0 stores as zero. -/
def Lane.spillWords (l : Lane) (file : Bool) (n : Nat) : List Word :=
  if file then (List.range 4).map (fun i => BitVec.ofNat 64 ((l.v (BitVec.ofNat 5 n)).toNat / 2 ^ (64 * i)))
  else [l.s (BitVec.ofNat 5 n)]

/-- The lane with register `n` of a file written from 64-bit words; a write to s0 is discarded (R108). -/
def Lane.fillWords (l : Lane) (file : Bool) (n : Nat) (ws : List Word) : Lane :=
  if file then l.setV (BitVec.ofNat 5 n) (BitVec.ofNat 256 (ws.zipIdx.foldl (fun x w => x + w.1.toNat * 2 ^ (64 * w.2)) 0))
  else l.setS (BitVec.ofNat 5 n) (ws.headD 0)

/-- A SPILLM or FILLM that waits goes on with register `n`. -/
def State.keepSpill (s : State) (n : Nat) : State :=
  s.setLane { s.lane with kept := { s.lane.kept with spillAt := some (BitVec.ofNat 5 n) } }

/-- A fault at register `n`: earlier stores are accepted, SPX names the register, TRAPVAL counts those moved (R108). An access
that a migration or a link holds goes on with the register later, and SPX and SPV stay. -/
def spillStop (n d : Nat) : Stop → Stop
  | .trap s' c _ =>
    let s' := s'.drainLane s'.cur
    if s'.landed s'.cur (· == .lane) then .trap (s'.setLane { s'.lane with spx := BitVec.ofNat 5 n, spv := true }) c (word (n - d))
    else .wait (s'.keepSpill n) 6
  | .wait s' c => .wait (s'.keepSpill n) c

/-- The registers `n` up, `m` of them, move between the file and the spill area in ascending order (R108). -/
def State.moveRegs (s : State) (spill file : Bool) (first d : Nat) : Nat → Nat → Except Stop State
  | _, 0 => .ok s
  | n, m + 1 =>
    let k := if file then 4 else 1
    let a := word (first + (n - d) * 64 * k)
    match s.spillTargets s.cur a (if spill then .store else .load) k with
    | .error e => .error (spillStop n d e)
    | .ok (s, ts) =>
      let s := if spill then
          (ts.zip (s.lane.spillWords file n)).foldl (fun s x => s.postStore s.cur .lane s.turn x.1.1 x.1.2 64 x.2.toNat) s
        else
          let (s, ws) := ts.foldl (fun (acc : State × List Word) x =>
            let (s, w, _) := acc.1.homeWord s.cur x.2.pa
            (s, acc.2 ++ [w])) (s, [])
          s.setLane (s.lane.fillWords file n ws)
      s.moveRegs spill file first d (n + 1) m

/-- A watched address in the span that a spill or fill moves (R334). -/
def State.spillWatch (s : State) (spill : Bool) (a : Nat) (n : Nat) : Option Word :=
  firstSome (fun i => s.watched s.cur (word (a + 64 * i)) 64 (if spill then .store else .load)) (List.range n)

/-- SPILLM and FILLM of the issuing lane (R108). -/
def State.spillFill (s : State) (spill : Bool) (d a : Reg) (file : Bool) : Except Stop State :=
  let l := s.lane
  let k := if file then 4 else 1
  let z := 64 * k
  let size := (a.toNat - d.toNat + 1) * z
  let ptr := l.spillptr.toNat
  let ok := if spill then decide (l.spillbase.toNat ≤ ptr) && decide (ptr + size ≤ l.spilllim.toNat)
    else decide (ptr ≤ l.spilllim.toNat) && decide (l.spillbase.toNat + size ≤ ptr)
  let first := if spill then ptr else ptr - size
  let fresh := if l.spv && decide (d.toNat ≤ l.spx.toNat) && decide (l.spx.toNat ≤ a.toNat) then l.spx.toNat else d.toNat
  let start := if l.waiting.isSome then (l.kept.spillAt.map (·.toNat)).getD fresh else fresh
  let s := if l.spvEnd then s.setLane { l with spv := false, spvEnd := false } else s
  if !ok then .error (.trap s Cause.spillLimit (word size))
  else match s.spillWatch spill (first + (start - d.toNat) * z) ((a.toNat + 1 - start) * k) with
    | some x => .error (.trap s Cause.breakpoint x)
    | none => match s.moveRegs spill file first d.toNat start (a.toNat + 1 - start) with
      | .error e => .error e
      | .ok s => .ok ((s.setLane { s.lane with spillptr := word (if spill then ptr + size else ptr - size) }).advance 32)

/-- SPILLM (R108). -/
def execSpillm (d a : Reg) (file : Bool) (s : State) : Host.Outcome State Fault Refusal :=
  finish (.spillm d a file) (s.spillFill true d a file)

/-- FILLM (R108). -/
def execFillm (d a : Reg) (file : Bool) (s : State) : Host.Outcome State Fault Refusal :=
  finish (.fillm d a file) (s.spillFill false d a file)

end Sys2Proof.Machine
end

