-- ==== Sys2Proof/Machine/Atomics.lean ====
section
/-! DEFINITION. AMOs and reductions (R109 to R111). -/

namespace Sys2Proof.Machine

/-- Width of an AMO or a reduction (R109). -/
def amoWidth (w64 : Bool) : Nat := if w64 then 64 else 32

/-- The release of an AMO's ordering (R63). -/
def amoRel : AmoOrd → Option Scope
  | .rel sc => some sc
  | .acqRel sc => some sc
  | .relaxed => none
  | .acq _ => none

/-- Signed minimum or maximum at a width, on codes (R110). -/
def minS (w x y : Nat) : Nat := if sgN x w ≤ sgN y w then x else y
def maxS (w x y : Nat) : Nat := if sgN x w ≤ sgN y w then y else x

/-- An AMO of the issuing lane (R110): the checks, the release, one step at the home, the old value sign-extended. -/
def State.amo (s : State) (d a : Reg) (w64 : Bool) (ord : AmoOrd) (f : Nat → Nat → Nat) (y : Word) : Except Stop State :=
  let w := amoWidth w64
  match s.checkAccess s.cur (s.s a) w .amo with
  | .error e => .error e
  | .ok (s, t) => match s.releaseOpt s.cur (amoRel ord) with
    | .error e => .error e
    | .ok s =>
      let s := s.drainPath s.cur (pathOf t.pa)
      let (s, old) := s.rmwAt t.pa t.sh w s.lane.part (some s.cur) (fun o => f o (bits y (w - 1) 0))
      .ok (s.writeS d (sextN old w))

/-- A reduction of the issuing lane (R110). -/
def State.reduce (s : State) (a b : Reg) (w64 : Bool) (rel : Option Scope) (fn : RedFn) : Except Stop State :=
  let w := amoWidth w64
  let y := s.s b
  match s.checkAccess s.cur (s.s a) w .red with
  | .error e => .error e
  | .ok (s, t) => match s.releaseOpt s.cur rel with
    | .error e => .error e
    | .ok s' => .ok ((s'.post s.cur .lane s.turn (s.s a) t (.red fn t.sh w y)).advance 32)

/-- AMOADD (R110). -/
def execAmoadd (d a b : Reg) (w64 : Bool) (ord : AmoOrd) (s : State) : Host.Outcome State Fault Refusal :=
  finish (.amoadd d a b w64 ord) (s.amo d a w64 ord (fun o y => (o + y) % 2 ^ amoWidth w64) (s.s b))
/-- AMOAND (R110). -/
def execAmoand (d a b : Reg) (w64 : Bool) (ord : AmoOrd) (s : State) : Host.Outcome State Fault Refusal :=
  finish (.amoand d a b w64 ord) (s.amo d a w64 ord (fun o y => o &&& y) (s.s b))
/-- AMOOR (R110). -/
def execAmoor (d a b : Reg) (w64 : Bool) (ord : AmoOrd) (s : State) : Host.Outcome State Fault Refusal :=
  finish (.amoor d a b w64 ord) (s.amo d a w64 ord (fun o y => o ||| y) (s.s b))
/-- AMOXOR (R110). -/
def execAmoxor (d a b : Reg) (w64 : Bool) (ord : AmoOrd) (s : State) : Host.Outcome State Fault Refusal :=
  finish (.amoxor d a b w64 ord) (s.amo d a w64 ord (fun o y => o ^^^ y) (s.s b))
/-- AMOMIN (R110). -/
def execAmomin (d a b : Reg) (w64 : Bool) (ord : AmoOrd) (s : State) : Host.Outcome State Fault Refusal :=
  finish (.amomin d a b w64 ord) (s.amo d a w64 ord (minS (amoWidth w64)) (s.s b))
/-- AMOMAX (R110). -/
def execAmomax (d a b : Reg) (w64 : Bool) (ord : AmoOrd) (s : State) : Host.Outcome State Fault Refusal :=
  finish (.amomax d a b w64 ord) (s.amo d a w64 ord (maxS (amoWidth w64)) (s.s b))
/-- AMOMINU (R110). -/
def execAmominu (d a b : Reg) (w64 : Bool) (ord : AmoOrd) (s : State) : Host.Outcome State Fault Refusal :=
  finish (.amominu d a b w64 ord) (s.amo d a w64 ord (fun o y => Nat.min o y) (s.s b))
/-- AMOMAXU (R110). -/
def execAmomaxu (d a b : Reg) (w64 : Bool) (ord : AmoOrd) (s : State) : Host.Outcome State Fault Refusal :=
  finish (.amomaxu d a b w64 ord) (s.amo d a w64 ord (fun o y => Nat.max o y) (s.s b))
/-- AMOSWAP (R110). -/
def execAmoswap (d a b : Reg) (w64 : Bool) (ord : AmoOrd) (s : State) : Host.Outcome State Fault Refusal :=
  finish (.amoswap d a b w64 ord) (s.amo d a w64 ord (fun _ y => y) (s.s b))
/-- AMOCAS (R110): s[d] is the comparand. -/
def execAmocas (d a b : Reg) (w64 : Bool) (ord : AmoOrd) (s : State) : Host.Outcome State Fault Refusal :=
  finish (.amocas d a b w64 ord)
    (s.amo d a w64 ord (fun o y => if o = bits (s.s d) (amoWidth w64 - 1) 0 then y else o) (s.s b))

/-- REDADD (R110). -/
def execRedadd (a b : Reg) (w64 : Bool) (rel : Option Scope) (s : State) : Host.Outcome State Fault Refusal :=
  finish (.redadd a b w64 rel) (s.reduce a b w64 rel .add)
/-- REDFADD (R110). -/
def execRedfadd (a b : Reg) (rel : Option Scope) (s : State) : Host.Outcome State Fault Refusal :=
  finish (.redfadd a b rel) (s.reduce a b false rel .fadd)
/-- REDMIN (R110). -/
def execRedmin (a b : Reg) (w64 : Bool) (rel : Option Scope) (s : State) : Host.Outcome State Fault Refusal :=
  finish (.redmin a b w64 rel) (s.reduce a b w64 rel .min)
/-- REDMAX (R110). -/
def execRedmax (a b : Reg) (w64 : Bool) (rel : Option Scope) (s : State) : Host.Outcome State Fault Refusal :=
  finish (.redmax a b w64 rel) (s.reduce a b w64 rel .max)
/-- REDOR (R110). -/
def execRedor (a b : Reg) (w64 : Bool) (rel : Option Scope) (s : State) : Host.Outcome State Fault Refusal :=
  finish (.redor a b w64 rel) (s.reduce a b w64 rel .or)

end Sys2Proof.Machine
end

