-- ==== Sys2Proof/Machine/Handles.lean ====
section
/-! DEFINITION. Buffer handles and streams (R50, R51, R128 to R134), and the completion of every parked request (R99, R106). -/

namespace Sys2Proof.Machine

/-- Is a slot width in the list of R50? -/
def slotWidthOk (w : Nat) : Bool := isPow2 w || (w % 64 == 0 && w != 0)

/-- Is a handle valid (R50)? -/
def Handle.valid (h : Handle) : Bool := h.slots != 0 && h.role != 0 && slotWidthOk h.slotw.toNat

/-- Has a handle the role of a side: consumer for the head, producer for the tail (R128)? -/
def Handle.serves (h : Handle) (tail : Bool) : Bool := h.role.toNat.testBit (b2n tail)

/-- The address of the control word (R50). -/
def Handle.ctl (h : Handle) : Word := h.base - 64

/-- The address of the slot of a count (R50). -/
def Handle.slot (h : Handle) (c : Nat) : Word := h.base + word (h.slotw.toNat * (c % 2 ^ 32 % h.slots.toNat))

/-- TRAPVAL of a HANDLE_FAULT (R128). -/
def handleVal (h : HReg) (count : Nat) : Word := word (h.toNat + count % 2 ^ 32 * 2 ^ 32)

/-- A handle as an instruction uses it: valid, with the role of its side, and for a count of at most SLOTS (R50, R128). -/
def State.useHandle (s : State) (h : HReg) (tail : Bool) (slots count : Nat) : Except Stop Handle :=
  let x := s.lane.h h
  if !x.valid || !x.serves tail then .error (.trap s Cause.handle (handleVal h 0))
  else if x.slots.toNat < slots then .error (.trap s Cause.handle (handleVal h count))
  else .ok x

/-- The control word's home, by the fates of R27. -/
def State.ctlTarget (s : State) (r : LaneRef) (h : Handle) (k : Access) : Except Stop (State × Nat) :=
  match s.fates r h.ctl 64 k with
  | .error e => .error e
  | .ok (s, t) => .ok (s, t.pa)

/-- One advance at a control word's home (R131), or none where it is refused. -/
def State.advanceCtl (s : State) (r : LaneRef) (pa : Nat) (tail : Bool) (count slots : Nat) : Option State :=
  let s := s.drainPath r (pathOf pa)
  let p := (s.laneAt r).part
  let (s, x, _) := s.readHome pa p (some r)
  if tail then
    if count + ctlFilled x ≤ slots then
      some (s.storeAt pa (maskAt 32 32) (placeAt 32 32 (ctlTail x + count)) p)
    else none
  else
    if count ≤ ctlFilled x then
      some (s.storeAt pa (maskAt 0 32) (placeAt 0 32 (ctlHead x + count)) p)
    else none

/-- The first bits of a slot that LDH and STH move (R132). -/
def Handle.bits (h : Handle) : Nat := min h.slotw.toNat 64

/-- The control word that answers a stream wait is kept for the rest of the instruction (R134). -/
def Lane.keepAnswer (l : Lane) (v : Word) : Lane := { l with req := none, kept := { l.kept with waits := l.kept.waits ++ [v] } }

/-- The completion of a parked request of the issuing lane by its answer (R104, R130, R132); a stream's wait only ends. -/
def State.complete (s : State) (k : Park) (v : Word) : Except Stop State :=
  match k with
  | .ldh d h n =>
    let x := s.lane.h h
    match s.readBits s.cur (x.slot (ctlHead v + n)) x.bits .load with
    | .error e => .error e
    | .ok (s, y) => .ok ((s.setS d (word y)).resumeAt s.cur 32)
  | .sth d h n =>
    let x := s.lane.h h
    match s.storeBits s.cur (x.slot (ctlTail v + n)) x.bits (bits (s.s d) (x.bits - 1) 0) with
    | .error e => .error e
    | .ok s => .ok (s.resumeAt s.cur 32)
  | .stream _ | .streamOut _ _ => .ok (s.setLane (s.lane.keepAnswer v))
  | k => .ok (s.completeTag s.cur k v)

/-- A handle's wait at its control word (R130): completed, or parked with STALL = 2. -/
def State.handleWait (s : State) (h : Handle) (k : Park) : Except Stop State :=
  match s.ctlTarget s.cur h .table with
  | .error e => .error e
  | .ok (s, pa) =>
    let s := s.arriveRequest s.cur pa k
    match s.lane.answer with
    | some (k, v) => s.complete k v
    | none => .error (.wait s 2)

/-- HWAITF (R130). -/
def execHwaitf (h : HReg) (count : BitVec 12) (s : State) : Host.Outcome State Fault Refusal :=
  finish (.hwaitf h count) (match s.useHandle h false count.toNat count.toNat with
    | .error e => .error e
    | .ok x => s.handleWait x (.filled count.toNat))

/-- HWAITE (R130). -/
def execHwaite (h : HReg) (count : BitVec 12) (s : State) : Host.Outcome State Fault Refusal :=
  finish (.hwaite h count) (match s.useHandle h true count.toNat count.toNat with
    | .error e => .error e
    | .ok x => s.handleWait x (.free count.toNat x.slots.toNat))

/-- HADV (R131). -/
def execHadv (h : HReg) (tail : Bool) (count : BitVec 12) (s : State) : Host.Outcome State Fault Refusal :=
  finish (.hadv h tail count) (match s.useHandle h tail count.toNat count.toNat with
    | .error e => .error e
    | .ok x => match s.release s.cur .dev with
      | .error e => .error e
      | .ok s => match s.ctlTarget s.cur x .amo with
        | .error e => .error e
        | .ok (s, pa) => match s.advanceCtl s.cur pa tail count.toNat x.slots.toNat with
          | none => .error (.trap s Cause.handle (handleVal h count.toNat))
          | some s => .ok (s.advance 32))

/-- LDH (R132). -/
def execLdh (d : Reg) (h : HReg) (k : BitVec 12) (s : State) : Host.Outcome State Fault Refusal :=
  finish (.ldh d h k) (match s.useHandle h false (k.toNat + 1) k.toNat with
    | .error e => .error e
    | .ok x => s.handleWait x (.ldh d h k.toNat))

/-- STH (R132). -/
def execSth (d : Reg) (h : HReg) (k : BitVec 12) (s : State) : Host.Outcome State Fault Refusal :=
  finish (.sth d h k) (match s.useHandle h true (k.toNat + 1) k.toNat with
    | .error e => .error e
    | .ok x => s.handleWait x (.sth d h k.toNat))

/-- Does the span of a buffer lie within one window (R129)? -/
def spanOk (h : Handle) : Bool :=
  let size := h.slots.toNat * h.slotw.toNat
  match decodeWindow h.base with
  | some (.raw off) => decide (64 ≤ off) && decide (off + size ≤ 2097152)
  | some (.global _ off) => decide (64 ≤ off) && decide (off + size ≤ 524288)
  | _ => false

/-- A descriptor's handle (R129). -/
def Handle.ofWords (b w : Word) : Handle :=
  ⟨b, BitVec.ofNat 16 (Machine.bits w 15 0), BitVec.ofNat 16 (Machine.bits w 31 16), BitVec.ofNat 2 (Machine.bits w 33 32)⟩

/-- HSET (R129). -/
def execHset (h : HReg) (d : Reg) (s : State) : Host.Outcome State Fault Refusal :=
  let a := s.s d
  finish (.hset h d) (
    if !recordSpace a then .error (.trap s Cause.address a)
    else if bits a 5 0 ≠ 0 then .error (.trap s Cause.alignment a)
    else match s.readWords s.cur a .load 2 with
      | .error e => .error e
      | .ok (s, ws) =>
        let x := Handle.ofWords (ws.getD 0 0) (ws.getD 1 0)
        if x.valid && Machine.bits x.base 5 0 == 0 && spanOk x then .ok ((s.setLane (s.lane.setH h x)).advance 32)
        else .error (.trap s Cause.handle (handleVal h 0)))

/-! Streams. -/

/-- The stream number of a register that is bound (R51). -/
def Lane.boundTo (l : Lane) (v : VReg) : Option Nat :=
  if 24 ≤ v.toNat ∧ bit (l.streamOf (v.toNat - 24)) 0 then some (v.toNat - 24) else none

/-- A stream's fields (R55). -/
def cfgOut (x : Word) : Bool := bit x 1
def cfgView (x : Word) : View := if bits x 3 2 = 0 then .e8 else if bits x 3 2 = 1 then .e16 else .e32
def cfgHandle (x : Word) : HReg := BitVec.ofNat 4 (bits x 7 4)
def cfgCount (x : Word) : Nat := bits x 47 16

/-- A view's code (R63). -/
def viewCode : View → Nat
  | .e8 => 0 | .e16 => 1 | .e32 => 2

/-- SBIND (R133). -/
def execSbind (n : BitVec 3) (h : HReg) (d : Reg) (out : Bool) (v : View) (s : State) :
    Host.Outcome State Fault Refusal :=
  let x := s.lane.h h
  let c := s.s d
  finish (.sbind n h d out v) (
    if !x.valid || !x.serves out || x.slotw.toNat != viewBits v then .error (.trap s Cause.handle (handleVal h 0))
    else if 2 ^ 32 ≤ c.toNat then .error (.trap s Cause.stream c)
    else .ok ((s.setLane (s.lane.setStream n.toNat
      (word (1 + b2n out * 2 + viewCode v * 4 + h.toNat * 16 + c.toNat * 2 ^ 16)))).advance 32))

/-- SUNBIND (R133): of a stream with EN = 0 it changes nothing. -/
def execSunbind (n : BitVec 3) (s : State) : Host.Outcome State Fault Refusal :=
  .next ((if bit (s.lane.streamOf n.toNat) 0 then s.setLane (s.lane.setStream n.toNat 0) else s).advance 32)

/-- A bound register that an instruction names: register, stream number, configuration, handle, elements to move (R134). -/
structure Move where
  reg : VReg
  n : Nat
  cfg : Word
  h : Handle
  m : Nat
  deriving DecidableEq, Repr

/-- Registers in ascending order, each once. -/
def regsOnce (rs : List VReg) : List VReg := (List.range 32).filterMap (fun i =>
  let v : VReg := BitVec.ofNat 5 i
  if rs.contains v then some v else none)

/-- The moves of an instruction, by its vector sources and destinations, with the checks of R51 and R133 (R134 step 1). -/
def State.moves (s : State) (srcs dsts : List VReg) : Except Stop (List Move) :=
  go (regsOnce (srcs ++ dsts))
where
  /-- The checks in ascending register order. -/
  go : List VReg → Except Stop (List Move)
    | [] => .ok []
    | v :: t => match s.lane.boundTo v with
      | none => go t
      | some n =>
        let x := s.lane.streamOf n
        let h := s.lane.h (cfgHandle x)
        let e := viewBits (cfgView x)
        let m := min (cfgCount x) (256 / e)
        let bad := if cfgOut x then srcs.contains v else dsts.contains v
        if cfgCount x = 0 ∨ bad then .error (.trap s Cause.stream (word v.toNat))
        else if !h.valid || !h.serves (cfgOut x) || h.slotw.toNat != e then
          .error (.trap s Cause.handle (handleVal (cfgHandle x) 0))
        else if h.slots.toNat < m then .error (.trap s Cause.handle (handleVal (cfgHandle x) m))
        else match go t with
          | .error e => .error e
          | .ok ms => .ok (⟨v, n, x, h, m⟩ :: ms)

/-- The waits of R134 step 2, in ascending register order: the control words that answered them, `had` those of the waits that are
over, or a parked wait with STALL = 2. -/
def State.streamWaits (s : State) (had : List Word) : List Move → Except Stop (State × List (Move × Nat × Word))
  | [] => .ok (s, [])
  | x :: t => match s.ctlTarget s.cur x.h .table with
    | .error e => .error e
    | .ok (s, pa) => match had with
      | v :: had => match s.streamWaits had t with
        | .error e => .error e
        | .ok (s, xs) => .ok (s, (x, pa, v) :: xs)
      | [] =>
        let k := if cfgOut x.cfg then Park.streamOut x.m x.h.slots.toNat else Park.stream x.m
        let s := s.arriveRequest s.cur pa k
        match s.lane.answer with
        | none => .error (.wait s 2)
        | some (_, v) => match (s.setLane (s.lane.keepAnswer v)).streamWaits [] t with
          | .error e => .error e
          | .ok (s, xs) => .ok (s, (x, pa, v) :: xs)

/-- The elements of a pop are read (R134 step 3). -/
def State.popRead (s : State) (x : Move) (v : Word) : Nat → Except Stop (State × Nat)
  | 0 => .ok (s, 0)
  | i + 1 => match s.popRead x v i with
    | .error e => .error e
    | .ok (s, acc) =>
      let e := viewBits (cfgView x.cfg)
      match s.readBits s.cur (x.h.slot (ctlHead v + i)) e .load with
      | .error e => .error e
      | .ok (s, y) => .ok (s, acc + y * 2 ^ (e * i))

/-- The slots of a push pass their checks (R116, R134). -/
def State.pushCheck (s : State) (x : Move) (v : Word) : Nat → Except Stop State
  | 0 => .ok s
  | i + 1 => match s.pushCheck x v i with
    | .error e => .error e
    | .ok s => match s.checkAccess s.cur (x.h.slot (ctlTail v + i)) (viewBits (cfgView x.cfg)) .store with
      | .error e => .error e
      | .ok (s, _) => .ok s

/-- Pops read and pushes checked: the lane as the instruction sees it, with popped registers and m7 in place (R51, R134). -/
def State.streamRead (s : State) (env : Lane) (part : Bool) : List (Move × Nat × Word) → Except Stop (State × Lane)
  | [] => .ok (s, env)
  | (x, _, v) :: t =>
    if cfgOut x.cfg then match s.pushCheck x v x.m with
      | .error e => .error e
      | .ok s => s.streamRead env part t
    else match s.popRead x v x.m with
      | .error e => .error e
      | .ok (s, y) =>
        let env := env.setV x.reg (BitVec.ofNat 256 y)
        if x.m < 256 / viewBits (cfgView x.cfg) then
          let live := maskFirst x.m
          s.streamRead (env.setM 7 (if part then env.m 7 &&& live else live)) true t
        else s.streamRead env part t

/-- COUNT of a stream falls by the elements moved (R51). -/
def State.countDown (s : State) (x : Move) : State :=
  let c := s.lane.streamOf x.n
  s.setLane (s.lane.setStream x.n (putBits c 16 32 (cfgCount c - x.m)))

/-- The pops commit (R134 step 5): HEAD advances and COUNT falls; a refusal is a HANDLE_FAULT that keeps earlier advances. -/
def State.popCommit (s : State) : List (Move × Nat × Word) → Except Stop State
  | [] => .ok s
  | (x, pa, _) :: t =>
    if cfgOut x.cfg then s.popCommit t
    else match s.advanceCtl s.cur pa false x.m x.h.slots.toNat with
      | none => .error (.trap s Cause.handle (handleVal (cfgHandle x.cfg) x.m))
      | some s => (s.countDown x).popCommit t

/-- The element stores of one push. -/
def State.pushStores (s : State) (x : Move) (v : Word) (val : VWord) : Nat → State
  | 0 => s
  | i + 1 =>
    let s := s.pushStores x v val i
    let e := viewBits (cfgView x.cfg)
    match s.fates s.cur (x.h.slot (ctlTail v + i)) e .store with
    | .ok (s, t) => s.postStore s.cur .lane s.turn (x.h.slot (ctlTail v + i)) t e (vget val e i)
    | .error _ => s

/-- The pushes (R134 step 7): slots stored and accepted, TAIL advanced, COUNT lowered; a wait where a link holds a store. `vals` gives
the pushed registers. -/
def State.pushAll (s : State) (vals : List (VReg × VWord)) : List (Move × Nat × Word) → Except Stop State
  | [] => .ok s
  | (x, pa, v) :: t =>
    if cfgOut x.cfg then
      let val := ((vals.find? (fun p => p.1 == x.reg)).map (·.2)).getD 0
      let s := (s.pushStores x v val x.m).drainLane s.cur
      if !s.landed s.cur (· == .lane) then .error (.wait s 6)
      else match s.advanceCtl s.cur pa true x.m x.h.slots.toNat with
      | none => .error (.trap s Cause.handle (handleVal (cfgHandle x.cfg) x.m))
      | some s => (s.countDown x).pushAll vals t
    else s.pushAll vals t

/-- What a vector instruction produces: each destination register with its merged value and its value as a push, in which
inactive elements are 0 (R134), and the effect on everything else. -/
structure VOut where
  vecs : List (VReg × VWord × VWord)
  fin : State → State

/-- The destination registers written that are not bound. -/
def Lane.setVecs (l : Lane) (vs : List (VReg × VWord × VWord)) : Lane :=
  vs.foldl (fun l x => if (l.boundTo x.1).isSome then l else l.setV x.1 x.2.1) l

/-- A vector instruction of the issuing lane in the order of R116 and R134: stream checks, waits, pops read, its own checks,
pops committed, computation, pushes, destinations. `check` and `run` take the lane as the instruction sees it, and
`run` what `check` found. Where a later pop's advance is refused, m7 stays unwritten although an earlier partial pop is
committed; a refused push leaves RSEED and AMAX as they were (log entry 84, DESIGN CHOICE). While a link would hold a push, nothing is
done yet. -/
def State.vecRun {α : Type} (s : State) (srcs dsts : List VReg) (check : Lane → State → Except Stop (State × α))
    (run : α → Lane → State → State × VOut) : Except Stop State :=
  match s.moves srcs dsts with
  | .error e => .error e
  | .ok ms => match (if ms.isEmpty then .ok s else s.release s.cur .dev) with
    | .error e => .error e
    | .ok s => match s.streamWaits s.lane.kept.waits ms with
      | .error e => .error e
      | .ok (s0, xs) => match s0.streamRead s0.lane false xs with
        | .error e => .error e
        | .ok (s1, env) => match check env s1 with
          | .error e => .error e
          | .ok (s, found) => match s.popCommit xs with
            | .error e => .error e
            | .ok s =>
              let s := if xs.isEmpty then s else s.setLane (s.lane.setM 7 (env.m 7))
              let (s, out) := run found env s
              match s.pushAll (out.vecs.map (fun x => (x.1, x.2.2))) xs with
              | .error (.wait _ c) => .error (.wait s0 c)
              | .error e => .error e
              | .ok s =>
                let s := out.fin s
                .ok ((s.setLane (s.lane.setVecs out.vecs)).advance 32)

/-- A check that always passes and finds nothing. -/
def noCheck (_ : Lane) (s : State) : Except Stop (State × Unit) := .ok (s, ())

/-- A check that finds nothing. -/
def unitCheck : Except Stop State → Except Stop (State × Unit)
  | .error e => .error e
  | .ok s => .ok (s, ())

/-- ANSWER_ARRIVAL (R99, R106): the answer that a home holds reaches a lane that is free to run, and its instruction
completes; a gated or stopped lane's answer stays held. -/
def execAnswerArrival (core lane : Nat) (s : State) : Host.Outcome State Fault Refusal :=
  let r : LaneRef := ⟨core, lane⟩
  let l := s.laneAt r
  match l.answer, l.waiting with
  | some (k, v), some i =>
    if s.free l && l.run == .stalled then finish i ({ s with cur := r }.complete k v) else .next s
  | _, _ => .next s

/-- PARKED_REQUEST_REISSUE (R106): a request refused for want of an entry arrives anew. -/
def execParkedRequestReissue (core lane : Nat) (s : State) : Host.Outcome State Fault Refusal :=
  let r : LaneRef := ⟨core, lane⟩
  match (s.laneAt r).req with
  | some q => if q.phase = .sent then .next (s.arriveRequest r q.pa q.kind) else .next s
  | none => .next s

end Sys2Proof.Machine
end

