-- ==== Sys2Proof/Machine/Vector.lean ====
section
/-! DEFINITION. Vector ALU and mask instructions (R115 to R122). -/

namespace Sys2Proof.Machine

/-- One draw for each element that a test names, in increasing order, under RS; no draw otherwise (R115): the generator
after them, and the draws by element. -/
def drawsFor (rm : RoundMode) (act : Nat → Bool) (g : Word) : Nat → Word × List Nat
  | 0 => (g, [])
  | n + 1 =>
    let (g, ds) := drawsFor rm act g n
    if rm = .rs && act n then
      let (g, x) := rand16 g
      (g, ds ++ [x])
    else (g, ds ++ [0])

/-- The issuing lane with its generator state set. -/
def setSeed (g : Word) (s : State) : State := s.setLane { s.lane with rseed := g }

/-- The result of a masked element operation: merged with the old register, and as a push (R115, R134). -/
def vout (d : VReg) (e : Nat) (m : BitVec 32) (old : VWord) (f : Nat → Nat) : VReg × VWord × VWord :=
  (d, vmerge e m old f, vmerge e m 0 f)

/-- A masked operation that reads registers `srcs` and writes `d`, element by element in an `e`-bit view. -/
def State.vmap (s : State) (srcs : List VReg) (d : VReg) (e : Nat) (m : MReg) (f : Lane → Nat → Nat) : Except Stop State :=
  s.vecRun srcs [d] noCheck (fun _ env s => (s, ⟨[vout d e (env.m m) (env.v d) (f env)], id⟩))

/-- A masked floating-point operation that rounds, with its draws (R115). -/
def State.vround (s : State) (srcs : List VReg) (d : VReg) (e : Nat) (m : MReg) (f : Lane → RoundMode → Nat → Nat → Nat) :
    Except Stop State :=
  s.vecRun srcs [d] noCheck (fun _ env s =>
    let (g, ds) := drawsFor env.rmode (fun i => (env.m m).toNat.testBit i) env.rseed (256 / e)
    (s, ⟨[vout d e (env.m m) (env.v d) (fun i => f env env.rmode (ds.getD i 0) i)], setSeed g⟩))

/-- Element `i` of register `v` of a lane in the `e`-bit view. -/
def Lane.elem (l : Lane) (v : VReg) (e i : Nat) : Nat := vget (l.v v) e i

/-- A two-operand operation on elements: an integer form, and a floating-point form that rounds (R118). -/
def State.varith (s : State) (d a b : VReg) (ty : VTy) (m : MReg) (fi : Nat → Nat → Nat → Nat)
    (ff : RoundMode → FVal → FVal → FVal) : Except Stop State :=
  let e := viewBits (tyView ty)
  match tyFloat ty with
  | none => s.vmap [a, b] d e m (fun l i => fi e (l.elem a e i) (l.elem b e i))
  | some f => s.vround [a, b] d e m (fun l rm dr i => f.round rm dr (ff rm (f.decode (l.elem a e i)) (f.decode (l.elem b e i))))

/-- VADD (R118). -/
def execVadd (d a b : VReg) (ty : VTy) (m : MReg) (s : State) : Host.Outcome State Fault Refusal :=
  finish (.vadd d a b ty m) (s.varith d a b ty m (fun e x y => (x + y) % 2 ^ e) FVal.add)

/-- VSUB (R118). -/
def execVsub (d a b : VReg) (ty : VTy) (m : MReg) (s : State) : Host.Outcome State Fault Refusal :=
  finish (.vsub d a b ty m) (s.varith d a b ty m (fun e x y => (x + 2 ^ e - y) % 2 ^ e) (fun rm x y => FVal.add rm x y.negate))

/-- VMUL (R118). -/
def execVmul (d a b : VReg) (ty : VTy) (m : MReg) (s : State) : Host.Outcome State Fault Refusal :=
  finish (.vmul d a b ty m) (s.varith d a b ty m (fun e x y => x * y % 2 ^ e) (fun _ x y => FVal.mul x y))

/-- VFMA (R118): v[d] is the third source. -/
def execVfma (d a b : VReg) (ty : VTy) (m : MReg) (s : State) : Host.Outcome State Fault Refusal :=
  let e := viewBits (tyView ty)
  finish (.vfma d a b ty m) (match tyFloat ty with
    | none => s.vmap [a, b, d] d e m (fun l i => (l.elem a e i * l.elem b e i + l.elem d e i) % 2 ^ e)
    | some f => s.vround [a, b, d] d e m (fun l rm dr i =>
        f.round rm dr (FVal.fma rm (f.decode (l.elem a e i)) (f.decode (l.elem b e i)) (f.decode (l.elem d e i)))))

/-- Minimum or maximum of elements (R118). -/
def vminmax (ty : VTy) (max : Bool) (x y : Nat) : Nat :=
  match tyFloat ty with
  | some f => f.minmax max x y
  | none => if max then maxS (viewBits (tyView ty)) x y else minS (viewBits (tyView ty)) x y
where
  /-- Signed minimum and maximum at a width. -/
  minS (w x y : Nat) : Nat := if sgN x w ≤ sgN y w then x else y
  /-- Signed maximum at a width. -/
  maxS (w x y : Nat) : Nat := if sgN x w ≤ sgN y w then y else x

/-- VMIN (R118). -/
def execVmin (d a b : VReg) (ty : VTy) (m : MReg) (s : State) : Host.Outcome State Fault Refusal :=
  let e := viewBits (tyView ty)
  finish (.vmin d a b ty m) (s.vmap [a, b] d e m (fun l i => vminmax ty false (l.elem a e i) (l.elem b e i)))

/-- VMAX (R118). -/
def execVmax (d a b : VReg) (ty : VTy) (m : MReg) (s : State) : Host.Outcome State Fault Refusal :=
  let e := viewBits (tyView ty)
  finish (.vmax d a b ty m) (s.vmap [a, b] d e m (fun l i => vminmax ty true (l.elem a e i) (l.elem b e i)))

/-- Magnitude of an element (R118). -/
def vabsElem (ty : VTy) (x : Nat) : Nat :=
  let e := viewBits (tyView ty)
  match tyFloat ty with
  | some f => if (f.decode x).isNan then f.nanCode else x % f.signBit
  | none => if sgN x e < 0 then (2 ^ e - x) % 2 ^ e else x

/-- Negation of an element (R118). -/
def vnegElem (ty : VTy) (x : Nat) : Nat :=
  let e := viewBits (tyView ty)
  match tyFloat ty with
  | some f => if (f.decode x).isNan then f.nanCode else x ^^^ f.signBit
  | none => (2 ^ e - x) % 2 ^ e

/-- VABS (R118). -/
def execVabs (d a : VReg) (ty : VTy) (m : MReg) (s : State) : Host.Outcome State Fault Refusal :=
  let e := viewBits (tyView ty)
  finish (.vabs d a ty m) (s.vmap [a] d e m (fun l i => vabsElem ty (l.elem a e i)))

/-- VNEG (R118). -/
def execVneg (d a : VReg) (ty : VTy) (m : MReg) (s : State) : Host.Outcome State Fault Refusal :=
  let e := viewBits (tyView ty)
  finish (.vneg d a ty m) (s.vmap [a] d e m (fun l i => vnegElem ty (l.elem a e i)))

/-- A two-operand integer operation in a view (R118). -/
def State.vbits (s : State) (d a b : VReg) (v : View) (m : MReg) (f : Nat → Nat → Nat → Nat) : Except Stop State :=
  s.vmap [a, b] d (viewBits v) m (fun l i => f (viewBits v) (l.elem a (viewBits v) i) (l.elem b (viewBits v) i))

/-- VAND (R118). -/
def execVand (d a b : VReg) (v : View) (m : MReg) (s : State) : Host.Outcome State Fault Refusal :=
  finish (.vand d a b v m) (s.vbits d a b v m (fun _ x y => x &&& y))
/-- VOR (R118). -/
def execVor (d a b : VReg) (v : View) (m : MReg) (s : State) : Host.Outcome State Fault Refusal :=
  finish (.vor d a b v m) (s.vbits d a b v m (fun _ x y => x ||| y))
/-- VXOR (R118). -/
def execVxor (d a b : VReg) (v : View) (m : MReg) (s : State) : Host.Outcome State Fault Refusal :=
  finish (.vxor d a b v m) (s.vbits d a b v m (fun _ x y => x ^^^ y))
/-- VSHL (R118): the low log2 e bits of y count. -/
def execVshl (d a b : VReg) (v : View) (m : MReg) (s : State) : Host.Outcome State Fault Refusal :=
  finish (.vshl d a b v m) (s.vbits d a b v m (fun e x y => x * 2 ^ (y % e) % 2 ^ e))
/-- VSHR (R118). -/
def execVshr (d a b : VReg) (v : View) (m : MReg) (s : State) : Host.Outcome State Fault Refusal :=
  finish (.vshr d a b v m) (s.vbits d a b v m (fun e x y => x / 2 ^ (y % e)))
/-- VSRA (R118). -/
def execVsra (d a b : VReg) (v : View) (m : MReg) (s : State) : Host.Outcome State Fault Refusal :=
  finish (.vsra d a b v m) (s.vbits d a b v m (fun e x y => wrapN (sgN x e / 2 ^ (y % e)) e))

/-- The mask of VCMP (R119). -/
def vcmpMask (l : Lane) (a b : VReg) (c : VCond) (ty : VTy) (m : MReg) : BitVec 32 :=
  let e := viewBits (tyView ty)
  BitVec.ofNat 32 ((List.range (256 / e)).foldl (fun x i =>
    if (l.m m).toNat.testBit i && vcmpHolds c ty (l.elem a e i) (l.elem b e i) then x + 2 ^ i else x) 0)

/-- VCMP (R119). -/
def execVcmp (md : MReg) (a b : VReg) (c : VCond) (ty : VTy) (m : MReg) (s : State) : Host.Outcome State Fault Refusal :=
  finish (.vcmp md a b c ty m) (s.vecRun [a, b] [] noCheck (fun _ env s =>
    let x := vcmpMask env a b c ty m
    (s, ⟨[], fun s => s.setM md x⟩)))

/-- VSEL (R120): the mask selects, every element is written. -/
def execVsel (d a b : VReg) (v : View) (m : MReg) (s : State) : Host.Outcome State Fault Refusal :=
  let e := viewBits v
  finish (.vsel d a b v m) (s.vmap [a, b] d e 0 (fun l i => if (l.m m).toNat.testBit i then l.elem a e i else l.elem b e i))

/-- VBCAST (R120). -/
def execVbcast (d : VReg) (a : Reg) (v : View) (m : MReg) (s : State) : Host.Outcome State Fault Refusal :=
  let e := viewBits v
  finish (.vbcast d a v m) (s.vmap [] d e m (fun l _ => (l.s a).toNat % 2 ^ e))

/-- VPERM (R120). -/
def execVperm (d a b : VReg) (v : View) (m : MReg) (s : State) : Host.Outcome State Fault Refusal :=
  let e := viewBits v
  finish (.vperm d a b v m) (s.vmap [a, b] d e m (fun l i => l.elem a e (l.elem b e i % (256 / e))))

/-- VSLIDE (R120). -/
def execVslide (d a : VReg) (b : Reg) (v : View) (m : MReg) (s : State) : Host.Outcome State Fault Refusal :=
  let e := viewBits v
  finish (.vslide d a b v m) (s.vmap [a] d e m (fun l i =>
    let k := (i : Int) + (l.s b).toInt
    if 0 ≤ k ∧ k < (256 / e : Nat) then l.elem a e k.toNat else 0))

/-! Reductions (R121). -/

/-- One level of the pairwise tree: adjacent results combined in pair order, each with its own draw under RS. -/
def treeLevel (rm : RoundMode) (f : Nat → Nat → Nat → Nat) : List Nat → Word → Word × List Nat
  | x :: y :: t, g =>
    let (g, dr) := drawIf rm g
    let (g, r) := treeLevel rm f t g
    (g, f dr x y :: r)
  | l, g => (g, l)

/-- The whole tree, level by level. -/
def treeAll (rm : RoundMode) (f : Nat → Nat → Nat → Nat) : Nat → List Nat → Word → Word × Nat
  | 0, l, g => (g, l.headD 0)
  | n + 1, l, g =>
    let (g, l) := treeLevel rm f l g
    treeAll rm f n l g

/-- Elements of a register with the inactive ones replaced by an identity (R121). -/
def reduceList (l : Lane) (a : VReg) (e : Nat) (m : MReg) (ident : Nat) : List Nat :=
  (List.range (256 / e)).map (fun i => if (l.m m).toNat.testBit i then l.elem a e i else ident)

/-- A reduction writes element 0 and clears the others (R121). -/
def redOut (d : VReg) (x : Nat) : VReg × VWord × VWord := (d, BitVec.ofNat 256 x, BitVec.ofNat 256 x)

/-- Levels of the tree for elements of `e` bits: log2 of 256 / e. -/
def treeDepth (e : Nat) : Nat := Nat.log2 (256 / e)

/-- VREDADD (R121). -/
def execVredadd (d a : VReg) (ty : VTy) (m : MReg) (s : State) : Host.Outcome State Fault Refusal :=
  let e := viewBits (tyView ty)
  finish (.vredadd d a ty m) (s.vecRun [a] [d] noCheck (fun _ env s =>
    match tyFloat ty with
    | none => (s, ⟨[redOut d ((reduceList env a e m 0).foldl (· + ·) 0 % 2 ^ e)], id⟩)
    | some f =>
      let rm := env.rmode
      let (g, x) := treeAll rm (fun dr x y => f.round rm dr (FVal.add rm (f.decode x) (f.decode y))) (treeDepth e)
        (reduceList env a e m 0) env.rseed
      (s, ⟨[redOut d x], setSeed g⟩)))

/-- The identity of a maximum or minimum (R121). -/
def extremeIdent (ty : VTy) (max : Bool) : Nat :=
  match tyFloat ty with
  | some f => if max then f.signBit + f.infCode else f.infCode
  | none => let e := viewBits (tyView ty); if max then 2 ^ (e - 1) else 2 ^ (e - 1) - 1

/-- A maximum or minimum over the active elements (R121). -/
def State.vextreme (s : State) (d a : VReg) (ty : VTy) (m : MReg) (max : Bool) : Except Stop State :=
  let e := viewBits (tyView ty)
  s.vecRun [a] [d] noCheck (fun _ env s =>
    (s, ⟨[redOut d ((reduceList env a e m (extremeIdent ty max)).foldl (vminmax ty max) (extremeIdent ty max))], id⟩))

/-- VREDMAX (R121). -/
def execVredmax (d a : VReg) (ty : VTy) (m : MReg) (s : State) : Host.Outcome State Fault Refusal :=
  finish (.vredmax d a ty m) (s.vextreme d a ty m true)
/-- VREDMIN (R121). -/
def execVredmin (d a : VReg) (ty : VTy) (m : MReg) (s : State) : Host.Outcome State Fault Refusal :=
  finish (.vredmin d a ty m) (s.vextreme d a ty m false)

/-- The lowest active element number below `n` (R120). -/
def lowestActive (m : BitVec 32) (n : Nat) : Option Nat := (List.range n).find? (fun i => m.toNat.testBit i)

/-- VMOVSV (R120). -/
def execVmovsv (d : Reg) (a : VReg) (v : View) (m : MReg) (s : State) : Host.Outcome State Fault Refusal :=
  let e := viewBits v
  finish (.vmovsv d a v m) (s.vecRun [a] [] noCheck (fun _ env s =>
    let x := match lowestActive (env.m m) (256 / e) with
      | some i => sextN (env.elem a e i) e
      | none => 0
    (s, ⟨[], fun s => s.setS d x⟩)))

/-- VMOVVS (R120). -/
def execVmovvs (d : VReg) (a : Reg) (v : View) (m : MReg) (s : State) : Host.Outcome State Fault Refusal :=
  let e := viewBits v
  finish (.vmovvs d a v m) (s.vecRun [] [d] noCheck (fun _ env s =>
    let k := match lowestActive (env.m m) (256 / e) with
      | some i => BitVec.ofNat 32 (2 ^ i)
      | none => 0
    (s, ⟨[vout d e k (env.v d) (fun _ => (env.s a).toNat % 2 ^ e)], id⟩)))

/-! Mask instructions (R122). -/

/-- MAND (R122). -/
def execMand (md ma mb : MReg) (s : State) : Host.Outcome State Fault Refusal :=
  .next ((s.setM md (s.lane.m ma &&& s.lane.m mb)).advance 32)
/-- MOR (R122). -/
def execMor (md ma mb : MReg) (s : State) : Host.Outcome State Fault Refusal :=
  .next ((s.setM md (s.lane.m ma ||| s.lane.m mb)).advance 32)
/-- MNOT (R122). -/
def execMnot (md ma : MReg) (s : State) : Host.Outcome State Fault Refusal :=
  .next ((s.setM md (~~~s.lane.m ma)).advance 32)
/-- MPOP (R122). -/
def execMpop (d : Reg) (ma : MReg) (s : State) : Host.Outcome State Fault Refusal :=
  scalar d (word (popN (s.lane.m ma).toNat 32)) s

end Sys2Proof.Machine
end

