-- ==== Sys2Proof/Machine/VectorMemory.lean ====
section
/-! DEFINITION. Vector memory instructions (R123). -/

namespace Sys2Proof.Machine

/-- The step of element addresses: elements in a format window's space (R18, R19), else bits (R123). -/
def vstep (base : Word) (e : Nat) : Nat := if bit base 63 && decide (8 < bits base 62 59) then 1 else e

/-- The active element numbers below `n`, in increasing order. -/
def activeElems (m : BitVec 32) (n : Nat) : List Nat := (List.range n).filter (fun i => m.toNat.testBit i)

/-- The checks of one element access (R116, R123): R27, the container width of a window, and the decoder's, which finds the
element's value. -/
def State.checkElem (s : State) (a : Word) (e : Nat) (k : Access) : Except Stop (State × Option Nat) :=
  match s.checkAccess s.cur a e k with
  | .error x => .error x
  | .ok (s, t) =>
    match t.place with
    | .fmt win off =>
      if windowWidth win ≠ e then .error (.trap s Cause.alignment a)
      else match s.windowRead s.cur a win off e with
        | .error x => .error x
        | .ok (s, x) => .ok (s, some x)
    | _ => .ok (s, none)

/-- What a failed check of an element ends in; where a watchpoint matches it, TRAPVAL is the lowest address that one matches among
it and the elements after it (R334). -/
def State.elemStop (s : State) (as : List Word) (e : Nat) (k : Access) : Stop → Stop
  | .trap t c v => .trap t c (if c = Cause.breakpoint then
      (as.filterMap (fun a => s.watched s.cur a e k)).foldl (fun x y => if y.ult x then y else x) v else v)
  | x => x

/-- The checks of every active element, in increasing order (R116, R123): the elements that the decoder found. -/
def State.checkElems (s : State) (e : Nat) (k : Access) (addr : Nat → Word) : List Nat → Except Stop (State × List (Nat × Nat))
  | [] => .ok (s, [])
  | i :: t => match s.checkElem (addr i) e k with
    | .error x => .error (s.elemStop ((i :: t).map addr) e k x)
    | .ok (s, v) => match s.checkElems e k addr t with
      | .error x => .error x
      | .ok (s, vs) => .ok (s, (v.map (fun x => (i, x))).toList ++ vs)

/-- The elements read, in increasing order: the state after the reads, and each element's value. Those that the decoder has
found are not read again. -/
def State.readElems (s : State) (e : Nat) (addr : Nat → Word) (found : List (Nat × Nat)) : List Nat → State × List (Nat × Nat)
  | [] => (s, [])
  | i :: t =>
    let (s, x) := match Table.find found i with
      | some x => (s, x)
      | none => match s.loadBits s.cur (addr i) e with
        | .ok (s, x) => (s, x)
        | .error _ => (s, 0)
    let (s, xs) := s.readElems e addr found t
    (s, (i, x) :: xs)

/-- A masked vector load with the addresses of its elements (R123). -/
def State.vload (s : State) (srcs : List VReg) (d : VReg) (e : Nat) (m : MReg) (addr : Lane → Nat → Word) : Except Stop State :=
  s.vecRun srcs [d]
    (fun env s => s.checkElems e .load (addr env) (activeElems (env.m m) (256 / e)))
    (fun found env s =>
      let (s, xs) := s.readElems e (addr env) found (activeElems (env.m m) (256 / e))
      (s, ⟨[vout d e (env.m m) (env.v d) (fun i => Table.get 0 xs i)], id⟩))

/-- The store of one element at a checked address (R123). -/
def State.storeElem (s : State) (a : Word) (e x : Nat) : State :=
  match s.fates s.cur a e .store with
  | .error _ => s
  | .ok (s, t) => match t.place with
    | .dev off => (s.devStore s.cur off e x .dev).toOption.getD s
    | _ => s.post s.cur .lane s.turn a t (.store (maskAt t.sh e) (placeAt t.sh e x)) true

/-- A masked vector store with the addresses of its elements, in increasing order (R123). -/
def State.vstore (s : State) (srcs : List VReg) (d : VReg) (e : Nat) (m : MReg) (addr : Lane → Nat → Word) : Except Stop State :=
  s.vecRun srcs []
    (fun env s => s.checkElems e .store (addr env) (activeElems (env.m m) (256 / e)))
    (fun _ env s => (s, ⟨[], fun s => (activeElems (env.m m) (256 / e)).foldl
      (fun s i => s.storeElem (addr env i) e (env.elem d e i)) s⟩))

/-- Unit-step element addresses. -/
def addrUnit (base : Word) (e : Nat) (_ : Lane) (i : Nat) : Word := base + word (vstep base e * i)

/-- Indexed element addresses (R123). -/
def addrIndex (base : Word) (e : Nat) (b : VReg) (l : Lane) (i : Nat) : Word := base + word (vstep base e * l.elem b e i)

/-- VLD (R123). -/
def execVld (d : VReg) (a : Reg) (v : View) (m : MReg) (s : State) : Host.Outcome State Fault Refusal :=
  finish (.vld d a v m) (s.vload [] d (viewBits v) m (addrUnit (s.s a) (viewBits v)))

/-- VST (R123): v[d] is the source. -/
def execVst (d : VReg) (a : Reg) (v : View) (m : MReg) (s : State) : Host.Outcome State Fault Refusal :=
  finish (.vst d a v m) (s.vstore [d] d (viewBits v) m (addrUnit (s.s a) (viewBits v)))

/-- VLDS (R123). -/
def execVlds (d : VReg) (a b : Reg) (v : View) (m : MReg) (s : State) : Host.Outcome State Fault Refusal :=
  finish (.vlds d a b v m) (s.vload [] d (viewBits v) m (fun _ i => s.s a + s.s b * word i))

/-- VGATHER (R123). -/
def execVgather (d : VReg) (a : Reg) (b : VReg) (v : View) (m : MReg) (s : State) : Host.Outcome State Fault Refusal :=
  finish (.vgather d a b v m) (s.vload [b] d (viewBits v) m (addrIndex (s.s a) (viewBits v) b))

/-- VSCATTER (R123). -/
def execVscatter (d : VReg) (a : Reg) (b : VReg) (v : View) (m : MReg) (s : State) : Host.Outcome State Fault Refusal :=
  finish (.vscatter d a b v m) (s.vstore [d, b] d (viewBits v) m (addrIndex (s.s a) (viewBits v) b))

end Sys2Proof.Machine
end

