-- ==== Sys2Proof/Machine/Convert.lean ====
section
/-! DEFINITION. Conversions (R124 to R127). -/

namespace Sys2Proof.Machine

/-- The AMAX updates of an instruction's float sources (R47, R125, R126). -/
def amaxOf (t : ElemTy) (xs : List FVal) (s : State) : State :=
  if (elemFloat t).isSome then
    let l := s.lane
    let (m, n) := amaxAll (l.amaxM, l.amaxN) xs
    s.setLane { l with amaxM := m, amaxN := n }
  else s

/-- VCVT (R125). -/
def execVcvt (d a : VReg) (tt st : ElemTy) (rm : RmField) (s : State) : Host.Outcome State Fault Refusal :=
  let ws := elemBits st
  let wt := elemBits tt
  let k := 256 / max ws wt
  finish (.vcvt d a tt st rm) (s.vecRun [a] [d] noCheck (fun _ env s =>
    let xs := (List.range k).map (fun i => elemVal st (env.elem a ws i))
    let mode := env.rm rm
    let (g, ds) := drawsFor mode (fun _ => (elemFloat st).isSome || (elemFloat tt).isSome) env.rseed k
    let v := vmake wt (fun i => if i < k then convert tt mode (ds.getD i 0) (xs.getD i .nan) else 0)
    (s, ⟨[(d, v, v)], fun s => amaxOf st xs (setSeed g s)⟩)))

/-- The 64-bit words that a run of 32-bit words touches from a bit address up: each word's address with the mask and the
data that the run gives it (R126). -/
def wordsOf (a : Word) (ws : List Nat) : List (Word × Word × Word) :=
  let h := bits a 5 5
  let n := (h + ws.length + 1) / 2
  (List.range n).map (fun i =>
    let part (k : Nat) : Word × Word :=
      let j := 2 * i + k
      if h ≤ j ∧ j < h + ws.length then (maskAt (32 * k) 32, placeAt (32 * k) 32 (ws.getD (j - h) 0)) else (0, 0)
    (a - word (32 * h) + word (64 * i), (part 0).1 ||| (part 1).1, (part 0).2 ||| (part 1).2))

/-- The checks of every word of a block store (R116, R126). -/
def State.checkWords (s : State) : List (Word × Word × Word) → Except Stop State
  | [] => .ok s
  | (a, _, _) :: t => match s.checkAccess s.cur a 64 .store with
    | .error e => .error e
    | .ok (s, _) => s.checkWords t

/-- A masked posted store of part of a word at a checked address. -/
def State.storeWord (s : State) (a m v : Word) : State :=
  match s.fates s.cur a 64 .store with
  | .error _ => s
  | .ok (s, t) => s.post s.cur .lane s.turn a t (.store m v)

/-- The 32 source values of VPACK (R126). -/
def packValues (l : Lane) (a : VReg) (st : ElemTy) : List FVal :=
  (List.range 32).map (fun j => elemVal st (elemOf l.v a st j))

/-- VPACK (R126). -/
def execVpack (a : VReg) (b : Reg) (fmt : BlkFmt) (st : ElemTy) (rm : RmField) (cb : CbSel) (kquad : Bool) (s : State) :
    Host.Outcome State Fault Refusal :=
  let at_ := s.s b
  let blk (l : Lane) : List (Word × Word × Word) :=
    wordsOf at_ (encodeBlock (packValues l a st) fmt cb kquad (l.rm rm) l.rseed)
  finish (.vpack a b fmt st rm cb kquad) (s.vecRun (vregRange a (elemRegs st)) []
    (fun env s =>
      if bits at_ 4 0 ≠ 0 then .error (.trap s Cause.alignment at_)
      else if !recordSpace at_ then .error (.trap s Cause.address at_)
      else unitCheck (s.checkWords (blk env)))
    (fun _ env s => (s, ⟨[], fun s =>
      let s := amaxOf st (packValues env a st) s
      let s := if env.rm rm = .rs then setSeed (drawMany env.rseed 32) s else s
      (blk env).foldl (fun s w => s.storeWord w.1 w.2.1 w.2.2) s⟩)))

/-- The 64-bit word that holds the 32 bits at an address, as an answered read of lane `r` (R43, R127). -/
def State.readHalf (s : State) (r : LaneRef) (own : Bool) (a : Word) (k : Access) : Except Stop (State × Word) :=
  match s.checkAccess r a 32 k with
  | .error e => .error e
  | .ok (s, t) => .ok (s.readPart r own t.pa)

/-- The 64-bit word that holds the 32 bits at an address: `prev`, where a block's read has it already, else as it is read now. -/
def State.readHalfAfter (s : State) (r : LaneRef) (own : Bool) (k : Access) (a : Word) (prev : Option Word) :
    Except Stop (State × Word) :=
  match prev with
  | some x =>
    if bits a 5 5 = 1 then
      match s.checkAccess r a 32 k with
      | .error e => .error e
      | .ok (s, _) => .ok (s, x)
    else s.readHalf r own a k
  | none => s.readHalf r own a k

/-- `n` 32-bit words from a bit address up (R127). Each 64-bit word is read once: `prev` is the word before the address, where
that has been read, and holds the 32 bits at an address that is no multiple of 64. -/
def State.readHalves (s : State) (r : LaneRef) (own : Bool) (k : Access) (a : Word) (prev : Option Word) :
    Nat → Except Stop (State × List Nat)
  | 0 => .ok (s, [])
  | n + 1 =>
    match s.readHalfAfter r own k a prev with
    | .error e => .error e
    | .ok (s, x) => match s.readHalves r own k (a + 32) (some x) n with
      | .error e => .error e
      | .ok (s, xs) => .ok (s, (if bits a 5 5 = 1 then bits x 63 32 else bits x 31 0) :: xs)

/-- The 32-bit words of the block that a header implies, the header among them: 1 where the header itself is refused (R34,
R37, R41). -/
def blockWords (h : Nat) (accepts : BlkFmt → Bool) (kquad : Bool) : Nat :=
  match checkHeader (BlkHdr.ofNat h) accepts kquad with
  | .ok f => blkBits f (BlkHdr.ofNat h).len / 32
  | .error _ => 1

/-- A block at an address is read, word by word, and decoded by lane `r` (R41, R43, R127): its size in bits comes with it. No body
is read behind a header that fails orders 1 to 3 of R41, and a block that runs past the end of its space meets R27 at its first
word past that end (log entry 83, DESIGN CHOICE). -/
def State.blockAt (s : State) (r : LaneRef) (own : Bool) (a : Word) (accepts : BlkFmt → Bool) (kquad : Bool) (k : Access) :
    Except Stop (State × Blk × Nat) :=
  match s.readHalf r own a k with
  | .error e => .error e
  | .ok (s, x) =>
    let h := if bits a 5 5 = 1 then bits x 63 32 else bits x 31 0
    match s.readHalves r own k (a + 32) (some x) (blockWords h accepts kquad - 1) with
    | .error e => .error e
    | .ok (s, ws) => match decodeBlock (fun i => (h :: ws).getD i 0) accepts kquad (2 ^ 21) with
      | .error e => .error (.trap s e.cause a)
      | .ok (b, n) => .ok (s, b, n)

/-- VUNPACK (R127). -/
def execVunpack (d : VReg) (a : Reg) (fmt : BlkFmt) (tt : ElemTy) (rm : RmField) (s : State) :
    Host.Outcome State Fault Refusal :=
  let at_ := s.s a
  finish (.vunpack d a fmt tt rm) (s.vecRun [] (vregRange d (elemRegs tt))
    (fun _ s =>
      if bits at_ 4 0 ≠ 0 then .error (.trap s Cause.alignment at_)
      else if !recordSpace at_ then .error (.trap s Cause.address at_)
      else match s.blockAt s.cur true at_ (· == fmt) false .load with
        | .error e => .error e
        | .ok (s, b, _) => .ok (s, b))
    (fun b env s =>
      let mode := env.rm rm
      let (g, ds) := drawsFor mode (fun _ => true) env.rseed 32
      let c (j : Nat) : Nat := convert tt mode (ds.getD j 0) (b.values.getD j .nan)
      (s, ⟨(elemPack d tt c).map (fun x => (x.1, x.2, x.2)), setSeed g⟩)))

end Sys2Proof.Machine
end

