-- ==== Sys2Proof/Machine/CordicBounds.lean ====
section
/-! DEFINITION. The exact values that the CORDIC unit approximates (R136), in fixed point with 400 bits behind the point, and the
range of results that the bounds of R137 allow. -/

namespace Sys2Proof.Machine.Exact

/-- One, in fixed point. -/
def unit : Int := 2 ^ 400

/-- The product and the quotient of two fixed-point numbers. -/
def times (a b : Int) : Int := a * b / unit
def quot (a b : Int) : Int := a * unit / b

/-- The sum of a series: `n` terms from a first one, the next of each by its index. -/
def series (next : Nat → Int → Int) (first : Int) (n : Nat) : Int :=
  ((List.range n).foldl (fun (a : Int × Int) i => (a.1 + a.2, next i a.2)) (0, first)).1

/-- The floor of a square root of a number below 2^1000, bit by bit from the top. -/
def sqrtFloor (n : Nat) : Nat := (List.range 500).foldr (fun i r => if (r + 2 ^ i) ^ 2 ≤ n then r + 2 ^ i else r) 0

/-- arctan t for 0 ≤ t ≤ 1, by Euler's series. -/
def arctan (t : Int) : Int :=
  let w := quot (times t t) (unit + times t t)
  series (fun i x => times x w * (2 * i + 2) / (2 * i + 3)) (quot t (unit + times t t)) 420

/-- π. -/
def pi : Int := 4 * arctan unit

/-- 2 artanh t for |t| ≤ 1/3. -/
def twoArtanh (t : Int) : Int :=
  let w := times t t
  ((List.range 140).foldl (fun (a : Int × Int) i => (a.1 + 2 * a.2 / (2 * i + 1), times a.2 w)) (0, t)).1

/-- log 2. -/
def log2 : Int := twoArtanh (unit / 3)

/-- A number times a power of two. -/
def scale (x : Int) (k : Int) : Int := if 0 ≤ k then x * 2 ^ k.toNat else x / 2 ^ (-k).toNat

/-- exp x for |x| ≤ 256. -/
def exp (x : Int) : Int :=
  let k := (x + log2 / 2) / log2
  scale (series (fun i t => times t (x - k * log2) / (i + 1)) unit 90) k

/-- sin x and cos x. -/
def sin (x : Int) : Int :=
  let k := (x + pi / 4) / (pi / 2)
  let r := x - k * pi / 2
  let w := times r r
  let s := series (fun i t => -(times t w) / ((2 * i + 2) * (2 * i + 3))) r 60
  let c := series (fun i t => -(times t w) / ((2 * i + 1) * (2 * i + 2))) unit 60
  match (k % 4).toNat with
  | 0 => s
  | 1 => c
  | 2 => -s
  | _ => -c
def cos (x : Int) : Int := sin (x + pi / 2)

/-- log of m · 2^e, for m above 0. -/
def log (m : Nat) (e : Int) : Int :=
  let k : Int := Nat.log2 (m + m / 3)
  let y := scale (m * unit) (-k)
  twoArtanh (quot (y - unit) (y + unit)) + (e + k) * log2

/-- atan2 of two numbers that are not 0, in fixed point. -/
def atan2 (y x : Int) : Int :=
  let a : Int := y.natAbs
  let b : Int := x.natAbs
  let t := if a ≤ b then arctan (quot a b) else pi / 2 - arctan (quot b a)
  let t := if x < 0 then pi - t else t
  if y < 0 then -t else t

/-- A number brought within −120 to 120, where tanh and the sigmoid are as near to their limits as 2^-170. -/
def within (x : Int) : Int := max (-(120 * unit)) (min (120 * unit) x)

/-- ±m · 2^e in fixed point: exact for every F32. -/
def ofF32 (n : Bool) (m : Nat) (e : Int) : Int := scale (if n then -(m : Int) else m) (e + 400)

/-- The function of R136 at a finite number, ±m · 2^e with m above 0, other than atan2 and where R138 does not state it. -/
def value (fn : CordicFn) (n : Bool) (m : Nat) (e : Int) : Int :=
  let x := ofF32 n m e
  match fn with
  | .sin => sin x
  | .cos => cos x
  | .exp => exp (within x)
  | .log => log m e
  | .tanh =>
    let y := exp (2 * within x)
    quot (y - unit) (y + unit)
  | .sigm => quot unit (unit + exp (-(within x)))
  | .sqrt => sqrtFloor (x.toNat * 2 ^ 400)
  | .rsqrt => sqrtFloor (2 ^ 1200 / x.toNat)
  | .recip => quot unit x
  | .atan2 => 0

/-- The bound of R137 at a function value, for x that lies in [0.5, 2) or not, with a margin for the arithmetic here, whose error is
smaller. -/
def bound (fn : CordicFn) (iters : Nat) (near : Bool) (z : Int) : Int :=
  let rel (k : Nat) : Int := (z.natAbs : Int) * 2 ^ k / 2 ^ iters + 2 ^ 100
  let abs : Int := unit * 2 / 2 ^ iters + 2 ^ 250
  match fn with
  | .sin | .cos | .atan2 | .tanh | .sigm => abs
  | .exp => rel 2
  | .log => if near then abs else rel 2
  | .sqrt | .rsqrt | .recip => rel 1

end Sys2Proof.Machine.Exact
end

