-- ==== Sys2Proof/Machine/Cordic.lean ====
section
/-! DEFINITION. CORDIC and the random generator (R135 to R139). The CORDIC result of an input that R138 does not list is a free
value within the range that R137 allows. -/

namespace Sys2Proof.Machine

/-- F32 codes of the exact special values of R138. -/
def f32Inf : BitVec 32 := 0x7F800000
def f32NegInf : BitVec 32 := 0xFF800000
def f32Nan : BitVec 32 := 0x7FC00000
def f32One : BitVec 32 := 0x3F800000
def f32Half : BitVec 32 := 0x3F000000

/-- A code with the sign of another. -/
def withSign (x c : BitVec 32) : BitVec 32 := (c &&& 0x7FFFFFFF) ||| (x &&& 0x80000000)

/-- The kind of an F32 code. -/
inductive FKind where
  | zero | finite | inf | nan
  deriving DecidableEq, Repr

/-- The kind of a code. -/
def fkind (x : BitVec 32) : FKind :=
  match FFmt.f32.decode x.toNat with
  | .nan => .nan
  | .inf _ => .inf
  | .fin _ m _ => if m = 0 then .zero else .finite

/-- Is the sign bit set? -/
def fneg (x : BitVec 32) : Bool := x.toNat.testBit 31

/-- atan2(y, x) where IEEE 754-2019 lists it (R138): multiples of π/4 rounded to F32. -/
def atan2Special (y x : BitVec 32) : Option (BitVec 32) :=
  let pi : BitVec 32 := 0x40490FDB
  let pi2 : BitVec 32 := 0x3FC90FDB
  let pi4 : BitVec 32 := 0x3F490FDB
  let pi34 : BitVec 32 := 0x4016CBE4
  match fkind y, fkind x with
  | .nan, _ => some f32Nan
  | _, .nan => some f32Nan
  | .zero, _ => some (withSign y (if fneg x then pi else 0))
  | .finite, .zero => some (withSign y pi2)
  | .finite, .inf => some (withSign y (if fneg x then pi else 0))
  | .finite, .finite => none
  | .inf, .inf => some (withSign y (if fneg x then pi34 else pi4))
  | .inf, _ => some (withSign y pi2)

/-- The result where R138 lists it. -/
def cordicSpecial (fn : CordicFn) (x y : BitVec 32) : Option (BitVec 32) :=
  match fn with
  | .atan2 => atan2Special x y
  | _ =>
    match fkind x with
    | .nan => some f32Nan
    | .zero => match fn with
      | .sin | .tanh | .sqrt => some x
      | .cos | .exp => some f32One
      | .log => some f32NegInf
      | .sigm => some f32Half
      | _ => some (withSign x f32Inf)
    | .inf =>
      if fneg x then match fn with
        | .exp | .sigm => some 0
        | .tanh => some 0xBF800000
        | .recip => some 0x80000000
        | _ => some f32Nan
      else match fn with
        | .sin | .cos => some f32Nan
        | .exp | .log | .sqrt => some f32Inf
        | .tanh | .sigm => some f32One
        | _ => some 0
    | .finite => match fn with
      | .log | .sqrt | .rsqrt => if fneg x then some f32Nan else none
      | _ => none

/-- A fixed-point number rounded to F32 with RNE (R136). -/
def roundExact (x : Int) : BitVec 32 := BitVec.ofNat 32 (FFmt.f32.round .rne 0 (.fin (x < 0) x.natAbs (-400)))

/-- The exact value of a function of finite numbers, and whether x lies in [0.5, 2). -/
def exactOf (fn : CordicFn) (x y : BitVec 32) : Int × Bool :=
  match FFmt.f32.decode x.toNat, FFmt.f32.decode y.toNat with
  | .fin n m e, .fin n' m' e' =>
    if fn = .atan2 then (Exact.atan2 (Exact.ofF32 n m e) (Exact.ofF32 n' m' e'), false)
    else
      let r := Exact.ofF32 n m e
      (Exact.value fn n m e, decide (Exact.unit / 2 ≤ r) && decide (r < 2 * Exact.unit))
  | _, _ => (0, false)

/-- The least and the greatest result that R137 allows: the ends of the error bound, rounded. -/
def cordicRange (fn : CordicFn) (n : Nat) (x y : BitVec 32) : BitVec 32 × BitVec 32 :=
  let (z, near) := exactOf fn x y
  let e := Exact.bound fn n near z
  (roundExact (z - e), roundExact (z + e))

/-- The place of an F32 code that is no NaN in the order of the numbers, −0 below +0. -/
def fplace (x : BitVec 32) : Int := if fneg x then -((x &&& 0x7FFFFFFF).toNat : Int) - 1 else x.toNat

/-- A free code brought into a range of codes. -/
def intoRange (c : BitVec 32) (r : BitVec 32 × BitVec 32) : BitVec 32 :=
  if fkind c = .nan ∨ fplace c < fplace r.1 then r.1 else if fplace r.2 < fplace c then r.2 else c

/-- The CORDIC result (R136 to R138). -/
def cordicOf (fn : CordicFn) (n : Nat) (x y : BitVec 32) : BitVec 32 :=
  match cordicSpecial fn x y with
  | some r => r
  | none => intoRange (Config.cordic fn n x y) (cordicRange fn n x y)

/-- VCORD (R136). -/
def execVcord (d a b : VReg) (fn : CordicFn) (n1 : BitVec 5) (s : State) : Host.Outcome State Fault Refusal :=
  let srcs := if fn = .atan2 then [a, b] else [a]
  finish (.vcord d a b fn n1) (s.vmap srcs d 32 0 (fun l i =>
    (cordicOf fn (n1.toNat + 1) (BitVec.ofNat 32 (l.elem a 32 i)) (BitVec.ofNat 32 (if fn = .atan2 then l.elem b 32 i else 0))).toNat))

/-- SCORD (R136). -/
def execScord (d a b : Reg) (fn : CordicFn) (n1 : BitVec 5) (s : State) : Host.Outcome State Fault Refusal :=
  scalar d ((cordicOf fn (n1.toNat + 1) ((s.s a).truncate 32) (if fn = .atan2 then (s.s b).truncate 32 else 0)).setWidth 64) s

/-- RAND (R139). -/
def execRand (d : Reg) (s : State) : Host.Outcome State Fault Refusal :=
  let g := rngStep s.lane.rseed
  scalar d g (setSeed g s)

end Sys2Proof.Machine
end

