-- ==== Sys2Proof/Machine/Matrix.lean ====
section
/-! DEFINITION. Matrix and accumulator instructions as the lane issues them (R150 to R164). -/

namespace Sys2Proof.Machine

/-- A job-making instruction that writes its job id (R153, R157). -/
def State.postJob (s : State) (d : Reg) (op : MOp) : Except Stop State :=
  match s.issueMatrix s.cur op with
  | .error e => .error e
  | .ok (s, id) => .ok (s.writeS d (id.setWidth 64))

/-- MMA and MMAT at issue (R153, R155). -/
def State.issueMma (s : State) (team : Bool) (d a b c : Reg) (p1 : BitVec 4) : Except Stop State :=
  match s.mmaBad s.cur team (s.s a) (s.s b) (s.s c) with
  | some (cs, v) => trapNow s cs v
  | none => s.postJob d (.mma team (p1.toNat + 1) (s.s a) (s.s b) (s.s c))

/-- MMA (R153). -/
def execMma (d a b c : Reg) (p1 : BitVec 4) (s : State) : Host.Outcome State Fault Refusal :=
  finish (.mma d a b c p1) (s.issueMma false d a b c p1)

/-- MMAT (R153, R155). -/
def execMmat (d a b c : Reg) (p1 : BitVec 4) (s : State) : Host.Outcome State Fault Refusal :=
  finish (.mmat d a b c p1) (s.issueMma true d a b c p1)

/-- A label job with its label's check (R157). -/
def State.labelJob (s : State) (d a : Reg) (op : BitVec 16 → MOp) : Except Stop State :=
  if labelBad (s.s a) then trapNow s Cause.illegal (s.s a) else s.postJob d (op ((s.s a).truncate 16))

/-- MZERO (R150, R159). -/
def execMzero (a : Reg) (s : State) : Host.Outcome State Fault Refusal :=
  finish (.mzero a) (s.labelJob 0 a .mzero)

/-- ACCSP (R159). -/
def execAccsp (d a : Reg) (s : State) : Host.Outcome State Fault Refusal :=
  finish (.accsp d a) (s.labelJob d a .accsp)

/-- ACCFL (R159). -/
def execAccfl (d a : Reg) (s : State) : Host.Outcome State Fault Refusal :=
  finish (.accfl d a) (s.labelJob d a .accfl)

/-- The issue of a job that the lane waits for, with STALL = 3 (R157). -/
def State.waitForJob (s : State) (op : MOp) : Except Stop State :=
  match s.issueMatrix s.cur op with
  | .error e => .error e
  | .ok (s, id) => .error (.wait (s.setLane { s.lane with waitJob := some (.pending id) }) 3)

/-- LMAP (R157, R158): the lane issues the job, waits, and takes its value; a faulted job writes nothing. -/
def execLmap (d a b : Reg) (s : State) : Host.Outcome State Fault Refusal :=
  finish (.lmap d a b) (match s.lane.waitJob with
    | some (.pending _) => .error (.wait s 3)
    | some (.reply _ v fault) => .ok (if fault then s.advance 32 else s.writeS d v)
    | none =>
      if labelBad (s.s a) then trapNow s Cause.illegal (s.s a)
      else if !(decide ((s.s b).toNat ≤ 8) || s.s b == 15) then trapNow s Cause.illegal (s.s b)
      else s.waitForJob (.lmap d ((s.s a).truncate 16) (s.s b).toNat))

/-- The release and the wait for a queue entry as a check of a vector instruction (R157). -/
def State.queueCheck (s : State) : Except Stop State :=
  match s.release s.cur .dev with
  | .error e => .error e
  | .ok s => if 16 ≤ s.myCore.mq.length then .error (.wait s 3) else .ok s

/-- ACCROW (R160): the 32 elements are read at issue. Of RM, label and s[b] the first that breaks its rule, in this order, is reported
(log entry 60). -/
def execAccrow (d : VReg) (a b : Reg) (rm : RmField) (s : State) : Host.Outcome State Fault Refusal :=
  finish (.accrow d a b rm) (s.vecRun (vregRange d 4) []
    (fun env s => unitCheck (
      if env.rmRefused rm then trapNow s Cause.illegal 4
      else if labelBad (env.s a) then trapNow s Cause.illegal (env.s a)
      else if 31 < (env.s b).toNat then trapNow s Cause.illegal (env.s b)
      else s.queueCheck))
    (fun _ env s =>
      let x := (List.range 32).map (fun j => BitVec.ofNat 32 (elemOf env.v d .f32 j))
      ((s.enterMatrix s.cur (.accrow ((env.s a).truncate 16) (env.s b).toNat x (env.rm rm)) none).1, ⟨[], id⟩)))

/-- Registers of an ACCRD result type (R161). -/
def accrdRegs (ty : Nat) : Nat := if ty = 0 then 4 else 2

/-- Does s[b] of ACCRD break a rule of R161? -/
def accrdBad (d : VReg) (x : Word) : Bool :=
  let ty := bits x 9 8
  ty == 3 || (x &&& ~~~(0x31F : Word)) != 0 || decide (32 < d.toNat + accrdRegs ty)

/-- The element type of an ACCRD result (R161). -/
def accrdType (ty : Nat) : ElemTy := if ty = 0 then .f32 else if ty = 1 then .bf16 else .f16

/-- The lane takes an ACCRD's row (R161): rounded elements across registers, and the AMAX updates. -/
def State.takeRow (s : State) (d : VReg) (ty : Nat) (rm : RoundMode) (row : List (BitVec 32)) : Except Stop State :=
  let xs := row.map (fun x => FFmt.f32.decode x.toNat)
  let t := accrdType ty
  s.vecRun [] (vregRange d (accrdRegs ty)) noCheck (fun _ _ s =>
    (s, ⟨(elemPack d t (fun j => if ty = 0 then (row.getD j 0).toNat else convert t rm 0 (xs.getD j .nan))).map
      (fun x => (x.1, x.2, x.2)), amaxOf .f32 xs⟩))

/-- ACCRD (R157, R161). -/
def execAccrd (d : VReg) (a b : Reg) (rm : RmField) (s : State) : Host.Outcome State Fault Refusal :=
  let ty := bits (s.s b) 9 8
  finish (.accrd d a b rm) (match s.lane.waitJob with
    | some (.pending _) => .error (.wait s 3)
    | some (.reply row _ fault) => if fault then .ok (s.advance 32) else s.takeRow d ty (s.lane.rm rm) row
    | none =>
      match s.moves [] (vregRange d (accrdRegs ty)) with
      | .error e => .error e
      | .ok ms => match s.streamWaits s.lane.kept.waits ms with
        | .error e => .error e
        | .ok (s, _) =>
          if s.lane.rmRefused rm then trapNow s Cause.illegal 4
          else if labelBad (s.s a) then trapNow s Cause.illegal (s.s a)
          else if accrdBad d (s.s b) then trapNow s Cause.illegal (s.s b)
          else s.waitForJob (.accrd d ((s.s a).truncate 16) (bits (s.s b) 4 0) ty (s.lane.rm rm)))

/-- BIND (R163). -/
def execBind (d a b : Reg) (rm : RmField) (cm : Bool) (s : State) : Host.Outcome State Fault Refusal :=
  finish (.bind d a b rm cm) (match s.lane.bindBad (s.s a) (s.s b) rm with
    | some (c, v) => trapNow s c v
    | none => s.postJob d (.bind (s.s a) (s.s b) (s.lane.rm rm) cm))

/-! Waiting for jobs (R164). -/

/-- Is job `j` complete, by the id of the lane's last completed job (0 for none) and whether a job is unfinished (R164)? -/
def jobDone (last j : BitVec 32) (unfinished : Bool) : Bool :=
  !unfinished || (j != 0 && last != 0 && decide ((last - j).toNat < 2 ^ 31))

/-- Is matrix job `j` complete for the issuing lane (R164)? -/
def State.matrixDone (s : State) (j : BitVec 32) : Bool :=
  jobDone s.lane.mlast j (s.myCore.mq.any (fun x => x.lane % 4 == s.cur.lane % 4))

/-- MWAIT (R164). -/
def execMwait (d : Reg) (s : State) : Host.Outcome State Fault Refusal :=
  finish (.mwait d) (if s.matrixDone ((s.s d).truncate 32) then .ok (s.advance 32) else .error (.wait s 3))

/-- MPOLL (R164). -/
def execMpoll (d a : Reg) (s : State) : Host.Outcome State Fault Refusal :=
  scalar d (flag (s.matrixDone ((s.s a).truncate 32))) s

end Sys2Proof.Machine
end

