-- ==== Sys2Proof/Machine/Accumulator.lean ====
section
/-! DEFINITION. What a matrix job does while it runs: slots, labels and the spill area (R146 to R149), products (R152, R154,
R169), label jobs, rows and BIND (R158 to R163). -/

namespace Sys2Proof.Machine

/-! Accumulator sets. -/

/-- Accumulator set `n` of a cluster (R57). -/
def State.accSet (s : State) (cl n : Nat) : AccSet := (s.cluster cl).sets[n % 4]'(Nat.mod_lt _ (by decide))

/-- The state with an accumulator set replaced. -/
def State.setAccSet (s : State) (cl n : Nat) (a : AccSet) : State :=
  s.setCluster cl { s.cluster cl with sets := (s.cluster cl).sets.set (n % 4) a (Nat.mod_lt _ (by decide)) }

/-- The slot that holds a label (R146). -/
def AccSet.find (a : AccSet) (lab : BitVec 16) : Option (Nat × Slot) := a.slots.find? (fun x => x.2.label == lab)

/-- The lowest-numbered free slot (R147). -/
def AccSet.free (a : AccSet) : Option Nat := (List.range 8).find? (fun n => (Table.find a.slots n).isNone)

/-- The victim of a spill: the slot with the smallest SEQ whose label the job does not name (R147), and of two with one SEQ the
lower one (log entry 97). -/
def AccSet.victim (a : AccSet) (names : List (BitVec 16)) : Option (Nat × Slot) :=
  (a.slots.filter (fun x => !names.contains x.2.label)).foldl (fun b x => match b with
    | none => some x
    | some y => if x.2.seq < y.2.seq then some x else some y) none

/-- The set with slot `n` changed at update `c`: a label with its cells, or none where it is freed (R146). -/
def AccSet.edit (a : AccSet) (n c : Nat) (x : Option (BitVec 16 × List (Nat × BitVec 32))) : AccSet :=
  match x with
  | some (lab, cells) => ⟨Table.put a.slots n ⟨lab, cells, c, []⟩, c⟩
  | none => ⟨Table.del a.slots n, c⟩

/-- Cell (r, c) of a tile; cells not listed are +0. -/
def cellAt (t : List (Nat × BitVec 32)) (r c : Nat) : BitVec 32 := Table.get 0 t (32 * r + c)

/-- A tile with a cell written. -/
def setCell (t : List (Nat × BitVec 32)) (r c v : Nat) : List (Nat × BitVec 32) :=
  Table.setD 0 t (32 * r + c) (BitVec.ofNat 32 v)

/-! Memory as a job meets it: its own earlier stores are accepted before it reads (R148, R170). -/

/-- An answered relaxed 64-bit load by a job of lane `r`: it may see or miss what others, and the lane itself since the issue,
have under way (R170). -/
def State.jobLoad (s : State) (r : LaneRef) (w : Writer) (a : Word) : Except Stop (State × Word) :=
  match s.fates r a 64 .table with
  | .error e => .error e
  | .ok (s, t) =>
    let s := s.drain (fun q => q.who == r && q.writer == w)
    if s.landed r (· == w) then .ok (s.readPart r false t.pa) else .error (.wait s 6)

/-- Several words from an address up. -/
def State.jobLoads (s : State) (r : LaneRef) (w : Writer) (a : Word) : Nat → Except Stop (State × List Word)
  | 0 => .ok (s, [])
  | n + 1 => match s.jobLoad r w a with
    | .error e => .error e
    | .ok (s, x) => match s.jobLoads r w (a + 64) n with
      | .error e => .error e
      | .ok (s, xs) => .ok (s, x :: xs)

/-- A posted relaxed masked store of a word by a job of lane `r`. -/
def State.jobStore (s : State) (r : LaneRef) (w : Writer) (a m v : Word) : Except Stop State :=
  match s.fates r a 64 .store with
  | .error e => .error e
  | .ok (s, t) => .ok (s.post r w 0 a t (.store m v))

/-- Posted stores of words with masks at their addresses, in order. -/
def State.jobStores (s : State) (r : LaneRef) (w : Writer) : List (Word × Word × Word) → Except Stop State
  | [] => .ok s
  | (a, m, v) :: t => match s.jobStore r w a m v with
    | .error e => .error e
    | .ok s => s.jobStores r w t

/-! What a matrix job does, act by act (R144, R170). Between two acts the machine may move on; a job's program says which act follows
what the acts before it have given. -/

/-- An act of a matrix job: a look at the lane's set; its ACCSPILL; a load or a store, of the spill area (R148) or not; word `i` of the
quad; a spill's or a refill's change of a slot, which is a step of its own; the reading of a slot's cells, or of one row of them
(R330); a stream handed to the team, or awaited from it (R155). -/
inductive JobAct where
  | set
  | spillBase
  | load (spill : Bool) (a : Word)
  | store (spill : Bool) (a m v : Word)
  | quad (i : Nat)
  | edit (n c : Nat) (x : Option (BitVec 16 × List (Nat × BitVec 32)))
  | read (n : Nat) (row : Option Nat)
  | publish (col : Bool) (x : Stream)
  | await (col : Bool)
  deriving DecidableEq, Repr

/-- The program of a job: it is over, with a value or a fault and the label that this concerns (R167), or makes an act. -/
inductive Prog (α : Type) where
  | done (x : α)
  | fault (cause : BitVec 8) (addr : Word) (label : Option (BitVec 16))
  | act (label : Option (BitVec 16)) (o : JobAct) (k : Ans → Prog α)

/-- One program after another. -/
def Prog.bind {α β : Type} : Prog α → (α → Prog β) → Prog β
  | .done x, f => f x
  | .fault c a l, _ => .fault c a l
  | .act l o k, f => .act l o (fun x => (k x).bind f)

/-- The program once the acts of a list have given what they gave. -/
def Prog.replay {α : Type} : Prog α → List Ans → Prog α
  | .act _ _ k, x :: t => (k x).replay t
  | p, _ => p

/-- Single acts. -/
def Prog.do_ (l : Option (BitVec 16)) (o : JobAct) : Prog Unit := .act l o (fun _ => .done ())
def Prog.word (l : Option (BitVec 16)) (o : JobAct) : Prog Word := .act l o (fun x => .done (match x with
  | .word w => w
  | _ => 0))
def Prog.set : Prog AccSet := .act none .set (fun x => .done (match x with
  | .set a => a
  | _ => ⟨[], 0⟩))
def Prog.await (col : Bool) : Prog Stream := .act none (.await col) (fun x => .done (match x with
  | .stream y => y
  | _ => .blocks []))

/-- Several words from an address up. -/
def Prog.loads (l : Option (BitVec 16)) (spill : Bool) (a : Word) : Nat → Prog (List Word)
  | 0 => .done []
  | n + 1 => (Prog.word l (.load spill a)).bind fun x => (Prog.loads l spill (a + 64) n).bind fun xs => .done (x :: xs)

/-- Stores of words with masks at their addresses, in order. -/
def Prog.stores (l : Option (BitVec 16)) (spill : Bool) : List (Word × Word × Word) → Prog Unit
  | [] => .done ()
  | (a, m, v) :: t => (Prog.do_ l (.store spill a m v)).bind fun _ => Prog.stores l spill t

/-! The spill area (R148). -/

/-- H(L) and I(L) of a spill area. -/
def headerAt (base : Word) (lab : BitVec 16) : Word := base + word (64 * lab.toNat)
def imageAt (base : Word) (lab : BitVec 16) : Word := base + word (2 ^ 22 + 2 ^ 15 * lab.toNat)

/-- A header word: the label and V (R148). -/
def headerWord (lab : BitVec 16) (v : Bool) : Word := word (lab.toNat + b2n v * 2 ^ 63)

/-- The image of a tile as words with their addresses (R148): two cells a word. -/
def imageWords (a : Word) (t : List (Nat × BitVec 32)) : List (Word × Word × Word) :=
  (List.range 512).map (fun i =>
    (a + word (64 * i), BitVec.allOnes 64,
      word ((Table.get 0 t (2 * i)).toNat + (Table.get 0 t (2 * i + 1)).toNat * 2 ^ 32)))

/-- The tile that an image holds. -/
def imageCells (ws : List Word) : List (Nat × BitVec 32) :=
  ws.zipIdx.flatMap (fun x =>
    ([(2 * x.2, BitVec.ofNat 32 (bits x.1 31 0)), (2 * x.2 + 1, BitVec.ofNat 32 (bits x.1 63 32))]).filter (fun y => y.2 != 0))

/-- The spill area for a label, which is none where ACCSPILL is 0; an area outside translated space faults (R148). -/
def spillArea (lab : BitVec 16) : Prog (Option Word) :=
  (Prog.word (some lab) .spillBase).bind fun base =>
    if base = 0 then .done none
    else if bit base 63 then .fault Cause.accspill base (some lab)
    else .done (some base)

/-- Has a label a valid image (R147)? -/
def hasImage (lab : BitVec 16) : Prog Bool :=
  (spillArea lab).bind fun
    | none => .done false
    | some base => (Prog.word (some lab) (.load true (headerAt base lab))).bind fun x =>
      .done (bit x 63 && bits x 15 0 == lab.toNat)

/-- A label's header is written, if there is a spill area (R148); `lab` is the label that a fault concerns. -/
def putHeader (lab x : BitVec 16) (v : Bool) : Prog Unit :=
  (spillArea lab).bind fun
    | none => .done ()
    | some base => Prog.do_ (some lab) (.store true (headerAt base x) (BitVec.allOnes 64) (headerWord x v))

/-- spill (R147, R148), for a label: the image, then the header with V = 1; then the slot is free, a step of its own (R144). -/
def spillSlot (lab : BitVec 16) (n c : Nat) (x : Slot) : Prog Unit :=
  (spillArea lab).bind fun
    | none => .fault Cause.accspill 0 (some lab)
    | some base =>
      (Prog.do_ (some lab) (.read n none)).bind fun _ =>
      (Prog.stores (some lab) true (imageWords (imageAt base x.label) x.cells)).bind fun _ =>
      (putHeader lab x.label true).bind fun _ => Prog.do_ (some lab) (.edit n c none)

/-- A refill into a slot (R147, R148): the image, then the header with V = 0; a step of its own (R144). -/
def refillSlot (lab : BitVec 16) (n c : Nat) : Prog (List (Nat × BitVec 32)) :=
  (spillArea lab).bind fun
    | none => .done []
    | some base =>
      (Prog.loads (some lab) true (imageAt base lab) 512).bind fun ws =>
      (putHeader lab lab false).bind fun _ =>
      (Prog.do_ (some lab) (.edit n c (some (lab, imageCells ws)))).bind fun _ => .done (imageCells ws)

/-- A slot to place a label in: a free one, after a spill where there is none (R147). -/
def makeRoom (lab : BitVec 16) (c : Nat) (names : List (BitVec 16)) : Prog Nat :=
  Prog.set.bind fun a => match a.free with
    | some n => .done n
    | none => match a.victim names with
      | none => .fault Cause.accspill 0 (some lab)
      | some (n, x) => (spillSlot lab n c x).bind fun _ => Prog.set.bind fun a => .done (a.free.getD n)

/-- resolve(L) for a job that needs the label in a slot (R147): the slot number and the label's cells, which it reads if `keep`. An
image that a job does not want is marked V = 0 all the same (R159). -/
def resolveLabel (c : Nat) (names : List (BitVec 16)) (keep refill : Bool) (lab : BitVec 16) : Prog (Nat × List (Nat × BitVec 32)) :=
  Prog.set.bind fun a => match a.find lab with
    | some (n, x) =>
      if keep then (Prog.do_ (some lab) (.read n none)).bind fun _ => .done (n, x.cells) else .done (n, x.cells)
    | none => (hasImage lab).bind fun img => (makeRoom lab c names).bind fun n =>
      if !img then .done (n, [])
      else if refill then (refillSlot lab n c).bind fun t => .done (n, t)
      else (putHeader lab lab false).bind fun _ => .done (n, [])

/-- resolve(L) for a job that only reads (R147), all cells or a row: a label with neither slot nor image reads as +0 and gets no
slot. -/
def readLabel (c : Nat) (names : List (BitVec 16)) (row : Option Nat) (lab : BitVec 16) : Prog (List (Nat × BitVec 32)) :=
  Prog.set.bind fun a => match a.find lab with
    | some (n, x) => (Prog.do_ (some lab) (.read n row)).bind fun _ => .done x.cells
    | none => (hasImage lab).bind fun img =>
      if !img then .done []
      else (resolveLabel c names false true lab).bind fun x => .done x.2

/-- The tiles of several labels. -/
def readLabels (c : Nat) (names : List (BitVec 16)) : List (BitVec 16) → Prog (List (List (Nat × BitVec 32)))
  | [] => .done []
  | x :: t => (readLabel c names none x).bind fun y => (readLabels c names t).bind fun ys => .done (y :: ys)

/-! Products (R152, R154). -/

/-- `n` words of the quad from index `i` up, each read once, in order (log entry 39): index and value. -/
def quadWords (l : Option (BitVec 16)) (i : Nat) : Nat → Prog (List (Nat × Word))
  | 0 => .done []
  | n + 1 => (Prog.word l (.quad i)).bind fun x => (quadWords l (i + 1) n).bind fun xs => .done ((i, x) :: xs)

/-- The block at bit offset `h` of the quad, its header first, decoded (R41, R43). -/
def quadBlock (l : Option (BitVec 16)) (h : Nat) (accepts : BlkFmt → Bool) (kquad : Bool) : Prog (Except DecFault (Blk × Nat)) :=
  (quadWords l (h / 64) 1).bind fun ws =>
  (quadWords l (h / 64 + 1) ((h + blockSpan (part32 ws h 0) h - 1) / 64 - h / 64)).bind fun more =>
    .done (decodeBlock (part32 (ws ++ more) h) accepts kquad (2 ^ 21 - h))

/-- `n` blocks that follow one another in a window of the quad from bit offset `h` up, aligned at a precision (R152): the aligned
blocks, or the fault at the first block that fails. -/
def quadStream (l : Option (BitVec 16)) (a : Word) (win : Nat) (kquad : Bool) (p : Nat) : Nat → Nat → Prog Stream
  | _, 0 => .done (.blocks [])
  | h, n + 1 =>
    let here := a - word (bits a 20 0) + word h
    if 2 ^ 21 < h + 32 then .done (.failed Cause.address here)
    else (quadBlock l h (windowAccepts win) kquad).bind fun
      | .error e => .done (.failed e.cause here)
      | .ok (b, size) => (quadStream l a win kquad p (h + size) n).bind fun
        | .blocks bs => .done (.blocks (b.align p :: bs))
        | .failed c x => .done (.failed c x)

/-- The window number of a stream address. -/
def streamWin (a : Word) : Nat := bits a 62 59

/-- A cell after its k-blocks, in increasing k (R154). -/
def cellSum (old : Nat) (xs ys : List Aligned) : Nat :=
  (xs.zip ys).foldl (fun acc x => f32Add acc (blockProduct x.1 x.2)) old

/-- A tile computed in an order of its rows (R154): the active cells accumulate, the others are unchanged. -/
def tileBy (rows : List Nat) (t : List (Nat × BitVec 32)) (nc kb : Nat) (xs ys : List Aligned) : List (Nat × BitVec 32) :=
  rows.foldl (fun t r => (List.range (nc + 1)).foldl (fun t c =>
    setCell t r c (cellSum (cellAt t r c).toNat ((xs.drop (r * kb)).take kb) ((ys.drop (c * kb)).take kb))) t) t

/-- The tile of R154. -/
def productTile (t : List (Nat × BitVec 32)) (nr nc kb : Nat) (xs ys : List Aligned) : List (Nat × BitVec 32) :=
  tileBy (List.range (nr + 1)) t nc kb xs ys

/-- The second pass of redundant mode (R169): output row i on array row 31 − i, which takes the rows in the other order. -/
def secondTile (t : List (Nat × BitVec 32)) (nr nc kb : Nat) (xs ys : List Aligned) : List (Nat × BitVec 32) :=
  tileBy (List.range (nr + 1)).reverse t nc kb xs ys

/-- A tile whose active cells are the free values of a team member that a failed block left without an operand (R42, R155; log
entry 85). -/
def freeTile (t : List (Nat × BitVec 32)) (nr nc seed : Nat) : List (Nat × BitVec 32) :=
  (List.range (nr + 1)).foldl (fun t r => (List.range (nc + 1)).foldl (fun t c =>
    setCell t r c (Config.lostCell seed (32 * r + c)).toNat) t) t

/-- The two operand streams of a product job, as its engine reads or receives them: a failure of A stands before one of B (R154).
A stream that another core's engine failed to read leaves `none` (R42). -/
structure Operands where
  xs : Stream
  ys : Stream
  mineX : Bool
  mineY : Bool
  deriving DecidableEq, Repr

/-- The blocks of a product, a failure of a stream that this engine read, or none where another engine's read failed. -/
def Operands.blocks (o : Operands) : Except (BitVec 8 × Word) (Option (List Aligned × List Aligned)) :=
  match o.xs, o.ys with
  | .blocks xs, .blocks ys => .ok (some (xs, ys))
  | .failed c a, y => if o.mineX then .error (c, a) else match y with
    | .failed c a => if o.mineY then .error (c, a) else .ok none
    | .blocks _ => .ok none
  | .blocks _, .failed c a => if o.mineY then .error (c, a) else .ok none

/-- The row stream of a product (R152). -/
def rowStream (p : Nat) (a desc : Word) : Prog Stream :=
  quadStream (some (dLabel desc)) a (streamWin a) (dLa desc) p (bits a 20 0) ((dNr desc + 1) * dKb desc)

/-- The column stream of a product (R152). -/
def colStream (b desc : Word) : Prog Stream :=
  quadStream (some (dLabel desc)) b (streamWin b) (dLb desc) (dPb desc) (bits b 20 0) ((dNc desc + 1) * dKb desc)

/-- A job that writes back some slots and hands nothing over. -/
def MOut.ofEdits (c : Nat) (es : List (Nat × Option (BitVec 16 × List (Nat × BitVec 32)))) : MOut := ⟨es, c, [], 0, (0, false), none⟩

/-- A product job (R154) with its operands, which `get` reads or waits for. With RED = 1 the tile is computed twice (R169). `seed`
names the job for the free values of a failed team (log entry 85). -/
def productJob (c seed : Nat) (desc : Word) (get : Prog Operands) : Prog MOut :=
  let lab := dLabel desc
  (resolveLabel c [lab] (!dZero desc) true lab).bind fun (n, old) => get.bind fun o => match o.blocks with
    | .error (e, a) => .fault e a (some lab)
    | .ok bs =>
      let old := if dZero desc then [] else old
      let tile (f : List (Nat × BitVec 32) → Nat → Nat → Nat → List Aligned → List Aligned → List (Nat × BitVec 32)) :
          List (Nat × BitVec 32) :=
        match bs with
        | some (xs, ys) => f old (dNr desc) (dNc desc) (dKb desc) xs ys
        | none => freeTile old (dNr desc) (dNc desc) seed
      .done { MOut.ofEdits c [(n, some (lab, tile productTile))] with
        copy := if dRed desc then some ⟨n, tile secondTile⟩ else none }

/-- The operands of an MMA (R152, R154): B is read only where A's blocks pass. -/
def ownOperands (p : Nat) (a b desc : Word) : Prog Operands :=
  (rowStream p a desc).bind fun
    | .failed c x => .done ⟨.failed c x, .blocks [], true, true⟩
    | xs => (colStream b desc).bind fun ys => .done ⟨xs, ys, true, true⟩

/-- The operands of an engine of a team at (gx, gy) (R155): cluster (0, gy) reads the row block and cluster (gx, 0) the column block,
each once, and hands it to the engines of its row or column; the others wait for theirs. -/
def teamOperands (gx gy p : Nat) (a b desc : Word) : Prog Operands :=
  let hand (mine col : Bool) (x : Prog Stream) : Prog Unit :=
    if mine then x.bind fun x => Prog.do_ none (.publish col x) else .done ()
  (hand (gx == 0) false (rowStream p a desc)).bind fun _ => (hand (gy == 0) true (colStream b desc)).bind fun _ =>
  (Prog.await false).bind fun xs => (Prog.await true).bind fun ys => .done ⟨xs, ys, gx == 0, gy == 0⟩

/-- LMAP's job (R158). -/
def lmapJob (c : Nat) (lab : BitVec 16) (code : Nat) : Prog MOut :=
  let out (es : List (Nat × Option (BitVec 16 × List (Nat × BitVec 32)))) (v : Word) : Prog MOut :=
    .done { MOut.ofEdits c es with value := v }
  let place (a : AccSet) (v : Word) : Prog MOut := match a.find lab with
    | some (n, x) => (Prog.do_ (some lab) (.read n none)).bind fun _ =>
      out ((if n = code then [] else [(n, none)]) ++ [(code, some (lab, x.cells))]) v
    | none => (hasImage lab).bind fun img =>
      if !img then out [(code, some (lab, []))] v
      else (refillSlot lab code c).bind fun _ => out [] v
  Prog.set.bind fun a =>
    if code = 15 then match a.find lab with
      | some (n, _) => out [] (word n)
      | none => (hasImage lab).bind fun img => out [] (if img then 8 else 9)
    else if code = 8 then
      (putHeader lab lab false).bind fun _ => out (match a.find lab with
        | some (n, _) => [(n, none)]
        | none => []) 0
    else match Table.find a.slots code with
      | some x =>
        if x.label = lab then place a 0
        else (spillSlot lab code c x).bind fun _ => Prog.set.bind fun a => place a (headerWord x.label true)
      | none => place a 0

/-- ACCROW's job (R160). -/
def accrowJob (c : Nat) (lab : BitVec 16) (row : Nat) (x : List (BitVec 32)) (rm : RoundMode) : Prog MOut :=
  (resolveLabel c [lab] true true lab).bind fun (n, t) =>
    let add (a b : BitVec 32) : Nat :=
      FFmt.f32.round rm 0 (FVal.add rm (FFmt.f32.decode a.toNat) (FFmt.f32.decode b.toNat))
    let t := (List.range 32).foldl (fun t j => setCell t row j (add (cellAt t row j) (x.getD j 0))) t
    .done (.ofEdits c [(n, some (lab, t))])

/-! BIND (R162, R163). -/

/-- Fields of word 0 of a bind table (R162). -/
def tNl (x : Word) : Nat := bits x 3 0
def tOfmt (x : Word) : Nat := bits x 7 4
def tCb (x : Word) : Nat := bits x 10 8
def tLay (x : Word) : Bool := bit x 11
def tStride (x : Word) : Nat := bits x 47 16

/-- The size of an output row that a stride must cover (R162). -/
def rowBits (ofmt : Nat) : Nat :=
  if ofmt = 0 then 1024 else if ofmt < 3 then 512
  else match blkFmtOf (ofmt - 8) with
    | some .cw8 => 416
    | some f => blkBits f 0
    | none => 0

/-- The labels of a bind table. -/
def tLabels (x1 x2 : Word) (n : Nat) : List (BitVec 16) :=
  (List.range n).map (fun k => BitVec.ofNat 16 (bits (if k < 4 then x1 else x2) (16 * (k % 4) + 15) (16 * (k % 4))))

/-- Does word 0 break a rule of R162? -/
def tableBad (x : Word) : Bool :=
  tNl x == 0 || decide (8 < tNl x) || (decide (3 ≤ tOfmt x) && decide (tOfmt x ≤ 7)) ||
  decide (4 < tCb x) || (tCb x != 0 && tOfmt x != 9) || (tLay x && decide (tOfmt x < 3)) ||
  bits x 15 12 != 0 || bits x 63 48 != 0 ||
  (tStride x != 0 && (tStride x % 64 != 0 || decide (tStride x < rowBits (tOfmt x))))

/-- The accumulator of one cell (R163): one rounding a label. -/
def bindCell (coeff : Nat → Nat) (ts : List (List (Nat × BitVec 32))) (r c : Nat) : Nat :=
  ts.zipIdx.foldl (fun acc x => f32Fma (coeff x.2) (cellAt x.1 r c).toNat acc) 0

/-- The 32-bit words of an output row (R162, R163). -/
def bindRow (w0 : Word) (rm : RoundMode) (acc : List Nat) : List Nat :=
  let half (t : ElemTy) : List Nat :=
    let h (j : Nat) : Nat := convert t rm 0 (FFmt.f32.decode (acc.getD j 0))
    (List.range 16).map (fun i => h (2 * i) + h (2 * i + 1) * 2 ^ 16)
  if tOfmt w0 = 0 then acc
  else if tOfmt w0 = 1 then half .bf16
  else if tOfmt w0 = 2 then half .f16
  else match blkFmtOf (tOfmt w0 - 8), cbOfCode (tCb w0) with
    | some f, some cb => encodeBlock (acc.map FFmt.f32.decode) f cb (tLay w0) rm 0
    | _, _ => []

/-- The words to store, in increasing address order: packed rows follow one another, others start a stride apart. -/
def bindStores (dest : Word) (stride : Nat) (rows : List (List Nat)) : List (Word × Word × Word) :=
  if stride = 0 then wordsOf dest rows.flatten
  else rows.zipIdx.flatMap (fun x => wordsOf (dest + word (x.2 * stride)) x.1)

/-- The bits that the output spans from its destination. -/
def bindSpan (stride : Nat) (rows : List (List Nat)) : Nat :=
  if stride = 0 then 32 * rows.flatten.length else 31 * stride + 32 * (rows.getLastD []).length

/-- Does a span from an address stay in its window (R163)? Each row of a strided output is at most the stride long, so the
last one ends last. -/
def inWindow (a : Word) (n : Nat) : Bool :=
  match decodeWindow a with
  | some (.raw off) => decide (off + n ≤ 2097152)
  | some (.global _ off) => decide (off + n ≤ 524288)
  | _ => false

/-- BIND's job (R163). A fault of its table, its destination or its stores concerns no label (R167). -/
def bindJob (c : Nat) (table dest : Word) (rm : RoundMode) (cm : Bool) : Prog MOut :=
  (Prog.loads none false table 3).bind fun hd =>
    let w0 := hd.getD 0 0
    let nl := tNl w0
    let labs := tLabels (hd.getD 1 0) (hd.getD 2 0) nl
    if tableBad w0 || !decide labs.Nodup then .fault Cause.illegal 0 none
    else (Prog.loads none false (table + 192) (ceilDiv (if cm then 32 * nl else nl) 2)).bind fun cs =>
      let coeff (i : Nat) : Nat := bits (cs.getD (i / 2) 0) (32 * (i % 2) + 31) (32 * (i % 2))
      (readLabels c labs labs).bind fun ts =>
        let accs := (List.range 32).map (fun i => (List.range 32).map (fun j =>
          bindCell (fun l => coeff (if cm then nl * i + l else l)) ts i j))
        let rows := accs.map (bindRow w0 rm)
        if !inWindow dest (bindSpan (tStride w0) rows) then .fault Cause.address dest none
        else (Prog.stores none false (bindStores dest (tStride w0) rows)).bind fun _ =>
          .done { MOut.ofEdits c [] with amax := amaxAll (0, false) (accs.flatten.map FFmt.f32.decode) }

/-- The program of a job (R154, R158 to R163) on a core; `team` is its team, if it is a team job. -/
def MJob.prog (j : MJob) (core : Nat) (team : Option Team) : Prog MOut :=
  Prog.set.bind fun a =>
    let c := a.counter + 1
    let seed := j.id.toNat * 2 ^ 21 + core
    match j.op with
    | .mma _ p a b desc => match team with
      | none => productJob c seed desc (ownOperands p a b desc)
      | some t =>
        if t.bad then .fault Cause.illegal 0 (some (dLabel desc))
        else productJob c seed desc (teamOperands j.placed.1 j.placed.2 p a b desc)
    | .mzero lab => (resolveLabel c [lab] false false lab).bind fun (n, _) => .done (.ofEdits c [(n, some (lab, []))])
    | .lmap _ lab code => lmapJob c lab code
    | .accrow lab row x rm => accrowJob c lab row x rm
    | .accrd _ lab row _ _ => (readLabel c [lab] (some row) lab).bind fun t =>
      .done { MOut.ofEdits c [] with row := (List.range 32).map (cellAt t row) }
    | .accsp lab => match a.find lab with
      | none => .done (.ofEdits c [])
      | some (n, x) => (spillSlot lab n c x).bind fun _ => .done (.ofEdits c [])
    | .accfl lab => (resolveLabel c [lab] true true lab).bind fun (n, t) => .done (.ofEdits c [(n, some (lab, t))])
    | .bind table dest rm cm => bindJob c table dest rm cm

/-- Is it a team job (R155)? -/
def MOp.isTeam : MOp → Bool
  | .mma t _ _ _ _ => t
  | _ => false

/-- The body of a job's fault report (R167), two flits (R191). -/
def jobReport (j : MJob) (cl : Nat) (f : MFault) : List Word :=
  [word (j.id.toNat + f.cause.toNat * 2 ^ 32 + f.slot.getD 0 * 2 ^ 40 + b2n f.slot.isSome * 2 ^ 43 + f.label.toNat * 2 ^ 48),
    j.pc, f.addr,
    word (cl % 2 ^ 17 + (if j.op.isTeam then j.placed.1 * 2 ^ 17 + j.placed.2 * 2 ^ 21 else 0)), 0, 0, 0]

end Sys2Proof.Machine
end

