-- ==== Sys2Proof/Machine/MatrixEngine.lean ====
section
/-! DEFINITION. The matrix engine of a cluster: which job runs next (R142, R143), team reservations (R156), the start and the
completion of a job (R144, R164 to R167). -/

namespace Sys2Proof.Machine

/-! Choice of the next job. -/

/-- Is a job the oldest unfinished job of its lane on its core (R142)? -/
def Core.oldestOfLane (k : Core) (j : MJob) : Bool :=
  ((k.mq.find? (fun x => x.lane % 4 == j.lane % 4)).map (·.id)) == some j.id

/-- The oldest eligible job of a core other than a team job (R143). -/
def Core.eligible (k : Core) : Option MJob := k.mq.find? (fun j => !j.op.isTeam && k.oldestOfLane j)

/-- Weighted round robin over the eight cores of a cluster (R143, R180): the core served next and its count, from the core
being visited and the jobs taken there. -/
def roundRobin (ok : Nat → Bool) (cap : Nat → Nat) (cur served : Nat) : Option (Nat × Nat) :=
  if served < cap cur ∧ ok cur then some (cur, served + 1)
  else (((List.range 8).map (fun i => (cur + 1 + i) % 8)).find? ok).map (fun c => (c, 1))

/-! Teams (R156). -/

/-- The key of a team job: its set, the cluster (0,0) of its group, and TID. -/
def MJob.key (j : MJob) : Option (Nat × Nat × BitVec 8) :=
  match j.op with
  | .mma true _ _ _ desc => some (j.root, j.lane % 4, dTid desc)
  | _ => none

/-- A team job in the queues of a cluster: its core and the job. -/
def State.teamJob (s : State) (cl : Nat) (key : Nat × Nat × BitVec 8) : Option (Nat × MJob) :=
  firstSome (fun k => ((s.core (cl * 8 + k)).mq.find? (fun j => j.key == some key)).map (fun j => (cl * 8 + k, j)))
    (List.range 8)

/-- TC and TR of a team job. -/
def MJob.team (j : MJob) : Nat × Nat :=
  match j.op with
  | .mma _ _ _ _ desc => (dTc desc, dTr desc)
  | _ => (0, 0)

/-- The clusters of a team in ascending physical number (R155). -/
def teamClusters (root tc tr : Nat) : List Nat :=
  (List.range (tc + 1)).flatMap (fun gx => (List.range (tr + 1)).map (fun gy => root + gx * 256 + gy))

/-- May an engine grant a key: is the team's job there the oldest unfinished job of its lane? -/
def State.grantable (s : State) (cl : Nat) (key : Nat × Nat × BitVec 8) : Bool :=
  match s.teamJob cl key with
  | some (c, j) => (s.core c).oldestOfLane j
  | none => false

/-- What matched team jobs must agree on (R156): P, KB, PB, LA, LB, RED, ZERO, TC and TR. -/
def MJob.matched (j : MJob) : Nat × Word :=
  match j.op with
  | .mma _ p _ _ desc => (p, desc &&& 0x0000FC00FFFF0000)
  | _ => (0, 0)

/-- A team starts (R156): every engine holds it as started, with no operand block yet. -/
def State.startTeam (s : State) (key : Nat × Nat × BitVec 8) (cls : List Nat) : State :=
  let all := cls.filterMap (fun c => (s.teamJob c key).map (fun x => x.2.matched))
  let bad := all.any (fun x => all.any (fun y => x != y))
  cls.foldl (fun s c =>
    s.setCluster c { s.cluster c with started := (s.cluster c).started ++ [⟨key.1, key.2.1, key.2.2, bad, none, none⟩] }) s

/-- Is a team started at an engine? -/
def Cluster.hasTeam (k : Cluster) (key : Nat × Nat × BitVec 8) : Bool :=
  k.started.any (fun t => (t.root, t.set, t.tid) == key)

/-- The clusters of the team of a key, by the job at its cluster (0,0). -/
def State.teamOf (s : State) (key : Nat × Nat × BitVec 8) : List Nat :=
  match s.teamJob key.1 key with
  | some (_, j) => teamClusters key.1 j.team.1 j.team.2
  | none => []

/-- The team of a key starts if every engine is reserved for it and it has not started (R156). -/
def State.tryTeam (s : State) (key : Nat × Nat × BitVec 8) : State :=
  let cls := s.teamOf key
  if !cls.isEmpty && cls.all (fun c => (s.cluster c).granted == some key) && !(s.cluster key.1).hasTeam key then
    s.startTeam key cls
  else s

/-- TEAM_RESERVATION (R156): the engine of cluster (0,0) asks the next engine of the team, in ascending number; a free engine
grants the first waiting request that may be granted; the team whose last engine that reserves starts. A team that has started asks
for nothing. -/
def State.reserveTeam (s : State) (key : Nat × Nat × BitVec 8) : State :=
  if (s.cluster key.1).hasTeam key then s
  else match (s.teamOf key).find? (fun c => (s.cluster c).granted != some key) with
  | none => s.tryTeam key
  | some c =>
    let k := s.cluster c
    let wait := if k.reserved.contains key then k.reserved else k.reserved ++ [key]
    let s := s.setCluster c { k with reserved := wait }
    if k.granted.isSome then s
    else match wait.find? (s.grantable c) with
      | none => s
      | some g => (s.setCluster c { s.cluster c with granted := some g, reserved := wait.filter (· != g) }).tryTeam g

/-- TEAM_RESERVATION. -/
def execTeamReservation (root set : Nat) (tid : BitVec 8) (s : State) : Host.Outcome State Fault Refusal :=
  .next (s.reserveTeam (root, set, tid))

/-! Start and completion. -/

/-- The job that a cluster's engine takes next (R143): a started team's job before any other, which leaves the visit as it was (log
entry 98); else the round robin's choice, with the visit that it leaves. -/
def State.nextMatrix (s : State) (cl : Nat) : Option (Nat × MJob × Nat × Nat) :=
  let k := s.cluster cl
  match firstSome (fun (t : Team) => s.teamJob cl (t.root, t.set, t.tid)) k.started with
  | some (c, j) => some (c, j, k.mcore, k.mserved)
  | none =>
    let co (i : Nat) : Core := s.core (cl * 8 + i)
    match roundRobin (fun i => (co i).eligible.isSome) (fun i => (co i).mw.toNat) k.mcore k.mserved with
    | none => none
    | some (i, n) => ((co i).eligible).map (fun j => (cl * 8 + i, j, i, n))

/-- The engines of a team hold a stream that one of them has read: those in its row, or in its column (R155). -/
def State.multicast (s : State) (t : Team) (cls : List Nat) (col : Bool) (x : Stream) : State :=
  cls.foldl (fun s c => s.setCluster c { s.cluster c with started := (s.cluster c).started.map (fun y =>
    if (y.root, y.set, y.tid) = (t.root, t.set, t.tid) then (if col then { y with col := some x } else { y with row := some x })
    else y) }) s

/-- The team of a job, as its cluster holds it. -/
def Cluster.teamOf (k : Cluster) (j : MJob) : Option Team :=
  k.started.find? (fun t => some (t.root, t.set, t.tid) == j.key)

/-- The engines that a stream read at a cluster goes to: those of its row, or of its column (R155). -/
def MJob.receivers (j : MJob) (col : Bool) : List Nat :=
  let at_ (gx gy : Nat) : Nat := j.root + gx * 256 + gy
  if col then (List.range (j.team.2 + 1)).map (at_ j.placed.1) else (List.range (j.team.1 + 1)).map (fun gx => at_ gx j.placed.2)

/-- The cells of a slot, or of one row of it, are read: what errors have emptied of them is counted against the lane (R330). -/
def State.readSlot (s : State) (cl : Nat) (r : LaneRef) (n : Nat) (row : Option Nat) : State :=
  let a := s.accSet cl r.lane
  match Table.find a.slots n with
  | none => s
  | some x =>
    let mine (c : Nat) : Bool := match row with
      | some i => c / 32 == i
      | none => true
    if x.lost.any mine then
      (x.lost.filter mine).foldl (fun s _ => s.countLane r)
        (s.setAccSet cl r.lane { a with slots := Table.put a.slots n { x with lost := x.lost.filter (fun c => !mine c) } })
    else s

/-- A fault of a spill-area access is an ACCSPILL_FAULT (R148). -/
def actFault {α : Type} (spill : Bool) : Except Stop α → Except Stop α
  | .error (.trap s c v) => .error (.trap s (if spill then Cause.accspill else c) v)
  | x => x

/-- An act of the job of lane `r` that runs at a cluster, and what it gives; it waits where a migration or a link holds its access
(R303, R331), or a stream of its team has not come. -/
def State.jobAct (s : State) (cl : Nat) (r : LaneRef) (j : MJob) : JobAct → Except Stop (State × Ans)
  | .set => .ok (s, .set (s.accSet cl r.lane))
  | .spillBase => .ok (s, .word (s.laneAt r).accspill)
  | .load spill a => match actFault spill (s.jobLoad r (.mjob j.id) a) with
    | .error e => .error e
    | .ok (s, x) => .ok (s, .word x)
  | .store spill a m v => match actFault spill (s.jobStore r (.mjob j.id) a m v) with
    | .error e => .error e
    | .ok s => .ok (s, .unit)
  | .quad i =>
    let (s, x) := s.readPart r false (quadByte r.core i)
    .ok (s, .word x)
  | .edit n c x => .ok (s.setAccSet cl r.lane ((s.accSet cl r.lane).edit n c x), .unit)
  | .read n row => .ok (s.readSlot cl r n row, .unit)
  | .publish col x => match (s.cluster cl).teamOf j with
    | some t => .ok (s.multicast t (j.receivers col) col x, .unit)
    | none => .ok (s, .unit)
  | .await col => match ((s.cluster cl).teamOf j).bind (fun t => if col then t.col else t.row) with
    | some x => .ok (s, .stream x)
    | none => .error (.wait s 3)

/-- Up to `n` further acts of a program, all of them where `n` is none: what they gave, and the rest of the program. -/
def Prog.run (cl : Nat) (r : LaneRef) (j : MJob) : Prog MOut → State → Option Nat → State × List Ans × Prog MOut
  | .done x, s, _ => (s, [], .done x)
  | .fault c a l, s, _ => (s, [], .fault c a l)
  | .act l o k, s, n =>
    if n = some 0 then (s, [], .act l o k)
    else match s.jobAct cl r j o with
      | .ok (s, x) =>
        let (s, xs, p) := (k x).run cl r j s (n.map (· - 1))
        (s, x :: xs, p)
      | .error (.trap s c a) => (s, [], .fault c a l)
      | .error (.wait _ _) => (s, [], .act l o k)

/-- The running job of a cluster makes up to `n` further acts (R144, R170). -/
def State.workMatrix (s : State) (cl : Nat) (m : MRun) (n : Option Nat) : State × MRun :=
  let r : LaneRef := ⟨m.core, m.job.lane⟩
  if m.done.isSome then (s, m)
  else
    let p := (m.job.prog m.core ((s.cluster cl).teamOf m.job)).replay m.acts
    match p.run cl r m.job s n with
    | (s, _, .done o) => (s, { m with acts := [], done := some (.out o) })
    | (s, _, .fault c a l) =>
      let slot := l.bind (fun l => ((s.accSet cl r.lane).find l).map (·.1))
      (s, { m with acts := [], done := some (.fault ⟨c, a, l.getD 0, slot⟩) })
    | (s, xs, .act _ _ _) => (s, { m with acts := m.acts ++ xs })

/-- The job that a cluster's engine runs goes on by up to `n` acts. -/
def State.goMatrix (s : State) (cl : Nat) (n : Option Nat) : State :=
  match (s.cluster cl).mrun with
  | none => s
  | some m =>
    let (s, m) := s.workMatrix cl m n
    s.setCluster cl { s.cluster cl with mrun := some m }

/-- The start of a matrix job (R143), with the first of its acts; a start of an engine that is at work takes its job further. How
many acts a start makes is free (R170; log entry 39). -/
def State.startMatrix (s : State) (cl : Nat) : State :=
  let go (s : State) : State := s.goMatrix cl (some (Config.jobActs s.turn cl))
  if (s.cluster cl).mrun.isSome then go s
  else match s.nextMatrix cl with
    | none => s
    | some (c, j, mcore, served) =>
      go (s.setCluster cl { s.cluster cl with mrun := some ⟨c, j, [], none⟩, mcore := mcore, mserved := served })

/-- MATRIX_JOB_START. -/
def execMatrixJobStart (cluster : Nat) (s : State) : Host.Outcome State Fault Refusal := .next (s.startMatrix cluster)

/-- A job's end as it stands at write-back (R169): a redundant one whose copies differ in a cell has faulted. -/
def MEnd.compared : MEnd → MEnd
  | .fault f => .fault f
  | .out o => match o.copy with
    | none => .out o
    | some y => match Table.find o.edits y.slot with
      | some (some (lab, cells)) =>
        if (List.range 1024).all (fun i => Table.get 0 cells i == Table.get 0 y.cells i) then .out o
        else .fault ⟨Cause.redundant, 0, lab, some y.slot⟩
      | _ => .out o

/-- The set after a job's write-back: only the slots that it changes (R144). -/
def AccSet.writeBack (a : AccSet) (o : MOut) : AccSet := o.edits.foldl (fun a x => a.edit x.1 o.seq x.2) a

/-- A lane's AMAX after the updates of a job (R163). -/
def Lane.mergeAmax (l : Lane) (a : BitVec 32 × Bool) : Lane :=
  let m := amaxUpdate (l.amaxM, l.amaxN || a.2) (FFmt.f32.decode a.1.toNat)
  { l with amaxM := m.1, amaxN := m.2 }

/-- The completion word of a FIFO job (R165). -/
def matrixWord (j : MJob) (op : Nat) (fault : Option (BitVec 8)) : Word :=
  word (j.id.toNat + op * 2 ^ 32 + b2n fault.isSome * 2 ^ 35 + (fault.getD 0).toNat * 2 ^ 40)

/-- A job's fault is charged to its lane (R166): it falls due, or its report is sent at once where the lane is parked or a
job fault already waits there. -/
def State.chargeJob (s : State) (r : LaneRef) (cause : BitVec 8) (id : BitVec 32) (report : List Word) : State :=
  let l := s.laneAt r
  if l.run == .parked || l.due.any (fun d => match d with
      | .jobFault _ _ _ => true
      | .notice _ => false) then s.sendReport r report
  else s.setLaneAt r { l with due := l.due ++ [.jobFault cause id report] }

/-- The lane of a completed matrix job: LAST, the reply that it waits for, and AMAX (R157, R163, R164). A BIND that completes
faulted leaves AMAX (log entry 81, DESIGN CHOICE). -/
def Lane.matrixDone (l : Lane) (j : MJob) (e : MEnd) : Lane :=
  let l := match e with
    | .out o => l.mergeAmax o.amax
    | .fault _ => l
  let reply : JobWait := match e with
    | .out o => .reply o.row o.value false
    | .fault _ => .reply [] 0 true
  { l with mlast := j.id, waitJob := if l.waitJob = some (.pending j.id) then some reply else l.waitJob }

/-- The fault of an end. -/
def MEnd.failure : MEnd → Option MFault
  | .out _ => none
  | .fault f => some f

/-- A job whose acts are over and whose stores are accepted leaves its engine and its queue (R144, R164 to R166): its slots are
written back, or nothing if it faulted. -/
def State.retireMatrix (s : State) (cl : Nat) (m : MRun) (e : MEnd) : State :=
  let r : LaneRef := ⟨m.core, m.job.lane⟩
  let s := match e with
    | .out o => s.setAccSet cl m.job.lane ((s.accSet cl m.job.lane).writeBack o)
    | .fault _ => s
  let k := s.core m.core
  let word_ := match m.job.fifo with
    | some op => [matrixWord m.job op (e.failure.map (·.cause))]
    | none => []
  let k := { k with mq := k.mq.filter (fun j => j.id != m.job.id), mresq := k.mresq ++ word_ }
  let s := s.setCore m.core (k.setLane m.job.lane ((k.lane m.job.lane).matrixDone m.job e))
  let c := s.cluster cl
  let s := s.setCluster cl (match m.job.key with
    | some key => { c with mrun := none, granted := none, started := c.started.filter (fun t => (t.root, t.set, t.tid) != key) }
    | none => { c with mrun := none })
  let s := s.settleDropped
  match e.failure with
  | none => s
  | some f => s.chargeJob r f.cause m.job.id (jobReport m.job cl f)

/-- The completion of a matrix job (R144, R164 to R166): the rest of its acts, its stores accepted, then it retires. It waits where an
act of it is held, where a link holds one of its stores, and, of a FIFO job, while MRESQ is full (R58). -/
def State.finishMatrix (s : State) (cl : Nat) : State :=
  let s := s.goMatrix cl none
  match (s.cluster cl).mrun with
  | none => s
  | some m => match m.done with
    | none => s
    | some e =>
      let r : LaneRef := ⟨m.core, m.job.lane⟩
      let s := s.drain (fun q => q.who == r && q.writer == .mjob m.job.id)
      if (m.job.fifo.isSome ∧ 16 ≤ (s.core m.core).mresq.length) ∨ !s.landed r (· == .mjob m.job.id) then s
      else s.retireMatrix cl m e.compared

/-- MATRIX_JOB_COMPLETE. -/
def execMatrixJobComplete (cluster : Nat) (s : State) : Host.Outcome State Fault Refusal := .next (s.finishMatrix cluster)

end Sys2Proof.Machine
end

