-- ==== Sys2Proof/Machine/Brook.lean ====
section
/-! DEFINITION. The Brook of a cluster: its jobs' work (R180), completion barriers (R105, R181), residency slots (R182), and
the completion of a job (R164, R166, R178, R184). -/

namespace Sys2Proof.Machine

/-- next of a version (R105): 15 is followed by 1. -/
def nextVer (v : BitVec 4) : BitVec 4 := if v = 15 then 1 else v + 1

/-! The work. -/

/-- Pieces of 256 bits, or blocks, of a Brook job (R177, R180). -/
def BJob.pieces (j : BJob) : Nat := if bOp j.word2 = 0 then ceilDiv (bLen j.word2) 256 else bLen j.word2

/-- 64-bit words that 32 elements of a type fill. -/
def elemWords (t : ElemTy) : Nat := elemBits t / 2

/-- Element `i` of elements packed densely in words. -/
def packedElem (t : ElemTy) (ws : List Word) (i : Nat) : Nat :=
  let e := elemBits t
  bits (ws.getD (e * i / 64) 0) (e * i % 64 + e - 1) (e * i % 64)

/-- Words with elements packed densely. -/
def packElems (t : ElemTy) (cs : List Nat) : List Word :=
  let e := elemBits t
  (List.range (elemWords t)).map (fun k =>
    word ((List.range (64 / e)).foldl (fun a i => a + cs.getD (k * (64 / e) + i) 0 % 2 ^ e * 2 ^ (e * i)) 0))

/-- Whole words from an address up, as masked stores. -/
def fullStores (a : Word) (ws : List Word) : List (Word × Word × Word) :=
  ws.zipIdx.map (fun x => (a + word (64 * x.2), BitVec.allOnes 64, x.1))

/-- One piece of a job (R180): a piece copied, a block encoded, or a block decoded. -/
def State.brookPiece (s : State) (b : BRun) : Except Stop (State × BRun) :=
  let j := b.job
  let r : LaneRef := ⟨b.core, j.lane⟩
  let w := Writer.bjob j.id
  let ty := (elemOfCode (bEt j.word2)).getD .i8
  let fmt := (blkFmtOf (bFmt j.word2)).getD .w8
  let lay := bLay j.word2
  let k := b.moved
  if bOp j.word2 = 0 then
    let n := min 4 (bLen j.word2 / 64 - 4 * k)
    match s.jobLoads r w (j.src + word (256 * k)) n with
    | .error e => .error e
    | .ok (s, ws) => match s.jobStores r w (fullStores (j.dst + word (256 * k)) ws) with
      | .error e => .error e
      | .ok s => .ok (s, { b with moved := k + 1 })
  else if bOp j.word2 = 1 then
    match s.jobLoads r w (j.src + word (64 * elemWords ty * k)) (elemWords ty) with
    | .error e => .error e
    | .ok (s, ws) =>
      let xs := (List.range 32).map (fun i => elemVal ty (packedElem ty ws i))
      let blk := encodeBlock xs fmt ((cbOfCode (bCb j.word2)).getD (.cb 0)) lay j.rm 0
      match s.jobStores r w (wordsOf (j.dst + word b.span) blk) with
      | .error e => .error e
      | .ok s =>
        let a := if (elemFloat ty).isSome then amaxAll b.amax xs else b.amax
        .ok (s, { b with moved := k + 1, span := b.span + 32 * blk.length, amax := a })
  else
    let s := s.drain (fun q => q.who == r && q.writer == w)
    if !s.landed r (· == w) then .error (.wait s 6)
    else match s.blockAt r false (j.src + word b.span) (· == fmt) lay .table with
    | .error e => .error e
    | .ok (s, blk, n) =>
      let cs := (List.range 32).map (fun i => convert ty j.rm 0 (blk.values.getD i .nan))
      match s.jobStores r w (fullStores (j.dst + word (64 * elemWords ty * k)) (packElems ty cs)) with
      | .error e => .error e
      | .ok s => .ok (s, { b with moved := k + 1, span := b.span + n })

/-- Up to `n` further pieces of the running job: a fault is recorded, a hold by a migration stops the run where it is. -/
def State.brookMove (s : State) (b : BRun) : Nat → State × BRun
  | 0 => (s, b)
  | n + 1 =>
    if b.job.pieces ≤ b.moved ∨ b.fault.isSome ∨ b.superseded then (s, b)
    else match s.brookPiece b with
      | .ok (s, b) => s.brookMove b n
      | .error (.trap s c a) => (s, { b with fault := some (c, a) })
      | .error (.wait _ _) => (s, b)

/-- The job that a Brook takes next (R143, R177): weighted round robin with MWEIGHT.BW over the oldest jobs of their lanes. -/
def State.nextBrook (s : State) (cl : Nat) : Option (Nat × BJob × Nat × Nat) :=
  let k := s.cluster cl
  let head (i : Nat) : Option BJob := (s.core (cl * 8 + i)).bq.head?
  match roundRobin (fun i => (head i).isSome) (fun i => (s.core (cl * 8 + i)).bw.toNat) k.bcore k.bserved with
  | none => none
  | some (i, n) => (head i).map (fun j => (cl * 8 + i, j, i, n))

/-- BROOK_JOB_START (R180): an idle Brook takes its next job; `pieces` of the running job move now, the others by its
completion. -/
def State.startBrook (s : State) (cl pieces : Nat) : State :=
  let go (s : State) (b : BRun) : State :=
    let (s, b) := s.brookMove b pieces
    s.setCluster cl { s.cluster cl with brun := some b }
  match (s.cluster cl).brun with
  | some b => go s b
  | none => match s.nextBrook cl with
    | none => s
    | some (c, j, i, n) =>
      go (s.setCluster cl { s.cluster cl with bcore := i, bserved := n }) ⟨c, j, 0, 0, (0, false), false, j.gone, none⟩

/-- BROOK_JOB_START. -/
def execBrookJobStart (cluster pieces : Nat) (s : State) : Host.Outcome State Fault Refusal :=
  .next (s.startBrook cluster pieces)

/-! Barriers (R181). -/

/-- A stale arrival (R181): a post to the mailbox of the supervisor core, and the partition's count. -/
def State.staleArrival (s : State) (r : LaneRef) (id : BitVec 32) : State :=
  let l := s.laneAt r
  let h := mkHeader l.supc.toNat 0 0 l.part 0 r.core false true true
  let s : State := { s with mesh := s.mesh ++ [⟨r.core, none, l.supc.toNat, mkMsg h [word (0xFFFFFFFF * 2 ^ 32 + 2 ^ 28 + id.toNat % 2 ^ 28)]⟩] }
  s.setPart l.part { s.part l.part with stale := (s.part l.part).stale + 1 }

/-- May a job's arrival at its barrier word not be made yet: a link holds back a store of the job, which is accepted first (R180),
or the arrival itself (R331)? -/
def State.barrierHeld (s : State) (c : Nat) (j : BJob) : Bool :=
  !s.landed ⟨c, j.lane⟩ (· == .bjob j.id) || match decodeWindow j.bar with
    | none => false
    | some pl => s.accessWait c (pl.byteAddr c / 8 * 8)

/-- The stores of a Brook job are accepted, but for those that a link holds back (R180). -/
def State.drainBrook (s : State) (c : Nat) (j : BJob) : State :=
  s.drain (fun q => q.who == ⟨c, j.lane⟩ && q.writer == .bjob j.id)

/-- A job's arrival at its barrier word (R181), once its stores are accepted (R180): one step at the word's home. -/
def State.arriveBarrier (s : State) (c : Nat) (j : BJob) : State :=
  let r : LaneRef := ⟨c, j.lane⟩
  let p := (s.laneAt r).part
  match decodeWindow j.bar with
  | none => s
  | some pl =>
    let pa := pl.byteAddr c / 8 * 8
    let checked := match pl with
      | .global _ _ => true
      | _ => false
    if checked && s.foreign p false false pa then
      s.dropAccess ⟨r, BitVec.ofNat 8 p, .bjob j.id, 0, j.bar⟩
    else
      let s := s.drainPath r (pathOf pa)
      let (s, x, t) := s.readHome pa p (some r)
      if t = bVer j.word2 then
        let cnt := (bits x 31 0 + 1) % 2 ^ 32
        let s := if bits x 63 32 ≠ 0 ∧ cnt = bits x 63 32 then (s.poke pa (putBits x 0 32 0) p).setTag pa (nextVer t)
          else s.poke pa (putBits x 0 32 cnt) p
        s.reexamine pa t
      else s.staleArrival r j.id

/-- BARRIER_ARRIVAL (R181): the running job has moved everything, or has been superseded, and has not yet arrived. -/
def State.barrierNow (s : State) (cl : Nat) : State :=
  match (s.cluster cl).brun with
  | none => s
  | some b =>
    if bBv b.job.word2 ∧ !b.arrived ∧ b.fault.isNone ∧ (b.superseded ∨ b.job.pieces ≤ b.moved) then
      let s := s.drainBrook b.core b.job
      if s.barrierHeld b.core b.job then s
      else
        let s := s.arriveBarrier b.core b.job
        s.setCluster cl { s.cluster cl with brun := some { b with arrived := true } }
    else s

/-- BARRIER_ARRIVAL. -/
def execBarrierArrival (cluster : Nat) (s : State) : Host.Outcome State Fault Refusal := .next (s.barrierNow cluster)

/-! Completion. -/

/-- The status of a run: 0 done, 1 superseded, 2 faulted (R178, R183). -/
def BRun.status (b : BRun) : Nat := if b.superseded then 1 else if b.fault.isSome then 2 else 0

/-- The body of a Brook job's fault report (R167). -/
def brookReport (j : BJob) (cl : Nat) (cause : BitVec 8) (addr : Word) : List Word :=
  [word (j.id.toNat + cause.toNat * 2 ^ 32), j.pc, addr, word (cl % 2 ^ 17), 0, 0, 0]

/-- The completion word of a FIFO job (R178). -/
def brookWord (b : BRun) : Word :=
  word (b.job.id.toNat + b.status * 2 ^ 32 + (if b.status = 2 then (match b.fault with
    | some f => f.1.toNat
    | none => 0) else 0) * 2 ^ 40)

/-- The Brook with residency slot `n` set. -/
def Cluster.setResid (c : Cluster) (n : Nat) (x : Resid) : Cluster :=
  { c with resid := c.resid.set (n % 16) x (Nat.mod_lt _ (by decide)) }

/-- A residency slot after its filler completes (R182). -/
def fillDone (x : Resid) (c : Nat) (id : BitVec 32) (status : Nat) : Resid :=
  if x = .filling c id then (if status = 0 then .resident else .empty) else x

/-- A Brook job leaves its queue: LAST, its status, BRESQ, AMAX, its slot, and the charge of a fault (R164, R166, R178, R180,
R182). Its stores and its arrival are done. A BCONV that completes faulted leaves AMAX (log entry 81, DESIGN CHOICE). -/
def State.retireBrook (s : State) (cl : Nat) (b : BRun) : State :=
  let j := b.job
  let r : LaneRef := ⟨b.core, j.lane⟩
  let k := s.core b.core
  let l := k.lane j.lane
  let l := { l with blast := j.id, bstat := Table.put l.bstat j.id.toNat b.status }
  let l := if b.status = 2 then l else l.mergeAmax b.amax
  let k := { k with bq := k.bq.filter (fun x => x.id != j.id), bresq := k.bresq ++ (if j.fifo then [brookWord b] else []) }
  let s := s.setCore b.core (k.setLane j.lane l)
  let c := s.cluster cl
  let c : Cluster := if bRv j.word2 then c.setResid (bRslot j.word2) (fillDone (c.residAt (bRslot j.word2)) b.core j.id b.status) else c
  let c : Cluster := if (c.brun.map (fun x => (x.core, x.job.id))) = some (b.core, j.id) then { c with brun := none } else c
  let s := s.setCluster cl c
  let s := s.settleDropped
  match b.status, b.fault with
  | 2, some (e, a) => s.chargeJob r e j.id (brookReport j cl e a)
  | _, _ => s

/-- A run whose work is over: its stores are accepted, it arrives, and it retires unless BRESQ is full (R180, R184); it waits
where a link holds back one of its stores or its arrival. -/
def State.endBrook (s : State) (cl : Nat) (b : BRun) : State :=
  let keep (s : State) (b : BRun) : State := s.setCluster cl { s.cluster cl with brun := some b }
  let s := s.drainBrook b.core b.job
  let arrive := bBv b.job.word2 && !b.arrived && b.status != 2
  if !s.landed ⟨b.core, b.job.lane⟩ (· == .bjob b.job.id) ∨ (arrive && s.barrierHeld b.core b.job) then keep s b
  else
    let s := if arrive then s.arriveBarrier b.core b.job else s
    let b := { b with arrived := b.arrived || arrive }
    if b.job.fifo ∧ 16 ≤ (s.core b.core).bresq.length then keep s b else s.retireBrook cl b

/-! Evictions (R182). -/

/-- A superseded filler that never ran makes its arrival and retires (R182). -/
def State.retireUnrun (s : State) (cl core : Nat) (j : BJob) : State :=
  (if bBv j.word2 then s.arriveBarrier core j else s).retireBrook cl ⟨core, j, 0, 0, (0, false), true, true, none⟩

/-- May a superseded job that never ran retire now: no earlier job of its lane is unfinished (R142), and BRESQ has room for its
completion word (R184)? -/
def Core.mayRetire (k : Core) (j : BJob) : Bool :=
  ((k.bq.find? (fun x => x.lane % 4 == j.lane % 4)).map (·.id)) == some j.id && !(j.fifo && decide (16 ≤ k.bresq.length))

/-- A filler that never ran is superseded: it retires at once, or when its turn comes (R142, R182, R184). -/
def State.supersede (s : State) (cl core : Nat) (j : BJob) : State :=
  if (s.core core).mayRetire j && !(bBv j.word2 && s.barrierHeld core j) then s.retireUnrun cl core j
  else
    let k := s.core core
    s.setCore core { k with bq := k.bq.map (fun x => if x.id = j.id then { x with gone := true } else x) }

/-- An eviction takes effect: the slot becomes EMPTY unless a fill accepted since holds it, and the slot's filler, if it is
unfinished, is superseded, with its arrival (R182). -/
def State.evictNow (s : State) (cl : Nat) (e : Evict) : State :=
  let c := s.cluster cl
  let later : Bool := match c.residAt e.slot with
    | .filling core id => match (s.core core).bq.find? (fun j => j.id == id) with
      | some j => decide (e.order ≤ j.order)
      | none => false
    | _ => false
  let s := if later then s else s.setCluster cl (c.setResid e.slot .empty)
  match e.filler.bind (fun f => ((s.core f.1).bq.find? (fun j => j.id == f.2)).map (fun j => (f.1, j))) with
  | none => s
  | some (core, j) =>
    match (s.cluster cl).brun with
    | some b => if b.core = core ∧ b.job.id = j.id then s.endBrook cl { b with superseded := true, fault := none }
      else s.supersede cl core j
    | none => s.supersede cl core j

/-- Every posted eviction of a cluster takes effect, in order. -/
def State.evictAll (s : State) (cl : Nat) : State :=
  let es := (s.cluster cl).evicts
  es.foldl (fun s e => s.evictNow cl e) (s.setCluster cl { s.cluster cl with evicts := [] })

/-- RESIDENCY_EVICTION (R182): the oldest posted eviction takes effect. -/
def execResidencyEviction (cluster : Nat) (s : State) : Host.Outcome State Fault Refusal :=
  match (s.cluster cluster).evicts with
  | [] => .next s
  | e :: t => .next ((s.setCluster cluster { s.cluster cluster with evicts := t }).evictNow cluster e)

/-- The completion of the running Brook job (R180): evictions posted before it come first (R182); the rest of the work is
done, then the run ends. A run that a migration holds goes on later. -/
def State.finishBrook (s : State) (cl : Nat) : State :=
  let s := s.evictAll cl
  match (s.cluster cl).brun with
  | none => s
  | some b =>
    let (s, b) := s.brookMove b b.job.pieces
    if b.fault.isSome ∨ b.superseded ∨ b.job.pieces ≤ b.moved then s.endBrook cl b
    else s.setCluster cl { s.cluster cl with brun := some b }

/-- BROOK_JOB_COMPLETE. -/
def execBrookJobComplete (cluster : Nat) (s : State) : Host.Outcome State Fault Refusal := .next (s.finishBrook cluster)

end Sys2Proof.Machine
end

