-- ==== Sys2Proof/Machine/Messages.lean ====
section
/-! DEFINITION. SEND, SENDI, CNTWAIT and the mailbox instructions (R172 to R176), and the Brook, FIFO and system waits as
instructions (R177 to R184, R194). -/

namespace Sys2Proof.Machine

/-! Messages (R173). -/

/-- The header as it leaves a lane: PTAG and SRC are the sender's, and the flags are zero (R173, R198); MB marks a mailbox
post (R176). -/
def State.outHeader (s : State) (r : LaneRef) (h : Word) (mb : Bool) : Word :=
  mkHeader (hdrDest h) (hdrCtx h) (hdrClass h) (s.laneAt r).part (hdrFlits h - 1) (s.logical r) false false mb

/-- A message enters the lane's send queue of 8, or waits with STALL = 5 (R173). -/
def State.enqueueSend (s : State) (r : LaneRef) (m : Msg) : Except Stop State :=
  let l := s.laneAt r
  if 8 ≤ l.sendq.length then .error (.wait s 5) else .ok (s.setLaneAt r { l with sendq := l.sendq ++ [m] })

/-- Do `n` words from an address up lie in one local raw or global window (R173)? -/
def spanInWindow (a : Word) (n : Nat) : Bool := inScratch a && inWindow a (64 * n)

/-- The checks of a SEND's body (R173): space, alignment, then each word; no watchpoint watches its reads (R334). -/
def State.bodyCheck (s : State) (r : LaneRef) (a : Word) (n : Nat) : Except Stop State :=
  if !spanInWindow a n then .error (.trap s Cause.address a)
  else if bits a 5 0 ≠ 0 then .error (.trap s Cause.alignment a)
  else go s a n
where
  /-- The words in order. -/
  go (s : State) (a : Word) : Nat → Except Stop State
    | 0 => .ok s
    | n + 1 => match s.fates r a 64 .table with
      | .error e => .error e
      | .ok (s, _) => go s (a + 64) n

/-- The checks of a header (R173): the trap, if any. -/
def State.headerBad (s : State) (h : Word) (one : Bool) : Option (BitVec 8) :=
  if hdrClass h = 0 ∨ (one ∧ hdrFlits h ≠ 1) then some Cause.illegal
  else if 56 ≤ hdrClass h ∧ hdrClass h ≤ 62 ∧ !s.lane.sup then some Cause.privilege
  else none

/-- SEND (R173). -/
def execSend (a b : Reg) (sc : Scope) (s : State) : Host.Outcome State Fault Refusal :=
  let h := s.s a
  let n := 4 * hdrFlits h - 1
  finish (.send a b sc) (match s.headerBad h false with
    | some c => trapNow s c h
    | none => match s.bodyCheck s.cur (s.s b) n with
      | .error e => .error e
      | .ok s => match s.release s.cur sc with
        | .error e => .error e
        | .ok s =>
          if 8 ≤ s.lane.sendq.length then .error (.wait s 5)
          else match s.readWords s.cur (s.s b) .table n with
            | .error e => .error e
            | .ok (s, ws) => match s.enqueueSend s.cur (s.outHeader s.cur h false :: ws) with
              | .error e => .error e
              | .ok s => .ok (s.advance 32))

/-- SENDI (R173). -/
def execSendi (a b : Reg) (sc : Scope) (s : State) : Host.Outcome State Fault Refusal :=
  let h := s.s a
  finish (.sendi a b sc) (match s.headerBad h true with
    | some c => trapNow s c h
    | none => match s.release s.cur sc with
      | .error e => .error e
      | .ok s => match s.enqueueSend s.cur [s.outHeader s.cur h false, s.s b, 0, 0] with
        | .error e => .error e
        | .ok s => .ok (s.advance 32))

/-- CNTWAIT (R175): the acquire holds whenever the lane issues (R102). -/
def execCntwait (n : BitVec 2) (a : Reg) (s : State) : Host.Outcome State Fault Refusal :=
  finish (.cntwait n a) (
    if (s.s a).toNat ≤ (s.myCore.lane n.toNat).rxcnt.toNat then .ok (s.advance 32) else .error (.wait s 7))

/-! The mailbox (R176). -/

/-- MBXPOST (R176): a one-flit message through the send queue. -/
def execMbxpost (a b d : Reg) (s : State) : Host.Outcome State Fault Refusal :=
  let t := s.s a
  finish (.mbxpost a b d) (
    if bits t 63 20 ≠ 0 then trapNow s Cause.illegal t
    else
      let h := s.outHeader s.cur (word (bits t 19 0)) true
      match s.enqueueSend s.cur [h, word (bits (s.s b) 31 0 * 2 ^ 32 + bits (s.s d) 31 0), 0, 0] with
      | .error e => .error e
      | .ok s => .ok (s.advance 32))

/-- Does a lane wait in MBXTAKE, with no entry handed to it yet? -/
def Lane.takes (l : Lane) : Bool :=
  l.run == .stalled && l.waitJob.isNone && match l.waiting with
    | some (.mbxtake _) => true
    | _ => false

/-- A mailbox entry as MBXTAKE gives it (R176). -/
def mailboxWord (x : BitVec 32 × BitVec 32) : Word := word (x.1.toNat * 2 ^ 32 + x.2.toNat)

/-- The lanes of a core that issued a MBXTAKE before lane `n` did, and still wait: all that wait, where lane `n` issues only now
(R176). -/
def Core.takesBefore (k : Core) (n : Nat) : List Nat :=
  (k.mbxWait.takeWhile (fun i => !(i == n && (k.lane n).takes))).filter (fun i => i != n && (k.lane i).takes)

/-- The first entries of the mailbox are handed to lanes that wait, in order; a gated one holds it (R176). -/
def Core.handEntries (k : Core) : List Nat → Core
  | [] => k
  | i :: rest => match k.mbx with
    | [] => k
    | x :: t => (({ k with mbx := t } : Core).setLane i { k.lane i with waitJob := some (.reply [] (mailboxWord x) false) }).handEntries rest

/-- MBXTAKE (R176): an entry goes first to every lane of the core that issued one before. -/
def execMbxtake (d : Reg) (s : State) : Host.Outcome State Fault Refusal :=
  finish (.mbxtake d) (match s.lane.waitJob with
    | some (.reply _ v _) => .ok (s.writeS d v)
    | _ =>
      let n := s.cur.lane % 4
      let k := s.myCore
      let s := s.setMyCore (k.handEntries (k.takesBefore n))
      match s.myCore.mbx with
      | [] =>
        let ahead := k.mbxWait.filter (fun i => (k.lane i).takes)
        .error (.wait (s.setMyCore { s.myCore with mbxWait := if ahead.contains n then ahead else ahead ++ [n] }) 7)
      | x :: t => .ok ((s.setMyCore { s.myCore with mbx := t }).writeS d (mailboxWord x)))

/-- MBXCFG (R176, R230). -/
def execMbxcfg (a : Reg) (s : State) : Host.Outcome State Fault Refusal :=
  let k := s.s a
  finish (.mbxcfg a) (
    if k = 0 ∨ 8 < k.toNat then trapNow s Cause.illegal k
    else .ok ((s.setMyCore { s.myCore with mbx := [], mbxK := k.toNat, mbxOwner := s.cur.lane % 4 }).advance 32))

/-- A mailbox after a post arrives (R176): entries in descending priority, equal ones in order of arrival. -/
def mailboxInsert (x : BitVec 32 × BitVec 32) : List (BitVec 32 × BitVec 32) → List (BitVec 32 × BitVec 32)
  | [] => [x]
  | y :: t => if x.1.toNat ≤ y.1.toNat then y :: mailboxInsert x t else x :: y :: t

/-- The post of R176 at a mailbox of depth `k`. -/
def mailboxPost (k : Nat) (m : List (BitVec 32 × BitVec 32)) (x : BitVec 32 × BitVec 32) : List (BitVec 32 × BitVec 32) :=
  if k = 0 then m
  else if m.length < k then mailboxInsert x m
  else match m.getLast? with
    | some y => if y.1.toNat < x.1.toNat then mailboxInsert x m.dropLast else m
    | none => m

/-! Brook instructions (R177 to R183). -/

/-- BCOPY and BCONV of the issuing lane (R178): the job id and the promise. s[d + 1] counts modulo 32. -/
def State.brookInstr (s : State) (d a b : Reg) (conv : Bool) (sc : Scope) : Except Stop State :=
  match s.issueBrook s.cur (s.s a) (some (s.s b)) (some conv) sc with
  | .error e => .error e
  | .ok (s, id, t) => .ok (((s.setS d (id.setWidth 64)).setS (d + 1) t).advance 32)

/-- BCOPY (R178). -/
def execBcopy (d a b : Reg) (sc : Scope) (s : State) : Host.Outcome State Fault Refusal :=
  finish (.bcopy d a b sc) (s.brookInstr d a b false sc)

/-- BCONV (R178). -/
def execBconv (d a b : Reg) (sc : Scope) (s : State) : Host.Outcome State Fault Refusal :=
  finish (.bconv d a b sc) (s.brookInstr d a b true sc)

/-- BEVICT (R182): a posted eviction at the cluster's Brook. -/
def execBevict (a : Reg) (s : State) : Host.Outcome State Fault Refusal :=
  let x := s.s a
  let cl := clusterOf s.cur.core
  finish (.bevict a) (
    if bits x 63 4 ≠ 0 then trapNow s Cause.illegal x
    else
      let c := s.cluster cl
      .ok ((s.setCluster cl { c with evicts := c.evicts ++ [⟨x.toNat, c.border, c.fillerOf x.toNat⟩], border := c.border + 1 }).advance 32))

/-- Is Brook job `j` complete for the issuing lane (R164, R183)? -/
def State.brookDone (s : State) (j : BitVec 32) : Bool :=
  jobDone s.lane.blast j (s.myCore.bq.any (fun x => x.lane % 4 == s.cur.lane % 4))

/-- BWAIT (R183). -/
def execBwait (a : Reg) (s : State) : Host.Outcome State Fault Refusal :=
  finish (.bwait a) (if s.brookDone ((s.s a).truncate 32) then .ok (s.advance 32) else .error (.wait s 3))

/-- The status of a complete Brook job (R183), free where the lane never received the job (log entry 15). -/
def State.brookStatus (s : State) (j : BitVec 32) : Word :=
  match Table.find s.lane.bstat j.toNat with
  | some n => word n
  | none => Config.jobStatus j.toNat

/-- SLEEP (R183). -/
def State.sleep (s : State) (d a : Reg) : Except Stop State :=
  let j := (s.s d).truncate 32
  let late := (s.s a).ult s.dtc
  if j ≠ 0 ∧ s.brookDone j then .ok (s.writeS d (s.brookStatus j))
  else if !late then .error (.wait s 4)
  else if j = 0 then .ok (s.writeS d 0)
  else trapNow s Cause.promise (j.setWidth 64)

/-- SLEEP. -/
def execSleep (d a : Reg) (s : State) : Host.Outcome State Fault Refusal := finish (.sleep d a) (s.sleep d a)

/-- ENGPUSH (R184). -/
def execEngpush (f : Fifo) (a : Reg) (sc : Scope) (s : State) : Host.Outcome State Fault Refusal :=
  finish (.engpush f a sc) (match s.pushFifo s.cur f (s.s a) sc with
    | .error e => .error e
    | .ok s => .ok (s.advance 32))

/-- ENGPOP (R184). -/
def execEngpop (f : Fifo) (d : Reg) (s : State) : Host.Outcome State Fault Refusal :=
  finish (.engpop f d) (match s.popFifo s.cur f with
    | .error e => .error e
    | .ok (s, x) => .ok (s.writeS d x))

end Sys2Proof.Machine
end

