-- ==== Sys2Proof/Machine/TaskInstrs.lean ====
section
/-! DEFINITION. Records at a launch unit (R245 to R250, R259, R261, R264), and the task instructions (R185 to R189). -/

namespace Sys2Proof.Machine

/-! Record checks (R249). -/

/-- The rules of R249 and R231 that a record's own fields can break. A kind-2 record's W1 and W2 hold settings, so the
rules on curves do not bear on it. -/
def recordBad (x : Vector Word 8) : Bool :=
  decide (2 < recKind x) || recClass x == 0 || decide (55 < recClass x) || recCmask x == 0 ||
  (recGid x != 0 && decide (recGsize x < recGidx x)) || recEst x == 0 ||
  (recKind x == 1 && (recCols x != 0 || recRows x != 0 || popN (recCmask x) 8 != 1 || (recGid x != 0 && recGsize x != 0))) ||
  (recKind x != 2 && ((recIcv x && bits (recWord x 2) 31 0 == 0) ||
    (recHasCurve x && (recWord x 4 != 0 || recWord x 5 != 0))))

/-- An anchor entry that R249 refuses. -/
def Die.anchorBad (d : Die) (p : BitVec 8) (id : BitVec 16) : Bool :=
  match d.task? id with
  | some a => !d.inUse id || a.ptag != p || a.curve.isEmpty
  | none => true

/-- The launch unit's reads under a partition; they charge no task (R100). -/
def State.unitRead (s : State) (o : Origin) (a : Word) (n : Nat) : Except Stop (State × List Word) :=
  let t := (s.laneAt o.reader).task
  let back (s : State) : State := s.setLaneAt o.reader { s.laneAt o.reader with task := t }
  match (s.setLaneAt o.reader { s.laneAt o.reader with task := 0 }).loadAs o.reader o.ptag a n with
  | .ok (s, ws) => .ok (back s, ws)
  | .error (.trap s c v) => .error (.trap (back s) c v)
  | .error (.wait s c) => .error (.wait (back s) c)

/-- The curve of a record (R249, R251); an illegal one answers none. -/
def State.recordCurve (s : State) (o : Origin) (x : Vector Word 8) : Except Stop (State × Option (List (Nat × Nat))) :=
  if recKind x = 2 then .ok (s, some [])
  else if recIcv x then .ok (s, some (inlineCurve x))
  else if recWord x 2 = 0 then .ok (s, some [])
  else match s.unitRead o (recWord x 2) 1 with
    | .error e => .error e
    | .ok (s, h) =>
      let n := bits (h.getD 0 0) 3 0
      if n = 0 ∨ 8 < n then .ok (s, none)
      else match s.unitRead o (recWord x 2 + 64) n with
        | .error e => .error e
        | .ok (s, ws) =>
          let c := ws.map breakpoint
          .ok (s, if risingTicks c then some c else none)

/-- The successor list of a record (R248, R249); an unmapped home answers none. -/
def State.recordSuccs (s : State) (o : Origin) (x : Vector Word 8) : Except Stop (State × Option (List Succ)) :=
  if recSn x = 0 then .ok (s, some [])
  else match s.mapCore o.ptag.toNat (recScore x) none with
    | none => .ok (s, none)
    | some c => if recKind x = 2 then .ok (s, some []) else match s.unitRead o (globalAddr c 0 + word (64 * recSword x)) (ceilDiv (recSn x) 2) with
      | .error e => .error e
      | .ok (s, ws) => .ok (s, some ((ws.flatMap succEntries).take (recSn x)))

/-- A record's checks with what they read (R249): its curve and its successor entries; a broken rule is an
ILLEGAL_INSTRUCTION with the value given. -/
def State.checkRecord (s : State) (o : Origin) (die : Nat) (x : Vector Word 8) (val : Word) :
    Except Stop (State × List (Nat × Nat) × List Succ) :=
  let bad (s : State) : Except Stop (State × List (Nat × Nat) × List Succ) := .error (.trap s Cause.illegal val)
  if recordBad x then bad s
  else match s.recordCurve o x with
    | .error e => .error e
    | .ok (s, none) => bad s
    | .ok (s, some c) =>
      if (recAnchors x).any (fun e => o.abroad || (s.die die).anchorBad o.ptag e.1) then bad s
      else match s.recordSuccs o x with
        | .error e => .error e
        | .ok (s, none) => bad s
        | .ok (s, some xs) => .ok (s, c, xs)

/-- Does a gang member break the rule of R264 against the members that have arrived? -/
def Die.gangBad (d : Die) (t : Task) : Bool :=
  t.inGang && (d.gang t).any (fun y => y.id != t.id &&
    (recQueue y.record != recQueue t.record || recGsize y.record != recGsize t.record || recGidx y.record == recGidx t.record))

/-- A task arrives under an id (R245, R259, R264): refused by its gang, which is abandoned with it, waiting, or ready. -/
def State.arriveTask (s : State) (o : Origin) (die : Nat) (x : Vector Word 8) (c : List (Nat × Nat)) (xs : List Succ)
    (id : BitVec 16) : State :=
  let d := s.die die
  let t : Task := ⟨id, x, o.ptag, o.supc, o.home, o.arr, recDeps x, xs, c, .waiting, 0, 0, 0, 0, 0, 0,
    [], [], 0, 0, none, false, false, 4, none⟩
  let s := s.setDie die (d.addTask t).evalNow
  if (s.die die).gangBad t then s.abandon die [⟨id, 0x0A, 0, 0, recW0 x⟩]
  else if recDeps x = 0 then s.makeReady die id else s

/-- Settings from a kind-2 record wait for the die's next evaluation (R250, R260). -/
def State.setSettings (s : State) (die p : Nat) (x : Vector Word 8) : State :=
  let d := s.die die
  let v := (BitVec.ofNat 32 (bits (recWord x 1) 31 0), BitVec.ofNat 3 (bits (recWord x 1) 34 32))
  s.setDie die { d with settings := Table.put d.settings p v }

/-- The partition that a kind-2 record sets, or none where it raises PRIVILEGE (R250): tag 0 may name any, a supervisor its
own. -/
def settingsPart (sup : Bool) (p : BitVec 8) (x : Vector Word 8) : Option Nat :=
  let n := bits (recWord x 2) 7 0
  if p = 0 then some n else if sup then some p.toNat else none

/-- Eight words as a record. -/
def recordOf (ws : List Word) : Vector Word 8 := Vector.ofFn (fun i => ws.getD i.val 0)

/-! Task instructions. -/

/-- The issuing lane's release and the reach of its die's launch unit (R185); the hub has none, so a request made there is
never answered. -/
def State.toUnit (s : State) : Except Stop State :=
  match s.release s.cur .dev with
  | .error e => .error e
  | .ok s => if s.myDie = Config.hubDie then .error (.wait s 5) else .ok s

/-- Is an entry of a launch unit's input a lane's wait? -/
def Intake.isSpawn (e : Intake) (r : LaneRef) : Bool :=
  match e with
  | .spawn q _ _ => q == r
  | .record _ => false

/-- Does a lane wait in a TSPAWN or TSPAWNR that the launch unit has not answered? -/
def Lane.spawns (l : Lane) : Bool :=
  l.run == .stalled && l.waitJob.isNone && match l.waiting with
    | some (.tspawn ..) | some (.tspawnr ..) => true
    | _ => false

/-- The origin of a record that the issuing lane spawns: it arrives as it reaches the unit (R245). -/
def State.myOrigin (s : State) (home : Option Word) : Origin :=
  ⟨s.cur, s.lane.ptag, s.lane.supc, home.map (fun a => (s.cur, a)), s.dtc, false⟩

/-- The ids that a TSPAWN, or a TSPAWNR of some tile records, takes (R185, R186). -/
def idsOf : Option (List Word) → Nat
  | none => 1
  | some as => as.length

/-- What it writes to s[d] for the run of ids from `k` up (R185, R186). -/
def spawnValue (tiles : Option (List Word)) (k : Nat) : Word :=
  match tiles with
  | none => word k
  | some as => word (k + as.length * 2 ^ 16)

/-- The tasks of a checked record arrive under the ids from `k` up: one, or one for each tile record, with that record's address as
argument pointer (R185, R186). -/
def State.arriveAll (s : State) (die : Nat) (x : Checked) (tiles : Option (List Word)) (k : Nat) : State :=
  match tiles with
  | none => s.arriveTask x.origin die x.record x.curve x.succs (BitVec.ofNat 16 k)
  | some as => as.zipIdx.foldl (fun s a =>
      s.arriveTask x.origin die (x.record.set 1 a.1) x.curve x.succs (BitVec.ofNat 16 (k + a.2))) s

/-- The issuing lane's wait for ids: its checked record takes its place in the input of 64, if that has room (R185, R261). -/
def State.spawnWait (s : State) (x : Checked) (tiles : Option (List Word)) : Stop :=
  let d := s.die s.myDie
  if 64 ≤ d.input.length then .wait s 5
  else .wait (s.setDie s.myDie { d with input := d.input ++ [.spawn s.cur x tiles] }) 5

/-- The issuing lane's checked record takes its ids, or waits behind what reached the launch unit before it (R246, R261). -/
def State.spawn (s : State) (d : Reg) (x : Checked) (tiles : Option (List Word)) : Except Stop State :=
  let die := s.die s.myDie
  match (if die.input.isEmpty then die.allocRun (idsOf tiles) else none) with
  | none => .error (s.spawnWait x tiles)
  | some k => .ok ((s.arriveAll s.myDie x tiles k).writeS d (spawnValue tiles k))

/-- Does the issuing lane wait in its launch unit's input? -/
def State.inInput (s : State) : Bool := s.lane.waiting.isSome && (s.die s.myDie).input.any (·.isSpawn s.cur)

/-- The end of a TSPAWN or TSPAWNR (R185): the answer of the launch unit if it is there, a further wait in its input, or the request
`first`. -/
def State.spawnAnswer (s : State) (d : Reg) (first : Except Stop State) : Except Stop State :=
  match s.lane.waitJob with
  | some (.reply _ v _) => .ok (s.writeS d v)
  | _ => if s.inInput then .error (.wait s 5) else first

/-- TSPAWN at the launch unit, once the words of the record are read (R185, R249, R250). -/
def State.tspawnAt (s : State) (d : Reg) (at_ : Word) (ws : List Word) : Except Stop State :=
  let x := recordOf ws
  let o := s.myOrigin (some at_)
  match s.checkRecord o s.myDie x at_ with
  | .error e => .error e
  | .ok (s, c, xs) =>
    if recKind x = 2 then
      match settingsPart s.lane.sup s.lane.ptag x with
      | none => .error (.trap s Cause.privilege at_)
      | some p => .ok ((s.setSettings s.myDie p x).writeS d 0)
    else s.spawn d ⟨o, x, c, xs⟩ none

/-- TSPAWN (R185): the launch unit reads W0 to W6 at issue (R247). -/
def State.tspawn (s : State) (d a : Reg) : Except Stop State :=
  let at_ := s.s a
  s.spawnAnswer d (match s.recordCheck s.cur at_ 7 with
    | .error e => .error e
    | .ok s => match s.toUnit with
      | .error e => .error e
      | .ok s => match s.readWords s.cur at_ .table 7 with
        | .error e => .error e
        | .ok (s, ws) => s.tspawnAt d at_ ws)

/-- TSPAWN. -/
def execTspawn (d a : Reg) (s : State) : Host.Outcome State Fault Refusal := finish (.tspawn d a) (s.tspawn d a)

/-- ROWS of a ragged tile record (R71). -/
def tileRows (x : Word) : Nat := bits x 21 16

/-- TSPAWNR at the launch unit, once the words of the template and of the tile records are read (R186). Of several broken rules, the
template's goes before a tile record's (log entry 101). -/
def State.tspawnrAt (s : State) (d : Reg) (tmpl arr : Word) (ws rs : List Word) : Except Stop State :=
  let x := recordOf ws
  let o := s.myOrigin none
  let at_ (i : Nat) : Word := arr + word (64 * i)
  let all := rs.zipIdx
  if recKind x ≠ 0 then .error (.trap s Cause.illegal tmpl)
  else match s.checkRecord o s.myDie x tmpl with
  | .error e => .error e
  | .ok (s, c, xs) =>
    match all.find? (fun r => decide (32 < tileRows r.1)) with
    | some r => .error (.trap s Cause.illegal (at_ r.2))
    | none =>
      let live := (all.filter (fun r => tileRows r.1 != 0)).map (fun r => at_ r.2)
      if live.isEmpty then .ok (s.writeS d 0) else s.spawn d ⟨o, x, c, xs⟩ (some live)

/-- TSPAWNR (R186). Its checks in their order: the template's address, the array's, N, then the records (log entry 101). -/
def State.tspawnr (s : State) (d a b : Reg) : Except Stop State :=
  let tmpl := s.s d
  let arr := s.s a
  let n := s.s b
  s.spawnAnswer d (match s.recordCheck s.cur tmpl 7 with
    | .error e => .error e
    | .ok s =>
      if !recordSpace arr then .error (.trap s Cause.address arr)
      else if bits arr 5 0 ≠ 0 then .error (.trap s Cause.alignment arr)
      else if n = 0 ∨ 1024 < n.toNat then .error (.trap s Cause.illegal n)
      else match s.toUnit with
      | .error e => .error e
      | .ok s => match s.readWords s.cur tmpl .table 7 with
        | .error e => .error e
        | .ok (s, ws) => match s.readWords s.cur arr .table n.toNat with
          | .error e => .error e
          | .ok (s, rs) => s.tspawnrAt d tmpl arr ws rs)

/-- TSPAWNR. -/
def execTspawnr (d a b : Reg) (s : State) : Host.Outcome State Fault Refusal := finish (.tspawnr d a b) (s.tspawnr d a b)

/-- The task that a 64-bit value names, of the issuing lane's partition, on its die. -/
def State.myTask (s : State) (x : Word) : Option Task :=
  if 65535 < x.toNat then none
  else match (s.die s.myDie).task? (BitVec.ofNat 16 x.toNat) with
    | some t => if t.ptag = s.lane.ptag then some t else none
    | none => none

/-- TDEP at the launch unit (R187): the new state and s[d]. -/
def State.tdep (s : State) (a b : Word) : State × Word :=
  match s.myTask b with
  | none => (s, 2)
  | some y =>
    if y.state ≠ .waiting then (s, 2)
    else if a = b then (s, 2)
    else if a = 0 then (s.fire s.myDie y.ptag y.id, 0)
    else match s.myTask a with
      | none => (s, 2)
      | some x =>
        if x.state = .abandoned then (s, 2)
        else if x.state = .complete then (s, 1)
        else
          let s := s.updTask s.myDie y.id (fun t => { t with deps := t.deps + 1 })
          (s.updTask s.myDie x.id (fun t => { t with succs := t.succs ++ [⟨y.id, none, false⟩] }), 0)

/-- TDEP (R187). -/
def execTdep (d a b : Reg) (s : State) : Host.Outcome State Fault Refusal :=
  finish (.tdep d a b) (match s.toUnit with
    | .error e => .error e
    | .ok s =>
      let (s, v) := s.tdep (s.s a) (s.s b)
      .ok (s.writeS d v))

/-- Is the lane in a tile activation other than the close tile's (R235)? -/
def Lane.inTile (l : Lane) : Bool :=
  match l.active, l.ring with
  | true, e :: _ => match e.tile with
    | some (_, k) => k != 3
    | none => false
  | _, _ => false

/-- The trace packet of a TDONE or TTILE of the issuing lane (R339). -/
def State.traceTask (s : State) (task : BitVec 16) (x : Nat) : State :=
  s.trace s.cur 5 (word (task.toNat + x % 2 ^ 16 * 2 ^ 16))

/-- TDONE (R188, R235). -/
def execTdone (d a : Reg) (s : State) : Host.Outcome State Fault Refusal :=
  finish (.tdone d a) (
    if s.lane.task = 0 then trapNow s Cause.illegal 0
    else if s.lane.inTile then trapNow s Cause.illegal (s.lane.task.setWidth 64)
    else match s.toUnit with
    | .error e => .error e
    | .ok s =>
      let (s', last) := s.recordDone s.cur s.lane.task (BitVec.ofNat 8 (s.s a).toNat)
      .ok (((s'.setLane { s'.lane with task := 0 }).writeS d (flag last)).traceTask s.lane.task ((s.s a).toNat % 256)))

/-- TTILE (R185, R258). -/
def execTtile (d a : Reg) (s : State) : Host.Outcome State Fault Refusal :=
  let k := s.s a
  finish (.ttile d a) (
    if s.lane.task = 0 ∨ 1023 < k.toNat then trapNow s Cause.illegal k
    else match s.toUnit with
    | .error e => .error e
    | .ok s => match (s.die s.myDie).task? s.lane.task with
      | none => .ok ((s.writeS d 0).traceTask s.lane.task k.toNat)
      | some t =>
        if t.tiles.contains k.toNat then .ok ((s.writeS d 0).traceTask s.lane.task k.toNat)
        else
          let s := s.updTask s.myDie t.id (fun t => { t with tiles := k.toNat :: t.tiles })
          .ok (((s.fireEntries s.myDie t (fun e => e.tile == some k.toNat)).writeS d 1).traceTask s.lane.task k.toNat))

/-- TNOTE (R189, R257). -/
def execTnote (d a b : Reg) (s : State) : Host.Outcome State Fault Refusal :=
  finish (.tnote d a b) (match s.toUnit with
    | .error e => .error e
    | .ok s =>
      let l := s.lane
      let body := noticeWords 0x07 l.part l.task.toNat 0 (bits (s.s a) 15 0) s.dtc (s.s b) 0
      .ok ((s.sendHw s.cur.core l.supc.toNat 0 58 l.part body).writeS d s.dtc))

/-- The accounting register of a partition on the issuing lane's die (R189, R256). -/
def State.account (s : State) (sel p : Nat) : Word :=
  let d := s.die s.myDie
  match sel with
  | 0 => Table.get 0 d.accval p
  | 1 => Table.get 0 d.accj p
  | _ => ((d.priceOf p).1).setWidth 64

/-- TVAL (R189). -/
def execTval (d a b : Reg) (s : State) : Host.Outcome State Fault Refusal :=
  let x := s.s a
  let y := s.s b
  let own := s.lane.part
  let p := if y = 0 then own else y.toNat
  finish (.tval d a b) (
    if 2 < x.toNat then trapNow s Cause.illegal x
    else if bits y 63 8 ≠ 0 then trapNow s Cause.illegal y
    else if own ≠ 0 ∧ p ≠ own then trapNow s Cause.privilege y
    else match s.toUnit with
    | .error e => .error e
    | .ok s => .ok (s.writeS d (s.account x.toNat p)))

/-- TABORT at the launch unit (R189, R272): the new state and s[d]. -/
def State.tabort (s : State) (id : Word) : State × Word :=
  match s.myTask id with
  | none => (s, 2)
  | some t =>
    if (s.die s.myDie).abandonable t then (s.abandon s.myDie [⟨t.id, 0x03, 0, 0, word (s.cur.core % 2 ^ 20)⟩], 0)
    else if t.unfinished then (s.flagAbandon s.myDie t.id, 1)
    else (s, 2)

/-- TABORT (R189). -/
def execTabort (d a : Reg) (s : State) : Host.Outcome State Fault Refusal :=
  finish (.tabort d a) (match s.toUnit with
    | .error e => .error e
    | .ok s =>
      let (s, v) := s.tabort (word (bits (s.s a) 15 0))
      .ok (s.writeS d v))

end Sys2Proof.Machine
end

