-- ==== Sys2Proof/Machine/Compact.lean ====
section
/-! DEFINITION. The compact forms (R67, R68): each executes as the 32-bit instruction shown and moves past one parcel. -/

namespace Sys2Proof.Machine

/-- The outcome of a compact scalar instruction with one result. -/
def compact (d : Reg) (v : Word) (s : State) : Host.Outcome State Fault Refusal := .next ((s.setS d v).advance 16)

/-- OP 1, F = 0: add d, s0, a. -/
def execAddCompactS0 (d a : Reg) (s : State) : Host.Outcome State Fault Refusal := compact d (s.s 0 + s.s a) s
/-- OP 1, F = 1: add d, d, a. -/
def execAddCompact (d a : Reg) (s : State) : Host.Outcome State Fault Refusal := compact d (s.s d + s.s a) s
/-- OP 2, F = 0: sub d, d, a. -/
def execSubCompact (d a : Reg) (s : State) : Host.Outcome State Fault Refusal := compact d (s.s d - s.s a) s
/-- OP 2, F = 1: and d, d, a. -/
def execAndCompact (d a : Reg) (s : State) : Host.Outcome State Fault Refusal := compact d (s.s d &&& s.s a) s
/-- OP 3, F = 0: or d, d, a. -/
def execOrCompact (d a : Reg) (s : State) : Host.Outcome State Fault Refusal := compact d (s.s d ||| s.s a) s
/-- OP 3, F = 1: xor d, d, a. -/
def execXorCompact (d a : Reg) (s : State) : Host.Outcome State Fault Refusal := compact d (s.s d ^^^ s.s a) s
/-- OP 4: addi d, s0, imm6. -/
def execAddiCompactS0 (d : Reg) (imm : BitVec 6) (s : State) : Host.Outcome State Fault Refusal :=
  compact d (s.s 0 + sextImm imm) s
/-- OP 5: addi d, d, imm6. -/
def execAddiCompact (d : Reg) (imm : BitVec 6) (s : State) : Host.Outcome State Fault Refusal :=
  compact d (s.s d + sextImm imm) s
/-- OP 6: shli d, d, imm6. -/
def execShliCompact (d : Reg) (amt : BitVec 6) (s : State) : Host.Outcome State Fault Refusal :=
  compact d (s.s d <<< amt.toNat) s
/-- OP 7: srai d, d, imm6. -/
def execSraiCompact (d : Reg) (amt : BitVec 6) (s : State) : Host.Outcome State Fault Refusal :=
  compact d ((s.s d).sshiftRight amt.toNat) s
/-- OP 8: ld.w64 d, off5 × 64(base). -/
def execLdCompact (d b : BitVec 3) (off : BitVec 5) (s : State) : Host.Outcome State Fault Refusal :=
  finish (.ldCompact d b off) (s.loadTo (cReg d) (cAddr (s.s (cReg b)) off) 64 false 16)
/-- OP 9: st.w64 d, off5 × 64(base). -/
def execStCompact (d b : BitVec 3) (off : BitVec 5) (s : State) : Host.Outcome State Fault Refusal :=
  finish (.stCompact d b off) (s.storeFrom (s.s (cReg d)) (cAddr (s.s (cReg b)) off) 64 none 16)

/-- Does a lane run inline code (R69)? Its trap handler is ordinary code (log entry 40). -/
def Lane.inline (l : Lane) : Bool := l.inl && !l.intrap

/-- Does an address lie outside the twelve parcels of a lane's inline code (R69)? -/
def State.pastInline (s : State) (r : LaneRef) (a : Word) : Bool :=
  match (s.laneAt r).ring with
  | e :: _ => decide (192 ≤ (a - (ringAddr r e.slot + 64)).toNat)
  | [] => true

/-- A taken branch or jump to a target; in inline code a target beyond the twelfth parcel ends the activation (R69). -/
def State.compactTo (s : State) (target : Word) : State :=
  if s.lane.inline && s.pastInline s.cur target then (s.branchTo target).endPast s.cur else s.branchTo target

/-- A compact branch on s[a] against s0 (R68). -/
def State.compactBranch (s : State) (c : BCond) (a : Reg) (off : BitVec 6) : State :=
  if c.holds (s.s a) (s.s 0) then s.compactTo (s.lane.pc + word (16 * off.toNat)) else s.advance 16

/-- OP 10: beq a, s0, +off6, unsigned. -/
def execBeqCompact (a : Reg) (off : BitVec 6) (s : State) : Host.Outcome State Fault Refusal :=
  .next (s.compactBranch .eq a off)
/-- OP 11: bne a, s0, +off6, unsigned. -/
def execBneCompact (a : Reg) (off : BitVec 6) (s : State) : Host.Outcome State Fault Refusal :=
  .next (s.compactBranch .ne a off)
/-- OP 12: jal s0, off11. -/
def execJalCompact (off : BitVec 11) (s : State) : Host.Outcome State Fault Refusal :=
  .next (s.compactTo (parcelTarget s.lane.pc off))
/-- OP 13, F = 0: jalr s0, a, 0. -/
def execJalrCompact (a : Reg) (s : State) : Host.Outcome State Fault Refusal := jumpReg 0 (s.s a) 16 s
/-- OP 13, F = 1: endh. -/
def execEndhCompact (s : State) : Host.Outcome State Fault Refusal := finish .endhCompact (s.endh s.cur)
/-- OP 14: ldf d, off5 × 64(base), relaxed. -/
def execLdfCompact (d b : BitVec 3) (off : BitVec 5) (s : State) : Host.Outcome State Fault Refusal :=
  finish (.ldfCompact d b off) (s.tagRequest (cAddr (s.s (cReg b)) off) .tload (.ldf (cReg d) 16) none)

end Sys2Proof.Machine
end

