-- ==== Sys2Proof/Machine/System.lean ====
section
/-! DEFINITION. System instructions (R192 to R197): TRAP, TRET, DTCR, NOP, PARTSET, LANEGATE, CRR, CRW, BKPT. -/

namespace Sys2Proof.Machine

/-- The word of an instruction as R70 puts it in TRAPVAL. -/
def instrWord (i : Instr) : Word :=
  match encode i with
  | some (_, w) => word w
  | none => 0

/-- TRAP (R194). -/
def execTrap (e : BitVec 10) (s : State) : Host.Outcome State Fault Refusal :=
  finish (.trap e) (trapNow s Cause.software (e.setWidth 64))

/-- BKPT (R194). -/
def execBkpt (e : BitVec 10) (s : State) : Host.Outcome State Fault Refusal :=
  finish (.bkpt e) (trapNow s Cause.breakpoint (e.setWidth 64))

/-- TRET (R192); outside a trap handler it is illegal, with the instruction in TRAPVAL (log entry 20). -/
def execTret (s : State) : Host.Outcome State Fault Refusal :=
  finish .tret (if s.lane.intrap then .ok s.trapReturn else trapNow s Cause.illegal (instrWord .tret))

/-- DTCR (R194). -/
def execDtcr (d : Reg) (s : State) : Host.Outcome State Fault Refusal := .next (s.writeS d s.dtc)

/-- NOP (R194). -/
def execNop (s : State) : Host.Outcome State Fault Refusal := .next (s.advance 32)

/-! PARTSET and LANEGATE (R195). -/

/-- The lane that an issuer names by logical core and lane (R195, R289): none without a mapping, or where the lane belongs to
another partition. An issuer of tag 0 names any lane. -/
def State.namedLane (s : State) (r : LaneRef) (core lane : Nat) : Option LaneRef :=
  let p := (s.laneAt r).ptag
  match s.mapCore p.toNat core (some lane) with
  | none => none
  | some c => if p = 0 ∨ (s.laneAt ⟨c, lane⟩).ptag = p then some ⟨c, lane⟩ else none

/-- May a lane take a new partition tag: idle or gated (R195)? -/
def State.tagSettable (s : State) (r : LaneRef) : Bool := s.gated (s.laneAt r) || s.stateCode (s.laneAt r) == 0

/-- The waiting messages of a lane are discarded and counted; that of an activation in progress is kept (R208). -/
def State.discardRing (s : State) (r : LaneRef) : State :=
  let l := s.laneAt r
  let keep := if l.active then l.ring.take 1 else []
  (s.setLaneAt r { l with ring := keep }).countDropcnt r.core (l.ring.length - keep.length)

/-- PARTSET applied to a lane (R195). -/
def State.partset (s : State) (r : LaneRef) (v : Word) : State :=
  let s := s.setLaneAt r { s.laneAt r with sup := bit v 22 }
  if bit v 23 then
    let s := s.discardRing r
    s.setLaneAt r { s.laneAt r with ptag := BitVec.ofNat 8 (bits v 31 24), supc := BitVec.ofNat 20 (bits v 51 32) }
  else s

/-- The decode check of R70 row 4: the four supervisor instructions need LANESTAT.SUP. -/
def supOnly (i : Instr) (s : State) (k : Except Stop State) : Except Stop State :=
  if s.lane.sup then k else trapNow s Cause.privilege (instrWord i)

/-- PARTSET (R195). -/
def execPartset (a : Reg) (s : State) : Host.Outcome State Fault Refusal :=
  let v := s.s a
  finish (.partset a) (supOnly (.partset a) s (
    if bits v 63 52 ≠ 0 then trapNow s Cause.illegal v
    else if bit v 23 ∧ s.lane.ptag ≠ 0 then trapNow s Cause.privilege v
    else match s.namedLane s.cur (bits v 19 0) (bits v 21 20) with
    | none => trapNow s Cause.privilege v
    | some r =>
      if bit v 23 ∧ !s.tagSettable r then .error (.wait s 6)
      else .ok ((s.partset r v).advance 32)))

/-- A LANEGATE reset of a lane (R195): its request is withdrawn and its activation ends at once; a launch that has not
executed TDONE is recorded as 0xFE (R271). Traps still due stay due (log entry 21). -/
def State.laneReset (s : State) (r : LaneRef) : State :=
  let s := s.withdraw r
  let l := s.laneAt r
  let launch := l.active && l.task != 0 && (match l.ring with
    | e :: _ => hdrLn e.hdr
    | [] => false)
  let s := if launch then (s.recordDone r l.task 0xFE).1 else s
  (s.endActivation r).dispatchNow r

/-- One operation of LANEGATE on one lane (R195). -/
def State.laneGate (s : State) (op : Nat) (r : LaneRef) : State :=
  let l := s.laneAt r
  match op with
  | 0 => s.setLaneAt r { l with gate := true }
  | 1 => s.setLaneAt r { l with gate := false, save := .none }
  | 2 => if l.run = .parked then s.setLaneAt r { l with run := .running, pc := l.trappc, intrap := false, ahead := none } else s
  | _ => s.laneReset r

/-- The lanes that an LMASK names through the issuer's map, or none if one of them may not be named. -/
def State.maskLanes (s : State) (r : LaneRef) (core mask : Nat) : Option (List LaneRef) :=
  ((List.range 4).filter (fun i => mask.testBit i)).foldr (fun i xs =>
    match s.namedLane r core i, xs with
    | some x, some xs => some (x :: xs)
    | _, _ => none) (some [])

/-- LANEGATE (R195). -/
def execLanegate (a : Reg) (s : State) : Host.Outcome State Fault Refusal :=
  let v := s.s a
  let op := bits v 26 24
  finish (.lanegate a) (supOnly (.lanegate a) s (
    if bits v 63 27 ≠ 0 ∨ 3 < op ∨ bits v 23 20 = 0 then trapNow s Cause.illegal v
    else match s.maskLanes s.cur (bits v 19 0) (bits v 23 20) with
    | none => trapNow s Cause.privilege v
    | some rs => .ok (rs.foldl (fun s r => s.laneGate op r) (s.advance 32))))

/-! Control registers (R197). -/

/-- CRR (R52, R197). -/
def execCrr (d : Reg) (n : BitVec 12) (s : State) : Host.Outcome State Fault Refusal :=
  finish (.crr d n) (match s.crRead s.cur n.toNat with
    | none => trapNow s Cause.illegal (instrWord (.crr d n))
    | some x => .ok (s.writeS d x))

/-- CRW (R52 to R55, R197). -/
def execCrw (a : Reg) (n : BitVec 12) (s : State) : Host.Outcome State Fault Refusal :=
  let v := s.s a
  finish (.crw a n) (
    if (s.crRead s.cur n.toNat).isNone then trapNow s Cause.illegal (instrWord (.crw a n))
    else if crPriv n.toNat && !s.lane.sup then trapNow s Cause.privilege (instrWord (.crw a n))
    else if crRefuses n.toNat v then trapNow s Cause.illegal v
    else .ok ((s.crSet s.cur n.toNat v).advance 32))

end Sys2Proof.Machine
end

