-- ==== Sys2Proof/Machine/Images.lean ====
section
/-! DEFINITION. Context images (R294 to R298) and IMGSAVE and IMGLOAD (R196). The layout behind the header is the model's own
(log entry 23). -/

namespace Sys2Proof.Machine

/-- An image's contents (R295): the words that every image carries, and the parts that an incremental image carries only
where they changed. -/
structure ImageBody where
  always : List Word
  parts : List (List Word)
  deriving DecidableEq, Repr

/-! Reading words in order. -/

/-- The next `n` words. -/
def takeWords (n : Nat) (ws : List Word) : Option (List Word × List Word) :=
  if ws.length < n then none else some (ws.take n, ws.drop n)

/-- `n` items in order. -/
def takeMany {α : Type} (f : List Word → Option (α × List Word)) : Nat → List Word → Option (List α × List Word)
  | 0, ws => some ([], ws)
  | n + 1, ws => match f ws with
    | none => none
    | some (x, ws) => match takeMany f n ws with
      | none => none
      | some (xs, ws) => some (x :: xs, ws)

/-- A list preceded by its length. -/
def takeList {α : Type} (f : List Word → Option (α × List Word)) (ws : List Word) : Option (List α × List Word) :=
  match ws with
  | [] => none
  | n :: ws => takeMany f n.toNat ws

/-- A run of words preceded by its length. -/
def takeRun (ws : List Word) : Option (List Word × List Word) :=
  match ws with
  | [] => none
  | n :: ws => takeWords n.toNat ws

/-- A list with its length before it. -/
def putList {α : Type} (f : α → List Word) (xs : List α) : List Word := word xs.length :: xs.flatMap f

/-- A run of words with its length before it. -/
def putRun (ws : List Word) : List Word := word ws.length :: ws

/-! Registers and regions. -/

/-- The registers of a lane as parts (R295): s1–s31, v0–v31, m1–m7, h0–h15 and the pc. -/
def Lane.regParts (l : Lane) : List (List Word) :=
  (List.range 31).map (fun i => l.spillWords false (i + 1)) ++ (List.range 32).map (l.spillWords true) ++
  (List.range 7).map (fun i => [(l.m (BitVec.ofNat 3 (i + 1))).setWidth 64]) ++
  (List.range 16).map (fun i =>
    let h := l.h (BitVec.ofNat 4 i)
    [h.base, word (h.slots.toNat + h.slotw.toNat * 2 ^ 16 + h.role.toNat * 2 ^ 32)]) ++ [[l.pc]]

/-- The number of register parts. -/
def regPartCount : Nat := 87

/-- A handle from its two words. -/
def handleOf (ws : List Word) : Handle :=
  let x := ws.getD 1 0
  ⟨ws.getD 0 0, BitVec.ofNat 16 (bits x 15 0), BitVec.ofNat 16 (bits x 31 16), BitVec.ofNat 2 (bits x 33 32)⟩

/-- The lane with its registers from parts. -/
def Lane.setRegParts (l : Lane) (ps : List (List Word)) : Lane :=
  let part (i : Nat) : List Word := ps.getD i []
  let l := (List.range 31).foldl (fun l i => l.fillWords false (i + 1) (part i)) l
  let l := (List.range 32).foldl (fun l i => l.fillWords true i (part (31 + i))) l
  let l := (List.range 7).foldl (fun l i => l.setM (BitVec.ofNat 3 (i + 1)) (((part (63 + i)).headD 0).setWidth 32)) l
  let l := (List.range 16).foldl (fun l i => l.setH (BitVec.ofNat 4 i) (handleOf (part (70 + i)))) l
  { l with pc := parcelAlign ((part 86).headD 0) }

/-- Start and length in words of the valid regions (R55). -/
def Lane.validRegions (l : Lane) : List (Nat × Nat) :=
  (l.region.toList.filter (fun x => bit x 63)).map (fun x => (bits x 20 0, bits x 42 21 / 64))

/-- The blocks of 512 bits of a lane's valid regions: raw-window offset and length in words. -/
def Lane.regionBlocks (l : Lane) : List (Nat × Nat) :=
  l.validRegions.flatMap (fun x => (List.range (ceilDiv x.2 8)).map (fun j => (x.1 + 512 * j, min 8 (x.2 - 8 * j))))

/-- The region bits of a lane as parts, read at their homes (R100, R211). -/
def State.regionParts (s : State) (r : LaneRef) : State × List (List Word) :=
  (s.laneAt r).regionBlocks.foldl (fun (acc : State × List (List Word)) b =>
    let (s, ws) := (List.range b.2).foldl (fun (a : State × List Word) i =>
      let (s, x, _) := a.1.homeWord r (rawByte r.core (b.1 + 64 * i))
      (s, a.2 ++ [x])) (acc.1, [])
    (s, acc.2 ++ [ws])) (s, [])

/-! The accumulator set of the lane's number, carried for core 0 of a cluster. -/

/-- Does an image of a lane carry an accumulator set (R295)? -/
def carriesSet (r : LaneRef) : Bool := r.core % 8 == 0

/-- The 1,024 cells of a slot as 512 words. -/
def Slot.words (x : Slot) : List Word :=
  (List.range 512).map (fun i =>
    word ((Table.get 0 x.cells (2 * i)).toNat + (Table.get 0 x.cells (2 * i + 1)).toNat * 2 ^ 32))

/-- The slots of a set as eight parts; a free slot is empty. -/
def AccSet.slotParts (a : AccSet) : List (List Word) :=
  (List.range 8).map (fun n => match Table.find a.slots n with
    | some x => word x.label.toNat :: word x.seq :: x.words
    | none => [])

/-- The cells of a slot from its words. -/
def cellsOf (ws : List Word) : List (Nat × BitVec 32) :=
  (List.range 1024).filterMap (fun i =>
    let x := BitVec.ofNat 32 (bits (ws.getD (i / 2) 0) (i % 2 * 32 + 31) (i % 2 * 32))
    if x = 0 then none else some (i, x))

/-- A set from its parts and its counter. -/
def accSetOf (ps : List (List Word)) (counter : Nat) : AccSet :=
  ⟨ps.zipIdx.filterMap (fun p => match p.1 with
    | lab :: seq :: ws => some (p.2, ⟨lab.setWidth 16, cellsOf ws, seq.toNat, []⟩)
    | _ => none), counter⟩

/-! What every image carries. -/

/-- The lane state of R295: control registers, LANESTAT fields, PARTTAG and RXCNT, as 33 words. A stalled lane counts as
running. -/
def Lane.controlWords (l : Lane) : List Word :=
  let run := match l.run with
    | .idle => 0
    | .running | .stalled => 1
    | .parked => 3
  [l.trapcause.setWidth 64, l.trappc, l.trapval, l.traptick, word (rmCode l.rmode),
    word (l.amaxM.toNat + b2n l.amaxN * 2 ^ 32), l.rseed, l.spillbase, l.spilllim, l.spillptr, l.accspill, l.wdog,
    l.handlerbase, l.noticeq] ++ l.region.toList ++ l.streamcfg.toList ++
  [word (run + b2n l.intrap * 2 ^ 4 + b2n l.abandon * 2 ^ 5 + b2n l.active * 2 ^ 6 + b2n l.inl * 2 ^ 7 + l.spx.toNat * 2 ^ 8
      + b2n l.spv * 2 ^ 13 + b2n l.spvEnd * 2 ^ 14 + l.task.toNat * 2 ^ 32),
    word (l.ptag.toNat + l.supc.toNat * 2 ^ 32), l.rxcnt]

/-- The number of control words. -/
def controlCount : Nat := 33

/-- The region registers among an image's words that it always carries. -/
def regionRegs (always : List Word) : List Word := (always.drop 14).take 8

/-- The lane with its control state from words; it stays gated. A trap that is due at the lane stays due (R213). -/
def Lane.setControl (l : Lane) (ws : List Word) : Lane :=
  let w (i : Nat) : Word := ws.getD i 0
  let st := w 30
  { l with
    trapcause := (w 0).setWidth 8, trappc := parcelAlign (w 1), trapval := w 2, traptick := w 3
    rmode := (rmOfCode (w 4).toNat).getD .rne
    amaxM := BitVec.ofNat 32 (bits (w 5) 31 0), amaxN := bit (w 5) 32, rseed := w 6
    spillbase := w 7, spilllim := w 8, spillptr := w 9, accspill := w 10
    wlimit := BitVec.ofNat 32 (bits (w 11) 31 0), wcount := BitVec.ofNat 31 (bits (w 11) 62 32), wen := bit (w 11) 63
    handlerbase := w 12, noticeq := w 13
    region := Vector.ofFn (fun i => w (14 + i.val)), streamcfg := Vector.ofFn (fun i => w (22 + i.val))
    run := match bits st 1 0 with
      | 0 => .idle
      | 3 => .parked
      | _ => .running
    intrap := bit st 4, abandon := bit st 5, active := bit st 6, inl := bit st 7
    spx := BitVec.ofNat 5 (bits st 12 8), spv := bit st 13, spvEnd := bit st 14
    task := BitVec.ofNat 16 (bits st 47 32)
    ptag := BitVec.ofNat 8 (bits (w 31) 7 0), supc := BitVec.ofNat 20 (bits (w 31) 51 32), rxcnt := w 32
    gate := true, stall := 0, waiting := none, waitJob := none, req := none, relHold := none, ahead := none
    kept := Kept.nothing, trapWait := false, save := .none, wrote := 0, dbgSkip := false }

/-- The accepted messages of a lane's ring in order, each with its words as read at their home (R100, R295). -/
def State.ringMessages (s : State) (r : LaneRef) : State × List (RingEntry × Msg) :=
  (s.laneAt r).ring.foldl (fun (acc : State × List (RingEntry × Msg)) e =>
    let (s, ws) := acc.1.ringWords r e.slot 0 (4 * e.flits)
    (s, acc.2 ++ [(e, ws)])) (s, [])

/-- An accepted message as words: where it stands, its tile and pool task, its sender, and its header and body word 2 as they came,
which a store into its slot does not change (R199). -/
def entryWords (x : RingEntry × Msg) : List Word :=
  let e := x.1
  let t := match e.tile with
    | some (p, k) => 1 + p * 2 ^ 8 + k * 2 ^ 32
    | none => 0
  let from_ := match e.from_.lane with
    | some l => 1 + l * 2 ^ 8
    | none => 0
  [word e.slot, word t, word (e.task.toNat + e.place.toNat * 2 ^ 32), word (from_ + e.from_.core * 2 ^ 32), e.hdr, e.w2] ++ putRun x.2

/-- A ring entry and its words from an image. -/
def takeEntry (ws : List Word) : Option ((RingEntry × Msg) × List Word) :=
  match ws with
  | slot :: t :: task :: from_ :: hdr :: w2 :: ws => match takeRun ws with
    | some (m, ws) =>
      let tile := if bit t 0 then some (bits t 31 8, bits t 63 32) else none
      let sender : Sender := ⟨bits from_ 63 32, if bit from_ 0 then some (bits from_ 31 8) else none⟩
      some ((⟨slot.toNat, m.length / 4, hdr, w2, tile, task.setWidth 16, BitVec.ofNat 24 (bits task 63 32), sender⟩,
        m), ws)
    | none => none
  | _ => none

/-- PLACE of a lane with an activation: that of its message (R92). -/
def Lane.placeOf (l : Lane) : BitVec 24 :=
  match l.active, l.ring with
  | true, e :: _ => e.placeOf
  | _, _ => 0

/-- A pool as words (R240). -/
def Pool.words (p : Pool) : List Word :=
  [p.cls.setWidth 64, word (p.task.toNat + p.stage.toNat * 2 ^ 32), p.desc, word p.pbase, word p.roww, word p.npg, word p.ebase, word p.nexp,
    word (b2n p.closed)] ++ putList (fun (b : Nat × PoolBuf) => [word b.1, word b.2.page, word b.2.count]) p.bufs ++
  putList (fun (n : Nat) => [word n]) p.free ++
  putList (fun (t : Tile) => [word t.expert, word t.rows, word t.page, word t.kind]) p.tiles

/-- A pool from words. -/
def takePool (ws : List Word) : Option (Pool × List Word) :=
  match takeWords 9 ws with
  | none => none
  | some (h, ws) =>
    let n (i : Nat) : Nat := (h.getD i 0).toNat
    match takeList (takeWords 3) ws with
    | none => none
    | some (bufs, ws) => match takeList (takeWords 1) ws with
      | none => none
      | some (free, ws) => match takeList (takeWords 4) ws with
        | none => none
        | some (tiles, ws) =>
          let v (x : List Word) (i : Nat) : Nat := (x.getD i 0).toNat
          some (⟨BitVec.ofNat 6 (n 0), BitVec.ofNat 16 (n 1), BitVec.ofNat 8 (n 1 / 2 ^ 32), h.getD 2 0, n 3, n 4, n 5, n 6, n 7,
            bufs.map (fun b => (v b 0, ⟨v b 1, v b 2⟩)), free.map (fun x => v x 0),
            tiles.map (fun t => ⟨v t 0, v t 1, v t 2, v t 3⟩), n 8 == 1⟩, ws)

/-- Does an image of a lane carry its core's mailbox (R230)? -/
def State.carriesMbx (s : State) (r : LaneRef) : Bool := (s.core r.core).mbxOwner == r.lane % 4

/-- K and the entries of the core's mailbox as an image of a lane carries them: as they stood when the save began (R230). -/
def State.savedMbx (s : State) (r : LaneRef) : Nat × List (BitVec 32 × BitVec 32) :=
  match (s.laneAt r).save with
  | .taken k mbx => (k, mbx)
  | _ => ((s.core r.core).mbxK, (s.core r.core).mbx)

/-- What every image of a lane carries (R295): control state, ring, send queue, the set's counter where it carries the set,
mailbox and pool. -/
def State.alwaysWords (s : State) (r : LaneRef) : State × List Word :=
  let (s, ring) := s.ringMessages r
  let l := s.laneAt r
  let mbx := s.savedMbx r
  (s, l.controlWords ++ putList entryWords ring ++ putList putRun l.sendq ++
    (if carriesSet r then [word (s.accSet (clusterOf r.core) r.lane).counter] else []) ++
    (if s.carriesMbx r then word mbx.1 :: putList (fun (x : BitVec 32 × BitVec 32) => [x.1.setWidth 64, x.2.setWidth 64]) mbx.2
     else []) ++
    (match l.pool with
     | some p => p.words
     | none => []))

/-- The contents of a full image of a lane, with the state after its reads: its parts are the registers, the slots of the set
that it carries, and the blocks of its regions. -/
def State.imageBody (s : State) (r : LaneRef) : State × ImageBody :=
  let (s, reg) := s.regionParts r
  let set := if carriesSet r then (s.accSet (clusterOf r.core) r.lane).slotParts else []
  let (s, always) := s.alwaysWords r
  (s, ⟨always, (s.laneAt r).regParts ++ set ++ reg⟩)

/-! Dirty tracking (R295, R297). -/

/-- The bit of a lane in the marks of its quad's words. -/
def quadBit (r : LaneRef) : Nat := r.core % 4 * 4 + r.lane % 4

/-- Has a word of a block of the lane's quad been written since the lane's last save or load? -/
def State.blockWritten (s : State) (r : LaneRef) (b : Nat × Nat) : Bool :=
  (List.range b.2).any (fun i => (Table.get 0 s.written (rawByte r.core (b.1 + 64 * i))).getLsbD (quadBit r))

/-- The numbers of the parts that an incremental image of a lane carries (R295): registers written since the base, the pc where
it has moved, slots whose contents have changed, and region blocks written since, or all blocks where the regions themselves
are others. -/
def State.dirtyParts (s : State) (r : LaneRef) (b base : ImageBody) : List Nat :=
  let l := s.laneAt r
  let fixed := regPartCount + (if carriesSet r then 8 else 0)
  let moved := regionRegs b.always != regionRegs base.always
  let blocks := l.regionBlocks
  (List.range b.parts.length).filter (fun i =>
    if i < 86 then l.wrote.getLsbD i
    else if i < fixed then b.parts[i]? != base.parts[i]?
    else moved || s.blockWritten r (blocks.getD (i - fixed) (0, 0)))

/-- Dirty tracking of a lane starts again (R297). -/
def State.cleanLane (s : State) (r : LaneRef) : State :=
  let mine (pa : Nat) : Bool := match homeOf pa with
    | .spad c => c / 4 == r.core / 4
    | _ => false
  let keep (x : Nat × BitVec 16) : Nat × BitVec 16 :=
    if mine x.1 then (x.1, x.2 &&& ~~~(BitVec.twoPow 16 (quadBit r))) else x
  { s.setLaneAt r { s.laneAt r with wrote := 0 } with written := (s.written.map keep).filter (fun x => x.2 != 0) }

/-! Encoding. -/

/-- A full body. -/
def ImageBody.full (b : ImageBody) : List Word := putRun b.always ++ putList putRun b.parts

/-- An incremental body: the count of parts, then the parts of the numbers given. -/
def ImageBody.delta (b : ImageBody) (ns : List Nat) : List Word :=
  putRun b.always ++ [word b.parts.length] ++ putList (fun n => word n :: putRun (b.parts.getD n [])) ns

/-- A full body read back. -/
def ImageBody.ofFull (ws : List Word) : Option ImageBody :=
  match takeRun ws with
  | none => none
  | some (a, ws) => (takeList takeRun ws).map (fun x => ⟨a, x.1⟩)

/-- One changed part. -/
def takeChange (ws : List Word) : Option ((Nat × List Word) × List Word) :=
  match ws with
  | [] => none
  | n :: ws => (takeRun ws).map (fun x => ((n.toNat, x.1), x.2))

/-- An incremental body read back over its base. -/
def ImageBody.ofDelta (base : ImageBody) (ws : List Word) : Option ImageBody :=
  match takeRun ws with
  | none => none
  | some (a, ws) => match ws with
    | [] => none
    | n :: ws => match takeList takeChange ws with
      | none => none
      | some (ch, _) =>
        some ⟨a, (List.range n.toNat).map (fun i => match Table.find ch i with
          | some p => p
          | none => base.parts.getD i [])⟩

/-- IMGID of the image that a lane saves next (R294): SEQ counts its images from 1. -/
def imgId (r : LaneRef) (seq : Nat) : Word := word (r.core % 2 ^ 20 + r.lane % 4 * 2 ^ 20 + seq * 2 ^ 22)

/-- The base of a lane's incremental image, if it has one of its own (R297). -/
def Lane.ownBase (l : Lane) (r : LaneRef) : Option (Word × ImageBody) :=
  match l.imgBase with
  | none => none
  | some b => if bits b 21 0 = r.core % 2 ^ 20 + r.lane % 4 * 2 ^ 20 then (ImageBody.ofFull l.imgWords).map (fun x => (b, x)) else none

/-- The words of an image of a lane (R294), with the state after its reads and its full body. -/
def State.imageWords (s : State) (r : LaneRef) (inc : Bool) : State × List Word × List Word :=
  let (s, b) := s.imageBody r
  let l := s.laneAt r
  let base := if inc then l.ownBase r else none
  let body := match base with
    | some (_, x) => b.delta (s.dirtyParts r b x)
    | none => b.full
  let w0 := word (1 + b2n base.isSome * 2 ^ 8 + b2n (carriesSet r) * 2 ^ 9 + b2n (s.carriesMbx r) * 2 ^ 10
    + b2n l.pool.isSome * 2 ^ 11 + (body.length + 4) % 2 ^ 32 * 2 ^ 32)
  (s, [w0, s.mgmt.key, imgId r (l.imgSeq + 1), (base.map (·.1)).getD 0] ++ body, b.full)

/-! IMGSAVE (R196). -/

/-- Is a message of a sender in the mesh or in an ejection buffer? -/
def State.underway (s : State) (x : Sender) : Bool :=
  let mine (f : Flight) : Bool := f.src == x.core && f.lane == x.lane
  s.mesh.any mine || s.cores.any (fun k => k.2.lanes.toList.any (fun l => (l.ejbuf.map (fun e => mine e.flight)).getD false))

/-- Is every store of a lane accepted, every job complete, and every message that it injected accepted or dropped (R196,
R296)? -/
def State.quiet (s : State) (r : LaneRef) : Bool :=
  let k := s.core r.core
  !k.mq.any (fun j => j.lane % 4 == r.lane % 4) && !k.bq.any (fun j => j.lane % 4 == r.lane % 4) &&
  !s.underway ⟨r.core, some (r.lane % 4)⟩ && !s.pcieWrites.any (fun w => w.who == r) && s.landed r (fun _ => true)

/-- Words stored at an image address, up to the first fault: the state and the count stored. -/
def State.storeImage (s : State) (r : LaneRef) (a : Word) : List Word → Nat → Except Stop (State × Nat × Bool)
  | [], n => .ok (s, n, true)
  | w :: ws, n =>
    if !recordSpace a then .ok (s, n, false)
    else match s.fates r a 64 .store with
      | .error (.wait s c) => .error (.wait s c)
      | .error (.trap s _ _) => .ok (s, n, false)
      | .ok (s, t) =>
        if t.checked && s.foreign (s.laneAt r).part true false t.pa then .ok (s, n, false)
        else (s.postStore r .lane s.turn a t 64 w.toNat).storeImage r (a + 64) ws (n + 1)

/-- Words loaded from an image address, up to the first fault. -/
def State.loadImage (s : State) (r : LaneRef) (a : Word) : Nat → List Word → Except Stop (State × List Word × Bool)
  | 0, acc => .ok (s, acc.reverse, true)
  | n + 1, acc =>
    if !recordSpace a then .ok (s, acc.reverse, false)
    else match s.readBits r a 64 .table with
      | .error (.wait s c) => .error (.wait s c)
      | .error (.trap s _ _) => .ok (s, acc.reverse, false)
      | .ok (s, x) => s.loadImage r (a + 64) n (word x :: acc)

/-- The descriptor of an image instruction with its target: the descriptor's rules, its words, the lane named, and the
store of its result (R196). -/
def State.imageTarget (s : State) (at_ : Word) : Except Stop (State × LaneRef × List Word × Target) :=
  match s.recordCheck s.cur at_ 4 with
  | .error e => .error e
  | .ok s => match s.readWords s.cur at_ .table 4 with
    | .error e => .error e
    | .ok (s, ws) =>
      let w0 := ws.getD 0 0
      match s.namedLane s.cur (bits w0 19 0) (bits w0 21 20) with
      | none => .error (.trap s Cause.drop at_)
      | some r => match s.fates s.cur (at_ + 192) 64 .store with
        | .error e => .error e
        | .ok (s, t) => .ok (s, r, ws, t)

/-- STATUS, and SIZE where something was written or read, in word 3 of the descriptor (R196). -/
def State.imageStatus (s : State) (at_ : Word) (t : Target) (status : Nat) (size : Option Nat) : State :=
  let s := s.drainLane s.cur
  let s := s.post s.cur .lane s.turn (at_ + 192) t (.store 0xFF (word status))
  let s := match size with
    | some n => s.post s.cur .lane s.turn (at_ + 192) t (.store (maskAt 32 32) (placeAt 32 32 n))
    | none => s
  s.advance 32

/-- The first steps of IMGSAVE at its target (R196): a lane that runs or stalls is gated, and the mailbox is taken as it stands
when the save begins (R230). -/
def State.saveBegin (s : State) (r : LaneRef) : State :=
  let l := s.laneAt r
  let k := s.core r.core
  let l := if l.run = .running ∨ l.run = .stalled then { l with gate := true } else l
  let going := match l.save with
    | .taken _ _ => s.lane.waiting.isSome
    | _ => false
  s.setLaneAt r (if going then l else { l with save := .taken k.mbxK k.mbx })

/-- The instruction that has been handed what it waits for completes: the result of its own matrix job, the ids of its tasks, or its
mailbox entry (R157, R185, R176). -/
def State.takeReply (s : State) : Instr → Host.Outcome State Fault Refusal
  | .lmap d a b => execLmap d a b s
  | .accrd d a b rm => execAccrd d a b rm s
  | .mbxtake d => execMbxtake d s
  | .tspawn d a => execTspawn d a s
  | .tspawnr d a b => execTspawnr d a b s
  | _ => .next s

/-- A request of the target that its home has completed is no parked request: its instruction completes (R106), and so does one that
has been handed its result. -/
def State.saveAnswer (s : State) (r : LaneRef) : State :=
  let me := s.cur
  let back : Host.Outcome State Fault Refusal → State
    | .next t => { t with cur := me }
    | _ => s
  match (s.laneAt r).answer, (s.laneAt r).waiting with
  | some (k, v), some i => back (finish i ({ s with cur := r }.complete k v))
  | none, some i => if (s.laneAt r).replied then back ({ s with cur := r }.takeReply i) else s
  | _, none => s

/-- Does the save wait for an access of the target that a page migration holds (R304)? -/
def Lane.savedLater (l : Lane) : Bool := l.trapWait || (l.kept.held && l.waiting.isSome)

/-- IMGSAVE at its target. -/
def State.imageSave (s : State) (at_ : Word) (inc : Bool) : Except Stop State :=
  match s.imageTarget at_ with
  | .error e => .error e
  | .ok (s, r, d, t) =>
    let s := (s.saveBegin r).saveAnswer r
    if (s.laneAt r).savedLater then .error (.wait s 6)
    else
    let s0 := (s.withdraw r).drain (fun q => q.who == r)
    if !s0.quiet r then .error (.wait s0 6)
    else
      let s := s0.meetLost r (fun k => !inc || (s.laneAt r).wrote.getLsbD (k / 4))
      let (s, ws, full) := s.imageWords r inc
      let mark (s : State) (x : Save) : State := s.setLaneAt r { s.laneAt r with save := x }
      if (d.getD 2 0).toNat < 64 * ws.length then .ok ((mark s .none).imageStatus at_ t 3 none)
      else match s.storeImage s.cur (d.getD 1 0) ws 0 with
        | .error e => .error e
        | .ok (s, n, false) => .ok ((mark s .none).imageStatus at_ t 6 (some n))
        | .ok (s, n, true) =>
          let s := s.drainLane s.cur
          if !s.landed s.cur (· == .lane) then .error (.wait s0 6)
          else
          let s := s.cleanLane r
          let l := s.laneAt r
          let s := s.setLaneAt r { l with
            imgSeq := l.imgSeq + 1, imgBase := some (ws.getD 2 0), imgWords := full
            ejbuf := l.ejbuf.map (fun e => if e.wants = .page then { e with wants := .anyPage } else e) }
          .ok ((mark s .written).imageStatus at_ t 1 (some n))

/-- IMGSAVE (R196, R294 to R297). -/
def execImgsave (a : Reg) (inc : Bool) (s : State) : Host.Outcome State Fault Refusal :=
  finish (.imgsave a inc) (supOnly (.imgsave a inc) s (s.imageSave (s.s a) inc))

/-! IMGLOAD (R196). -/

/-- Messages that waited at the target, in its ring and for slots of it, are held in the mesh at its core, before all that come
after them, and accepted after the image's (R229, R304). A row that waits for a page stays in the ejection buffer (R240). -/
def State.holdMessages (s : State) (r : LaneRef) : State × List Flight :=
  let (s, ring) := s.ringMessages r
  let held := (ring.filter (fun x => x.1.tile.isNone)).map (fun x =>
    (⟨x.1.from_.core, x.1.from_.lane, r.core, (x.2.set 0 x.1.hdr).set 2 x.1.w2⟩ : Flight))
  match (s.laneAt r).ejbuf with
  | some ⟨f, .slots⟩ => (s.setLaneAt r { s.laneAt r with ejbuf := none }, held ++ [f])
  | _ => (s, held)

/-- The target lane, its regions, its accumulator set, its core's mailbox and its pool from an image's contents (R295, R297),
or none where the words are no image of the model's layout. -/
def State.applyImage (s : State) (r : LaneRef) (w0 : Word) (b : ImageBody) : Option State :=
  match takeWords controlCount b.always with
  | none => none
  | some (ctl, ws) => match takeList takeEntry ws with
    | none => none
    | some (ring, ws) => match takeList takeRun ws with
      | none => none
      | some (sendq, ws) => match takeWords (if bit w0 9 then 1 else 0) ws with
        | none => none
        | some (counter, ws) =>
          let mbx : Option (Option (Word × List (List Word)) × List Word) :=
            if bit w0 10 then match ws with
              | [] => none
              | k :: ws => (takeList (takeWords 2) ws).map (fun x => (some (k, x.1), x.2))
            else some (none, ws)
          match mbx with
          | none => none
          | some (mbx, ws) =>
            let pool : Option (Option Pool) := if bit w0 11 then (takePool ws).map (fun x => some x.1) else some none
            match pool with
            | none => none
            | some pool =>
              let (s, held) := s.holdMessages r
              let l := ((s.laneAt r).setControl ctl).setRegParts (b.parts.take regPartCount)
              let l : Lane := { l with ring := (ring : List (RingEntry × Msg)).map (·.1), sendq := sendq, pool := if bit w0 11 then pool else l.pool }
              let s := s.setLaneAt r { l with place := l.placeOf }
              let s := ring.foldl (fun (s : State) (e : RingEntry × Msg) => s.coreStores (rawByte r.core (ringOff r e.1.slot)) e.2 0) s
              let rest := b.parts.drop regPartCount
              let s := (l.regionBlocks.zip (rest.drop (if bit w0 9 then 8 else 0))).foldl (fun (s : State) (x : (Nat × Nat) × List Word) =>
                s.coreStores (rawByte r.core x.1.1) x.2 l.part) s
              let s := if bit w0 9 then
                  s.setAccSet (clusterOf r.core) r.lane (accSetOf (rest.take 8) (counter.headD 0).toNat)
                else s
              let s := match mbx with
                | some (k, xs) => s.setCore r.core { s.core r.core with
                    mbxK := k.toNat, mbxOwner := r.lane % 4
                    mbx := xs.map (fun (x : List Word) => ((x.getD 0 0).setWidth 32, (x.getD 1 0).setWidth 32)) }
                | none => s
              some { s with mesh := held ++ s.mesh }

/-- IMGLOAD at its target. -/
def State.imageLoad (s : State) (at_ : Word) : Except Stop State :=
  match s.imageTarget at_ with
  | .error e => .error e
  | .ok (s, r, d, t) =>
    let l := s.laneAt r
    let img := d.getD 1 0
    let limit := (d.getD 2 0).toNat
    if !(s.stateCode l == 0 || (s.gated l && !l.active)) then .ok (s.imageStatus at_ t 2 (some 0))
    else if limit < 256 then .ok (s.imageStatus at_ t 3 (some 0))
    else match s.loadImage s.cur img 4 [] with
      | .error e => .error e
      | .ok (s, ws, false) => .ok (s.imageStatus at_ t 6 (some ws.length))
      | .ok (s, h, true) =>
        let w0 := h.getD 0 0
        let n := bits w0 63 32
        if h.getD 1 0 ≠ s.mgmt.key then .ok (s.imageStatus at_ t 4 (some 4))
        else if bit w0 8 ∧ l.imgBase ≠ some (h.getD 3 0) then .ok (s.imageStatus at_ t 5 (some 4))
        else if limit < 64 * n then .ok (s.imageStatus at_ t 3 (some 4))
        else match s.loadImage s.cur (img + 256) (n - 4) [] with
          | .error e => .error e
          | .ok (s, ws, false) => .ok (s.imageStatus at_ t 6 (some (4 + ws.length)))
          | .ok (s, ws, true) =>
            let body := if bit w0 8 then (ImageBody.ofFull l.imgWords).bind (fun b => b.ofDelta ws) else ImageBody.ofFull ws
            match body with
            | none => .ok (s.imageStatus at_ t 6 (some n))
            | some b => match s.applyImage r w0 b with
              | none => .ok (s.imageStatus at_ t 6 (some n))
              | some s =>
                let s := s.cleanLane r
                let s := s.setLaneAt r { s.laneAt r with imgBase := some (h.getD 2 0), imgWords := b.full }
                .ok (s.imageStatus at_ t 1 (some n))

/-- IMGLOAD (R196, R297, R298). -/
def execImgload (a : Reg) (s : State) : Host.Outcome State Fault Refusal :=
  finish (.imgload a) (supOnly (.imgload a) s (s.imageLoad (s.s a)))

end Sys2Proof.Machine
end

