-- ==== Sys2Proof/Machine/DeviceRows.lean ====
section
/-! DEFINITION. The accesses of the issuing lane to device registers that have rows of their own (R58, R184, R317, R324, R327,
R332, R347): what a 64-bit store or load of the register does, under R27, apart from the instruction's own pc. -/

namespace Sys2Proof.Machine

/-- Address of a device register by its bit offset in the page (R17, R21). -/
def devAddr (off : Nat) : Word := word (0x8800000000000000 + off)

/-- How an access ends for the lane that makes it: done, trapped, or not yet. -/
def accessEnd : Except Stop State → Host.Outcome State Fault Refusal
  | .ok s => .next s
  | .error (.trap s c v) => .next (s.takeTrap c v)
  | .error (.wait s _) => .next s

/-- A 64-bit store to a device register by the issuing lane. -/
def State.devRowStore (s : State) (off : Nat) (v : Word) (sc : Scope) : Except Stop State :=
  match s.checkAccess s.cur (devAddr off) 64 .store with
  | .error e => .error e
  | .ok (s, _) => s.devStore s.cur off 64 v.toNat sc

/-- A 64-bit load of a device register into s[d] by the issuing lane. -/
def State.devRowLoad (s : State) (off : Nat) (d : Reg) : Except Stop State :=
  match s.checkAccess s.cur (devAddr off) 64 .load with
  | .error e => .error e
  | .ok (s, _) => match s.devLoad s.cur off 64 with
    | .error e => .error e
    | .ok (s, x) => .ok (s.setS d (word x))

/-- MCMDQ_PUSH (R58, R165). -/
def execMcmdqPush (sc : Scope) (cmd : Word) (s : State) : Host.Outcome State Fault Refusal :=
  accessEnd (s.devRowStore 0 cmd sc)
/-- MRESQ_POP (R58). -/
def execMresqPop (d : Reg) (s : State) : Host.Outcome State Fault Refusal := accessEnd (s.devRowLoad 0x40 d)
/-- BCMDQ_PUSH (R58, R178). -/
def execBcmdqPush (sc : Scope) (cmd : Word) (s : State) : Host.Outcome State Fault Refusal :=
  accessEnd (s.devRowStore 0x80 cmd sc)
/-- BRESQ_POP (R58). -/
def execBresqPop (d : Reg) (s : State) : Host.Outcome State Fault Refusal := accessEnd (s.devRowLoad 0xC0 d)
/-- DROPCNT_CLEAR (R58): W1C, by a privileged lane. -/
def execDropcntClear (v : Word) (s : State) : Host.Outcome State Fault Refusal := accessEnd (s.devRowStore (11 * 64) v .dev)
/-- ERRCNT_CLEAR (R58): W1C, by a privileged lane. -/
def execErrcntClear (v : Word) (s : State) : Host.Outcome State Fault Refusal := accessEnd (s.devRowStore (12 * 64) v .dev)
/-- DEVICE_REGISTER_WRITE (R58, R324). -/
def execDeviceRegisterWrite (off : BitVec 16) (v : Word) (s : State) : Host.Outcome State Fault Refusal :=
  accessEnd (s.devRowStore off.toNat v .dev)
/-- THROTTLE_WRITE (R317, R324). -/
def execThrottleWrite (v : Word) (s : State) : Host.Outcome State Fault Refusal := accessEnd (s.devRowStore (0x43 * 64) v .dev)
/-- PSHARE_WRITE (R319, R324). -/
def execPshareWrite (v : Word) (s : State) : Host.Outcome State Fault Refusal := accessEnd (s.devRowStore (0x45 * 64) v .dev)
/-- MEMGUAR_WRITE (R323, R324). -/
def execMemguarWrite (v : Word) (s : State) : Host.Outcome State Fault Refusal := accessEnd (s.devRowStore (0x49 * 64) v .dev)
/-- ALERTSTAT_CLEAR (R327). -/
def execAlertstatClear (v : Word) (s : State) : Host.Outcome State Fault Refusal := accessEnd (s.devRowStore (0x4C * 64) v .dev)
/-- LINKSTAT_CLEAR (R332). -/
def execLinkstatClear (v : Word) (s : State) : Host.Outcome State Fault Refusal := accessEnd (s.devRowStore (0x4E * 64) v .dev)
/-- DLTSTAT_CLEAR (R332). -/
def execDltstatClear (v : Word) (s : State) : Host.Outcome State Fault Refusal := accessEnd (s.devRowStore (0x52 * 64) v .dev)
/-- MSIREQ (R347). -/
def execMsireq (v : Word) (s : State) : Host.Outcome State Fault Refusal := accessEnd (s.devRowStore (0x54 * 64) v .dev)

end Sys2Proof.Machine
end

