-- ==== Sys2Proof/Machine/LaneEvents.lean ====
section
/-! DEFINITION. Events at a lane: fetch (R59, R60), patterns that are no instruction (R70), traps that fall due (R166, R183,
R213, R326), the watchdog (R53, R210), and events at homes (R26, R215, R299, R312). -/

namespace Sys2Proof.Machine

/-! Boundaries. -/

/-- Does a stalled lane wait in an instruction that a due trap may abandon (R166, R326)? Not one that awaits a reply, a send
queue or its own matrix job. -/
def Lane.abandonable (l : Lane) : Bool :=
  l.waitJob.isNone && l.answer.isNone && l.stall != 5 && l.stall != 6

/-- Is lane `r` at a boundary at which a due trap is taken (R166, R208, R326)? A parked or gated lane is not. -/
def State.atBoundary (s : State) (r : LaneRef) : Bool :=
  let l := s.laneAt r
  s.free l && match l.run with
    | .idle | .running => true
    | .stalled => l.abandonable
    | .parked => false

/-- TRAPPC of a trap taken at a boundary: the next instruction, or 0 at an idle lane (R166). -/
def Lane.boundaryPc (l : Lane) : Word := if l.run = .idle then 0 else l.pc

/-- A job fault is taken (R42, R166): the lane parks with the job id, and the job's report is sent. -/
def State.takeJobFault (s : State) (r : LaneRef) (c : BitVec 8) (id : BitVec 32) (report : List Word) : State :=
  let s := s.withdraw r
  let pc := (s.laneAt r).boundaryPc
  let s := s.trace r 4 (word (c.toNat + bits pc 63 12 * 2 ^ 8))
  let l := (s.laneAt r).trapRegs c (id.setWidth 64) pc (s.die (dieOf r.core)).dtc
  (s.setLaneAt r { l with run := .parked }).sendReport r report

/-- JOB_FAULT_TRAP (R166): the first trap due at the lane is a job's fault, and the lane is at a boundary. -/
def execJobFaultTrap (core lane : Nat) (s : State) : Host.Outcome State Fault Refusal :=
  let r : LaneRef := ⟨core, lane⟩
  let l := s.laneAt r
  match l.due with
  | .jobFault c id rep :: rest =>
    if s.atBoundary r then .next ((s.setLaneAt r { l with due := rest }).takeJobFault r c id rep) else .next s
  | _ => .next s

/-- A notice overflow that is due is taken at a boundary (R213). -/
def State.takeNotice (s : State) (r : LaneRef) : State :=
  let l := s.laneAt r
  match l.due with
  | .notice x :: rest =>
    if s.atBoundary r then (s.setLaneAt r { l with due := rest }).takeTrapAt r Cause.notice (x.setWidth 64) l.boundaryPc else s
  | _ => s

/-! The watchdog (R53, R210). -/

/-- The effective limit of a watchdog (R53). -/
def Lane.watchLimit (l : Lane) : Nat :=
  if l.wlimit.toNat = 0 then 1 else if 2 ^ 31 ≤ l.wlimit.toNat then 2 ^ 31 - 1 else l.wlimit.toNat

/-- Does a lane count eligible cycles: an activation in progress, running or stalled, and free (R210)? -/
def State.eligible (s : State) (r : LaneRef) : Bool :=
  let l := s.laneAt r
  l.wen && s.free l && (l.run == .running || l.run == .stalled)

/-- Do the eligible cycles that pass bring COUNT of a lane to the limit (log entry 2)? -/
def State.watchDue (s : State) (r : LaneRef) : Bool :=
  s.eligible r && decide ((s.laneAt r).watchLimit ≤ (s.laneAt r).wcount.toNat + Config.cycles s.turn)

/-- The eligible cycles that pass are counted. -/
def State.watchTick (s : State) (r : LaneRef) : State :=
  if s.eligible r then
    s.setLaneAt r { s.laneAt r with wcount := (s.laneAt r).wcount + BitVec.ofNat 31 (Config.cycles s.turn) }
  else s

/-- WATCHDOG is taken: TRAPVAL is the count reached, and COUNT returns to zero. -/
def State.takeWatchdog (s : State) (r : LaneRef) : State :=
  let l := s.laneAt r
  (s.setLaneAt r { l with wcount := 0 }).takeTrapAt r Cause.watchdog (word l.watchLimit) l.pc

/-- WATCHDOG (R53); an answer or a result that is held for the lane is kept, and goes first (R106). -/
def execWatchdog (core lane : Nat) (s : State) : Host.Outcome State Fault Refusal :=
  let r : LaneRef := ⟨core, lane⟩
  if s.watchDue r && (s.laneAt r).answer.isNone && !(s.laneAt r).replied then .next (s.takeWatchdog r) else .next s

/-! Alerts (R326 to R328). -/

/-- A record of a kind is written to the management log, newest first, over the oldest of 4,096 (R345). -/
def State.logRecord (s : State) (kind : Nat) (a b : Word) : State :=
  let x := ((s.die Config.hubDie).dtc, word kind, a, b)
  { s with mgmt := { s.mgmt with log := x :: s.mgmt.log.take 4095 } }

/-- The order of the alert queue: as raised, and of one tick in ascending cause, then ascending value (R326, R328). -/
def Alert.le (a b : Alert) : Bool :=
  if a.tick = b.tick then if a.cause = b.cause then a.value.ule b.value else a.cause.ult b.cause else a.tick.ult b.tick

/-- A cause of delivery M is logged and queued for management lane 0 (R326, R345); of those that find 16 entries queued, the last in
the queue's order is discarded (R328). -/
def State.raiseAlert (s : State) (c : BitVec 8) (v : Word) : State :=
  let s := s.logRecord 1 (c.setWidth 64) v
  let q := insertBy Alert.le ⟨c, v, (s.die Config.hubDie).dtc⟩ s.mgmt.alerts
  { s with mgmt := { s.mgmt with alerts := q.take 16, ovf := s.mgmt.ovf || decide (16 < q.length) } }

/-- Does lane 0 wait in a SLEEP whose tick had passed when an alert was raised (R328)? It returns first. -/
def Lane.sleptBefore (l : Lane) (a : Alert) : Bool :=
  match l.waiting with
  | some (.sleep _ t) => l.run == .stalled && (l.s t).ult a.tick
  | _ => false

/-- May management lane 0 take an alert (R326, R328)? -/
def State.alertReady (s : State) (a : Alert) : Bool :=
  let l := s.laneAt mgmtLane0
  s.atBoundary mgmtLane0 && !l.intrap && l.due.isEmpty && !l.sleptBefore a

/-- Does lane `r` take an alert before anything else (R326, R328, R338)? -/
def State.alertDue (s : State) (r : LaneRef) : Bool :=
  s.alertFirst r && match s.mgmt.alerts with
    | a :: _ => s.alertReady a
    | [] => false

/-- The oldest alert is taken through entry 0, if that entry is valid. -/
def State.takeAlert (s : State) : State :=
  match s.mgmt.alerts with
  | [] => s
  | a :: rest =>
    if s.alertReady a then
      match s.trapHandler mgmtLane0 with
      | (s, some _) =>
        ({ s with mgmt := { s.mgmt with alerts := rest } }).takeTrapAt mgmtLane0 a.cause a.value (s.laneAt mgmtLane0).boundaryPc
      | (s, none) => s
    else s

/-- ALERT_TAKE (R326). -/
def execAlertTake (s : State) : Host.Outcome State Fault Refusal := .next s.takeAlert

/-! SLEEP's ends (R183). -/

/-- The SLEEP in which a free lane stalls, if no trap and no alert is due first (R326). -/
def State.sleeping (s : State) (r : LaneRef) : Option (Reg × Reg) :=
  let l := s.laneAt r
  match l.waiting with
  | some (.sleep d a) => if s.free l && l.run == .stalled && l.due.isEmpty && !s.alertDue r then some (d, a) else none
  | _ => none

/-- A sleep on a job, or on none, whose tick the DTC has passed. -/
def State.sleepPast (s : State) (r : LaneRef) (timer : Bool) : Option (Reg × Reg) :=
  match s.sleeping r with
  | some (d, a) =>
    let l := s.laneAt r
    if (l.s a).ult (s.die (dieOf r.core)).dtc && (((l.s d).truncate 32 == (0 : BitVec 32)) == timer) then some (d, a) else none
  | none => none

/-- PROMISE_MISSED (R183): the DTC is past the tick of a SLEEP whose job is unfinished. -/
def execPromiseMissed (core lane : Nat) (s : State) : Host.Outcome State Fault Refusal :=
  match s.sleepPast ⟨core, lane⟩ false with
  | some (d, a) => finish (.sleep d a) ({ s with cur := ⟨core, lane⟩ }.sleep d a)
  | none => .next s

/-- SLEEP_TIMER (R183): a SLEEP on job 0 returns. -/
def execSleepTimer (core lane : Nat) (s : State) : Host.Outcome State Fault Refusal :=
  match s.sleepPast ⟨core, lane⟩ true with
  | some (d, a) => finish (.sleep d a) ({ s with cur := ⟨core, lane⟩ }.sleep d a)
  | none => .next s

/-! Homes. -/

/-- A request that waits at its home is looked at again (R106, R215). -/
def State.lookAgain (s : State) (r : LaneRef) : State :=
  match (s.laneAt r).req with
  | some q =>
    let s := s.tryRequest q.pa (fun k => !k.onTag) r
    { s with parked := s.parked.filter s.isHeld }
  | none => s

/-- TRANSLATION_WALK (R299): a translated request of a partition with the space identifier has its tables walked, A and D
set, and the translation kept. Every translated access makes this step itself. -/
def execTranslationWalk (die sid : Nat) (va : Word) (kind : Access) (s : State) : Host.Outcome State Fault Refusal :=
  match s.parts.find? (fun p => p.1 != 0 && p.2.live.v && p.2.live.xv && p.2.live.sid.toNat == sid) with
  | some p => .next (s.translate die p.1 va kind).1
  | none => .next s

/-- The PCI Express port whose window holds a physical byte address (R306). -/
def pciePort (pa : Nat) : Nat := (pa - Config.pcieBase) / 2 ^ 40

/-- ZERO_LENGTH_READ_RETURN (R312): the lane's posted writes on one port are done. -/
def execZeroLengthReadReturn (core : Nat) (laneAndPort : Nat × Nat) (s : State) : Host.Outcome State Fault Refusal :=
  .next { s with pcieWrites := s.pcieWrites.filter (fun w =>
    !(w.who == ⟨core, laneAndPort.1⟩ && pciePort w.pa == laneAndPort.2)) }

/-! Fetch (R59, R60). -/

/-- A parcel of lane `r` that it has fetched ahead. -/
def Lane.aheadAt (l : Lane) (a : Word) : Option Parcel :=
  match l.ahead with
  | none => none
  | some (start, ps) =>
    let o := (a - start).toNat
    if o % 16 = 0 then ps[o / 16]? else none

/-- One parcel (R60): fetched ahead, or a 16-bit load under R27. -/
def State.fetchParcel (s : State) (r : LaneRef) (a : Word) : Except Stop (State × Nat) :=
  match (s.laneAt r).aheadAt a with
  | some p => .ok (s, p.toNat)
  | none => s.readBits r a 16 .fetch

/-- The bits of the next instruction of lane `r`: one parcel, or two where bit 0 is 1 outside inline code (R59, R69). -/
def State.fetchInstr (s : State) (r : LaneRef) : Except Stop (State × Nat) :=
  let pc := (s.laneAt r).pc
  match s.fetchParcel r pc with
  | .error (.trap s c _) => .error (.trap s c pc)
  | .error e => .error e
  | .ok (s, x) =>
    if x % 2 = 0 ∨ (s.laneAt r).inline then .ok (s, x)
    else match s.fetchParcel r (pc + 16) with
      | .error (.trap s c _) => .error (.trap s c (pc + 16))
      | .error e => .error e
      | .ok (s, y) => .ok (s, x + 65536 * y)

/-- What the lane decodes from the bits fetched (R59, R69). -/
def Lane.decode (l : Lane) (x : Nat) : Except Reject Instr :=
  if l.inline then decodeInline (x % 65536) else if x % 2 = 0 then decode16 (x % 65536) else decode32 x

/-- The parcels that a lane fetches ahead after an instruction, at most `n` (R60); a fetch that fails ends them. -/
def State.fetchAheadFrom (s : State) (r : LaneRef) (a : Word) : Nat → State × List Parcel
  | 0 => (s, [])
  | n + 1 => match s.fetchParcel r a with
    | .ok (s', x) =>
      let (s', ps) := s'.fetchAheadFrom r (a + 16) n
      (s', BitVec.ofNat 16 x :: ps)
    | .error _ => (s, [])

/-- The lane fetches ahead of its program counter as far as the machine does (R60). That the parcel at the pc is the first of the 16
that may be fetched is the model's reading (log entry 16, DEDUCED). -/
def State.prefetch (s : State) (r : LaneRef) (n : Nat) : State :=
  let l := s.laneAt r
  if l.run = .running ∧ s.free l then
    let (s, ps) := s.fetchAheadFrom r l.pc (min n 16)
    s.setLaneAt r { s.laneAt r with ahead := if ps.isEmpty then none else some (l.pc, ps) }
  else s

/-- PARCEL_FETCH_FAULT (R60): the parcel at the issuing lane's pc, or its second one, cannot be fetched. -/
def execParcelFetchFault (s : State) : Host.Outcome State Fault Refusal :=
  match s.fetchInstr s.cur with
  | .error (.trap s c v) => .next (s.takeTrap c v)
  | _ => .next s

/-- The cause of a pattern that decodes to no instruction (R70). -/
def rejectCause : Reject → BitVec 8
  | .reserved => Cause.reserved
  | .illegal | .truncated => Cause.illegal

/-- TRAPVAL for a pattern (R69, R70): a single parcel, or the 32 bits. -/
def patternValue (l : Lane) (x : Nat) : Word := word (if x % 2 = 0 ∨ l.inline then x % 65536 else x)

/-- PATTERN_NOT_AN_INSTRUCTION (R70): the issuing lane issues bits that no instruction owns. -/
def execPatternNotAnInstruction (raw : BitVec 32) (s : State) : Host.Outcome State Fault Refusal :=
  match s.lane.decode raw.toNat with
  | .error e => .next (s.takeTrap (rejectCause e) (patternValue s.lane raw.toNat))
  | .ok _ => .next s

end Sys2Proof.Machine
end

