-- ==== Sys2Proof/Machine/MessageEvents.lean ====
section
/-! DEFINITION. Messages on their way (R13, R173, R202) and their fates at the destination (R200 to R204, R213, R261, R262,
R276): rings, mailboxes, notice queues and launch units. -/

namespace Sys2Proof.Machine

/-! Drops (R173, R292). -/

/-- A lane's message is dropped: its core and partition count it, and a DROP notice with the header goes to the lane. -/
def State.dropMessage (s : State) (src : Nat) (lane : Option Nat) (h : Word) : State :=
  let s := if src < hubSource then s.countDropcnt src 1 else s
  let s := s.countDrop (hdrPtag h) 1
  match lane with
  | some l => s.dropNotice ⟨src, l⟩ h
  | none => s

/-- A message is dropped at its destination core, which counts it with the message's partition (R204, R239, R276, R292). -/
def State.dropHere (s : State) (core : Nat) (h : Word) : State := (s.countDropcnt core 1).countDrop (hdrPtag h) 1

/-! Injection (R202, R289, R313). -/

/-- Does an image save hold a lane: from its first step on, and after it while the lane stays gated (R196, R238, R296)? -/
def State.saveHolds (s : State) (l : Lane) : Bool :=
  match l.save with
  | .none => false
  | .taken _ _ => true
  | .written => s.gated l

/-- The lane that a core injects from next: ascending cyclic order after the lane last served; none that an image save holds
(R296). -/
def State.nextSender (s : State) (c : Nat) : Option Nat :=
  let k := s.core c
  ((List.range 4).map (fun i => (k.lastInject + 1 + i) % 4)).find? (fun l =>
    !(k.lane l).sendq.isEmpty && !s.saveHolds (k.lane l))

/-- Is a message a debug request, which has a channel of its own (R336)? -/
def Flight.isDebug (m : Flight) : Bool := !hdrMb (m.words.headD 0) && hdrClass (m.words.headD 0) == 60

/-- The router input through which a message reaches its core: a link, or a core of the router itself. -/
def Flight.input (f : Flight) : Option Nat × Nat :=
  match f.path.getLast? with
  | some n => (some n, 0)
  | none => (none, f.src)

/-- Do two messages reach one core through one router input (R201)? -/
def Flight.sameInput (f g : Flight) : Bool := f.dest == g.dest && f.input == g.input

/-- Does the mesh take a message to a core: as many for one router input as it has room for, which is free, but at least one (R201,
log entry 55); a debug request has a channel of its own (R336). -/
def State.meshTakes (s : State) (f : Flight) : Bool :=
  f.isDebug || decide ((s.mesh.filter (fun g => !g.isDebug && g.sameInput f)).length ≤ Config.meshRoom s.turn f.dest)

/-- A word of remote range `k` of partition `p` (R307). -/
def State.rangeWord (s : State) (p k w : Nat) : Word := Table.get 0 s.page.range (p * 16 + 2 * k + w)

/-- The valid range of a partition that holds a destination (R313). -/
def State.remoteRange (s : State) (p dest : Nat) : Option Nat :=
  (List.range 8).find? (fun k =>
    let x := s.rangeWord p k 0
    bit x 63 && decide (bits x 19 0 ≤ dest) && decide (dest ≤ bits x 19 0 + bits x 59 40))

/-- A peer of a port; one that no frame has gone to yet is fresh. -/
def EthPort.peer (x : EthPort) (mac : BitVec 48) : Peer :=
  (x.peers.find? (fun p => p.mac == mac)).getD ⟨mac, 0, [], 0, false, 0⟩

/-- The port with a peer replaced. -/
def EthPort.setPeer (x : EthPort) (p : Peer) : EthPort := { x with peers := x.peers.filter (fun q => q.mac != p.mac) ++ [p] }

/-- A message to another SL20 leaves in one frame (R313, R314); a peer that is down gets none, and the sender's partition
counts the drop. -/
def State.sendRemote (s : State) (p k : Nat) (ws : Msg) : State :=
  let x0 := s.rangeWord p k 0
  let x1 := s.rangeWord p k 1
  let h := ws.headD 0
  let h' := putBits h 0 20 (bits x0 39 20 + hdrDest h - bits x0 19 0)
  let n := bits x1 51 48
  let port := s.port n
  let q := port.peer (BitVec.ofNat 48 (bits x1 47 0))
  if q.down then s.countDrop p 1
  else
    let f : EthFrame := ⟨q.mac, BitVec.ofNat 4 n, BitVec.ofNat 8 p, BitVec.ofNat 8 (bits x1 59 52), q.seq, 0x88B5, h' :: ws.drop 1⟩
    { s with ports := Table.put s.ports n (port.setPeer { q with seq := q.seq + 1, unacked := q.unacked ++ [f] }) }

/-- The core injects the first message of a lane's send queue (R202): to another SL20, to the mapped core, or dropped for want of a
mapping; none where the mesh to that core is full (R201). -/
def State.injectFrom (s : State) (c l : Nat) : Option State :=
  let k := s.core c
  match (k.lane l).sendq with
  | [] => none
  | ws :: rest =>
    let h := ws.headD 0
    let p := hdrPtag h
    let t := s.setCore c ({ k with lastInject := l }.setLane l { k.lane l with sendq := rest })
    match t.remoteRange p (hdrDest h) with
    | some n => some (if hdrMb h then t.dropMessage c (some l) h else t.sendRemote p n ws)
    | none => match t.mapCore p (hdrDest h) (if hdrMb h then none else some (hdrCtx h)) with
      | none => some (t.dropMessage c (some l) h)
      | some d =>
        let f : Flight := ⟨c, some l, d, ws⟩
        if s.meshTakes f then some { t with mesh := t.mesh ++ [f] } else none

/-- Is a lane's next message to leave a debug request? -/
def Lane.sendsDebug (l : Lane) : Bool :=
  match l.sendq with
  | ws :: _ => (⟨0, none, 0, ws⟩ : Flight).isDebug
  | [] => false

/-- The core injects its next message (R202); where the mesh has no room for that, a debug request of another lane still leaves, on
the channel of its own (R336). -/
def State.inject (s : State) (c : Nat) : State :=
  match s.nextSender c with
  | none => s
  | some l => match s.injectFrom c l with
    | some t => t
    | none =>
      let k := s.core c
      let order := (List.range 4).map (fun i => (k.lastInject + 1 + i) % 4)
      match order.find? (fun i => (k.lane i).sendsDebug && !s.saveHolds (k.lane i)) with
      | some i => (s.injectFrom c i).getD s
      | none => s

/-- MESSAGE_INJECT (R202). -/
def execMessageInject (core : Nat) (s : State) : Host.Outcome State Fault Refusal := .next (s.inject core)

/-! Arrival. -/

/-- The expert that a pool message names (R233). -/
def rowExpert (ws : Msg) : Nat := bits (ws.getD 1 0) 15 0

/-- What takes a message at its destination (R176, R204, R233). -/
inductive MsgKind where
  | mailbox | notice | launch | release | sched | debug | pool (expert : Nat) | ring
  deriving DecidableEq, Repr

/-- The kind of a message at a core: a pool message is of the open pool's class, with LN = 0 and HW = 0 (R233). -/
def State.msgKind (s : State) (c : Nat) (ws : Msg) : MsgKind :=
  let h := ws.headD 0
  if hdrMb h then .mailbox
  else match hdrClass h with
    | 58 => .notice
    | 56 => .launch
    | 57 => .release
    | 62 => .sched
    | 60 => .debug
    | n => match ((s.core c).lane (hdrCtx h)).pool with
      | some p => if p.cls.toNat = n ∧ !hdrLn h ∧ !hdrHw h then .pool (rowExpert ws) else .ring
      | none => .ring

/-- The sender of a message. -/
def Flight.sender (m : Flight) : Sender := ⟨m.src, m.lane⟩

/-- Do two messages to one core keep their order: of one lane, or of one core's hardware, on one channel (R13, R229)? -/
def Flight.inOrder (a b : Flight) : Bool := a.dest == b.dest && a.sender == b.sender && a.isDebug == b.isDebug

/-- Is a message behind another one on its router input, which has found no room (R201)? -/
def State.inputHeld (s : State) (f : Flight) : Bool := !f.isDebug && !s.stuck.contains f && s.stuck.any (·.sameInput f)

/-- The k-th message in flight to a core that may arrive: no earlier one that it must follow is under way to it or waits in an
ejection buffer of it (R13, R229), none stands before it on its router input (R201), and no link holds it back (R331). -/
def State.arriving (s : State) (c k : Nat) : Option (Nat × Flight) :=
  match (s.mesh.zipIdx.filter (fun x => x.1.dest == c))[k]? with
  | none => none
  | some (f, j) =>
    if (s.mesh.take j).any (f.inOrder ·) || (s.core c).lanes.toList.any (fun l => match l.ejbuf with
        | some e => f.inOrder e.flight
        | none => false) || s.inputHeld f || s.linkWait j f then none
    else some (j, f)

/-- The state without a message in flight, which has passed its links. -/
def State.unflight (s : State) (j : Nat) : State :=
  match s.mesh[j]? with
  | none => s
  | some f => { s.passLinks f.path with mesh := dropAt s.mesh j, stuck := s.stuck.erase f }

/-- A message has passed its links and finds no room at its destination: it stands at its router input there (R201). -/
def State.holdAt (s : State) (f : Flight) : State :=
  let s := s.passLinks f.path
  if f.isDebug || s.stuck.contains f then s else { s with stuck := s.stuck ++ [f] }

/-- The partition check at ejection (R173, R176): the tag of the destination lane, or of the mailbox's owner. -/
def State.tagMismatch (s : State) (c : Nat) (h : Word) : Bool :=
  let k := s.core c
  let l := k.lane (if hdrMb h then k.mbxOwner else hdrCtx h)
  hdrPtag h != 0 && !hdrHw h && hdrPtag h != l.part

/-- An arrival of a kind at a core: dropped by the partition check, or taken by `f`, which answers none where the message has
to wait in the mesh (R201). -/
def State.take_ (s : State) (c k : Nat) (ok : MsgKind → Bool) (f : State → Flight → Option State) : State :=
  match s.arriving c k with
  | none => s
  | some (j, m) =>
    let h := m.words.headD 0
    if !ok (s.msgKind c m.words) then s
    else if s.tagMismatch c h then (s.unflight j).dropMessage m.src m.lane h
    else (f (s.unflight j) m).getD (s.holdAt m)

/-- The destination lane of a message. -/
def Flight.lane_ (m : Flight) : LaneRef := ⟨m.dest, hdrCtx (m.words.headD 0)⟩

/-- A message enters its lane's ring, after any tile message of the lane's pool (R234), if slots are free. -/
def State.enterRing (s : State) (m : Flight) : Option State :=
  if ((s.laneAt m.lane_).pool.map (fun p => !p.tiles.isEmpty)).getD false then none
  else s.acceptRing m.lane_ m.words none none m.sender

/-- A message waits in its lane's ejection buffer, if that is empty (R201). -/
def State.enterBuffer (s : State) (m : Flight) (w : Wanted) : Option State :=
  let l := s.laneAt m.lane_
  match l.ejbuf with
  | some _ => none
  | none => some (s.setLaneAt m.lane_ { l with ejbuf := some ⟨m, w⟩ })

/-- Is a message for the ring held in the ejection buffer of a lane? Later ones stay behind it (R199, R201). -/
def Lane.ringHeld (l : Lane) : Bool :=
  match l.ejbuf with
  | some e => e.wants == .slots
  | none => false

/-- A message for a ring at its core (R200, R201): it enters the ring, waits in the ejection buffer, or stays in the mesh. -/
def State.ringMessage (s : State) (m : Flight) : Option State :=
  if (s.laneAt m.lane_).ringHeld then none
  else match s.enterRing m with
    | some s => some s
    | none => s.enterBuffer m .slots

/-! Rows of pools (R232, R233, R239). -/

/-- PSZ, the size of a page in bits (R232). -/
def Pool.psz (p : Pool) : Nat := 2048 + 32 * p.roww

/-- The raw-window offset of a page (R232). -/
def Pool.pageAt (p : Pool) (n : Nat) : Nat := p.pbase + n * p.psz

/-- The buffer of an expert becomes a pending tile message (R233). -/
def Pool.launch (p : Pool) (e : Nat) (kind : Nat) : Pool :=
  match Table.find p.bufs e with
  | none => p
  | some b => { p with bufs := Table.del p.bufs e, tiles := p.tiles ++ [⟨e, b.count, b.page, kind⟩] }

/-- 32-bit pieces stored by a core in its raw window from an offset up (R233). -/
def State.storePieces (s : State) (core off : Nat) (xs : List Nat) (p : Nat) : State :=
  xs.zipIdx.foldl (fun s x =>
    let o := off + 32 * x.2
    let pa := rawByte core (o / 64 * 64)
    s.storeAt pa (maskAt (o % 64) 32) (placeAt (o % 64) 32 x.1) p) s

/-- The 32-bit pieces of the row that a pool message carries. -/
def rowPieces (ws : Msg) (roww : Nat) : List Nat :=
  (List.range (roww / 32)).map (fun i => bits (ws.getD (2 + i / 2) 0) (i % 2 * 32 + 31) (i % 2 * 32))

/-- A row is placed in its expert's page at lane `r` (R233), or finds no page. -/
def State.placeRow (s : State) (r : LaneRef) (p : Pool) (ws : Msg) : Option State :=
  let e := rowExpert ws
  let p' : Option Pool := match Table.find p.bufs e with
    | some _ => some p
    | none => match p.free with
      | [] => none
      | n :: rest => some { p with bufs := Table.put p.bufs e ⟨n, 0⟩, free := rest }
  match p' with
  | none => none
  | some p => match Table.find p.bufs e with
    | none => none
    | some b =>
      let l := s.laneAt r
      let at_ := p.pageAt b.page
      let s := s.coreStores (rawByte r.core (at_ + 64 * b.count)) [ws.getD 1 0] l.part
      let s := s.storePieces r.core (at_ + 2048 + p.roww * b.count) (rowPieces ws p.roww) l.part
      let p := { p with bufs := Table.put p.bufs e { b with count := b.count + 1 } }
      some (s.setLaneAt r { s.laneAt r with pool := some (if b.count + 1 = 32 then p.launch e 0 else p) })

/-- May a pool take a message as a row (R239)? -/
def Pool.rowOk (p : Pool) (ws : Msg) : Bool :=
  !p.closed && decide (p.ebase ≤ rowExpert ws) && decide (rowExpert ws < p.ebase + p.nexp) &&
    decide (128 + p.roww ≤ 64 * ws.length)

/-- Has an image save written a lane's pool, so that its rows wait until the lane runs again (R238, R240)? -/
def State.saved (s : State) (l : Lane) : Bool := l.save == .written && (s.gated l || l.run == .idle)

/-- Has a pool a page for an expert's rows: the one of its buffer, or a free one? -/
def Pool.hasPage (p : Pool) (expert : Nat) : Bool := (Table.find p.bufs expert).isSome || !p.free.isEmpty

/-- The pool of lane `l` of its core for which a held row waits: its own lane's, or since a save any of its class (R238, R240). -/
def State.poolFor (s : State) (e : Eject) (l : Nat) : Option Pool :=
  let m := e.flight
  let h := m.words.headD 0
  let x := s.laneAt ⟨m.dest, l⟩
  if e.wants == .anyPage || (e.wants == .page && l % 4 == hdrCtx h) then
    x.pool.filter (fun p => p.cls.toNat == hdrClass h && p.rowOk m.words && !s.saved x)
  else none

/-- The lane of a core at which a held row is placed: of those for whose pools it waits, the first whose pool has a page for it, its
own before the others (R233, R240). -/
def State.rowLane (s : State) (e : Eject) : Option (LaneRef × Pool) :=
  firstSome (fun l => ((s.poolFor e l).filter (·.hasPage (rowExpert e.flight.words))).map (fun p => (⟨e.flight.dest, l⟩, p)))
    (hdrCtx (e.flight.words.headD 0) :: List.range 4)

/-- MAILBOX_POST_ARRIVAL (R176). -/
def execMailboxPostArrival (core k : Nat) (s : State) : Host.Outcome State Fault Refusal :=
  .next (s.take_ core k (· == .mailbox) (fun s m =>
    let x := m.words.getD 1 0
    let c := s.core core
    some (s.setCore core { c with mbx := mailboxPost c.mbxK c.mbx (BitVec.ofNat 32 (bits x 63 32), BitVec.ofNat 32 (bits x 31 0)) })))

/-! Notices (R213). -/

/-- The 64-bit words from an address stored under a lane's partition, or none where a fate of R27 meets one. -/
def State.storeWordsAs (s : State) (r : LaneRef) (p : BitVec 8) (a : Word) : List Word → Option State
  | [] => some s
  | w :: ws => match s.storeAs r p a w with
    | none => none
    | some s => s.storeWordsAs r p (a + 64) ws

/-- A notice at its lane: written into the queue, or discarded with a count or an overflow. None where a migration holds the
access. -/
def State.noticeAt (s : State) (r : LaneRef) (rec_ : List Word) : Option State :=
  let l := s.laneAt r
  let base := clearLow l.noticeq 8
  let n := bits l.noticeq 3 0
  let lost := some (s.countDropcnt r.core 1)
  if base = 0 then lost
  else match s.loadAs r l.ptag (base - 64) 1 with
    | .error (.wait _ _) => none
    | .error (.trap _ _ _) => lost
    | .ok (t, ws) =>
      let x := ws.getD 0 0
      if ctlFilled x = 2 ^ n then
        some (t.setLaneAt r { t.laneAt r with due := (t.laneAt r).due ++ [.notice (BitVec.ofNat 8 (bits (rec_.getD 0 0) 7 0))] })
      else match t.storeWordsAs r l.ptag (base + word (256 * (ctlTail x % 2 ^ n))) rec_ with
        | none => lost
        | some t => match t.storeAs r l.ptag (base - 64) (putBits x 32 32 (ctlTail x + 1)) with
          | none => lost
          | some t => some t

/-- NOTICE_ARRIVAL (R213): the first 256 body bits are the record. -/
def execNoticeArrival (core k : Nat) (s : State) : Host.Outcome State Fault Refusal :=
  .next (s.take_ core k (· == .notice) (fun s m =>
    s.noticeAt m.lane_ ((List.range 4).map (fun i => m.words.getD (i + 1) 0))))

/-! Launch units (R261, R262, R276). -/

/-- A record that a launch unit refuses: the destination core and the partition count it, and a sending lane gets a DROP
notice (R262). -/
def State.refuseRecord (s : State) (core : Nat) (h : Word) (sender : Option LaneRef) : State :=
  let s := (s.countDropcnt core 1).countDrop (hdrPtag h) 1
  match sender with
  | some r => s.dropNotice r h
  | none => s

/-- The lane that sent a message, if a lane sent it. -/
def Flight.senderLane (m : Flight) : Option LaneRef := m.lane.map (fun l => ⟨m.src, l⟩)

/-- Die boundaries on the mesh path from a source die to a compute stack (R259); the hub lies past column 0 (log entry 27). -/
def boundaries (from_ to_ : Nat) : Nat :=
  let dx := to_ % 8
  let dy := to_ / 8
  if from_ = Config.hubDie then dx + 1
  else (max (from_ % 8) dx - min (from_ % 8) dx) + (max (from_ / 8) dy - min (from_ / 8) dy)

/-- A record at a launch unit (R261): it arrives under an id, waits for one in the input of 64, or is refused; none where the
input is full, or a migration or a link holds one of its reads. `core`, `h` and `sender` are what a refusal concerns. -/
def State.intake (s : State) (o : Origin) (die : Nat) (x : Vector Word 8) (core : Nat) (h : Word) (sender : Option LaneRef) :
    Option State :=
  let refused := some (s.refuseRecord core h sender)
  match s.checkRecord o die x 0 with
  | .error (.wait _ _) => none
  | .error (.trap _ _ _) => refused
  | .ok (t, c, xs) =>
    if recKind x = 2 then match settingsPart true o.ptag x with
      | some p => some (t.setSettings die p x)
      | none => refused
    else
      let d := t.die die
      let y : Checked := ⟨o, x, c, xs⟩
      match (if d.input.isEmpty then d.allocRun 1 else none) with
      | some k => some (t.arriveAll die y none k)
      | none => if d.input.length < 64 then some (t.setDie die { d with input := d.input ++ [.record y] }) else none

/-- The first entry of a launch unit's input takes its ids, if they are free (R246, R261); a lane is handed them, and a gated one
holds them (R185, R293). None where they are not free, or nothing waits. -/
def State.takeInput (s : State) (die : Nat) : Option State :=
  let d := s.die die
  match d.input with
  | [] => none
  | .record x :: rest => (d.allocRun 1).map (fun k => (s.setDie die { d with input := rest }).arriveAll die x none k)
  | .spawn r x tiles :: rest => (d.allocRun (idsOf tiles)).map (fun k =>
      let t := (s.setDie die { d with input := rest }).arriveAll die x tiles k
      t.setLaneAt r { t.laneAt r with waitJob := some (.reply [] (spawnValue tiles k) false) })

/-- Does an entry of a launch unit's input stand? A lane's does while the lane waits in its TSPAWN or TSPAWNR. -/
def State.spawnStands (s : State) : Intake → Bool
  | .record _ => true
  | .spawn r _ _ => (s.laneAt r).spawns

/-- A launch unit goes through its input (R261): entries whose lanes wait no more are gone, and the others take free ids in
order. -/
def State.drainInput (s : State) (die : Nat) : State :=
  let d := s.die die
  if d.input.isEmpty then s
  else
    let s := s.setDie die { d with input := d.input.filter s.spawnStands }
    (List.range 64).foldl (fun s _ => (s.takeInput die).getD s) s

/-- The partition entry's supervisor core (R286). -/
def State.entrySupc (s : State) (p : Nat) : BitVec 20 := (s.part p).live.supc

/-- A class-56 message at a core of a die, or at the management core, which has no launch unit (R262); none where it waits. -/
def State.recordIntake (s : State) (m : Flight) : Option State :=
  let h := m.words.headD 0
  let die := dieOf m.dest
  if die = Config.hubDie ∨ m.words.length < 12 then some (s.refuseRecord m.dest h m.senderLane)
  else
    let src := if hubSource ≤ m.src then Config.hubDie else dieOf m.src
    let supc := match m.lane with
      | some l => (s.laneAt ⟨m.src, l⟩).supc
      | none => s.entrySupc (hdrPtag h)
    let o : Origin := ⟨⟨m.dest, 0⟩, BitVec.ofNat 8 (hdrPtag h), supc, none,
      (s.die die).dtc - word (bits (m.words.getD 9 0) 31 0 + 40 * boundaries src die), src != die⟩
    s.intake o die (recordOf ((m.words.drop 1).take 8)) m.dest h m.senderLane

/-- A class-56 message at its core: while the launch unit's input is full, it stays in the ejection buffer there, or in the mesh (R201,
R261). -/
def State.recordMessage (s : State) (m : Flight) : Option State :=
  match s.recordIntake m with
  | some s => some s
  | none => s.enterBuffer m .unit

/-! What waits in ejection buffers (R201). -/

/-- A message that waited in an ejection buffer, which it has left, finds what it waits for: slots of the ring (R201), a page (R233,
R240), or room at the launch unit (R261). -/
def State.leaveBuffer (s : State) (e : Eject) : Option State :=
  match e.wants with
  | .slots => s.enterRing e.flight
  | .page | .anyPage => (s.rowLane e).bind (fun x => s.placeRow x.1 x.2 e.flight.words)
  | .unit => s.recordIntake e.flight

/-- What waits in the ejection buffer of a lane is tried again; it is checked against the lane's tag as it stands now (R208). -/
def State.retryBuffer (s : State) (r : LaneRef) : State :=
  match (s.laneAt r).ejbuf with
  | none => s
  | some e =>
    let t := s.setLaneAt r { s.laneAt r with ejbuf := none }
    let h := e.flight.words.headD 0
    if s.tagMismatch e.flight.dest h then t.dropMessage e.flight.src e.flight.lane h else (t.leaveBuffer e).getD s

/-- What waits in the ejection buffers of a core is tried again before anything else is ejected there. -/
def State.retryCore (s : State) (c : Nat) : State := (List.range 4).foldl (fun s l => s.retryBuffer ⟨c, l⟩) s

/-- MESSAGE_EJECTION (R200, R201): what waits in the core's ejection buffers is tried again, then a message enters its lane's
ring, or waits for slots. -/
def execMessageEjection (core k : Nat) (s : State) : Host.Outcome State Fault Refusal :=
  .next ((s.retryCore core).take_ core k (· == .ring) State.ringMessage)

/-- The core that counts the refused records of the hub for a die: its first (R262; log entry 88). -/
def dieCore (die : Nat) : Nat := die / 8 * 64 * 8 + die % 8 * 64 * 2048

/-- A record from the hub's LAUNCH path at its die (R261, R308), unless a link holds it back (R331); its age counts hub ticks from the
store. -/
def State.hubRecord (s : State) (k : Nat) : State :=
  match s.hubLaunch[k]? with
  | none => s
  | some (die, p, tick, ws) =>
    if (s.hubLaunch.take k).any (fun x => x.1 == die) ||
        s.heldOn (Flight.path ⟨hubSource, none, dieCore die, []⟩) (s.carries s.inflight) then s
    else
      let o : Origin := ⟨⟨dieCore die, 0⟩, BitVec.ofNat 8 p, s.entrySupc p, none,
        (s.die die).dtc - ((s.die Config.hubDie).dtc - tick) - word (40 * boundaries Config.hubDie die), true⟩
      let h := mkHeader (dieCore die) 0 56 p 2 0 false true false
      (({ s with hubLaunch := dropAt s.hubLaunch k } : State).intake o die (recordOf ws) (dieCore die) h none).getD s

/-- LAUNCH_RECORD_INTAKE (R261, R262): of a class-56 message, or of a hub launch where `core` is the hub's. -/
def execLaunchRecordIntake (core k : Nat) (s : State) : Host.Outcome State Fault Refusal :=
  if core = hubSource then .next (s.hubRecord k)
  else .next ((s.retryCore core).take_ core k (· == .launch) State.recordMessage)

/-- DEPENDENCE_RELEASE (R204): hardware's class-57 message releases one dependence; a lane's is dropped and counted at the
destination. -/
def execDependenceRelease (core k : Nat) (s : State) : Host.Outcome State Fault Refusal :=
  .next (s.take_ core k (· == .release) (fun s m =>
    let h := m.words.headD 0
    if !hdrHw h ∨ dieOf core = Config.hubDie then some (s.dropHere core h)
    else some (s.fire (dieOf core) (BitVec.ofNat 8 (hdrPtag h)) (Config.releaseTask (m.words.drop 1)))))

/-- May a class-62 message act: from the management core, to a core of a die (R204, R276)? -/
def schedAllowed (m : Flight) : Bool := m.src == Config.mgmtCore && dieOf m.dest != Config.hubDie

/-- Is the k-th message in flight to a core one that sets a stamp ring (R276)? -/
def State.stampNext (s : State) (core k : Nat) : Bool :=
  match s.arriving core k with
  | some (_, m) => bits (m.words.getD 1 0) 3 0 == 1 && schedAllowed m
  | none => false

/-- SCHED_DIE_SETTINGS (R276): OP 0, settings that apply from the unit's next round; a message that breaks a rule is dropped and
counted. -/
def execSchedDieSettings (core k : Nat) (s : State) : Host.Outcome State Fault Refusal :=
  .next (s.take_ core k (fun x => x == .sched && !s.stampNext core k) (fun s m =>
    let w1 := m.words.getD 1 0
    let w2 := m.words.getD 2 0
    if !schedAllowed m ∨ bits w1 3 0 ≠ 0 then some (s.dropHere core (m.words.headD 0))
    else
      let d := s.die (dieOf core)
      some (s.setDie (dieOf core) { d with dieSettings := some (BitVec.ofNat 32 (bits w2 31 0), BitVec.ofNat 4 (bits w2 35 32)) })))

/-- Is a stamp ring's base legal: a global scratchpad address, a multiple of 256, with BASE − 64 in the same slice (R276)? -/
def stampBaseOk (b : Word) : Bool :=
  match decodeWindow b with
  | some (.global _ off) => off % 256 == 0 && decide (256 ≤ off)
  | _ => false

/-- SCHED_STAMP_RING (R276): OP 1. -/
def execSchedStampRing (core k : Nat) (s : State) : Host.Outcome State Fault Refusal :=
  .next (s.take_ core k (fun x => x == .sched && s.stampNext core k) (fun s m =>
    let base := m.words.getD 2 0
    let p := bits (m.words.getD 1 0) 15 8
    let d := s.die (dieOf core)
    if base = 0 then some (s.setDie (dieOf core) { d with stamps := Table.del d.stamps p })
    else if stampBaseOk base then
      some (s.setDie (dieOf core) { d with stamps := Table.put d.stamps p (base, BitVec.ofNat 4 (bits (m.words.getD 3 0) 3 0)) })
    else some (s.dropHere core (m.words.headD 0))))

end Sys2Proof.Machine
end

