-- ==== Sys2Proof/Machine/Pools.lean ====
section
/-! DEFINITION. Expert pools (R231 to R239). -/

namespace Sys2Proof.Machine

/-- A pool as its descriptor words give it, if they obey R232. -/
def poolOf (cls : BitVec 6) (task : BitVec 16) (stage : BitVec 8) (desc w0 w1 : Word) : Option Pool :=
  let roww := bits w0 36 21
  let npg := bits w0 44 37
  let eb := bits w0 63 48
  let ne := bits w1 6 0
  let p : Pool := ⟨cls, task, stage, desc, bits w0 20 0, roww, npg, eb, ne, [], List.range npg, [], false⟩
  if p.pbase % 64 = 0 ∧ roww % 32 = 0 ∧ 32 ≤ roww ∧ roww ≤ 1920 ∧ 1 ≤ npg ∧ bits w0 47 45 = 0 ∧ 1 ≤ ne ∧ ne ≤ 64 ∧
      bits w1 63 7 = 0 ∧ eb + ne ≤ 0xFFFE ∧ p.pageAt npg ≤ 2097152 then some p
  else none

/-- Do the descriptor at `off` and every page lie within one valid region of the lane (R231)? -/
def Lane.poolInRegion (l : Lane) (p : Pool) (off : Nat) : Bool :=
  l.validRegions.any (fun x =>
    let e := x.1 + 64 * x.2
    decide (x.1 ≤ off) && decide (off + 128 ≤ e) && decide (x.1 ≤ p.pbase) && decide (p.pageAt p.npg ≤ e))

/-- The pool that a lane of a core opens for a task, after the checks of R231; a migration may hold the read of the handler
table (R303). -/
def State.poolCheck (s : State) (r : LaneRef) (t : Task) : Except Stop (State × Option Pool) :=
  let desc := recWord t.record 1
  match decodeWindow desc with
  | some (.raw off) =>
    if off % 64 ≠ 0 ∨ 2097152 < off + 128 then .ok (s, none)
    else
      let (s, w0, _) := s.homeWord r (rawByte r.core off)
      let (s, w1, _) := s.homeWord r (rawByte r.core (off + 64))
      match poolOf (BitVec.ofNat 6 (recClass t.record)) t.id (BitVec.ofNat 8 (recStage t.record)) desc w0 w1 with
      | none => .ok (s, none)
      | some p =>
        let l := s.laneAt r
        if !l.poolInRegion p off ∨ l.pool.isSome then .ok (s, none)
        else match s.tableEntry r (recClass t.record) with
          | .ok (s, x) => .ok (s, if entryValid x then some p else none)
          | .error (.trap s _ _) => .ok (s, none)
          | .error (.wait s c) => .error (.wait s c)
  | _ => .ok (s, none)

/-- The opening of a committed pool task (R231, R266): the pool opens and the task runs, or the task is abandoned with
POOL_REFUSED; the order waits where a migration holds the check (R303). -/
def State.openPool (s : State) (die : Nat) (t : Task) : State :=
  match t.cores with
  | [] => s
  | c :: _ =>
    let r : LaneRef := ⟨c, recLane t.record⟩
    let now := (s.die die).dtc
    match s.poolCheck r t with
    | .error _ => s
    | .ok (s, none) => s.abandon die [⟨t.id, 0x04, 0, 0, recWord t.record 1⟩]
    | .ok (s, some p) =>
      let s := s.setLaneAt r { s.laneAt r with pool := some p }
      let s := s.updTask die t.id (fun t => { t with state := .running, sent := true, held := (now - t.deq).toNat })
      s.setDie die { s.die die with orders := (s.die die).orders.filter (fun o => o.task != t.id) }

/-! Rows and tiles. -/

/-- Every buffer is launched with KIND 2 in ascending expert id (R236). -/
def Pool.flush (p : Pool) : Pool := (p.bufs.map (·.1)).foldl (fun p e => p.launch e 2) p

/-- A dropped pool message (R239). -/
def State.poolDrop (s : State) (r : LaneRef) (ws : Msg) : State :=
  let h := ws.headD 0
  let l := s.laneAt r
  (s.dropHere r.core h).postNotice r
    (noticeWords 0x05 l.part l.task.toNat 0 0 (s.die (dieOf r.core)).dtc (ws.getD 1 0) (word (hdrSrc h)))

/-- A message of an open pool that names an expert (R233, R239): its row is placed, or held where it finds no page, or where an
image save has written the pool (R238, R240). -/
def State.poolRow (s : State) (m : Flight) : Option State :=
  let r := m.lane_
  match (s.laneAt r).pool with
  | none => none
  | some p =>
    if !p.rowOk m.words then some (s.poolDrop r m.words)
    else if s.saved (s.laneAt r) then s.enterBuffer m .anyPage
    else match s.placeRow r p m.words with
      | some s => some s
      | none => s.enterBuffer m .page

/-- Does a row wait in the ejection buffers of a core for the pool of lane `r`? -/
def State.rowWaits (s : State) (r : LaneRef) (ok : Pool → Msg → Bool) : Bool :=
  (List.range 4).any (fun l => match (s.laneAt ⟨r.core, l⟩).ejbuf with
    | some e => match s.poolFor e r.lane with
      | some p => ok p e.flight.words
      | none => false
    | none => false)

/-- A FLUSH or CLOSE at an open pool (R236): after the rows that arrived before it (R238). -/
def State.poolFlush (s : State) (m : Flight) (close : Bool) : Option State :=
  let r := m.lane_
  match (s.laneAt r).pool with
  | none => none
  | some p =>
    if p.closed then some (s.poolDrop r m.words)
    else if s.saved (s.laneAt r) || s.rowWaits r (fun _ _ => true) then none
    else
      let q := p.flush
      let q := if close then { q with closed := true, tiles := q.tiles ++ [⟨0, 0, 0, 3⟩] } else q
      some (s.setLaneAt r { s.laneAt r with pool := some q })

/-- POOL_MESSAGE_ARRIVAL (R233): what waits in the core's ejection buffers is tried again, then a row arrives. -/
def execPoolMessageArrival (core k : Nat) (s : State) : Host.Outcome State Fault Refusal :=
  .next ((s.retryCore core).take_ core k (fun x => match x with
    | .pool e => e != 0xFFFF && e != 0xFFFE
    | _ => false) State.poolRow)

/-- FLUSH (R236). -/
def execFlush (core k : Nat) (s : State) : Host.Outcome State Fault Refusal :=
  .next ((s.retryCore core).take_ core k (· == .pool 0xFFFF) (fun s m => s.poolFlush m false))

/-- CLOSE (R236). -/
def execClose (core k : Nat) (s : State) : Host.Outcome State Fault Refusal :=
  .next ((s.retryCore core).take_ core k (· == .pool 0xFFFE) (fun s m => s.poolFlush m true))

/-- The words of a tile message (R234). -/
def State.tileWords (s : State) (r : LaneRef) (p : Pool) (t : Tile) : Msg :=
  let h := mkHeader r.core r.lane p.cls.toNat (s.laneAt r).part 0 (s.logical r) false true false
  if t.kind = 3 then [h, word (3 * 2 ^ 30), 0, 0]
  else
    let a := 0xC000000000000000 + p.pageAt t.page
    [h, word (t.expert + t.rows * 2 ^ 16 + t.page * 2 ^ 22 + t.kind * 2 ^ 30), word (a + 2048), word a]

/-- TILE_MESSAGE_ENTRY (R234): the oldest pending tile message enters the ring when a slot is free. -/
def execTileMessageEntry (core lane : Nat) (s : State) : Host.Outcome State Fault Refusal :=
  let r : LaneRef := ⟨core, lane % 4⟩
  match (s.laneAt r).pool with
  | none => .next s
  | some p => match p.tiles with
    | [] => .next s
    | t :: rest => match s.acceptRing r (s.tileWords r p t) (some (t.page, t.kind)) (some p) ⟨r.core, none⟩ with
      | none => .next s
      | some s => .next (s.setLaneAt r { s.laneAt r with pool := some { p with tiles := rest } })

/-- Is a row of a lane's pool held for want of a page (R233, R237)? -/
def State.rowHeld (s : State) (r : LaneRef) : Bool := s.rowWaits r (fun p ws => !p.hasPage (rowExpert ws))

/-- The buffer with the largest count, and of those the lowest expert (R237). -/
def Pool.fullest (p : Pool) : Option Nat :=
  (p.bufs.foldl (fun (b : Option (Nat × Nat)) x => match b with
    | none => some (x.1, x.2.count)
    | some y => if y.2 < x.2.count then some (x.1, x.2.count) else some y) none).map (·.1)

/-- POOL_FORCED_LAUNCH (R237): a row is held, no page is free, and no tile message is pending, in the ring or running. -/
def execPoolForcedLaunch (core lane : Nat) (s : State) : Host.Outcome State Fault Refusal :=
  let r : LaneRef := ⟨core, lane % 4⟩
  let l := s.laneAt r
  match l.pool with
  | none => .next s
  | some p =>
    if p.free.isEmpty && p.tiles.isEmpty && !l.ring.any (fun e => e.tile.isSome) && s.rowHeld r then
      match p.fullest with
      | none => .next s
      | some e => .next (s.setLaneAt r { l with pool := some (p.launch e 1) })
    else .next s

end Sys2Proof.Machine
end

