-- ==== Sys2Proof/Machine/Launch.lean ====
section
/-! DEFINITION. The launch unit's evaluation (R255), placement (R265 to R268, R282, R283), dispensing (R269 to R272) and
stealing (R273). -/

namespace Sys2Proof.Machine

/-! Queues and keys (R253, R263). -/

/-- The heads of the non-empty queues, in the order in which a round tries them (R266). -/
def Die.headList (d : Die) : List Task :=
  sortBy (fun x y => d.before x y) ((List.range 8).filterMap (fun q => d.best (d.entries q)))

/-- The keys of the queued entries (R253). -/
def Die.keyTable (d : Die) : List (Nat × Nat) :=
  ((List.range 8).flatMap d.entries).map (fun t => (t.id.toNat, d.key t))

/-- The die with its keys recomputed; an entry whose key has changed calls for a round (R266). -/
def Die.rekey (d : Die) : Die :=
  let ks := d.keyTable
  let changed := ks.any (fun k => match Table.find d.keys k.1 with
    | some v => v != k.2
    | none => false)
  (if changed then { d with keys := ks }.roundNow else { d with keys := ks }).markHeads

/-! Evaluation (R255, R257). -/

/-- The doom of an anchor: VALUE and COST of its notice word 2, if V × 2^20 < price × RE. -/
def Die.doom (d : Die) (a : Task) : Option Word :=
  let v := a.value (d.dtc + word (d.criticalPath a))
  let cost := (d.priceOf a.ptag.toNat).1.toNat * d.remainingEnergy a
  if v * 2 ^ 20 < (cost : Int) then some (word (v.toNat % 2 ^ 32 + min (cost / 2 ^ 20) (2 ^ 32 - 1) * 2 ^ 32)) else none

/-- What the evaluation finds of a task: the anchor that decides, its notice word 2 and the prospect; none if it lives. -/
def Die.verdict (d : Die) (x : Task) : Option (Nat × Word × Word) :=
  let live := (d.liveAnchors x).map (·.1)
  if x.serves.isEmpty || !(live.all (fun a => (d.doom a).isSome)) then none
  else
    let first := live.foldl (fun (b : Option Task) a => match b with
      | none => some a
      | some y => if a.id.toNat < y.id.toNat then some a else some y) none
    match first with
    | none => some (0, 0, 0)
    | some a => some (a.id.toNat, (d.doom a).getD 0, BitVec.ofInt 64 (d.derived x (d.dtc + word (x.remaining d.dtc))))

/-- The evaluation of a die (R255, R260): pending settings first, then every verdict on the state as it stands; a task with a
launch message dispensed, or committed in this tick, gets ABANDON, and the others are abandoned in ascending id (log entry 32). -/
def State.evaluate (s : State) (die : Nat) : State :=
  let d := s.die die
  let d : Die := { d with price := d.settings.foldl (fun t x => Table.put t x.1 x.2) d.price, settings := [] }
  let s := s.setDie die d
  let xs := sortBy (fun x y => decide (x.id.toNat ≤ y.id.toNat)) (d.tasks.filter (fun t => t.unfinished))
  let found := xs.filterMap (fun x => (d.verdict x).map (fun v => (x, v)))
  let s := (found.filter (fun f => d.runs f.1)).foldl (fun s f => s.flagAbandon die f.1.id) s
  let s := s.abandonInOrder die ((found.filter (fun f => !d.runs f.1)).map (fun f =>
    (⟨f.1.id, 0x01, f.2.1, f.2.2.1, f.2.2.2⟩ : Doom)))
  s.setDie die (s.die die).rekey

/-! Placement (R265 to R267, R282). -/

/-- Does a valid rectangle of a defined partition name lane `l` of any core of a cluster (R265)? -/
def State.namedByPartition (s : State) (c l : Nat) : Bool :=
  s.parts.any (fun p => p.1 != 0 && p.2.live.v &&
    p.2.live.inUse.any (fun x => (List.range 8).any (fun k => rectNames x (c * 8 + k) l)))

/-- The cluster-lanes in targets of reserving tasks other than an entry's own (R265, R268). -/
def Die.targets (d : Die) (own : List Task) : List (Nat × Nat) :=
  d.tasks.flatMap (fun t => match t.target with
    | some xs => if t.queued && !own.any (fun o => o.id == t.id) then xs else []
    | none => [])

/-- Is a cluster-lane usable for an entry, apart from lying in a region (R265): not among the ones that committed tasks and the
targets of others held? -/
def State.usable (s : State) (p : Nat) (held : List (Nat × Nat)) (x : Nat × Nat) : Bool :=
  !held.contains x && !s.withholds (sectorOf (x.1 * 8)) p && (p != 0 || !s.namedByPartition x.1 x.2)

/-- The origins at which an entry is placed, by what was held when its attempt began: the first region in which every group
finds one (R266, R267, R278). -/
def State.findPlace (s : State) (die : Nat) (t : Task) (held : List (Nat × Nat)) : Option (List (BitVec 16 × (Nat × Nat))) :=
  let g := (s.die die).groups t
  firstSome (fun (r : Region) => r.fit (s.usable t.ptag.toNat held) g []) (s.regions die t.ptag.toNat)

/-- Numbers without repeats, as they first occur. -/
def dedup (xs : List Nat) : List Nat := xs.foldl (fun a x => if a.contains x then a else a ++ [x]) []

/-- One group is committed at an origin (R254, R266, R274): DEQ, the requested point, a cleared bitmap, and an order at each
Sluice that it touches. -/
def Die.commit (d : Die) (id : BitVec 16) (o : Nat × Nat) (tick : Word) : Die :=
  match d.task? id with
  | none => d
  | some t =>
    let pt := if d.urgency t = 0 ∧ !recNp t.record then (d.priceOf t.ptag.toNat).2.toNat else 4
    let d := d.upd id (fun t => { t with place := some o, queued := false, deq := tick, target := none, tiles := [], point := pt })
    let secs := dedup ((groupClusters t o.1 o.2).map (fun c => sectorOf (c * 8)))
    { d with orders := d.orders ++ secs.map (fun n => ⟨id, n, false, none⟩) }

/-- The attempt on the first of some heads that is still queued, begun at a tick (R278, R282). -/
def Die.attemptOn (d : Die) (tick : Word) : List (BitVec 16) → Option Attempt
  | [] => none
  | h :: rest => match d.task? h with
    | some t =>
      let g := d.groups t
      if t.queued then some ⟨h, rest, tick + word (4 * g.length), d.held ++ d.targets g, none⟩ else d.attemptOn tick rest
    | none => d.attemptOn tick rest

/-- A placement round begins at the die's tick (R266, R280), with the die settings that wait for it (R276). -/
def Die.beginRound (d : Die) : Die :=
  let d : Die := match d.dieSettings with
    | some (a, p) => { d with agelimit := a, stealp := p, dieSettings := none }
    | none => d
  let d : Die := { d with roundAt := none, keys := d.keyTable }.markHeads
  { d with attempt := d.attemptOn d.dtc (d.headList.map (·.id)) }

/-- The placement attempt of a die resolves at the die's tick: a commit, which calls for a new round, or a failure, which leaves the
other heads of its round to try (R266, R282, R283). -/
def State.resolvePlacement (s : State) (die : Nat) (a : Attempt) : State × List (BitVec 16) :=
  let d := s.die die
  match d.task? a.head with
  | none => (s, a.rest)
  | some t =>
    if !t.queued then (s, a.rest)
    else match s.findPlace die t a.held with
      | some xs => (s.setDie die (xs.foldl (fun (d : Die) x => d.commit x.1 x.2 d.dtc) d).roundNow.markHeads, [])
      | none =>
        (s.setDie die ((d.groups t).foldl (fun d x => d.upd x.id (fun y => { y with failp := y.failp + 1 })) d), a.rest)

/-! Dispensing (R269 to R272). -/

/-- The launch message for one core of a group (R269). -/
def launchMsg (t : Task) (x0 y0 core : Nat) : Msg :=
  let c := clusterOf core
  let h := mkHeader core (recLane t.record) (recClass t.record) t.ptag.toNat 0 core true true false
  let w2 := word (c / 256 - x0 + (c % 256 - y0) * 2 ^ 4 + (if t.inGang then recGidx t.record else 0) * 2 ^ 8
    + recStage t.record * 2 ^ 16 + t.id.toNat * 2 ^ 32)
  [h, recWord t.record 1, w2, 0]

/-- A Sluice sends its launch messages of a group (R269, R274); each Sluice is a source of its own. -/
def State.sendLaunches (s : State) (die : Nat) (t : Task) (sector : Nat) : State :=
  match t.place with
  | none => s
  | some (x0, y0) =>
    let cs := sortBy (fun x y => decide (x ≤ y)) (t.cores.filter (fun c => sectorOf c == sector))
    let s : State := { s with mesh := s.mesh ++ cs.map (fun c => ⟨hubSource + 1 + sector, none, c, launchMsg t x0 y0 c⟩) }
    let now := (s.die die).dtc
    let s := s.updTask die t.id (fun t => { t with state := .running, sent := true, held := (now - t.deq).toNat })
    let d := s.die die
    s.setDie die { d with orders := d.orders.filter (fun o => !(o.task == t.id && o.sector == sector)) }

/-- An order that a Sluice has checked is held (R270); one withheld for power counts as demand (R320). -/
def State.holdOrder (s : State) (die k : Nat) (o : Order) (p : Nat) : State :=
  let d := s.die die
  let s := s.setDie die { d with orders := d.orders.set k { o with held := true, taken := none } }
  if s.overPower p then s.demand p else s

/-- A Sluice takes the k-th order of a die (R270): orders begin in turn; a held one waits for the end of the withholding, the oldest
first. One that it does not withhold goes out when the tick ends, since a withholding that begins in that tick still holds it
(R278); its task runs from then on. -/
def State.sluice (s : State) (die k : Nat) : State :=
  let d := s.die die
  match d.orders[k]? with
  | none => s
  | some o => match d.task? o.task with
    | none => s
    | some t =>
      let p := t.ptag.toNat
      let ahead := (d.orders.take k).any (fun x => x.sector == o.sector && x.taken.isNone &&
        (match d.task? x.task with
         | some y => (!o.held && !x.held) || (o.held && x.held && !s.withholds x.sector y.ptag.toNat)
         | none => false))
      if ahead || o.taken.isSome then s
      else if s.withholds o.sector p then s.holdOrder die k o p
      else (s.setDie die { d with orders := d.orders.set k { o with taken := some d.dtc } }).updTask die t.id
        (fun t => { t with state := .running })

/-- A task of which a Sluice has an order back waits as before, unless another of its orders has gone out (R272). -/
def State.untake (s : State) (die : Nat) (t : Task) : State :=
  s.updTask die t.id (fun t => { t with state := if t.sent then .running else .ready })

/-- The first order of a die that a Sluice has taken, as its tick ends: it is held after all, or its launch messages go out, or its
pool opens (R231, R270, R278). -/
def State.endTaken (s : State) (die : Nat) : State :=
  let d := s.die die
  match findFrom (fun (o : Order) => o.taken.isSome) d.orders 0 with
  | none => s
  | some (k, o) => match d.task? o.task with
    | none => s.setDie die { d with orders := dropAt d.orders k }
    | some t =>
      let p := t.ptag.toNat
      if s.withholds o.sector p then (s.holdOrder die k o p).untake die t
      else if recKind t.record = 1 then
        (s.setDie die { d with orders := d.orders.set k { o with taken := none } }).untake die t |>.openPool die t
      else s.sendLaunches die t o.sector

/-- All the orders that Sluices have taken, as their tick ends, in the order of the orders (R278). -/
def State.endAllTaken (s : State) (die : Nat) : State :=
  ((s.die die).orders.filter (fun o => o.taken.isSome)).foldl (fun s _ => s.endTaken die) s

/-- DISPENSE (R270). -/
def execDispense (die k : Nat) (s : State) : Host.Outcome State Fault Refusal := .next (s.sluice die k)

/-- POOL_OPEN (R231): the order of a placed POOL task at its Sluice. -/
def execPoolOpen (die task : Nat) (s : State) : Host.Outcome State Fault Refusal :=
  let d := s.die die
  match findFrom (fun (o : Order) => o.task.toNat == task) d.orders 0 with
  | none => .next s
  | some (k, o) => match d.task? o.task with
    | some t => if recKind t.record = 1 then .next (s.sluice die k) else .next s
    | none => .next s

/-! Stealing (R273). -/

/-- Is an order held for heat alone, for one cluster, of no gang and no pool (R273)? -/
def State.stealable (s : State) (die : Nat) (o : Order) : Bool :=
  o.held && o.taken.isNone && match (s.die die).task? o.task with
    | some t => s.hot o.sector && !s.overPower t.ptag.toNat && recCols t.record == 0 && recRows t.record == 0 && !t.inGang &&
        recKind t.record == 0
    | none => false

/-- The neighbouring sectors of a sector on its die, in the order +X, −X, +Y, −Y. -/
def neighbours (n : Nat) : List Nat :=
  let x := n / 32
  let y := n % 32
  (if x % 8 = 7 then [] else [n + 32]) ++ (if x % 8 = 0 then [] else [n - 32]) ++ (if y % 8 = 7 then [] else [n + 1]) ++
  (if y % 8 = 0 then [] else [n - 1])

/-- The usable cluster of a sector that a stolen order would take, by what was held when the attempt began: the lowest y, then the
lowest x (R273). -/
def State.stealPlace (s : State) (die : Nat) (t : Task) (held : List (Nat × Nat)) (sector : Nat) : Option (Nat × Nat) :=
  let p := t.ptag.toNat
  let l := recLane t.record
  let rs := s.regions die p
  ((List.range 8).flatMap (fun j => (List.range 8).map (fun i => (sector / 32 * 8 + i, sector % 32 * 8 + j)))).find? (fun o =>
    rs.any (fun r => r.lm.testBit l && decide (r.x0 ≤ o.1) && decide (o.1 ≤ r.x1) && decide (r.y0 ≤ o.2) && decide (o.2 ≤ r.y1)) &&
    s.usable p held (o.1 * 256 + o.2, l))

/-- The sectors of a die whose Sluices hold a stealable order, in ascending order. -/
def State.offering (s : State) (die : Nat) : List Nat :=
  sortBy (fun x y => decide (x ≤ y)) (dedup (((s.die die).orders.filter (s.stealable die)).map (·.sector)))

/-- A steal period ends: each Sluice that holds a stealable order is to offer its oldest (R273). -/
def State.stealTick (s : State) (die : Nat) : State :=
  let d := s.die die
  let due := d.stealDue.filter (fun t => decide (t.toNat ≤ d.dtc.toNat))
  s.setDie die { d with
    stealDue := d.stealDue.filter (fun t => decide (d.dtc.toNat < t.toNat))
    offers := d.offers ++ due.flatMap (fun _ => s.offering die) }

/-- The next offer begins, as a placement attempt of 4 ticks (R266, R273, R282); a Sluice that holds no stealable order any more makes
none. -/
def State.beginOffer (s : State) (die : Nat) : List Nat → State
  | [] => s.setDie die { s.die die with offers := [] }
  | n :: rest =>
    let d := s.die die
    match d.orders.find? (fun o => o.sector == n && s.stealable die o) with
    | none => s.beginOffer die rest
    | some o => s.setDie die { d with
        offers := rest, attempt := some ⟨o.task, [], d.dtc + 4, d.held ++ d.targets [], some n⟩ }

/-- The steal attempt of a sector resolves (R273): the first neighbour with a usable cluster-lane takes the order, or the steal has
failed. An order that is stealable no more stays where it is (log entry 33). -/
def State.resolveSteal (s : State) (die : Nat) (a : Attempt) (sector : Nat) : State :=
  match findFrom (fun (o : Order) => o.sector == sector && o.task == a.head && s.stealable die o) (s.die die).orders 0 with
  | none => s
  | some (k, o) => match (s.die die).task? o.task with
    | none => s
    | some t => match firstSome (fun n => (s.stealPlace die t a.held n).map (fun c => (n, c))) (neighbours sector) with
      | none => s.updTask die t.id (fun t => { t with fails := t.fails + 1 })
      | some (n, c) =>
        let s := s.updTask die t.id (fun t => { t with place := some c })
        let d := s.die die
        s.setDie die { d with orders := dropAt d.orders k ++ [⟨t.id, n, false, none⟩] }

/-! Ageing (R268, R283). -/

/-- The origin with the fewest cluster-lanes in a list; earlier ones win ties. -/
def cheapest (t : Task) (taken : List (Nat × Nat)) (os : List (Nat × Nat)) : Option (List (Nat × Nat)) :=
  let l := recLane t.record
  let cells (o : Nat × Nat) : List (Nat × Nat) := (groupClusters t o.1 o.2).map (fun c => (c, l))
  let cost (xs : List (Nat × Nat)) : Nat := (xs.filter taken.contains).length
  os.foldl (fun b o => match b with
    | none => some (cells o)
    | some y => if cost (cells o) < cost y then some (cells o) else some y) none

/-- The target of each member of an entry (R268, R283). -/
def State.fixTarget (s : State) (die : Nat) (t : Task) : List (BitVec 16 × List (Nat × Nat)) :=
  let d := s.die die
  let g := d.groups t
  let taken := d.held ++ d.targets g
  let rs := s.regions die t.ptag.toNat
  if t.inGang then
    match rs.find? (fun r => (r.fit (fun _ => true) g []).isSome) with
    | none => g.map (fun x => (x.id, []))
    | some r =>
      (g.foldl (fun (acc : List (BitVec 16 × List (Nat × Nat)) × List (Nat × Nat)) x =>
        let os := (r.origins x).filter (fun o =>
          (groupClusters x o.1 o.2).all (fun c => !acc.2.contains (c, recLane x.record)))
        let c := (cheapest x taken os).getD []
        (acc.1 ++ [(x.id, c)], acc.2 ++ c)) ([], [])).1
  else [(t.id, (cheapest t taken (rs.flatMap (fun r => r.origins t))).getD [])]

/-- The head of a queue that is to become reserving, with the first tick at which it has been head for more than AGELIMIT ticks
(R268). -/
def Die.ageing (d : Die) (queue : Nat) : Option (Task × Word) :=
  match Table.find d.heads queue with
  | none => none
  | some (id, since) => match d.task? id with
    | none => none
    | some t => if d.agelimit ≠ 0 ∧ t.queued ∧ t.target.isNone then some (t, since + d.agelimit.setWidth 64 + 1) else none

/-- The head of a queue becomes reserving, if it is due by the die's tick: its target is fixed, and a round is called for (R266,
R268). -/
def State.reserve (s : State) (die queue : Nat) : State :=
  let d := s.die die
  match d.ageing queue with
  | none => s
  | some (t, due) =>
    if due.toNat ≤ d.dtc.toNat then
      s.setDie die ((s.fixTarget die t).foldl (fun d x => d.upd x.1 (fun y => { y with target := some x.2 })) d).roundNow
    else s

/-! The launch unit's own work within a tick, in the order of R280. -/

/-- A change of a die made at a tick of its own. -/
def State.atTick (s : State) (die : Nat) (t : Word) (f : State → State) : State :=
  let now := (s.die die).dtc
  let s := f (s.setDie die { s.die die with dtc := t })
  s.setDie die { s.die die with dtc := now }

/-- The attempt in progress resolves, if it is due by the die's tick; the heads of its round that are left (R266, R273, R282). -/
def State.resolveAttempt (s : State) (die : Nat) : State × List (BitVec 16) :=
  let d := s.die die
  match d.attempt with
  | none => (s, [])
  | some a =>
    if d.dtc.toNat < a.due.toNat then (s, [])
    else
      let s := s.setDie die { d with attempt := none }
      match a.thief with
      | none => s.resolvePlacement die a
      | some n => (s.resolveSteal die a n, [])

/-- The evaluations that are due by the die's tick (R255). -/
def State.evaluateDue (s : State) (die : Nat) : State :=
  let d := s.die die
  let due := d.evals.filter (fun e => decide (e.toNat ≤ d.dtc.toNat))
  due.foldl (fun s _ => s.evaluate die) (s.setDie die { d with evals := d.evals.filter (fun e => decide (d.dtc.toNat < e.toNat)) })

/-- The round that is due by the die's tick begins; else the heads that a failed attempt has left are tried (R266, R282). -/
def Die.roundDue (d : Die) (rest : List (BitVec 16)) : Die :=
  match d.roundAt with
  | some r => if r.toNat ≤ d.dtc.toNat then d.beginRound else { d with attempt := d.attemptOn d.dtc rest }
  | none => { d with attempt := d.attemptOn d.dtc rest }

/-- What a launch unit does by itself in a tick, once what reaches it in that tick has been applied (R280): the orders that its
Sluices have taken go out (R278), the attempt that began earlier resolves (R255, R260), then the evaluation, then the heads that age
(R268), then the round or the next attempt, and after a round's attempts the steals (R278). An evaluation and a round wait while an
attempt is in progress. -/
def State.workAt (s : State) (die : Nat) (t : Word) : State :=
  s.atTick die t (fun s =>
    let (s, rest) := (s.endAllTaken die).resolveAttempt die
    let s := if (s.die die).attempt.isNone then s.evaluateDue die else s
    let s := ((List.range 8).foldl (fun s q => s.reserve die q) s).stealTick die
    if (s.die die).attempt.isSome then s
    else
      let s := s.setDie die ((s.die die).roundDue rest)
      if (s.die die).attempt.isSome then s else s.beginOffer die (s.die die).offers)

/-- The ticks of a launch unit's work to come: of orders taken, of steals, and of heads that age; and of the attempt in progress, or,
without one, of evaluations and of the round (R255, R266, R268, R273, R278). -/
def Die.ticks (d : Die) : List Word :=
  d.orders.filterMap (·.taken) ++ d.stealDue ++ (List.range 8).filterMap (fun q => (d.ageing q).map (·.2)) ++
    match d.attempt with
    | some a => [a.due]
    | none => d.evals ++ d.roundAt.toList

/-- The tick of its next work, once that tick has ended, so that all of its arrivals have been applied (R255). -/
def Die.dueTick (d : Die) : Option Word := (earliest d.ticks).filter (fun t => decide (t.toNat < d.dtc.toNat))

/-- The later of two ticks. -/
def later (a b : Word) : Word := if a.toNat ≤ b.toNat then b else a

/-- The launch unit of a die does the work of the ticks that have ended, from a tick on; ids that this frees go to what waits in its
input, which arrives in the following tick (R246, R261, R280). -/
def State.settleDie (s : State) (die : Nat) (from_ : Word) : Nat → State
  | 0 => s
  | n + 1 => match (s.die die).dueTick with
    | some t =>
      let t := later from_ t
      ((s.workAt die t).atTick die (t + 1) (·.drainInput die)).settleDie die t n
    | none => s

/-- Work of the launch unit's next tick, if that tick has ended and a test of the die and the tick holds. -/
def State.workIf (s : State) (die : Nat) (p : Die → Word → Bool) : State :=
  match (s.die die).dueTick with
  | some t => if p (s.die die) t then s.workAt die t else s
  | none => s

/-- EVALUATION (R255): one is due in the next tick of the launch unit's work, and that tick has ended. -/
def execEvaluation (die : Nat) (s : State) : Host.Outcome State Fault Refusal :=
  .next (s.workIf die (fun d t => d.evals.any (fun e => decide (e.toNat ≤ t.toNat))))

/-- PLACEMENT_ROUND (R266, R280): one is due in the next tick of the launch unit's work, and that tick has ended. -/
def execPlacementRound (die : Nat) (s : State) : Host.Outcome State Fault Refusal :=
  .next (s.workIf die (fun d t => d.roundAt.any (fun r => decide (r.toNat ≤ t.toNat))))

/-- PLACEMENT_ATTEMPT (R266, R282): the attempt in progress resolves when its ticks are over. -/
def execPlacementAttempt (die : Nat) (s : State) : Host.Outcome State Fault Refusal :=
  .next (s.workIf die (fun d t => d.attempt.any (fun a => decide (a.due.toNat ≤ t.toNat))))

/-- RESERVING (R268): the head of a queue has been head for more than AGELIMIT ticks. -/
def execReserving (die queue : Nat) (s : State) : Host.Outcome State Fault Refusal :=
  .next (s.workIf die (fun d t => (d.ageing queue).any (fun x => decide (x.2.toNat ≤ t.toNat))))

/-- STEAL (R273, R276): a steal period has ended; each Sluice that holds a stealable order offers its oldest. -/
def execSteal (die : Nat) (s : State) : Host.Outcome State Fault Refusal :=
  .next (s.workIf die (fun d t => d.stealDue.any (fun x => decide (x.toNat ≤ t.toNat))))

end Sys2Proof.Machine
end

