-- ==== Sys2Proof/Machine/HomeEvents.lean ====
section
/-! DEFINITION. The application cores at the homes (R215, R216, R225, R306), the host register page (R307), launches from
software (R308) and fault reports as MSIs (R309). -/

namespace Sys2Proof.Machine

/-! The host register page (R307). -/

/-- First physical byte address of the host register page (R306). -/
def hostPageBase : Nat := 0xC0000000000

/-- The offset of a physical byte address in the host register page. -/
def hostPageOff (pa : Nat) : Option Nat :=
  if hostPageBase ≤ pa ∧ pa < hostPageBase + 65536 then some (pa - hostPageBase) else none

/-- The 64-bit register at a byte offset of the page, as it reads (R307). -/
def State.pageRead (s : State) (off : Nat) : Word :=
  if off = 0x8 then s.page.ldrop
  else if off = 0x10 then (s.die Config.hubDie).dtc
  else if 0x1000 ≤ off ∧ off < 0x2000 then
    let x := Table.get (0, 0) s.page.fmsi ((off - 0x1000) / 16)
    if off % 16 < 8 then x.1 else x.2
  else if 0x2000 ≤ off ∧ off < 0xA000 then Table.get 0 s.page.range ((off - 0x2000) / 8)
  else 0

/-- A store to LAUNCH (R308): the hub reads the record and sends it to the stack, or counts a launch of an undefined
partition. -/
def State.launchStore (s : State) (v : Word) : State :=
  let p := bits v 39 32
  if p ≠ 0 ∧ !(s.part p).live.v then { s with page := { s.page with ldrop := s.page.ldrop + 1 } }
  else
    let at_ := Config.cohBase + 64 * bits v 19 0
    let (s, ws) := (List.range 8).foldl (fun (x : State × List Word) k =>
      let (t, w, _) := x.1.readHome (at_ + 8 * k) p none
      (t, x.2 ++ [w])) (s, [])
    { s with hubLaunch := s.hubLaunch ++ [(bits v 24 20, p, (s.die Config.hubDie).dtc, ws)] }

/-- A write of a 64-bit register of the page (R307). -/
def State.pageWrite (s : State) (off : Nat) (x : Word) : State :=
  if off = 0 then s.launchStore x
  else if 0x1000 ≤ off ∧ off < 0x2000 then
    let p := (off - 0x1000) / 16
    let old := Table.get (0, 0) s.page.fmsi p
    let new := if off % 16 < 8 then (x &&& 0x0F3FFFFF, old.2) else (old.1, x &&& 0x1FFFFF)
    { s with page := { s.page with fmsi := Table.put s.page.fmsi p new } }
  else if 0x2000 ≤ off ∧ off < 0xA000 then
    let k := (off - 0x2000) / 8
    let new := if k % 2 = 0 then x &&& 0x8FFFFFFFFFFFFFFF else x &&& 0x0FFFFFFFFFFFFFFF
    { s with page := { s.page with range := Table.setD 0 s.page.range k new } }
  else s

/-! Accesses of application cores and PCI Express devices at the homes. -/

/-- What such a write makes of the old bits. -/
def hostApply (op : HostOp) (old y w : Nat) : Nat :=
  match op with
  | .store | .swap => y % 2 ^ w
  | .add => (old + y) % 2 ^ w
  | .and => old &&& y
  | .or => (old ||| y) % 2 ^ w
  | .xor => (old ^^^ y) % 2 ^ w

/-- Has an access of an application core a width in bits that it can have? -/
def hostWidth (width : Nat) : Bool := width == 8 || width == 16 || width == 32 || width == 64

/-- Is it one step at one home: naturally aligned? -/
def hostAligned (byteAddr width : Nat) : Bool := hostWidth width && byteAddr * 8 % width == 0

/-- May it be misaligned, as accesses of bytes: in HBM and in the coherent window below the control area, which are main memory to an
application core (R305, R306; log entry 99)? -/
def mainMemory (byteAddr width : Nat) : Bool :=
  let ok (a : Nat) : Bool := match homeOf (a / 8 * 8) with
    | .hbm | .coh => true
    | _ => false
  ok byteAddr && ok (byteAddr + width / 8 - 1)

/-- The hart and the file of an address in the IMSIC files' range (R305, R306). -/
def imsicFile (pa : Nat) : Option (Nat × Nat) :=
  if 0xD0000000000 ≤ pa ∧ pa < 0xD0000200000 then some ((pa - 0xD0000000000) / 2 ^ 15, (pa - 0xD0000000000) / 2 ^ 12 % 8) else none

/-- Does R306 map a physical byte address for an application core? -/
def hostMapped (pa : Nat) : Bool :=
  (hostPageOff pa).isSome || (imsicFile pa).isSome || (decide (pa < Config.mgmtSpadBase) && homeOf (pa / 8 * 8) != .none)

/-- The lane reference under which an application core's writes to host memory stand: it names no lane (R306). -/
def hostLane : LaneRef := ⟨Config.mgmtCore + 1, 0⟩

/-- An answer to an application core or a PCI Express device; none for an access fault. -/
def State.answerHost (s : State) (byteAddr width : Nat) (x : Option Word) : State :=
  { s with hostReads := s.hostReads ++ [⟨byteAddr, width, x⟩] }

/-- An aligned write is one step at its home (R216, R306); an AMO is answered with the old bits. A 32-bit store of an identity to an
IMSIC file pends it (R305). An address that R306 does not map is an access fault, and so is anything but an ordinary 64-bit store to
the partition control area (R285). -/
def State.mergeOne (s : State) (op : HostOp) (byteAddr width : Nat) (data : Word) : State :=
  let pa := byteAddr / 8 * 8
  let sh := byteAddr % 8 * 8
  let y := data.toNat % 2 ^ width
  let answer (s : State) (old : Nat) : State := if op = .store then s else s.answerHost byteAddr width (some (word old))
  match hostPageOff pa, imsicFile pa with
  | some off, _ =>
    let x := s.pageRead off
    let old := bits x (sh + width - 1) sh
    answer (s.pageWrite off (putBits x sh width (hostApply op old y width))) old
  | none, some (hart, file) => answer (if byteAddr % 4096 = 0 then s.pendIdentity hart file (hostApply op 0 y width) else s) 0
  | none, none =>
    match homeOf pa with
    | .none => s.answerHost byteAddr width none
    | .pcie =>
      let old := bits (s.peek pa) (sh + width - 1) sh
      answer { s with pcieWrites := s.pcieWrites ++
        [⟨hostLane, pa, maskAt sh width, placeAt sh width (hostApply op old y width), 0, 0⟩] } old
    | h =>
      let ordinary := decide (op = .store) && width == 64
      let refused := match h with
        | .control off => !mayControl 0 ordinary false off
        | _ => decide (Config.mgmtSpadBase ≤ pa)
      if refused then s.answerHost byteAddr width none
      else if op = .store then s.storeAt pa (maskAt sh width) (placeAt sh width y) 0
      else
        let (t, old) := s.rmwAt pa sh width 0 none (fun old => hostApply op old y width)
        answer t old

/-- A write of an application core: in main memory a misaligned store is one of bytes, and any other misaligned access is an access
fault (R305, R306; log entry 99). -/
def State.hostMerge (s : State) (op : HostOp) (byteAddr width : Nat) (data : Word) : State :=
  if !hostWidth width then s
  else if hostAligned byteAddr width then s.mergeOne op byteAddr width data
  else if op = .store ∧ mainMemory byteAddr width then
    (List.range (width / 8)).foldl (fun s i => s.mergeOne .store (byteAddr + i) 8 (data >>> (8 * i))) s
  else s.answerHost byteAddr width none

/-- An aligned read finds the location as it stands (R215, R216, R306); none for an access fault. -/
def State.readOne (s : State) (byteAddr width : Nat) : State × Option Nat :=
  let pa := byteAddr / 8 * 8
  let sh := byteAddr % 8 * 8
  let part (x : Word) : Option Nat := some (bits x (sh + width - 1) sh)
  match hostPageOff pa, imsicFile pa with
  | some off, _ => (s, part (s.pageRead off))
  | none, some _ => (s, some 0)
  | none, none =>
    let refused := match homeOf pa with
      | .none => true
      | .control off => !mayControl 0 (width == 64) false off
      | _ => decide (Config.mgmtSpadBase ≤ pa)
    if refused then (s, none)
    else
      let (t, x, _) := s.readHome pa 0 none
      (t, part x)

/-- A read of an application core by a way to read aligned ones: in main memory a misaligned one is one of bytes, and any other
misaligned access is an access fault (R305, R306; log entry 99). -/
def State.readWith (s : State) (one : State → Nat → Nat → State × Option Nat) (byteAddr width : Nat) : State :=
  if !hostWidth width then s
  else if hostAligned byteAddr width then
    let (t, x) := one s byteAddr width
    t.answerHost byteAddr width (x.map word)
  else if mainMemory byteAddr width then
    let (t, x) := (List.range (width / 8)).foldl (fun (a : State × Nat) i =>
      let (t, b) := one a.1 (byteAddr + i) 8
      (t, a.2 + b.getD 0 * 2 ^ (8 * i))) (s, 0)
    t.answerHost byteAddr width (some (word x))
  else s.answerHost byteAddr width none

/-- A read is answered with the location as it stands (R215, R216, R306), or by an access fault. -/
def State.hostRead (s : State) (byteAddr width : Nat) : State := s.readWith State.readOne byteAddr width

/-- Does a link hold back what the hub sends to a home and its answer (R7, R331)? -/
def State.hubWait (s : State) (byteAddr width : Nat) : Bool :=
  s.accessWait Config.mgmtCore (byteAddr / 8 * 8) || s.accessWait Config.mgmtCore ((byteAddr + width / 8 - 1) / 8 * 8)

/-- Does an application core's act at an address wait: in safe mode (R351), or for a link (R331)? -/
def State.hostWait (s : State) (byteAddr width : Nat) : Bool := s.mgmt.safe || s.hubWait byteAddr width

/-- HOME_MERGE (R26, R99, R216): a posted access in flight, or the write of an application core, is applied at its home. -/
def execHomeMerge (src : MergeSrc) (s : State) : Host.Outcome State Fault Refusal :=
  match src with
  | .posted k => .next (s.arriveAt k)
  | .host op byteAddr width data => .next (if s.hostWait byteAddr width then s else s.hostMerge op byteAddr width data)

/-- HOME_READ (R106, R215): a lane's request that waits at its home, or an application core's read. -/
def execHomeRead (src : ReadSrc) (s : State) : Host.Outcome State Fault Refusal :=
  match src with
  | .lane core lane => .next (s.lookAgain ⟨core, lane⟩)
  | .host byteAddr width => .next (if s.hostWait byteAddr width then s else s.hostRead byteAddr width)

/-- HOST_LAUNCH (R308): of an application core, which is held in safe mode (R351). -/
def execHostLaunch (v : Word) (s : State) : Host.Outcome State Fault Refusal := .next (if s.mgmt.safe then s else s.launchStore v)

/-! Fault reports (R309). -/

/-- The route of partition `p` (R307): its FMSI words, if V = 1 and EIID ≠ 0. -/
def State.route (s : State) (p : Nat) : Option (Word × Word) :=
  match Table.find s.page.fmsi p with
  | some (a, b) => if bit a 0 && bits a 21 11 != 0 then some (a, b) else none
  | none => none

/-- The hub takes the oldest fault report: into the ring of its partition with an MSI, or discarded and counted (R309). -/
def State.takeReport (s : State) : State :=
  match s.reports with
  | [] => s
  | (tag, body) :: rest =>
    let p := tag.toNat
    let s : State := { s with reports := rest }
    match s.route p with
    | none => s.countDrop p 1
    | some (a, b) =>
      let base := Config.cohBase + 32 * bits b 20 0
      match s.ringPut base (base - 8) (bits a 27 24) 256 ((List.range 4).map (fun i => body.getD i 0)) p with
      | (s, true) => s.sendMsi p
      | (s, false) => s.countDrop p 1

/-- FAULT_REPORT_MSI (R309). -/
def execFaultReportMsi (s : State) : Host.Outcome State Fault Refusal := .next s.takeReport

end Sys2Proof.Machine
end

