-- ==== Sys2Proof/Machine/Hosts.lean ====
section
/-! DEFINITION. What application cores and PCI Express devices do besides single steps at homes: the caches and the cache-block
operations (R225, R305, R310), the IMSIC files (R305), endpoint ports with their functions, and inbound DMA (R311). No row of the
opcode table names these acts, so they are choices of the agenda (log entry 92). -/

namespace Sys2Proof.Machine

/-! The application cores' caches of HBM (R22, R225, R310): one coherent domain. -/

/-- The copy of a line of HBM in the caches, fetched from its home where there is none. -/
def State.cached (s : State) (line : Nat) : State × CacheLine :=
  match Table.find s.cache line with
  | some c => (s, c)
  | none =>
    let (s, ws) := (List.range 8).foldl (fun (a : State × List Word) i =>
      let (s, x, _) := a.1.readHome (line + 8 * i) 0 none
      (s, a.2 ++ [x])) (s.drainBacks line, [])
    ({ s with cache := Table.put s.cache line ⟨ws, false⟩ }, ⟨ws, false⟩)

/-- An aligned load: cached in HBM, elsewhere one step at its home (R225). -/
def State.loadOne (s : State) (byteAddr width : Nat) : State × Option Nat :=
  let sh := byteAddr % 8 * 8
  match homeOf (byteAddr / 8 * 8) with
  | .hbm =>
    let (s, c) := s.cached (byteAddr / 64 * 64)
    (s, some (bits (c.words.getD (byteAddr % 64 / 8) 0) (sh + width - 1) sh))
  | _ => s.readOne byteAddr width

/-- A load (R225). -/
def State.hartLoad (s : State) (byteAddr width : Nat) : State := s.readWith State.loadOne byteAddr width

/-- An aligned store or AMO: a cached one changes the copy, and reaches the home when the line is written back (R225). -/
def State.cacheStore (s : State) (op : HostOp) (byteAddr width : Nat) (data : Word) : State :=
  let sh := byteAddr % 8 * 8
  let i := byteAddr % 64 / 8
  match homeOf (byteAddr / 8 * 8) with
  | .hbm =>
    let (s, c) := s.cached (byteAddr / 64 * 64)
    let x := c.words.getD i 0
    let old := bits x (sh + width - 1) sh
    let y := hostApply op old (data.toNat % 2 ^ width) width
    let s : State := { s with cache := Table.put s.cache (byteAddr / 64 * 64) ⟨c.words.set i (putBits x sh width y), true⟩ }
    if op = .store then s else s.answerHost byteAddr width (some (word old))
  | _ => s.mergeOne op byteAddr width data

/-- A store or AMO (R225); a misaligned store in main memory is one of bytes, any other misaligned access an access fault (R305, R306;
log entry 99). -/
def State.hartStore (s : State) (op : HostOp) (byteAddr width : Nat) (data : Word) : State :=
  if !hostWidth width then s
  else if hostAligned byteAddr width then s.cacheStore op byteAddr width data
  else if op = .store ∧ mainMemory byteAddr width then
    (List.range (width / 8)).foldl (fun s i => s.cacheStore .store (byteAddr + i) 8 (data >>> (8 * i))) s
  else s.answerHost byteAddr width none

/-- A changed line begins its write-back, which the cache-block operations of some harts have asked for; the copy stays or goes (R305,
R310). -/
def State.castOut (s : State) (harts : List Nat) (line : Nat) (keep : Bool) : State :=
  match Table.find s.cache line with
  | none => s
  | some c =>
    let s : State := if c.dirty then { s with writeBacks := s.writeBacks ++ [⟨harts, line, c.words⟩] } else s
    { s with cache := if keep then Table.put s.cache line { c with dirty := false } else Table.del s.cache line }

/-- A cache-block operation of a hart (R305, R310): it answers for every write-back of its line that is under way, whoever began it.
An address that R306 does not map is an access fault. -/
def State.blockOp (s : State) (hart byteAddr : Nat) (keep : Bool) : State :=
  let line := byteAddr / 64 * 64
  if !hostMapped byteAddr then s.answerHost byteAddr 512 none
  else
    let s := s.castOut [hart] line keep
    { s with writeBacks := s.writeBacks.map (fun b => if b.line = line then { b with harts := dedup (b.harts ++ [hart]) } else b) }

/-- The k-th write-back reaches its home, unless an earlier one of its line is under way, or a link holds it back (R331). -/
def State.backHome (s : State) (k : Nat) : State :=
  match s.writeBacks[k]? with
  | none => s
  | some b =>
    if (s.writeBacks.take k).any (fun x => x.line == b.line) || s.hubWait b.line 64 then s
    else ({ s with writeBacks := dropAt s.writeBacks k } : State).mergeLine b.line b.words 0

/-- A FENCE that orders writes (R225, R310): the write-backs that the hart's cache-block operations answer for are at their homes
before any later store of it, and so are the application cores' writes to host memory (log entry 92). It waits where a link holds a
write-back (R331). -/
def State.hartFence (s : State) (hart : Nat) : State :=
  let mine := s.writeBacks.filter (fun b => b.harts.contains hart)
  if mine.any (fun b => s.hubWait b.line 64) then s
  else
    let s := mine.foldl (fun s b => s.drainBacks b.line) s
    { s with pcieWrites := s.pcieWrites.filter (fun w => w.who != hostLane) }

/-! The IMSIC files (R305; log entry 99). -/

/-- The identity with which a file interrupts its hart, or would if it delivered: the least that is pending and enabled, below the
threshold if there is one. -/
def ImsicFile.top (x : ImsicFile) : Option Nat :=
  x.pending.find? (fun i => x.enabled.contains i && (x.threshold == 0 || decide (i < x.threshold)))

/-- The interrupt that a file raises at its hart. -/
def State.hartInterrupt (s : State) (hart file : Nat) : Option Nat :=
  let x := Table.get ImsicFile.reset s.imsic (hart * 8 + file)
  if x.deliver then x.top else none

/-- A file of a hart changed; there are 64 harts with 8 files each. -/
def State.updFile (s : State) (hart file : Nat) (f : ImsicFile → ImsicFile) : State :=
  if 63 < hart ∨ 7 < file then s
  else
    let k := hart * 8 + file
    { s with imsic := Table.put s.imsic k (f (Table.get ImsicFile.reset s.imsic k)) }

/-- The identity that a file offers is claimed: it pends no more. -/
def ImsicFile.claim (x : ImsicFile) : ImsicFile :=
  match x.top with
  | some i => { x with pending := x.pending.filter (· != i) }
  | none => x

/-- An identity put into a rising list of identities, or taken out of it. -/
def putIdentity (xs : List Nat) (id : Nat) (on : Bool) : List Nat :=
  let rest := xs.filter (· != id)
  if on then insertBy (fun a b => decide (a ≤ b)) id rest else rest

/-- An identity's enable and pending bits are set or cleared. -/
def ImsicFile.setIdentity (x : ImsicFile) (id : Nat) (enabled pending : Bool) : ImsicFile :=
  if id = 0 ∨ 2047 < id then x
  else { x with enabled := putIdentity x.enabled id enabled, pending := putIdentity x.pending id pending }

/-! PCI Express devices (R311). -/

/-- Is a port an endpoint by the flash's port configuration (R311, R344)? -/
def State.endpoint (s : State) (port : Nat) : Bool := decide (port < 4) && s.mgmt.ports.testBit port

/-- A write or read at the homes. -/
def State.busAccess (s : State) (write : Option (HostOp × Word)) (byteAddr width : Nat) : State :=
  match write with
  | some (op, data) => s.hostMerge op byteAddr width data
  | none => s.hostRead byteAddr width

/-- BAR 0 of virtual function `n`: LAUNCH, with PART forced to n, and partition n's FMSI; other offsets read zero and ignore
writes (R307, R311). -/
def State.vfPage (s : State) (n : Nat) (write : Option (HostOp × Word)) (off width : Nat) : State :=
  let reg := off / 8 * 8
  let sh := off % 8 * 8
  let mine := reg == 0 || reg / 16 == (0x1000 + 16 * n) / 16
  let x := if mine then s.pageRead reg else 0
  let old := bits x (sh + width - 1) sh
  let at_ := hostPageBase + off
  if !hostAligned off width then s
  else match write with
    | none => s.answerHost at_ width (some (word old))
    | some (op, data) =>
      let new := putBits x sh width (hostApply op old (data.toNat % 2 ^ width) width)
      let s := if !mine then s else if reg = 0 then s.launchStore (putBits new 32 8 n) else s.pageWrite reg new
      if op = .store then s else s.answerHost at_ width (some (word old))

/-- Does partition `n` own the unit of the coherent window that holds a byte (R286)? -/
def State.ownsUnit (s : State) (n off : Nat) : Bool :=
  let c := (s.part n).live
  c.v && decide (c.wlo.toNat ≤ off / 4096) && decide (off / 4096 < c.wlo.toNat + c.wn.toNat)

/-- An access through BAR 0 or BAR 2 of a function of an endpoint port (R311): the host register page and the coherent window for
the physical function, but for the partition control area (R285); for a virtual one its own page and window units. -/
def State.barAccess (s : State) (port fn bar : Nat) (write : Option (HostOp × Word)) (off width : Nat) : State :=
  if !s.endpoint port ∨ 255 < fn then s
  else match bar with
    | 0 =>
      if 65536 ≤ off then s
      else if fn = 0 then s.busAccess write (hostPageBase + off) width else s.vfPage fn write off width
    | 2 =>
      if Config.cohBytes ≤ off then s
      else if (fn = 0 && decide (off < Config.globalOff)) || s.ownsUnit fn off then s.busAccess write (Config.cohBase + off) width
      else if write.isSome then s else s.answerHost (Config.cohBase + off) width (some 0)
    | _ => s

/-- May a device behind a root port reach a physical byte address (R285, R306, R307, R311, R346): what R306 maps, but for the host
register page, the mailbox and the partition control area, which R307, R346 and R285 leave to other parties? -/
def dmaMapped (pa : Nat) : Bool :=
  hostMapped pa && (hostPageOff pa).isNone && !(decide (Config.cohBase + Config.mboxOff ≤ pa) && decide (pa < Config.cohBase + Config.cohBytes))

/-- Inbound DMA of function `fn` behind a root port, at an address that the hub's IOMMU translates page by page (R311; log entry 100),
coherent with the application cores' caches: a changed copy reaches the home first, and a write takes the copy away. What the IOMMU or
R306 does not map is an access fault. -/
def State.dmaAccess (s : State) (port fn : Nat) (write : Option (HostOp × Word)) (ioAddr width : Nat) : State :=
  if 4 ≤ port ∨ s.endpoint port then s
  else match Config.iommu s.turn port fn write.isSome (ioAddr / 4096) with
    | none => s.answerHost ioAddr width none
    | some page =>
      let pa := page * 4096 + ioAddr % 4096
      if !dmaMapped pa || !dmaMapped (pa + width / 8 - 1) then s.answerHost ioAddr width none
      else
        let meet (s : State) (a : Nat) : State := match homeOf (a / 8 * 8) with
          | .hbm => if write.isSome then (s.snoop a).uncache a else s.snoop a
          | _ => s
        if s.hubWait pa width then s else (meet (meet s pa) (pa + width / 8 - 1)).busAccess write pa width

/-- An act of an application core, which waits in safe mode (R351) and for links that hold its accesses (R331), or of a PCI Express
device. CBO.INVAL performs CBO.FLUSH (R305). -/
def State.hostAct (s : State) (h : HostAct) : State :=
  match h with
  | .bar port fn bar write off width => s.barAccess port fn bar write off width
  | .dma port fn write ioAddr width => s.dmaAccess port fn write ioAddr width
  | .evict line => s.castOut [] (line / 64 * 64) false
  | .writeBack k => s.backHome k
  | .load a w => if s.hostWait a w then s else s.hartLoad a w
  | .store op a w x => if s.hostWait a w then s else s.hartStore op a w x
  | h =>
    if s.mgmt.safe then s
    else match h with
      | .clean hart a => s.blockOp hart a true
      | .flush hart a => s.blockOp hart a false
      | .inval hart a => s.blockOp hart a false
      | .fence hart writes => if writes then s.hartFence hart else s
      | .claim hart file => s.updFile hart file ImsicFile.claim
      | .setFile hart file deliver threshold => s.updFile hart file (fun x => { x with deliver := deliver, threshold := threshold })
      | .setIdentity hart file id enabled pending => s.updFile hart file (fun x => x.setIdentity id enabled pending)
      | .bar .. | .dma .. | .evict .. | .writeBack .. | .load .. | .store .. => s

end Sys2Proof.Machine
end

