-- ==== Sys2Proof/Machine/Hub.lean ====
section
/-! DEFINITION. The hub's work for partitions: commits (R290), invalidations (R301), page migrations (R303), slice gates (R293),
and the Ethernet ports (R313, R314). -/

namespace Sys2Proof.Machine

/-! Commits (R290). -/

/-- Do two spans of `a` and `b` further steps meet? -/
def spansMeet (x a y b : Nat) : Bool := decide (x ≤ y + b) && decide (y ≤ x + a)

/-- Do two valid rectangles name one physical lane (R290)? -/
def Rect.meetsPhys (a b : Rect) : Bool :=
  a.v && b.v && spansMeet a.px a.w b.px b.w && spansMeet a.py a.h b.py b.h && (a.cm &&& b.cm) != 0 && (a.lm &&& b.lm) != 0

/-- Do two valid rectangles overlap in logical space (R290)? -/
def Rect.meetsLog (a b : Rect) : Bool :=
  a.v && b.v && spansMeet a.lx a.w b.lx b.w && spansMeet a.ly a.h b.ly b.h && (a.cm &&& b.cm) != 0

/-- Does a test hold of some pair of a list, the earlier one first? -/
def anyPair (p : Rect → Rect → Bool) : List Rect → Bool
  | [] => false
  | a :: t => t.any (p a) || anyPair p t

/-- Does a rectangle name a lane of a quad? -/
def namesQuad (x : Word) (q : Nat) : Bool :=
  (List.range 4).any (fun i => (List.range 4).any (fun l => rectNames x (4 * q + i) l))

/-- Does a valid remote range of partition `p` meet the logical span of a rectangle (R313)? -/
def State.rangeMeets (s : State) (p : Nat) (r : Rect) : Bool :=
  r.v && (List.range 8).any (fun k =>
    let x := s.rangeWord p k 0
    bit x 63 && (List.range (r.w + 1)).any (fun i =>
      spansMeet ((r.lx + i) * 2048 + r.ly * 8) (r.h * 8 + 7) (bits x 19 0) (bits x 59 40)))

/-- The STAT code of a check of entry `p` (R290, R313, R352): 0 where every check passes. The lanes that its rectangles name count
against others' only where the entry defines the partition. -/
def State.checkEntry (s : State) (p : Nat) : Nat :=
  let c := (s.part p).cfg
  let rs := c.inUse.map Rect.ofWord
  let others := s.parts.filter (fun q => q.1 != 0 && q.1 != p && q.2.live.v)
  if (c.v && (anyPair Rect.meetsPhys rs ||
        rs.any (fun a => others.any (fun q => (q.2.live.inUse.map Rect.ofWord).any (a.meetsPhys ·))))) ||
      anyPair Rect.meetsLog rs || rs.any (s.rangeMeets p) then 1
  else if rs.any (fun r => r.v && r.invalid) || c.inUse.any (fun x => s.mgmt.unrep.any (namesQuad x)) then 2
  else if c.xv && others.any (fun q => q.2.live.sid == c.sid) then 3
  else if 0x3FBF < c.wlo.toNat + c.wn.toNat then 4
  else 0

/-- Is a commit in progress? -/
def State.committing (s : State) : Bool := s.parts.any (fun q => q.2.checked.isSome)

/-- The energy charged to a partition on all dies, in 1/16 µJ (R256, R319). -/
def State.energyOf (s : State) (p : Nat) : Word := s.dies.foldl (fun a d => a + Table.get 0 d.2.accj p) 0

/-- PARTITION_COMMIT (R290): the oldest GO is entry `p`'s and no commit runs; the hub checks the entry and, on success, puts
its map, SID, root and window in force. A partition that it defines anew has drawn nothing yet (R320). -/
def execPartitionCommit (p : Nat) (s : State) : Host.Outcome State Fault Refusal :=
  if s.hub.gos.head? = some p ∧ s.committing = false then
    let x := s.part p
    let code := s.checkEntry p
    let s' := s.setPart p { x with checked := some (BitVec.ofNat 8 code), live := if code = 0 then x.cfg else x.live }
    if code = 0 ∧ x.cfg.v ∧ !x.live.v then
      .next { s' with shares := Table.put s'.shares p { s'.share p with
        charged := s.energyOf p, draw := 0, dem := false, known := false, withheld := false } }
    else .next s'
  else .next s

/-- PARTITION_COMMIT_DONE (R290): STAT and GEN are written, and the next commit may run. -/
def execPartitionCommitDone (p : Nat) (s : State) : Host.Outcome State Fault Refusal :=
  let x := s.part p
  match x.checked with
  | some code =>
    let s' := s.setPart p { x with checked := none, stat := code, gen := x.gen + 1 }
    .next { s' with hub := { s.hub with gos := s.hub.gos.drop 1 } }
  | none => .next s

/-! Invalidation (R301). -/

/-- Does a virtual span of `n` bits from `a` meet the invalidation range (R287)? -/
def Inval.inRange (x : Inval) (a n : Nat) : Bool :=
  let lo := x.va / 32768 * 32768
  x.all || (decide (a < lo + ceilDiv x.len 32768 * 32768) && decide (lo < a + n))

/-- Is a held translation one that the invalidation drops (R301)? -/
def Inval.drops (v : Inval) (x : Xlate) : Bool :=
  x.sid == v.sid && v.inRange (x.vpn * 2 ^ (15 + 9 * x.level)) (2 ^ (15 + 9 * x.level))

/-- What the registers of the global block name (R287). -/
def Hub.inval (h : Hub) : Inval := ⟨h.xsid.toNat, h.xall, h.xva.toNat, h.xlen.toNat⟩

/-- Is an address translated? -/
def isTrans (a : Word) : Bool := decodeWindow a == some .trans

/-- Was a posted access in flight, or a write on its way to host memory, translated for a space identifier by a page that a test
names? -/
def State.inflightOf (s : State) (sid : Nat) (page : Nat → Bool) : Bool :=
  let by_ (addr : Word) (id : Nat) : Bool := isTrans addr && id == sid && page (bits addr 58 15)
  s.inflight.any (fun q => by_ q.addr q.sid) || s.pcieWrites.any (fun w => by_ w.addr w.sid)

/-- TRANSLATION_INVALIDATE (R301, R304): the oldest request at the hub is an invalidation, and it begins, for the range as the
registers stand now: every Estuary drops the translations. -/
def execTranslationInvalidate (s : State) : Host.Outcome State Fault Refusal :=
  if s.hub.reqs.head? = some false ∧ s.hub.xrun = none ∧ s.hub.mig = none then
    .next { s with hub := { s.hub with xrun := some s.hub.inval }, estuary := s.estuary.filter (fun x => !s.hub.inval.drops x) }
  else .next s

/-- INVALIDATE_DONE (R301): every request translated by a dropped translation is accepted, and no Estuary holds one: what walks
have fetched in the meantime is dropped too. -/
def execInvalidateDone (s : State) : Host.Outcome State Fault Refusal :=
  match s.hub.xrun with
  | none => .next s
  | some v =>
    if s.inflightOf v.sid (fun n => v.inRange (n * 32768) 32768) then .next s
    else .next { s with
      hub := { s.hub with xrun := none, xgen := s.hub.xgen + 1, reqs := s.hub.reqs.drop 1 }
      estuary := s.estuary.filter (fun x => !v.drops x) }

/-! Migration (R303). -/

/-- PAGE_MIGRATION (R303, R304): the oldest request at the hub is a migration, and it begins: new requests to the page wait. -/
def execPageMigration (s : State) : Host.Outcome State Fault Refusal :=
  let h := s.hub
  if h.reqs.head? = some true ∧ h.xrun = none ∧ h.mig = none then
    .next { s with hub := { h with mstat := 1, mig := some ⟨h.msid.toNat, h.mva, h.mpte, h.mold, h.mnew⟩ } }
  else .next s

/-- A line of eight words is copied: each word is read at its home, an unreadable one as zeros and counted (R100, R223), and the
line is written whole (R26). -/
def State.copyLine (s : State) (from_ to_ p : Nat) : State :=
  let (s, ws) := (List.range 8).foldl (fun (a : State × List Word) i =>
    let (s, x, _) := a.1.readHome (from_ + 8 * i) p none
    (s, a.2 ++ [x])) (s, [])
  s.mergeLine to_ ws p

/-- The hub's bulk copy of a frame (R303), or none where it meets a frame that no memory holds. -/
def State.copyFrame (s : State) (old new p : Nat) : Option State :=
  if !physOk (old * 4096) true || !physOk (new * 4096) true then none
  else some ((List.range 64).foldl (fun s i => s.copyLine (old * 4096 + 64 * i) (new * 4096 + 64 * i) p) s)

/-- The partition that a space identifier serves. -/
def State.partOfSid (s : State) (sid : Nat) : Nat :=
  ((s.parts.find? (fun q => q.1 != 0 && q.2.live.v && q.2.live.sid.toNat == sid)).map (·.1)).getD 0

/-- A migration ends with a status (R303). -/
def State.endMigration (s : State) (stat : BitVec 8) : State :=
  { s with hub := { s.hub with mstat := stat, mgen := s.hub.mgen + 1, mig := none, reqs := s.hub.reqs.drop 1 } }

/-- Steps 3 to 5 of R303: the copy, the compare-and-swap of the PTE, and the drop of the page's translations. -/
def State.migrate (s : State) (m : Migration) : State :=
  let p := s.partOfSid m.sid
  match s.copyFrame (bits m.old 53 10) (bits m.new 53 10) p with
  | none => s.endMigration 4
  | some s =>
    let at_ := m.pte.toNat / 8 * 8
    let (s, x, _) := (s.snoop at_).readHome at_ p none
    if x = m.old then
      let s := (s.uncache at_).storeAt at_ (BitVec.allOnes 64) m.new p
      let s := { s with estuary := s.estuary.filter (fun z =>
        !(z.sid == m.sid && z.vpn == bits m.va 58 3 / 2 ^ (12 + 9 * z.level))) }
      s.endMigration 2
    else s.endMigration 3

/-- MIGRATION_DONE (R303): every request already translated for the page is accepted. -/
def execMigrationDone (s : State) : Host.Outcome State Fault Refusal :=
  match s.hub.mig with
  | none => .next s
  | some m => if s.inflightOf m.sid (fun v => v == bits m.va 58 15) then .next s else .next (s.migrate m)

/-! Slice gates (R293). -/

/-- SLICE_GATE (R293): a store of PG. -/
def execSliceGate (p : Nat) (on : Bool) (s : State) : Host.Outcome State Fault Refusal :=
  .next (s.setPart p { s.part p with pg := on, pgd := false, pgWait := true })

/-- SLICE_GATE_APPLIED (R293): every core has applied the last write of PG. -/
def execSliceGateApplied (p : Nat) (s : State) : Host.Outcome State Fault Refusal :=
  if (s.part p).pgWait then .next (s.setPart p { s.part p with pgd := true, pgWait := false }) else .next s

/-! Ethernet (R313, R314). -/

/-- The state with an Ethernet port replaced. -/
def State.setPort (s : State) (n : Nat) (x : EthPort) : State := { s with ports := Table.put s.ports n x }

/-- The range of the receiver's partition by which a frame is accepted (R313). -/
def State.frameRange (s : State) (f : EthFrame) : Option Nat :=
  let p := f.rpart.toNat
  let src := hdrSrc (f.msg.headD 0)
  (List.range 8).find? (fun k =>
    let x0 := s.rangeWord p k 0
    let x1 := s.rangeWord p k 1
    bit x0 63 && bits x1 47 0 == f.mac.toNat && bits x1 59 52 == f.srcPart.toNat &&
      decide (bits x0 39 20 ≤ src) && decide (src ≤ bits x0 39 20 + bits x0 59 40))

/-- The message that a frame delivers: its physical destination and its words with SRC, PTAG and RM set; none where a check
fails (R313). -/
def State.frameMessage (s : State) (f : EthFrame) : Option (Nat × Msg) :=
  let p := f.rpart.toNat
  let h := f.msg.headD 0
  if (p ≠ 0 ∧ !(s.part p).live.v) ∨ f.msg.length ≠ 4 * hdrFlits h then none
  else match s.frameRange f with
    | none => none
    | some k => match s.mapCore p (hdrDest h) (some (hdrCtx h)) with
      | none => none
      | some d =>
        let x0 := s.rangeWord p k 0
        let h := putBits (putBits (putBits h 39 20 (bits x0 19 0 + hdrSrc h - bits x0 39 20)) 28 8 p) 62 1 1
        some (d, h :: f.msg.drop 1)

/-- ETHERNET_FRAME_RECEIVE (R313, R314): a frame of another EtherType, or out of its peer's order, is not delivered. -/
def execEthernetFrameReceive (f : EthFrame) (s : State) : Host.Outcome State Fault Refusal :=
  let n := f.port.toNat
  let port := s.port n
  let q := port.peer f.mac
  if f.ethType ≠ 0x88B5 then .next (s.setPort n { port with dropped := port.dropped + 1 })
  else if f.seq ≠ q.expect then .next s
  else
    let s := s.setPort n (port.setPeer { q with expect := q.expect + 1 })
    match s.frameMessage f with
    | some (d, ws) => .next { s with mesh := s.mesh ++ [⟨hubSource, none, d, ws⟩] }
    | none => .next (s.countDrop f.rpart.toNat 1)

/-- A peer after a timeout (R314): what it has acknowledged leaves, the rest is sent again. -/
def Peer.timeout (q : Peer) (acked : Nat) : Peer :=
  let rest := q.unacked.drop acked
  { q with unacked := rest, retx := if rest.isEmpty then 0 else if acked = 0 then q.retx + 1 else 1 }

/-- RETRANSMIT_TIMEOUT (R314). -/
def execRetransmitTimeout (port : Nat) (s : State) : Host.Outcome State Fault Refusal :=
  let x := s.port port
  .next (s.setPort port { x with peers := x.peers.map (fun q => q.timeout (Config.ethAcked s.turn (port * 2 ^ 48 + q.mac.toNat))) })

/-- PEER_DOWN (R314): a peer with 256 unacknowledged retransmissions is down; its pending messages are dropped and counted. -/
def execPeerDown (port : Nat) (s : State) : Host.Outcome State Fault Refusal :=
  let x := s.port port
  let dead := x.peers.filter (fun q => 256 ≤ q.retx)
  let s := (dead.flatMap (·.unacked)).foldl (fun s f => s.countDrop f.srcPart.toNat 1) s
  .next (s.setPort port { x with peers := x.peers.map (fun q =>
    if 256 ≤ q.retx then { q with down := true, unacked := [], retx := 0 } else q) })

end Sys2Proof.Machine
end

