-- ==== Sys2Proof/Machine/Debug.lean ====
section
/-! DEFINITION. Debug modules (R333 to R338): requests, stops, steps, resumes, and the trace packets of R339 and R340 that no
lane causes. -/

namespace Sys2Proof.Machine

/-! Module registers (R333). -/

/-- DSTAT of a core: the lanes that are debug-stopped. -/
def Core.dstat (k : Core) : Nat := (List.range 4).foldl (fun a l => a + b2n (k.lane l).dstop * 2 ^ l) 0

/-- A module register by number, none where the number is unassigned (R333). -/
def Core.dbgRead (k : Core) (n : Nat) : Option Word :=
  let d := k.dbg
  match n with
  | 0 => some (word (d.arm.toNat + b2n d.ten * 2 ^ 4 + d.tlm.toNat * 2 ^ 8 + d.tkind.toNat * 2 ^ 16))
  | 1 => some (word k.dstat)
  | 6 => some d.bpcfg
  | 9 => some d.wpcfg
  | 10 => some d.trcbase
  | 11 => some (word (d.nsz.toNat + d.tdrop.toNat * 2 ^ 32))
  | n =>
    let i := n % 4
    if 2 ≤ n ∧ n ≤ 5 then some (d.bp[(n - 2) % 4]'(Nat.mod_lt _ (by decide)))
    else if n = 7 ∨ n = 8 then some (d.wp[(n - 7) % 2]'(Nat.mod_lt _ (by decide)))
    else if 16 ≤ n ∧ n ≤ 19 then some (d.dpc[i]'(Nat.mod_lt _ (by decide)))
    else if 20 ≤ n ∧ n ≤ 23 then some ((d.dcause[i]'(Nat.mod_lt _ (by decide))).setWidth 64)
    else if 24 ≤ n ∧ n ≤ 27 then some (d.dval[i]'(Nat.mod_lt _ (by decide)))
    else none

/-- A debug module with an RW register written; reserved bits read as zero, RO registers ignore writes (R333). -/
def Debug.write (d : Debug) (n : Nat) (v : Word) : Debug :=
  match n with
  | 0 => { d with arm := BitVec.ofNat 4 (bits v 3 0), ten := bit v 4, tlm := BitVec.ofNat 4 (bits v 11 8),
                  tkind := BitVec.ofNat 6 (bits v 21 16) }
  | 6 => { d with bpcfg := v &&& 0x1F1F1F1F }
  | 9 => { d with wpcfg := v &&& 0xFFFF00F7FFFF00F7 }
  | 10 => { d with trcbase := v &&& ~~~(0x7F : Word) }
  | 11 => { d with nsz := BitVec.ofNat 4 (bits v 3 0), tdrop := BitVec.ofNat 32 (bits v 63 32) }
  | n =>
    if 2 ≤ n ∧ n ≤ 5 then { d with bp := d.bp.set ((n - 2) % 4) v (Nat.mod_lt _ (by decide)) }
    else if n = 7 ∨ n = 8 then { d with wp := d.wp.set ((n - 7) % 2) v (Nat.mod_lt _ (by decide)) }
    else if 16 ≤ n ∧ n ≤ 19 then { d with dpc := d.dpc.set (n % 4) (parcelAlign v) (Nat.mod_lt _ (by decide)) }
    else d

/-- The debug module of a core replaced. -/
def State.setDbg (s : State) (c : Nat) (d : Debug) : State := s.setCore c { s.core c with dbg := d }

/-- A SYNC packet of a core's module (R339). -/
def State.sync (s : State) (c : Nat) (v : Word) : State := s.trace ⟨c, 0⟩ 0 v

/-- A module register of a core written; enabling the trace emits a SYNC packet (R333, R339). -/
def State.dbgWrite (s : State) (c n : Nat) (v : Word) : State :=
  let d := (s.core c).dbg
  let s' := s.setDbg c ((d.emitSync c).write n v)
  if n = 0 ∧ !d.ten ∧ bit v 4 then s'.sync c (s.die (dieOf c)).dtc else s'

/-! Requests and replies (R336). -/

/-- One of the module's stores in a reply, where the address names a home (R336). -/
def State.dbgStore (s : State) (a v : Word) (tag : Bool) : State :=
  match ringByte a with
  | some b =>
    let old := s.tag b
    let s := s.merge b (BitVec.allOnes 64) v 0
    let s := if tag ∧ decodeWindow a ≠ some (.coh (bits a 28 0)) then s.setTag b 1 else s
    s.reexamine b old
  | none => s

/-- The reply of the module: the value at RADDR + 64, then the status word with tag 1 (R336). -/
def State.dbgReply (s : State) (raddr value : Word) (status : Nat) : State :=
  if bits raddr 5 0 ≠ 0 then s else (s.dbgStore (raddr + 64) value false).dbgStore raddr (word status) true

/-- A debug request's fields (R336). -/
structure DbgReq where
  op : Nat
  lane : Nat
  sel : Nat
  idx : Nat
  data : Word
  raddr : Word
  ptag : Nat
  deriving DecidableEq, Repr

/-- The request in a class-60 message. -/
def dbgReqOf (ws : Msg) : DbgReq :=
  let w := ws.getD 1 0
  ⟨bits w 3 0, bits w 5 4, bits w 9 8, bits w 27 16, ws.getD 2 0, ws.getD 3 0, hdrPtag (ws.headD 0)⟩

/-- May the request act on a lane of a core (R336)? -/
def State.dbgMay (s : State) (c : Nat) (q : DbgReq) (lane : Nat) : Bool :=
  q.ptag == 0 || (s.laneAt ⟨c, lane⟩).part == q.ptag

/-- The k-th message to a core, if it is a debug request of an op that a test names, is taken at ejection (R336): the state
without it, and the request. -/
def State.dbgTake (s : State) (c k : Nat) (ok : Nat → Bool) : Option (State × DbgReq) :=
  match s.arriving c k with
  | none => none
  | some (j, m) =>
    if s.msgKind c m.words = .debug ∧ ok (dbgReqOf m.words).op then some (s.unflight j, dbgReqOf m.words) else none

/-- DEBUG_READ_REGISTER (R336): OP 0. -/
def execDebugReadRegister (core k : Nat) (s : State) : Host.Outcome State Fault Refusal :=
  match s.dbgTake core k (· == 0) with
  | none => .next s
  | some (s, q) =>
    if q.ptag ≠ 0 then .next (s.dbgReply q.raddr 0 2)
    else match (s.core core).dbgRead q.idx with
      | some v => .next (s.dbgReply q.raddr v 1)
      | none => .next (s.dbgReply q.raddr 0 4)

/-- DEBUG_WRITE_REGISTER (R336): OP 1. -/
def execDebugWriteRegister (core k : Nat) (s : State) : Host.Outcome State Fault Refusal :=
  match s.dbgTake core k (· == 1) with
  | none => .next s
  | some (s, q) =>
    if q.ptag ≠ 0 then .next (s.dbgReply q.raddr 0 2)
    else if ((s.core core).dbgRead q.idx).isSome then .next ((s.dbgWrite core q.idx q.data).dbgReply q.raddr 0 1)
    else .next (s.dbgReply q.raddr 0 4)

/-! Stops, resumes and steps (R337). -/

/-- The lanes of a mask. -/
def namedLanes (m : BitVec 4) : List Nat := (List.range 4).filter (fun l => m.toNat.testBit l)

/-- A reply that a module owes is written, with its status, once the lanes that it waits for are stopped and their stores are accepted
(R337). -/
def State.dbgSettleOne (s : State) (c : Nat) (x : BitVec 4 × (Word × Nat)) : State :=
  if (namedLanes x.1).all (fun l => (s.laneAt ⟨c, l⟩).dstop) then
    let s := (namedLanes x.1).foldl (fun s l => s.drainLane ⟨c, l⟩) s
    if (namedLanes x.1).all (fun l => s.landed ⟨c, l⟩ (· == .lane)) then
      let d := (s.core c).dbg
      (s.setDbg c { d with replies := d.replies.erase x }).dbgReply x.2.1 0 x.2.2
    else s
  else s

/-- The replies of stops and steps that can be written are (R337). -/
def State.dbgSettle (s : State) (c : Nat) : State := (s.core c).dbg.replies.foldl (fun s x => s.dbgSettleOne c x) s

/-- A reply with a status is owed once the named lanes are stopped. -/
def State.dbgOwe (s : State) (c : Nat) (m : BitVec 4) (raddr : Word) (status : Nat) : State :=
  let d := (s.core c).dbg
  s.setDbg c { d with replies := d.replies ++ [(m, raddr, status)] }

/-- DEBUG_STOP (R336, R337): OP 2 asks the named lanes to stop; a lane of another partition is not asked and gives STATUS 2, once the
others are stopped (log entry 73). -/
def execDebugStop (core k : Nat) (s : State) : Host.Outcome State Fault Refusal :=
  match s.dbgTake core k (· == 2) with
  | none => .next s
  | some (s, q) =>
    let named := (List.range 4).filter (fun l => bit q.data l)
    let mine := named.filter (s.dbgMay core q)
    let s := mine.foldl (fun s l =>
      let x := s.laneAt ⟨core, l⟩
      if x.dstop then s else s.setLaneAt ⟨core, l⟩ { x with dbgStopReq := true }) s
    let owed := if mine.length < named.length then s.dbgOwe core (BitVec.ofNat 4 (mine.map (2 ^ ·)).sum) q.raddr 2
      else s.dbgOwe core (BitVec.ofNat 4 (bits q.data 3 0)) q.raddr 1
    .next (owed.dbgSettle core)

/-- A stopped lane leaves its stop at DPC, in the state that it had; an idle lane with DPC 0 is idle again (R337). -/
def State.dbgRun (s : State) (r : LaneRef) (skip step : Bool) : State :=
  let d := (s.core r.core).dbg
  let pc := d.dpc[r.lane % 4]'(Nat.mod_lt _ (by decide))
  let cause := d.dcause[r.lane % 4]'(Nat.mod_lt _ (by decide))
  let l := s.laneAt r
  let back := { l with dstop := false, dbgStopReq := false, dbgStep := step, ahead := none, dbgSkip := skip || cause == Cause.breakpoint }
  s.setLaneAt r (if l.run = .idle ∧ pc = 0 then back
    else { back with pc := pc, run := if l.run = .idle then .running else l.run })

/-- DEBUG_RESUME (R336, R337): OP 3. -/
def execDebugResume (core k : Nat) (s : State) : Host.Outcome State Fault Refusal :=
  match s.dbgTake core k (· == 3) with
  | none => .next s
  | some (s, q) =>
    if !s.dbgMay core q q.lane then .next (s.dbgReply q.raddr 0 2)
    else if !(s.laneAt ⟨core, q.lane⟩).dstop then .next (s.dbgReply q.raddr 0 3)
    else .next ((s.dbgRun ⟨core, q.lane⟩ (bit q.data 0) false).dbgReply q.raddr 0 1)

/-- DEBUG_STEP (R336, R337): OP 4; its reply follows the lane's next stop. -/
def execDebugStep (core k : Nat) (s : State) : Host.Outcome State Fault Refusal :=
  match s.dbgTake core k (· == 4) with
  | none => .next s
  | some (s, q) =>
    if !s.dbgMay core q q.lane then .next (s.dbgReply q.raddr 0 2)
    else if !(s.laneAt ⟨core, q.lane⟩).dstop then .next (s.dbgReply q.raddr 0 3)
    else .next ((s.dbgRun ⟨core, q.lane⟩ false true).dbgOwe core (BitVec.ofNat 4 (2 ^ q.lane)) q.raddr 1)

/-- Does a stalled lane wait in an instruction that completes before a stop takes effect: on a load reply, an AMO or send
back-pressure, or with its answer or its job's result at hand (R337)? Any other wait is withdrawn. -/
def Lane.mustComplete (l : Lane) : Bool :=
  l.answer.isSome || l.kept.held || l.trapWait || l.stall == 5 || match l.waitJob with
    | some (.reply ..) => true
    | _ => false

/-- Is a lane at a boundary at which a stop takes effect (R337)? -/
def Lane.stoppable (l : Lane) : Bool := l.run != .stalled || !l.mustComplete

/-- A requested stop takes effect at lane `r` (R337): a parked request or a wait is withdrawn. -/
def State.dbgStopNow (s : State) (r : LaneRef) : State :=
  let l := s.laneAt r
  if l.dstop then (s.setLaneAt r { l with dbgStopReq := false }).dbgSettle r.core
  else
    let s := (s.setLaneAt r { l with dbgStopReq := false }).withdraw r
    (s.debugHalt r Cause.debugStop (if l.dbgStep then 1 else 0) l.boundaryPc).dbgSettle r.core

/-- Does the module of lane `r`'s core owe a reply for the lane's stop (R337)? -/
def State.replyOwed (s : State) (r : LaneRef) : Bool :=
  (s.laneAt r).dstop && (s.core r.core).dbg.replies.any (fun x => x.1.toNat.testBit r.lane)

/-- Is a stop due at lane `r`, or the reply to one? -/
def State.stopDue (s : State) (r : LaneRef) : Bool := ((s.laneAt r).dbgStopReq && (s.laneAt r).stoppable) || s.replyOwed r

/-- DEBUG_STOP_EFFECT (R337). -/
def execDebugStopEffect (core lane : Nat) (s : State) : Host.Outcome State Fault Refusal :=
  if s.stopDue ⟨core, lane⟩ then .next (s.dbgStopNow ⟨core, lane⟩) else .next s

/-- After an instruction of a stepped lane, a stop is due once it has completed or trapped, or when its request is parked, which
the stop withdraws (R337). -/
def State.afterStep (s : State) (r : LaneRef) : State :=
  let l := s.laneAt r
  if l.dbgStep && !l.dstop && (l.run != .stalled || (l.req.isSome && l.stoppable)) then
    s.setLaneAt r { l with dbgStopReq := true }
  else s

/-! Lane state (R336). -/

/-- A register of a stopped lane by SEL and IDX, none where the number is absent (R336). -/
def State.dbgLaneRead (s : State) (r : LaneRef) (sel idx : Nat) : Option Word :=
  let l := s.laneAt r
  match sel with
  | 0 => if idx < 32 then some (l.s (BitVec.ofNat 5 idx)) else none
  | 1 => s.crRead r idx
  | 2 => some l.pc
  | _ => if idx < 128 then some (word (vget (l.v (BitVec.ofNat 5 (idx / 4))) 64 (idx % 4))) else none

/-- A register of a stopped lane written, none where the number is absent or the value is refused (R336, R49, R52). -/
def State.dbgLaneWrite (s : State) (r : LaneRef) (sel idx : Nat) (v : Word) : Option State :=
  let l := s.laneAt r
  match sel with
  | 0 => if idx < 32 then some (s.setLaneAt r (l.setS (BitVec.ofNat 5 idx) v)) else none
  | 1 => if (s.crRead r idx).isSome ∧ !crRefuses idx v then some (s.crSet r idx v) else none
  | 2 => some (s.setLaneAt r { l with pc := parcelAlign v })
  | _ =>
    if idx < 128 then
      let x := l.v (BitVec.ofNat 5 (idx / 4))
      some (s.setLaneAt r (l.setV (BitVec.ofNat 5 (idx / 4)) (vmake 64 (fun i => if i = idx % 4 then v.toNat else vget x 64 i))))
    else none

/-- The 64-bit part of a register that SEL and IDX name, as `Lane.lost` numbers it (R330). -/
def dbgPart (sel idx : Nat) : Nat := if sel = 0 ∧ idx ≠ 0 then 4 * (idx - 1) else if sel = 3 then 4 * (31 + idx / 4) + idx % 4 else 4 * 88

/-- DEBUG_READ_LANE_STATE (R336): OP 5. -/
def execDebugReadLaneState (core k : Nat) (s : State) : Host.Outcome State Fault Refusal :=
  match s.dbgTake core k (· == 5) with
  | none => .next s
  | some (s, q) =>
    if !s.dbgMay core q q.lane then .next (s.dbgReply q.raddr 0 2)
    else if !(s.laneAt ⟨core, q.lane⟩).dstop then .next (s.dbgReply q.raddr 0 3)
    else match s.dbgLaneRead ⟨core, q.lane⟩ q.sel q.idx with
      | some v => .next ((s.meetLost ⟨core, q.lane⟩ (· == dbgPart q.sel q.idx)).dbgReply q.raddr v 1)
      | none => .next (s.dbgReply q.raddr 0 4)

/-- DEBUG_WRITE_LANE_STATE (R336): OP 6. -/
def execDebugWriteLaneState (core k : Nat) (s : State) : Host.Outcome State Fault Refusal :=
  match s.dbgTake core k (· == 6) with
  | none => .next s
  | some (s, q) =>
    if !s.dbgMay core q q.lane then .next (s.dbgReply q.raddr 0 2)
    else if !(s.laneAt ⟨core, q.lane⟩).dstop then .next (s.dbgReply q.raddr 0 3)
    else match s.dbgLaneWrite ⟨core, q.lane⟩ q.sel q.idx q.data with
      | some s => .next (s.dbgReply q.raddr 0 1)
      | none => .next (s.dbgReply q.raddr 0 4)

/-- DEBUG_MARK (R336, R340): OP 7 puts DATA into a kind-7 packet. -/
def execDebugMark (core k : Nat) (s : State) : Host.Outcome State Fault Refusal :=
  match s.dbgTake core k (· == 7) with
  | none => .next s
  | some (s, q) =>
    if !s.dbgMay core q q.lane then .next (s.dbgReply q.raddr 0 2)
    else .next ((s.trace ⟨core, q.lane⟩ 7 q.data).dbgReply q.raddr 0 1)

/-- DEBUG_UNASSIGNED_OP (R336): OP 8 to 15 give STATUS 4. -/
def execDebugUnassignedOp (core k : Nat) (s : State) : Host.Outcome State Fault Refusal :=
  match s.dbgTake core k (fun op => 8 ≤ op) with
  | none => .next s
  | some (s, q) => .next (s.dbgReply q.raddr 0 4)

/-- TRACE_SYNC (R339): DTC[31:0] was 0 while the trace was enabled, and the packet of that tick is emitted. -/
def execTraceSync (core : Nat) (s : State) : Host.Outcome State Fault Refusal :=
  .next (s.setDbg core ((s.core core).dbg.emitSync core))

end Sys2Proof.Machine
end

