-- ==== Sys2Proof/Machine/Power.lean ====
section
/-! DEFINITION. Sensors, power and operating points (R315 to R325), and the mesh links' counters (R331, R332). -/

namespace Sys2Proof.Machine

/-- The `k`-th sector of a die (R7, R318). -/
def dieSector (die k : Nat) : Nat := (die % 8 * 8 + k / 8) * 32 + die / 8 * 8 + k % 8

/-- A round is due on every die with a sector that is within its thermal limit: its Sluice has stopped withholding (R266). -/
def State.roundsDue (s : State) : State :=
  { s with dies := s.dies.map (fun d => (d.1, if (List.range 64).any (fun k => !s.hot (dieSector d.1 k)) then d.2.roundNow else d.2)) }

/-- The partitions that are defined. -/
def State.defined (s : State) : List Nat := (s.parts.filter (fun p => p.1 != 0 && p.2.live.v)).map (·.1)

/-! Sectors (R318). -/

/-- TTRIP, fixed (R318). -/
def tTrip : Nat := 840

/-- The compute stack of a sector (R318, R7). -/
def sectorDie (n : Nat) : Nat := n % 32 / 8 * 8 + n / 32 / 8

/-- A sector after a sample of a temperature at a tick, and whether it raises its alert (R318). -/
def Sector.sample (x : Sector) (t : Nat) (tick : Word) : Sector × Bool :=
  let trip := if tTrip ≤ t then true else if t < tTrip - x.hys.toNat then false else x.trip
  let above := if x.tlim.toNat ≤ t then true else if t < x.tlim.toNat - x.hys.toNat then false else x.isOver
  let alert := decide (x.talert.toNat ≤ t) && x.arm
  let arm := if alert then false else if x.talert.toNat ≤ t then x.arm else if t < x.talert.toNat - x.hys.toNat then true else x.arm
  ({ x with temp := t, trip := trip, isOver := above, arm := arm, tick := BitVec.ofNat 40 tick.toNat }, alert)

/-- SECTOR_SAMPLE (R318): the sensor of one of the 2,048 sectors is sampled; the end of a withholding for
some partition calls for a round on its die (R266). -/
def execSectorSample (sector temp : Nat) (s : State) : Host.Outcome State Fault Refusal :=
  if 2048 ≤ sector then .next s
  else
    let die := sectorDie sector
    let r := (s.sector sector).sample (temp % 4096) (s.die die).dtc
    let s' := s.setSector sector r.1
    let s' := if s.hot sector && !s'.hot sector && (0 :: s.defined).any (fun p => !s'.overPower p) then s'.setDie die (s'.die die).roundNow else s'
    .next (if r.2 then s'.raiseAlert Cause.sectorThermal (word sector) else s')

/-! Memory stacks (R322, R323). -/

/-- A memory stack after a sample, and whether it raises its alert (R322). -/
def Stack.sample (x : Stack) (t : Nat) : Stack × Bool :=
  let hot := if 680 ≤ t then true else if t < 640 then false else x.hot
  let alert := decide (800 ≤ t) && x.armed
  (⟨t, hot, if alert then false else if t < 776 then true else x.armed⟩, alert)

/-- The MEMTHERM notices of a change of CAP, to every defined partition's supervisor (R257, R323). -/
def State.memTherm (s : State) (stack cap : Nat) : State :=
  (s.parts.filter (fun p => p.1 != 0 && p.2.live.v)).foldl (fun s p =>
    s.sendHw Config.mgmtCore p.2.live.supc.toNat 0 58 p.1
      (noticeWords 0x09 p.1 0 0 0 (s.die Config.hubDie).dtc (word cap) (word stack))) s

/-- STACK_SAMPLE (R322, R323), of one of the 16 memory stacks. -/
def execStackSample (stack temp : Nat) (s : State) : Host.Outcome State Fault Refusal :=
  if 16 ≤ stack then .next s
  else
    let r := (s.memStack stack).sample (temp % 4096)
    let s' : State := { s with memStacks := Table.put s.memStacks stack r.1 }
    let s' := if (s.memStack stack).hot == r.1.hot then s' else s'.memTherm stack r.1.cap
    .next (if r.2 then s'.raiseAlert Cause.stackThermal (word stack) else s')

/-! Power shares (R319 to R321). -/

/-- D_p of the period that ends: what was charged since the end of the last, in watts (R320). -/
def State.drawOf (s : State) (p : Nat) : Nat := (s.energyOf p - (s.share p).charged).toNat / 16

/-- Did a Sluice withhold an order of a partition for power in the period (R320): one at its check, or one that it still holds? -/
def State.heldForPower (s : State) (p : Nat) : Bool :=
  (s.share p).withheld || (s.overPower p && s.dies.any (fun d => d.2.orders.any (fun o => o.held &&
    match d.2.task? o.task with
    | some t => t.ptag.toNat == p
    | none => false)))

/-- A partition at the end of a period: its share, its draw, and whether it is in demand (R320). -/
structure PeriodEnd where
  part : Nat
  share : Nat
  draw : Nat
  dem : Bool
  deriving DecidableEq, Repr

/-- The partition at the end of the period. -/
def State.periodEnd (s : State) (p : Nat) : PeriodEnd :=
  let x := s.share p
  let d := s.drawOf p
  ⟨p, x.share, d, s.heldForPower p || decide (15 * x.inForce ≤ 16 * d)⟩

/-- What a partition that is not in demand keeps: min(S_p, D_p + S_p div 16). -/
def PeriodEnd.low (x : PeriodEnd) : Nat := min x.share (x.draw + x.share / 16)

/-- The effective shares that the hub sets, in the order of the partitions (R320). -/
def effectiveShares (xs : List PeriodEnd) : List Nat :=
  let lent := ((xs.filter (fun x => !x.dem)).map PeriodEnd.low).sum
  let want := ((xs.filter (·.dem)).map (·.share)).sum
  let spare := Config.powerBudget - (lent + want)
  xs.map (fun x =>
    if !x.dem then x.low
    else if want = 0 then spare / (xs.filter (·.dem)).length
    else x.share + spare * x.share / want)

/-- The tags that any energy has been charged to, and 0. -/
def State.metered (s : State) : List Nat := dedup (0 :: s.dies.flatMap (fun d => d.2.accj.map (·.1)))

/-- The meters as a period ends: what has been charged so far, to every tag. -/
def State.meter (s : State) : State :=
  s.metered.foldl (fun t p =>
    { t with shares := Table.put t.shares p { t.share p with charged := s.energyOf p } }) s

/-- A partition's shares for the next period. -/
def State.setPeriod (s : State) (x : PeriodEnd) (eff : Nat) : State :=
  let new := { s.share x.part with draw := x.draw, eff := eff, dem := x.dem, known := true, withheld := false }
  { s with shares := Table.put s.shares x.part new }

/-- The metered draw of a period, of every tag, in watts (R321). -/
def State.totalDraw (s : State) : Nat := (s.metered.map s.drawOf).sum

/-- The end of a power period (R320, R321): effective shares are set, and the package hold ends below 10,000 W. Where a Sluice
withholds no longer, a round is due (R266). -/
def State.endPeriod (s : State) : State :=
  let ends := s.defined.map s.periodEnd
  let s' := (ends.zip (effectiveShares ends)).foldl (fun t x => t.setPeriod x.1 x.2) s.meter
  let s' : State := { s' with
    hold := s.hold && decide (10000 ≤ s.totalDraw), hub := { s.hub with periods := s.hub.periods + 1 } }
  if (0 :: s.defined).any (fun p => s.overPower p && !s'.overPower p) then s'.roundsDue else s'

/-- POWER_PERIOD (R320): the next period, of 1,000 hub ticks, has ended; periods are numbered from the start. -/
def execPowerPeriod (period : Nat) (s : State) : Host.Outcome State Fault Refusal :=
  .next (if period = s.hub.periods + 1 ∧ 1000 * period ≤ (s.die Config.hubDie).dtc.toNat then s.endPeriod else s)

/-- A rail after its current is known at a hub tick, and whether it raises its alert: it has stayed above 2,083 A for more than
20 µs (R321). -/
def Rail.sample (x : Rail) (amps : Nat) (tick : Word) : Rail × Bool :=
  if amps ≤ 2083 then (⟨amps, none, false⟩, false)
  else
    let since := x.since.getD tick
    let late := decide (20000 < (tick - since).toNat)
    (⟨amps, some since, x.raised || late⟩, late && !x.raised)

/-- RAIL_CURRENT (R321), of one of the 8 core rails: an alert also sets the package hold. -/
def execRailCurrent (rail amps : Nat) (s : State) : Host.Outcome State Fault Refusal :=
  if 8 ≤ rail then .next s
  else
    let r := (Table.get Rail.reset s.rails rail).sample (amps % 65536) (s.die Config.hubDie).dtc
    let s' : State := { s with rails := Table.put s.rails rail r.1 }
    .next (if r.2 then ({ s' with hold := true } : State).raiseAlert Cause.railCurrent (word rail) else s')

/-- COOLANT (R193): a sensor finds the coolant out of range. -/
def execCoolant (sensor : Nat) (s : State) : Host.Outcome State Fault Refusal :=
  .next (s.raiseAlert Cause.coolant (word sensor))

/-! Operating points (R316). -/

/-- The point that a quad requests: the highest of its lanes whose STATE is not 0, else 0 (R316). -/
def State.quadRequest (s : State) (q : Nat) : Nat :=
  (List.range 4).foldl (fun m i => (List.range 4).foldl (fun m l =>
    let x := s.laneAt ⟨4 * q + i, l⟩
    if s.stateCode x = 0 then m else max m x.point) m) 0

/-- The operating point of a quad. -/
def State.quad (s : State) (q : Nat) : Quad := Table.get Quad.reset s.quads q

/-- The state with a quad's operating point replaced. -/
def State.setQuad (s : State) (q : Nat) (x : Quad) : State := { s with quads := Table.put s.quads q x }

/-- A change of a quad's point: the one in progress completes, or else one to what the quad requests begins (R316). -/
def Quad.advance (x : Quad) (request : Nat) : Quad :=
  match x.change with
  | some p => ⟨p, none⟩
  | none => if request = x.point then x else ⟨x.point, some request⟩

/-- OPERATING_POINT_CHANGE (R316), of one of the 262,144 quads: a request that arrives during a change waits for its end. -/
def execOperatingPointChange (quad : Nat) (s : State) : Host.Outcome State Fault Refusal :=
  .next (if quad < 262144 then s.setQuad quad ((s.quad quad).advance (s.quadRequest quad)) else s)

/-! Links (R12, R331, R332). -/

/-- The state with a link's counters replaced. -/
def State.setLink (s : State) (n : Nat) (x : Link) : State := { s with links := Table.put s.links n x }

/-- FLIT_RETRY (R331), on a link that exists (R12) and carries flits: one failed its CRC and is sent again; flits behind it
wait. -/
def execFlitRetry (router dir : Nat) (s : State) : Host.Outcome State Fault Refusal :=
  let x := s.link (linkIndex router dir)
  .next (if linkExists router dir && !x.stopped then
    s.setLink (linkIndex router dir) { x with retry := x.retry + 1, fails := x.fails + 1 } else s)

/-- LINK_RETRAIN (R331): after 8 consecutive failures of one flit a link is down until it has retrained. -/
def execLinkRetrain (router dir : Nat) (s : State) : Host.Outcome State Fault Refusal :=
  let x := s.link (linkIndex router dir)
  .next (if linkExists router dir && decide (8 ≤ x.fails) && !x.down then
    s.setLink (linkIndex router dir) { x with train := x.train + 1, down := true } else s)

/-- LINK_RETRAIN_DONE (R331): a link that retrained works again, and its flit is sent anew. -/
def execLinkRetrainDone (router dir : Nat) (s : State) : Host.Outcome State Fault Refusal :=
  let x := s.link (linkIndex router dir)
  .next (if x.down then s.setLink (linkIndex router dir) { x with down := false, fails := 0 } else s)

end Sys2Proof.Machine
end

