-- ==== Sys2Proof/Machine/DeltaLog.lean ====
section
/-! DEFINITION. The Delta engines (R341, R342): digests of the frames that a partition dirtied, and their log records. -/

namespace Sys2Proof.Machine

/-- The memory stack of a 4 KiB frame (R306). -/
def frameStack (frame : Nat) : Nat := frame / 2 ^ 25

/-- The dirty frames of a partition in a stack, in ascending physical address (R341). -/
def State.dirtyFrames (s : State) (p stack : Nat) : List Nat :=
  sortBy (fun a b => decide (a ≤ b)) ((s.dirty.filter (fun d => d.1 == p && frameStack d.2 == stack)).map (·.2))

/-- `n` bytes of memory read at their homes for a partition, with what R100 has for the words that they lie in. -/
def State.homeBytes (s : State) (a n p : Nat) : State × List Byte :=
  let s := (List.range ((a + n + 7) / 8 - a / 8)).foldl (fun s i => (s.readHome ((a / 8 + i) * 8) p none).1) s
  (s, (List.range n).map (fun i => Memory.byte s.mem (a + i)))

/-- What a Delta engine hashes of some frames: the address and the bytes of each (R341). -/
def State.framesBytes (s : State) (p : Nat) : List Nat → State × List Byte
  | [] => (s, [])
  | f :: fs =>
    let (s, bs) := s.homeBytes (f * 4096) 4096 p
    let (s, more) := s.framesBytes p fs
    (s, natLE (f * 4096) 8 ++ bs ++ more)

/-- The record of a digest request (R342). -/
def DeltaReq.record (q : DeltaReq) (nfr : Nat) (digest : List Word) : List Word :=
  [word (q.task.toNat + q.die % 32 * 2 ^ 16 + q.stack % 16 * 2 ^ 24 + q.part % 256 * 2 ^ 32),
    word q.seq.toNat, q.cmp, word nfr, 0, 0, 0, 0] ++ digest

/-- A record enters its partition's log, or is discarded and counted (R342). -/
def State.logDelta (s : State) (p : Nat) (ws : List Word) : State :=
  let d := s.deltaOf p
  let base := d.base.toNat * 128
  match (if !d.en || base = 0 || !decide (base < Config.hbmEnd) then (s, false)
    else s.ringPut base (base - 8) d.nsz.toNat 1024 ws 0) with
  | (s, true) => s
  | (s, false) => { s with delta := Table.put s.delta p { d with lost := d.lost + 1 } }

/-- The oldest digest request of a stack's engine is served (R341): a merged one has no digest of its own. -/
def State.digest (s : State) (stack : Nat) : State :=
  match findFrom (fun x : DeltaReq => x.stack == stack) s.deltaReqs 0 with
  | none => s
  | some (k, q) =>
    let s : State := { s with deltaReqs := dropAt s.deltaReqs k }
    if q.merged then
      s.logDelta q.part (q.record 0xFFFFFFFF ((List.range 8).map (fun i => Config.mergedDigest s.turn i)))
    else
      let fs := s.dirtyFrames q.part stack
      let s : State := { s with dirty := s.dirty.filter (fun d => !(d.1 == q.part && frameStack d.2 == stack)) }
      let (s, bs) := s.framesBytes q.part fs
      s.logDelta q.part (q.record fs.length (wordsLE (sha512 bs) 8))

/-- DELTA_RECORD (R341, R342). -/
def execDeltaRecord (stack : Nat) (s : State) : Host.Outcome State Fault Refusal := .next (s.digest stack)

end Sys2Proof.Machine
end

