-- ==== Sys2Proof/Machine/Start.lean ====
section
/-! DEFINITION. Starting the SL20 (R347 to R353): what begins a start, its ten steps, and its completion. -/

namespace Sys2Proof.Machine

/-! Firmware banks (R348). -/

/-- VAL, VER and the image of a bank (R347, R348). -/
def Mgmt.val (m : Mgmt) (b : Bool) : Bool := if b then m.valB else m.valA
def Mgmt.ver (m : Mgmt) (b : Bool) : BitVec 16 := if b then m.verB else m.verA
def Mgmt.img (m : Mgmt) (b : Bool) : List Byte := if b then m.imgB else m.imgA

/-- Is a firmware image signed with the key of the boot ROM: its last 132 bytes, over its header and body (R348)? -/
def signatureValid (bs : List Byte) : Bool :=
  P521.signedBy Config.romKey (bs.take (bs.length - 132)) (bs.drop (bs.length - 132))

/-- Does a valid bank fail its signature check (R351)? -/
def Mgmt.badSignature (m : Mgmt) (b : Bool) : Bool := m.val b && !signatureValid (m.img b)

/-- Does a bank pass the ROM's verification (R348, R349)? -/
def Mgmt.verified (m : Mgmt) (b : Bool) : Bool :=
  m.val b && signatureValid (m.img b) && decide (m.floor.toNat ≤ (m.ver b).toNat)

/-- The bank that FAILS chooses (R351). -/
def Mgmt.first (m : Mgmt) : Bool := if m.fails ≤ 2 then m.pref else !m.pref

/-- The bank that the ROM runs (R351), none for safe mode: the bank that FAILS chooses, or the other where it fails. -/
def Mgmt.choose (m : Mgmt) : Option Bool :=
  if 6 ≤ m.fails then none
  else if m.verified m.first then some m.first
  else if m.verified (!m.first) then some (!m.first)
  else none

/-- The banks whose signature the ROM finds bad as it chooses (R345, R351). -/
def Mgmt.rejected (m : Mgmt) : List Bool :=
  if 6 ≤ m.fails then []
  else (if m.verified m.first then [m.first] else [m.first, !m.first]).filter m.badSignature

/-- KEY for a running bank (R298): stepping 1, VER of the bank, image version 1. -/
def keyOf (ver : BitVec 16) : Word := word (1 + ver.toNat * 2 ^ 16 + 2 ^ 48)

/-! The repair map (R352). -/

/-- The repair map as the flash holds it: its entries and the disabled quads, in words of 8 bytes (log entry 93). -/
def mapBytes (rs : List Repair) (unrep : List Nat) : List Byte :=
  (rs.flatMap (fun r => [r.quad, b2n r.row, r.bad, r.spare]) ++ unrep).flatMap (fun x => natLE x 8)

/-- Built-in self-test: the map with its digest, and the disabled quads (R352). -/
def Mgmt.selfTest (m : Mgmt) : Mgmt :=
  let rs := (Config.repairs m.starts).map (fun r => (⟨r.1, r.2.1, r.2.2.1, r.2.2.2⟩ : Repair))
  let bad := Config.disabledQuads m.starts
  { m with repairs := rs, unrep := bad, mapDigest := sha512 (mapBytes rs bad) }

/-- Does the digest in flash differ from that of the map (R350)? -/
def Mgmt.mapDiffers (m : Mgmt) : Bool := m.mapDigest != sha512 (mapBytes m.repairs m.unrep)

/-- Is the PUF helper data signed by Wicor (R353)? -/
def Mgmt.helperSigned (m : Mgmt) : Bool := P521.signedBy Config.romKey m.helper m.helperSig

/-- Step 3: the device key is reconstructed, and there is no identity where the helper data's signature or the certificate does
not bear it out (R353). -/
def Mgmt.readPuf (m : Mgmt) : Mgmt :=
  let key := Config.deviceKey m.starts
  { m with deviceKey := key, noid := !(m.helperSigned && P521.keyMatches key m.certKey) }

/-! A start (R350). -/

/-- Is a start in progress? In safe mode step 10 is left out (R351). -/
def State.starting (s : State) : Bool := s.mgmt.step != 10 && !(s.mgmt.safe && s.mgmt.step == 9)

/-- The management subsystem when a start begins (R344, R350): the flash is kept, and the hub SRAM keeps the device key and what
was found of it. -/
def Mgmt.begin_ (m : Mgmt) (warm : Bool) : Mgmt :=
  { m with
    alerts := [], ovf := false, sel := Mgmt.reset.sel, psRefused := false, mgRefused := false, staging := false
    kind := if warm then 2 else 1
    warm := warm, safe := false, chosen := none, step := 0, starts := m.starts + 1 }

/-- Registers, lanes, partitions, rings, tags and memories are cleared (R350): a warm start keeps HBM. What has left the package
stays with whoever received it. -/
def State.cleared (s : State) (warm : Bool) : State :=
  { State.reset with
    agenda := s.agenda, turn := s.turn, cur := s.cur, dies := s.dies, msis := s.msis, hostReads := s.hostReads, spdm := s.spdm
    mem := if warm then s.mem.filter (fun c => c.1 < Config.hbmEnd) else []
    unc := if warm then s.unc.filter (fun k => k < Config.hbmEnd) else []
    corr := if warm then s.corr.filter (fun k => k < Config.hbmEnd) else []
    mgmt := s.mgmt }

/-- The log record of a start: the step that it reached, and BOOTSTAT (R345). -/
def State.logStart (s : State) : State := s.logRecord 2 (s.mgmt.step.setWidth 64) s.mgmt.bootStat

/-- A start begins (R350), and the DTCs start at 0. One that it cuts off is logged as far as it came (R345). -/
def State.beginStart (s : State) (warm : Bool) : State :=
  let s := if s.starting then s.logStart else s
  { s.cleared warm with dies := [], mgmt := s.mgmt.begin_ warm }

/-- The management subsystem replaced, with its last completed step. -/
def State.stepDone (s : State) (m : Mgmt) (step : BitVec 4) : State := { s with mgmt := { m with step := step } }

/-- Step 1 (R350, R351): FAILS adds 1, the ROM chooses and verifies a bank, or takes safe mode; a record for each signature check
that failed (R345). -/
def State.chooseBank (s : State) : State :=
  let m : Mgmt := { s.mgmt with fails := s.mgmt.fails + 1 }
  let s := s.stepDone { m with chosen := m.choose, bank := m.choose.getD m.bank, safe := m.choose.isNone } 1
  m.rejected.foldl (fun s _ => s.logRecord 5 1 s.mgmt.bootStat) s

/-- Step 3 (R350, R353), with a record where the signature of the helper data fails (R345). -/
def State.pufStep (s : State) : State :=
  let s := s.stepDone s.mgmt.readPuf 3
  if s.mgmt.helperSigned then s else s.logRecord 5 3 s.mgmt.bootStat

/-- Step 4 (R350, R352): self-test, with a record for each disabled quad. -/
def State.selfTest (s : State) : State :=
  let s := s.stepDone s.mgmt.selfTest 4
  s.mgmt.unrep.foldl (fun s q => s.logRecord 4 (word q) s.mgmt.bootStat) s

/-- Step 10 (R298, R349, R350, R351): the application cores are released; FAILS, FLOOR, PREF and KEY from the bank that runs. -/
def State.release10 (s : State) : State :=
  let m := s.mgmt
  (s.stepDone { m with pref := m.bank, floor := m.ver m.bank, fails := 0, key := keyOf (m.ver m.bank) } 10).logStart

/-- The next step of a start in progress (R350). A warm start skips steps 2, 3 and 6, and step 4 where the map agrees with its
digest. -/
def State.startStep (s : State) : State :=
  let m := s.mgmt
  match m.step.toNat with
  | 0 => s.chooseBank
  | 1 => if m.warm then (if m.mapDiffers then s.selfTest else s.stepDone m 5) else s.stepDone m 2
  | 2 => s.pufStep
  | 3 => s.selfTest
  | 4 => s.stepDone m 5
  | 5 => s.stepDone m (if m.warm then 7 else 6)
  | 6 => s.stepDone m 7
  | 7 => s.stepDone m 8
  | 8 =>
    let s := (s.cleared m.warm).stepDone m 9
    if m.safe then s.logStart else s
  | _ => s.release10

/-- POWER_ON (R350). -/
def execPowerOn (s : State) : Host.Outcome State Fault Refusal :=
  if s.powered then .next s else .next (s.beginStart false)

/-- RESET_PIN (R350). -/
def execResetPin (s : State) : Host.Outcome State Fault Refusal :=
  if s.powered then .next (s.beginStart false) else .next s

/-- PCIE_HOT_RESET (R350): a hot reset of an endpoint port. -/
def execPcieHotReset (port : Nat) (s : State) : Host.Outcome State Fault Refusal :=
  if s.powered && s.endpoint port then .next (s.beginStart true) else .next s

/-- Has a start in progress missed its bound: 20 s for a cold start, 2 s for a warm one, in hub ticks of 1 ns since it began (R3, R14,
R350)? -/
def State.startLate (s : State) : Bool :=
  s.starting && decide ((if s.mgmt.warm then 2000000000 else 20000000000) < (s.die Config.hubDie).dtc.toNat)

/-- ROM_WATCHDOG (R350): a start that misses its bound is restarted as a cold start. -/
def execRomWatchdog (s : State) : Host.Outcome State Fault Refusal :=
  if s.powered && s.startLate then .next (s.beginStart false) else .next s

/-- POWER_LOSS (R348): nothing runs until POWER_ON; a bank that was being written keeps VAL = 0. -/
def execPowerLoss (s : State) : Host.Outcome State Fault Refusal :=
  .next { s with powered := false, mgmt := { s.mgmt with staging := false } }

end Sys2Proof.Machine
end

