-- ==== Sys2Proof/Machine/Management.lean ====
section
/-! DEFINITION. The management mailbox (R346), firmware updates (R348) and SPDM (R353, R354). -/

namespace Sys2Proof.Machine

/-! The mailbox (R346). -/

/-- Physical byte address of a byte of the mailbox. -/
def mboxByte (off : Nat) : Nat := Config.cohBase + Config.mboxOff + off

/-- Physical byte address of word `w` of slot `k`. -/
def slotByte (k w : Nat) : Nat := mboxByte (0x80 + 64 * k + 8 * w)

/-- The lane that serves the mailbox, lane 1 of the management core. -/
def mboxLane : LaneRef := ⟨Config.mgmtCore, 1⟩

/-- A whole word stored into the mailbox by the management core, its read-only fields too (R346). -/
def State.mboxStore (s : State) (pa : Nat) (v : Word) : State := ((s.freshCode pa).setHome pa v 0).reexamine pa (s.tag pa)

/-- A word of the mailbox read by the management core. -/
def State.mboxLoad (s : State) (pa : Nat) : State × Word :=
  let (s, x, _) := s.readHome pa 0 none
  (s, x)

/-- A request in a slot: its slot number, word 0 and arguments. -/
structure MboxReq where
  slot : Nat
  w0 : Word
  a : Word
  b : Word
  c : Word
  deriving DecidableEq, Repr

/-- The slot to serve next (R346): claimed, with OWN = 1, and an op that a test names. -/
def State.mboxNext (s : State) (ok : Nat → Bool) : Option (State × MboxReq) :=
  let (s, claim) := s.mboxLoad (mboxByte 0)
  let (s, done) := s.mboxLoad (mboxByte 8)
  let k := done.toNat % 16
  let (s, w0) := s.mboxLoad (slotByte k 0)
  let (s, a) := s.mboxLoad (slotByte k 1)
  let (s, b) := s.mboxLoad (slotByte k 2)
  let (s, c) := s.mboxLoad (slotByte k 3)
  if claim ≠ done ∧ bits w0 1 0 = 1 ∧ ok (bits w0 11 8) then some (s, ⟨k, w0, a, b, c⟩) else none

/-- The reply (R346): RES, STATUS and OWN = 2, DONE + 1, and MSIREQ. -/
def State.mboxReply (s : State) (q : MboxReq) (status : Nat) (res : List Word) : State :=
  let s := (List.range 4).foldl (fun s i => s.mboxStore (slotByte q.slot (4 + i)) (res.getD i 0)) s
  let s := s.mboxStore (slotByte q.slot 0) (putBits (putBits q.w0 16 8 status) 0 2 2)
  let (s, done) := s.mboxLoad (mboxByte 8)
  (s.mboxStore (mboxByte 8) (done + 1)).sendMsi 0

/-- Does the ROM answer an operation in safe mode (R351)? -/
def safeServes (op : Nat) : Bool := op == 0 || op == 2 || op == 3 || op == 5

/-- An operation of the mailbox: served, or answered with STATUS 5 in safe mode. Nothing is served during a start. -/
def State.mboxServe (s : State) (ok : Nat → Bool) (f : State → MboxReq → State) : State :=
  if s.starting then s
  else match s.mboxNext ok with
    | none => s
    | some (s, q) => if s.mgmt.safe && !safeServes (bits q.w0 11 8) then s.mboxReply q 5 [] else f s q

/-- The register that a READ or WRITE names (R346): an assigned offset. -/
def mboxReg (a : Word) : Option DevReg := if a.toNat < 65536 ∧ a.toNat % 64 = 0 then devRegAt true a.toNat else none

/-- MGMT_READ (R346): OP 0, with lane 1's own selectors. A result FIFO of the management core is popped; while it is empty the
operation waits (R58). -/
def execMgmtRead (s : State) : Host.Outcome State Fault Refusal :=
  .next (s.mboxServe (· == 0) (fun t q => match mboxReg q.a with
    | some d =>
      if d.isWO then t.mboxReply q 2 []
      else if d.isFifo then
        match t.popFifo mboxLane (if d = .mresq then .matrix else .brook) with
        | .ok (u, x) => u.mboxReply q 1 [x]
        | .error _ => s
      else t.mboxReply q 1 [t.devRead mboxLane d]
    | none => t.mboxReply q 2 []))

/-- MGMT_WRITE (R346): OP 1, with lane 1's own selectors. A command FIFO takes a push of lane 1; while it is full the operation
waits, and a record that the push would trap on is a bad argument (R58; log entry 76). -/
def execMgmtWrite (s : State) : Host.Outcome State Fault Refusal :=
  .next (s.mboxServe (· == 1) (fun t q => match mboxReg q.a with
    | some d =>
      if d.isRO then t.mboxReply q 2 []
      else if d.isFifo then
        match t.pushFifo mboxLane (if d = .mcmdq then .matrix else .brook) q.b .dev with
        | .ok u => u.mboxReply q 1 []
        | .error (.wait _ _) => s
        | .error (.trap _ _ _) => t.mboxReply q 2 []
      else (t.devWrite mboxLane d (BitVec.allOnes 64) q.b).mboxReply q 1 []
    | none => t.mboxReply q 2 []))

/-! Firmware (R348). -/

/-- The header of a firmware image (R348): its magic, VER and LEN (log entry 37). -/
def imgMagic (bs : List Byte) : Nat := bytesBE ((bs.take 4).reverse)
def imgVer (bs : List Byte) : BitVec 16 := BitVec.ofNat 16 (bytesBE (((bs.drop 4).take 2).reverse))
def imgLen (bs : List Byte) : Nat := bytesBE (((bs.drop 8).take 4).reverse)

/-- The STATUS of the checks of an image (R348): 1 where they pass. -/
def Mgmt.check (m : Mgmt) (bs : List Byte) : Nat :=
  if imgMagic bs ≠ 0x504C5448 ∨ bs.length ≠ imgLen bs + 260 then 2
  else if !signatureValid bs then 3
  else if (imgVer bs).toNat < m.floor.toNat then 4
  else 1

/-- An image written to the bank that is not running, with VAL = 0 (R348). -/
def Mgmt.writeBank (m : Mgmt) (bs : List Byte) : Mgmt :=
  if m.bank then { m with valA := false, imgA := bs, verA := imgVer bs, staging := true }
  else { m with valB := false, imgB := bs, verB := imgVer bs, staging := true }

/-- The written bank's VAL set after it was read back (R348). -/
def Mgmt.commitBank (m : Mgmt) : Mgmt :=
  if m.bank then { m with valA := true, staging := false } else { m with valB := true, staging := false }

/-- A firmware record in the log (R345). -/
def State.logFirmware (s : State) (kind : Nat) : State := s.logRecord kind (s.mgmt.step.setWidth 64) s.mgmt.bootStat

/-- STAGE (R348): OP 2. Its first step checks the image and writes it, its second sets VAL and replies. -/
def execStage (s : State) : Host.Outcome State Fault Refusal :=
  .next (s.mboxServe (· == 2) (fun s q =>
    if s.mgmt.staging then
      let s : State := { s with mgmt := s.mgmt.commitBank }
      (s.logFirmware 3).mboxReply q 1 [(s.mgmt.ver (!s.mgmt.bank)).setWidth 64]
    else if q.a.toNat + q.b.toNat ≤ Config.hbmEnd then
      let (s, bs) := s.homeBytes q.a.toNat q.b.toNat 0
      let st := s.mgmt.check bs
      if st = 1 then { s with mgmt := s.mgmt.writeBank bs }
      else
        let s := if st = 3 then s.logFirmware 5 else s
        (s.logFirmware 3).mboxReply q st []
    else (s.logFirmware 3).mboxReply q 2 []))

/-- ACTIVATE (R348): OP 3. -/
def execActivate (s : State) : Host.Outcome State Fault Refusal :=
  .next (s.mboxServe (· == 3) (fun s q =>
    if s.mgmt.val (bit q.a 0) then
      let s : State := { s with mgmt := { s.mgmt with pref := bit q.a 0 } }
      (s.logFirmware 3).mboxReply q 1 []
    else (s.logFirmware 3).mboxReply q 2 []))

/-- WARM (R346, R350): OP 4 replies, and a warm start follows. -/
def execWarm (s : State) : Host.Outcome State Fault Refusal :=
  .next (s.mboxServe (· == 4) (fun s q => (s.mboxReply q 1 []).beginStart true))

/-- MGMT_LOG (R346): OP 5, a record counted back from the newest. -/
def execMgmtLog (s : State) : Host.Outcome State Fault Refusal :=
  .next (s.mboxServe (· == 5) (fun s q => match s.mgmt.log[q.a.toNat]? with
    | some (w0, w1, w2, w3) => s.mboxReply q 1 [w0, w1, w2, w3]
    | none => s.mboxReply q 2 []))

/-! SPDM (R353, R354). -/

/-- Measurement `i` of the device (R354): boot ROM digest; running firmware digest and VER; repair-map digest; KEY; BOOTSTAT. -/
def Mgmt.measurement (m : Mgmt) (i : Nat) : List Byte :=
  match i with
  | 1 => sha512 m.rom
  | 2 => sha512 (m.img m.bank) ++ natLE (m.ver m.bank).toNat 2
  | 3 => m.mapDigest
  | 4 => natLE m.key.toNat 8
  | _ => natLE m.bootStat.toNat 8

/-- A measurement block (log entry 94): its index, the DMTF specification, and the value with a type that is free. -/
def measurementBlock (m : Mgmt) (free : Nat → Byte) (i : Nat) : List Byte :=
  let x := m.measurement i
  natLE i 1 ++ [1] ++ natLE (x.length + 3) 2 ++ [free i] ++ natLE x.length 2 ++ x

/-- The measurements that operation `op` of a GET_MEASUREMENTS names: none of them but their number, all, or one of 1 to 5. -/
def namedMeasurements (op : Nat) : Option (List Nat) :=
  if op = 0 then some [] else if op = 0xFF then some [1, 2, 3, 4, 5] else if op ≤ 5 then some [op] else none

/-- `n` free bytes of the response of a step to a request, behind its beginning (log entry 94). -/
def spdmFree (turn : Nat) (req before : List Byte) (n : Nat) : List Byte :=
  (List.range n).map (fun i => (Config.spdmRest turn req before).getD i 0)

/-- A response signed by the device key, with ECDSA P-521 and SHA-512 (R353, R354): the signature covers it and what went before (log
entry 94). -/
def Mgmt.spdmSigned (m : Mgmt) (turn : Nat) (req x : List Byte) : List Byte :=
  x ++ P521.sign m.deviceKey (Config.signNonce turn) (Config.spdmTranscript turn req ++ x)

/-- A portion of the certificate chain of slot 0, from the offset and of the length that a GET_CERTIFICATE asks for, at most 1,024
bytes of it, with what remains behind it; none past its end (R354; log entry 94). -/
def Mgmt.certPortion (m : Mgmt) (req : List Byte) : Option (List Byte) :=
  let field (k : Nat) : Nat := (req.getD k 0).toNat + 256 * (req.getD (k + 1) 0).toNat
  let rest := m.cert.drop (field 4)
  let part := rest.take (min (field 6) 1024)
  if m.cert.length ≤ field 4 then none
  else some ([0x13, 0x02, 0, 0] ++ natLE part.length 2 ++ natLE (rest.length - part.length) 2 ++ part)

/-- The end of a response that may be signed: a nonce, no opaque data, and the context of the request at a byte offset (log entry 94).
-/
def spdmTail (turn : Nat) (req x : List Byte) (context : Nat) : List Byte :=
  x ++ spdmFree turn req x 32 ++ [0, 0] ++ (List.range 8).map (fun i => req.getD (context + i) 0)

/-- The response of a step to a request that R354 supports: version, code, two parameters, and the body, of which R354 fixes the
algorithms, the certificate chain and its digest, the measurements and the signatures (log entry 94); none where an ERROR answers it.
-/
def Mgmt.spdmResponse (m : Mgmt) (turn : Nat) (req : List Byte) : Option (List Byte) :=
  let p1 := (req.getD 2 0).toNat
  let p2 := (req.getD 3 0).toNat
  let free (i : Nat) : Byte := (Config.spdmRest turn req []).getD i 0
  match (req.getD 1 0).toNat with
  | 0x84 => some [0x10, 0x04, 0, 0, 0, 1, 0x00, 0x13]
  | 0xE1 =>
    let x := [0x13, 0x61, 0, 0, 0, free 0, 0, 0, 0x16, 0, 0, 0]
    some (x ++ spdmFree turn req x 8)
  | 0xE3 => some ([0x13, 0x63, 0, 0] ++ natLE 36 2 ++ [1, free 0] ++ natLE 8 4 ++ natLE 0x100 4 ++ natLE 4 4 ++ List.replicate 16 0)
  | 0x81 => some ([0x13, 0x01, 1, 1] ++ sha512 m.cert)
  | 0x82 => if p1 = 0 then m.certPortion req else none
  | 0x83 =>
    if p1 = 0 then
      let x := [0x13, 0x03, 0, 1] ++ sha512 m.cert
      let x := spdmTail turn req x 36
      let x := if p2 = 0 then x else [0x13, 0x03, 0, 1] ++ sha512 m.cert ++ spdmFree turn req x 96 ++ x.drop 100
      some (m.spdmSigned turn req x)
    else none
  | 0xE0 => (namedMeasurements p2).map (fun ns =>
      let blocks := ns.flatMap (measurementBlock m free)
      let x := [0x13, 0x60, if p2 = 0 then 5 else 0, free 0] ++ natLE ns.length 1 ++ natLE blocks.length 3 ++ blocks
      if p1 % 2 = 1 then m.spdmSigned turn req (spdmTail turn req x 37) else spdmTail turn req x 4)
  | _ => none

/-- The response to an SPDM request: an ERROR without an identity, and for a message that is not supported (R353, R354). -/
def State.spdmAnswer (s : State) (req : List Byte) : List Byte :=
  match (if s.mgmt.noid then none else s.mgmt.spdmResponse s.turn req) with
  | some x => x
  | none => [0x13, 0x7F, (Config.spdmRest s.turn req []).getD 0 0, (Config.spdmRest s.turn req []).getD 1 0]

/-- The request codes of the messages that R354 supports. -/
def spdmCodes : List Byte := [0x84, 0xE1, 0xE3, 0x81, 0x82, 0x83, 0xE0]

/-- Bytes stored from a physical byte address up. -/
def State.byteStores (s : State) (a : Nat) (bs : List Byte) : State :=
  bs.zipIdx.foldl (fun s b =>
    let x := a + b.2
    let pa := x / 8 * 8
    s.storeAt pa (maskAt (x % 8 * 8) 8) (placeAt (x % 8 * 8) 8 b.1.toNat) 0) s

/-- MGMT_SPDM (R346, R354): OP 6, in the mailbox's buffer of 1,920 bytes. -/
def execMgmtSpdm (s : State) : Host.Outcome State Fault Refusal :=
  .next (s.mboxServe (· == 6) (fun s q =>
    if 1920 < q.a.toNat then s.mboxReply q 2 []
    else
      let s := (List.range 240).foldl (fun s i => (s.mboxLoad (mboxByte (0x800 + 8 * i))).1) s
      let req := (List.range q.a.toNat).map (fun i => Memory.byte s.mem (mboxByte (0x800 + i)))
      let res := (s.spdmAnswer req).take 1920
      (s.byteStores (mboxByte 0x800) res).mboxReply q 1 [word res.length]))

/-- MGMT_BAD_OP (R346): OP 7 to 15. -/
def execMgmtBadOp (s : State) : Host.Outcome State Fault Refusal :=
  .next (s.mboxServe (fun op => 7 ≤ op) (fun s q => s.mboxReply q 2 []))

/-- An SPDM request of a code, or of one that R354 does not support, over PCI Express (R354) is answered, once the start is
complete. -/
def State.spdmRequest (s : State) (code : Byte) (req : List Byte) : State :=
  if (req.getD 1 0 = code || !spdmCodes.contains (req.getD 1 0)) && !s.starting then { s with spdm := s.spdm ++ [s.spdmAnswer req] }
  else s

/-- GET_VERSION (R354). -/
def execGetVersion (req : List Byte) (s : State) : Host.Outcome State Fault Refusal := .next (s.spdmRequest 0x84 req)
/-- GET_CAPABILITIES (R354). -/
def execGetCapabilities (req : List Byte) (s : State) : Host.Outcome State Fault Refusal := .next (s.spdmRequest 0xE1 req)
/-- NEGOTIATE_ALGORITHMS (R354). -/
def execNegotiateAlgorithms (req : List Byte) (s : State) : Host.Outcome State Fault Refusal := .next (s.spdmRequest 0xE3 req)
/-- GET_DIGESTS (R354). -/
def execGetDigests (req : List Byte) (s : State) : Host.Outcome State Fault Refusal := .next (s.spdmRequest 0x81 req)
/-- GET_CERTIFICATE (R354). -/
def execGetCertificate (req : List Byte) (s : State) : Host.Outcome State Fault Refusal := .next (s.spdmRequest 0x82 req)
/-- CHALLENGE (R354). -/
def execChallenge (req : List Byte) (s : State) : Host.Outcome State Fault Refusal := .next (s.spdmRequest 0x83 req)
/-- GET_MEASUREMENTS (R354). -/
def execGetMeasurements (req : List Byte) (s : State) : Host.Outcome State Fault Refusal := .next (s.spdmRequest 0xE0 req)

end Sys2Proof.Machine
end

