-- ==== Sys2Proof/Machine/Upsets.lean ====
section
/-! DEFINITION. Upsets (R25, R169, R330): the errors that storage suffers, as the units that hold it meet them. No row of the
opcode table names them, so they are choices of the agenda (log entry 95). -/

namespace Sys2Proof.Machine

/-- An uncorrectable error in part `part` of the register at place `n` of the order of R295: it reads as zero from now on, and is
counted when it is read (R330). -/
def Lane.lose (l : Lane) (n part : Nat) : Lane := { l with lost := (4 * n + part) :: l.lost.filter (· != 4 * n + part) }

/-- Registers with 64 of their bits empty (R49, R50). -/
def Lane.loseS (l : Lane) (n : Nat) : Lane :=
  if n % 32 = 0 then l else { l.lose (n % 32 - 1) 0 with sreg := l.sreg.set (n % 32) 0 (Nat.mod_lt _ (by decide)) }

/-- A vector with 64 of its bits zero. -/
def clearPart (x : VWord) (part : Nat) : VWord := vmake 64 (fun i => if i = part % 4 then 0 else vget x 64 i)

/-- A handle with 64 of its bits zero: its base, or the rest (R50). -/
def Handle.clearPart (h : Handle) (part : Nat) : Handle := if part % 2 = 0 then { h with base := 0 } else ⟨h.base, 0, 0, 0⟩

def Lane.loseV (l : Lane) (n part : Nat) : Lane :=
  let i := n % 32
  { l.lose (31 + i) (part % 4) with
    vreg := l.vreg.set i (clearPart (l.vreg[i]'(Nat.mod_lt _ (by decide))) part) (Nat.mod_lt _ (by decide)) }
def Lane.loseM (l : Lane) (n : Nat) : Lane :=
  if n % 8 = 0 then l else { l.lose (62 + n % 8) 0 with mreg := l.mreg.set (n % 8) 0 (Nat.mod_lt _ (by decide)) }
def Lane.loseH (l : Lane) (n part : Nat) : Lane :=
  let i := n % 16
  { l.lose (70 + i) (part % 2) with
    hreg := l.hreg.set i ((l.hreg[i]'(Nat.mod_lt _ (by decide))).clearPart part) (Nat.mod_lt _ (by decide)) }

/-- A word of memory holds an error (R25). -/
def State.spoil (s : State) (pa : Nat) (uncorrectable : Bool) : State :=
  let s := s.freshCode pa
  match homeOf pa with
  | .spad _ | .hbm | .coh =>
    if uncorrectable then { s with unc := errKey pa :: s.unc } else { s with corr := errKey pa :: s.corr }
  | _ => s

/-- The cells of a list but one. -/
def withoutCell (cells : List (Nat × BitVec 32)) (cell : Nat) : List (Nat × BitVec 32) := cells.filter (fun c => c.1 != cell)

/-- A cell of a label's slot in the accumulator set of a lane number reads as +0, counted against the lane whose job reads it (R330). -/
def State.loseCell (s : State) (r : LaneRef) (slot cell : Nat) : State :=
  let cl := clusterOf r.core
  let a := s.accSet cl r.lane
  match Table.find a.slots slot with
  | none => s
  | some x =>
    s.setAccSet cl r.lane { a with
      slots := Table.put a.slots slot { x with cells := withoutCell x.cells cell, lost := cell :: x.lost.filter (· != cell) } }

/-- A flit of a message reads as zero; the header, which delivers the message, stays (R330). -/
def loseFlit (ws : Msg) (flit : Nat) : Msg := ws.zipIdx.map (fun w => if w.2 / 4 = flit && w.2 != 0 then 0 else w.1)

/-- A cell of the second pass of a running redundant job (R169). -/
def MRun.upsetCopy (m : MRun) (cell : Nat) (bits : BitVec 32) : MRun :=
  match m.done with
  | some (.out o) => { m with done := some (.out { o with copy := o.copy.map (fun y =>
      { y with cells := Table.setD 0 y.cells cell (Table.get 0 y.cells cell ^^^ bits) }) }) }
  | _ => m

/-- A correctable error of a flit in a send queue is corrected and counted as in scratchpad (R330). -/
def State.spoilSend (s : State) (r : LaneRef) (msg flit : Nat) : State :=
  match (s.laneAt r).sendq[msg]? with
  | some ws =>
    if 4 * flit < ws.length then s.setCore r.core { s.core r.core with errCorr := (s.core r.core).errCorr + 1 } else s
  | none => s

/-- An upset (R25, R169, R330). A correctable error of a register or an accumulator cell leaves no trace. -/
def State.upset (s : State) (u : Upset) : State :=
  match u with
  | .memory pa uncorrectable => s.spoil (pa / 8 * 8) uncorrectable
  | .scalar core lane n => s.setLaneAt ⟨core, lane⟩ ((s.laneAt ⟨core, lane⟩).loseS n)
  | .vector core lane n part => s.setLaneAt ⟨core, lane⟩ ((s.laneAt ⟨core, lane⟩).loseV n part)
  | .mask core lane n => s.setLaneAt ⟨core, lane⟩ ((s.laneAt ⟨core, lane⟩).loseM n)
  | .handle core lane n part => s.setLaneAt ⟨core, lane⟩ ((s.laneAt ⟨core, lane⟩).loseH n part)
  | .cell core lane slot cell => s.loseCell ⟨core, lane⟩ slot (cell % 1024)
  | .ringFlit core lane slot uncorrectable =>
    (List.range 4).foldl (fun s i => s.spoil (rawByte core (ringOff ⟨core, lane⟩ (slot % 64)) + 8 * i) uncorrectable) s
  | .sendFlit core lane msg flit false => s.spoilSend ⟨core, lane⟩ msg flit
  | .sendFlit core lane msg flit true =>
    let l := s.laneAt ⟨core, lane⟩
    s.setLaneAt ⟨core, lane⟩ { l with sendq := l.sendq.zipIdx.map (fun x => if x.2 = msg then loseFlit x.1 flit else x.1) }
  | .copy cluster cell bits =>
    let c := s.cluster cluster
    s.setCluster cluster { c with mrun := c.mrun.map (fun m => m.upsetCopy (cell % 1024) bits) }

end Sys2Proof.Machine
end

