-- ==== Sys2Proof/Machine/Dispatch.lean ====
section
/-! DEFINITION. The meaning of each instruction and event: one arm per constructor, one direct call per arm. -/

namespace Sys2Proof.Machine

def exec (i : Instr) (s : State) : Host.Outcome State Fault Refusal :=
  match i with
  | .ldM d b w off => Sys2Proof.Machine.execLdM d b w off s
  | .stM d b w off => Sys2Proof.Machine.execStM d b w off s
  | .ldA d a w sx acq => Sys2Proof.Machine.execLdA d a w sx acq s
  | .stA d a w rel => Sys2Proof.Machine.execStA d a w rel s
  | .ldf d a acq => Sys2Proof.Machine.execLdf d a acq s
  | .ldw d a ver acq => Sys2Proof.Machine.execLdw d a ver acq s
  | .ste d a rel => Sys2Proof.Machine.execSte d a rel s
  | .stv d a ver rel => Sys2Proof.Machine.execStv d a ver rel s
  | .tagrd d a => Sys2Proof.Machine.execTagrd d a s
  | .reclaim a rel => Sys2Proof.Machine.execReclaim a rel s
  | .spillm d a file => Sys2Proof.Machine.execSpillm d a file s
  | .fillm d a file => Sys2Proof.Machine.execFillm d a file s
  | .amoadd d a b w64 ord => Sys2Proof.Machine.execAmoadd d a b w64 ord s
  | .amoand d a b w64 ord => Sys2Proof.Machine.execAmoand d a b w64 ord s
  | .amoor d a b w64 ord => Sys2Proof.Machine.execAmoor d a b w64 ord s
  | .amoxor d a b w64 ord => Sys2Proof.Machine.execAmoxor d a b w64 ord s
  | .amomin d a b w64 ord => Sys2Proof.Machine.execAmomin d a b w64 ord s
  | .amomax d a b w64 ord => Sys2Proof.Machine.execAmomax d a b w64 ord s
  | .amominu d a b w64 ord => Sys2Proof.Machine.execAmominu d a b w64 ord s
  | .amomaxu d a b w64 ord => Sys2Proof.Machine.execAmomaxu d a b w64 ord s
  | .amoswap d a b w64 ord => Sys2Proof.Machine.execAmoswap d a b w64 ord s
  | .amocas d a b w64 ord => Sys2Proof.Machine.execAmocas d a b w64 ord s
  | .redadd a b w64 rel => Sys2Proof.Machine.execRedadd a b w64 rel s
  | .redfadd a b rel => Sys2Proof.Machine.execRedfadd a b rel s
  | .redmin a b w64 rel => Sys2Proof.Machine.execRedmin a b w64 rel s
  | .redmax a b w64 rel => Sys2Proof.Machine.execRedmax a b w64 rel s
  | .redor a b w64 rel => Sys2Proof.Machine.execRedor a b w64 rel s
  | .add d a b => Sys2Proof.Machine.execAdd d a b s
  | .sub d a b => Sys2Proof.Machine.execSub d a b s
  | .and d a b => Sys2Proof.Machine.execAnd d a b s
  | .or d a b => Sys2Proof.Machine.execOr d a b s
  | .xor d a b => Sys2Proof.Machine.execXor d a b s
  | .shl d a b => Sys2Proof.Machine.execShl d a b s
  | .shr d a b => Sys2Proof.Machine.execShr d a b s
  | .sra d a b => Sys2Proof.Machine.execSra d a b s
  | .mul d a b => Sys2Proof.Machine.execMul d a b s
  | .mulh d a b => Sys2Proof.Machine.execMulh d a b s
  | .mulhu d a b => Sys2Proof.Machine.execMulhu d a b s
  | .div d a b => Sys2Proof.Machine.execDiv d a b s
  | .divu d a b => Sys2Proof.Machine.execDivu d a b s
  | .rem d a b => Sys2Proof.Machine.execRem d a b s
  | .remu d a b => Sys2Proof.Machine.execRemu d a b s
  | .slt d a b => Sys2Proof.Machine.execSlt d a b s
  | .sltu d a b => Sys2Proof.Machine.execSltu d a b s
  | .min d a b => Sys2Proof.Machine.execMin d a b s
  | .max d a b => Sys2Proof.Machine.execMax d a b s
  | .minu d a b => Sys2Proof.Machine.execMinu d a b s
  | .maxu d a b => Sys2Proof.Machine.execMaxu d a b s
  | .clz d a => Sys2Proof.Machine.execClz d a s
  | .ctz d a => Sys2Proof.Machine.execCtz d a s
  | .popc d a => Sys2Proof.Machine.execPopc d a s
  | .bext d a b g => Sys2Proof.Machine.execBext d a b g s
  | .bins d a b g => Sys2Proof.Machine.execBins d a b g s
  | .sext d a g => Sys2Proof.Machine.execSext d a g s
  | .zext d a g => Sys2Proof.Machine.execZext d a g s
  | .addi d a imm => Sys2Proof.Machine.execAddi d a imm s
  | .andi d a imm => Sys2Proof.Machine.execAndi d a imm s
  | .ori d a imm => Sys2Proof.Machine.execOri d a imm s
  | .xori d a imm => Sys2Proof.Machine.execXori d a imm s
  | .shli d a amt => Sys2Proof.Machine.execShli d a amt s
  | .shri d a amt => Sys2Proof.Machine.execShri d a amt s
  | .srai d a amt => Sys2Proof.Machine.execSrai d a amt s
  | .slti d a imm => Sys2Proof.Machine.execSlti d a imm s
  | .sltiu d a imm => Sys2Proof.Machine.execSltiu d a imm s
  | .lui d k ins imm => Sys2Proof.Machine.execLui d k ins imm s
  | .eaddr d a b g => Sys2Proof.Machine.execEaddr d a b g s
  | .ediff d a b g => Sys2Proof.Machine.execEdiff d a b g s
  | .balign d a g => Sys2Proof.Machine.execBalign d a g s
  | .waddr d a => Sys2Proof.Machine.execWaddr d a s
  | .gaddr d a => Sys2Proof.Machine.execGaddr d a s
  | .coord d sel => Sys2Proof.Machine.execCoord d sel s
  | .beq a b off => Sys2Proof.Machine.execBeq a b off s
  | .bne a b off => Sys2Proof.Machine.execBne a b off s
  | .blt a b off => Sys2Proof.Machine.execBlt a b off s
  | .bge a b off => Sys2Proof.Machine.execBge a b off s
  | .bltu a b off => Sys2Proof.Machine.execBltu a b off s
  | .bgeu a b off => Sys2Proof.Machine.execBgeu a b off s
  | .jal d off => Sys2Proof.Machine.execJal d off s
  | .jalr d a imm => Sys2Proof.Machine.execJalr d a imm s
  | .loop a imm => Sys2Proof.Machine.execLoop a imm s
  | .endh => Sys2Proof.Machine.execEndh s
  | .vadd d a b ty m => Sys2Proof.Machine.execVadd d a b ty m s
  | .vsub d a b ty m => Sys2Proof.Machine.execVsub d a b ty m s
  | .vmul d a b ty m => Sys2Proof.Machine.execVmul d a b ty m s
  | .vfma d a b ty m => Sys2Proof.Machine.execVfma d a b ty m s
  | .vmin d a b ty m => Sys2Proof.Machine.execVmin d a b ty m s
  | .vmax d a b ty m => Sys2Proof.Machine.execVmax d a b ty m s
  | .vabs d a ty m => Sys2Proof.Machine.execVabs d a ty m s
  | .vneg d a ty m => Sys2Proof.Machine.execVneg d a ty m s
  | .vand d a b v m => Sys2Proof.Machine.execVand d a b v m s
  | .vor d a b v m => Sys2Proof.Machine.execVor d a b v m s
  | .vxor d a b v m => Sys2Proof.Machine.execVxor d a b v m s
  | .vshl d a b v m => Sys2Proof.Machine.execVshl d a b v m s
  | .vshr d a b v m => Sys2Proof.Machine.execVshr d a b v m s
  | .vsra d a b v m => Sys2Proof.Machine.execVsra d a b v m s
  | .vcmp md a b c ty m => Sys2Proof.Machine.execVcmp md a b c ty m s
  | .vsel d a b v m => Sys2Proof.Machine.execVsel d a b v m s
  | .vbcast d a v m => Sys2Proof.Machine.execVbcast d a v m s
  | .vperm d a b v m => Sys2Proof.Machine.execVperm d a b v m s
  | .vslide d a b v m => Sys2Proof.Machine.execVslide d a b v m s
  | .vredadd d a ty m => Sys2Proof.Machine.execVredadd d a ty m s
  | .vredmax d a ty m => Sys2Proof.Machine.execVredmax d a ty m s
  | .vredmin d a ty m => Sys2Proof.Machine.execVredmin d a ty m s
  | .vmovsv d a v m => Sys2Proof.Machine.execVmovsv d a v m s
  | .vmovvs d a v m => Sys2Proof.Machine.execVmovvs d a v m s
  | .mand md ma mb => Sys2Proof.Machine.execMand md ma mb s
  | .mor md ma mb => Sys2Proof.Machine.execMor md ma mb s
  | .mnot md ma => Sys2Proof.Machine.execMnot md ma s
  | .mpop d ma => Sys2Proof.Machine.execMpop d ma s
  | .vld d a v m => Sys2Proof.Machine.execVld d a v m s
  | .vst d a v m => Sys2Proof.Machine.execVst d a v m s
  | .vlds d a b v m => Sys2Proof.Machine.execVlds d a b v m s
  | .vgather d a b v m => Sys2Proof.Machine.execVgather d a b v m s
  | .vscatter d a b v m => Sys2Proof.Machine.execVscatter d a b v m s
  | .vcvt d a tt st rm => Sys2Proof.Machine.execVcvt d a tt st rm s
  | .vpack a b fmt st rm cb kquad => Sys2Proof.Machine.execVpack a b fmt st rm cb kquad s
  | .vunpack d a fmt tt rm => Sys2Proof.Machine.execVunpack d a fmt tt rm s
  | .vcord d a b fn n1 => Sys2Proof.Machine.execVcord d a b fn n1 s
  | .scord d a b fn n1 => Sys2Proof.Machine.execScord d a b fn n1 s
  | .rand d => Sys2Proof.Machine.execRand d s
  | .hset h d => Sys2Proof.Machine.execHset h d s
  | .hwaitf h count => Sys2Proof.Machine.execHwaitf h count s
  | .hwaite h count => Sys2Proof.Machine.execHwaite h count s
  | .hadv h tail count => Sys2Proof.Machine.execHadv h tail count s
  | .ldh d h k => Sys2Proof.Machine.execLdh d h k s
  | .sth d h k => Sys2Proof.Machine.execSth d h k s
  | .sbind n h d out v => Sys2Proof.Machine.execSbind n h d out v s
  | .sunbind n => Sys2Proof.Machine.execSunbind n s
  | .mma d a b c p1 => Sys2Proof.Machine.execMma d a b c p1 s
  | .mmat d a b c p1 => Sys2Proof.Machine.execMmat d a b c p1 s
  | .mzero a => Sys2Proof.Machine.execMzero a s
  | .lmap d a b => Sys2Proof.Machine.execLmap d a b s
  | .accrow d a b rm => Sys2Proof.Machine.execAccrow d a b rm s
  | .bind d a b rm cm => Sys2Proof.Machine.execBind d a b rm cm s
  | .accrd d a b rm => Sys2Proof.Machine.execAccrd d a b rm s
  | .accsp d a => Sys2Proof.Machine.execAccsp d a s
  | .accfl d a => Sys2Proof.Machine.execAccfl d a s
  | .mwait d => Sys2Proof.Machine.execMwait d s
  | .mpoll d a => Sys2Proof.Machine.execMpoll d a s
  | .send a b sc => Sys2Proof.Machine.execSend a b sc s
  | .sendi a b sc => Sys2Proof.Machine.execSendi a b sc s
  | .cntwait n a => Sys2Proof.Machine.execCntwait n a s
  | .mbxpost a b d => Sys2Proof.Machine.execMbxpost a b d s
  | .mbxtake d => Sys2Proof.Machine.execMbxtake d s
  | .mbxcfg a => Sys2Proof.Machine.execMbxcfg a s
  | .bcopy d a b sc => Sys2Proof.Machine.execBcopy d a b sc s
  | .bconv d a b sc => Sys2Proof.Machine.execBconv d a b sc s
  | .bevict a => Sys2Proof.Machine.execBevict a s
  | .bwait a => Sys2Proof.Machine.execBwait a s
  | .engpush f a sc => Sys2Proof.Machine.execEngpush f a sc s
  | .engpop f d => Sys2Proof.Machine.execEngpop f d s
  | .tspawn d a => Sys2Proof.Machine.execTspawn d a s
  | .tspawnr d a b => Sys2Proof.Machine.execTspawnr d a b s
  | .tdep d a b => Sys2Proof.Machine.execTdep d a b s
  | .tdone d a => Sys2Proof.Machine.execTdone d a s
  | .ttile d a => Sys2Proof.Machine.execTtile d a s
  | .tnote d a b => Sys2Proof.Machine.execTnote d a b s
  | .tval d a b => Sys2Proof.Machine.execTval d a b s
  | .tabort d a => Sys2Proof.Machine.execTabort d a s
  | .fence k => Sys2Proof.Machine.execFence k s
  | .trap e => Sys2Proof.Machine.execTrap e s
  | .tret => Sys2Proof.Machine.execTret s
  | .sleep d a => Sys2Proof.Machine.execSleep d a s
  | .dtcr d => Sys2Proof.Machine.execDtcr d s
  | .nop => Sys2Proof.Machine.execNop s
  | .partset a => Sys2Proof.Machine.execPartset a s
  | .lanegate a => Sys2Proof.Machine.execLanegate a s
  | .imgsave a inc => Sys2Proof.Machine.execImgsave a inc s
  | .imgload a => Sys2Proof.Machine.execImgload a s
  | .crr d n => Sys2Proof.Machine.execCrr d n s
  | .crw a n => Sys2Proof.Machine.execCrw a n s
  | .bkpt e => Sys2Proof.Machine.execBkpt e s
  | .addCompactS0 d a => Sys2Proof.Machine.execAddCompactS0 d a s
  | .addCompact d a => Sys2Proof.Machine.execAddCompact d a s
  | .subCompact d a => Sys2Proof.Machine.execSubCompact d a s
  | .andCompact d a => Sys2Proof.Machine.execAndCompact d a s
  | .orCompact d a => Sys2Proof.Machine.execOrCompact d a s
  | .xorCompact d a => Sys2Proof.Machine.execXorCompact d a s
  | .addiCompactS0 d imm => Sys2Proof.Machine.execAddiCompactS0 d imm s
  | .addiCompact d imm => Sys2Proof.Machine.execAddiCompact d imm s
  | .shliCompact d amt => Sys2Proof.Machine.execShliCompact d amt s
  | .sraiCompact d amt => Sys2Proof.Machine.execSraiCompact d amt s
  | .ldCompact d b off => Sys2Proof.Machine.execLdCompact d b off s
  | .stCompact d b off => Sys2Proof.Machine.execStCompact d b off s
  | .beqCompact a off => Sys2Proof.Machine.execBeqCompact a off s
  | .bneCompact a off => Sys2Proof.Machine.execBneCompact a off s
  | .jalCompact off => Sys2Proof.Machine.execJalCompact off s
  | .jalrCompact a => Sys2Proof.Machine.execJalrCompact a s
  | .endhCompact => Sys2Proof.Machine.execEndhCompact s
  | .ldfCompact d b off => Sys2Proof.Machine.execLdfCompact d b off s
  | .jobFaultTrap core lane => Sys2Proof.Machine.execJobFaultTrap core lane s
  | .watchdog core lane => Sys2Proof.Machine.execWatchdog core lane s
  | .promiseMissed core lane => Sys2Proof.Machine.execPromiseMissed core lane s
  | .sleepTimer core lane => Sys2Proof.Machine.execSleepTimer core lane s
  | .homeMerge src => Sys2Proof.Machine.execHomeMerge src s
  | .homeRead src => Sys2Proof.Machine.execHomeRead src s
  | .parkedRequestReissue core lane => Sys2Proof.Machine.execParkedRequestReissue core lane s
  | .answerArrival core lane => Sys2Proof.Machine.execAnswerArrival core lane s
  | .translationWalk die sid va kind => Sys2Proof.Machine.execTranslationWalk die sid va kind s
  | .matrixJobStart cluster => Sys2Proof.Machine.execMatrixJobStart cluster s
  | .matrixJobComplete cluster => Sys2Proof.Machine.execMatrixJobComplete cluster s
  | .teamReservation root set tid => Sys2Proof.Machine.execTeamReservation root set tid s
  | .brookJobStart cluster pieces => Sys2Proof.Machine.execBrookJobStart cluster pieces s
  | .brookJobComplete cluster => Sys2Proof.Machine.execBrookJobComplete cluster s
  | .barrierArrival cluster => Sys2Proof.Machine.execBarrierArrival cluster s
  | .residencyEviction cluster => Sys2Proof.Machine.execResidencyEviction cluster s
  | .mcmdqPush sc cmd => Sys2Proof.Machine.execMcmdqPush sc cmd s
  | .mresqPop d => Sys2Proof.Machine.execMresqPop d s
  | .bcmdqPush sc cmd => Sys2Proof.Machine.execBcmdqPush sc cmd s
  | .bresqPop d => Sys2Proof.Machine.execBresqPop d s
  | .dropcntClear v => Sys2Proof.Machine.execDropcntClear v s
  | .errcntClear v => Sys2Proof.Machine.execErrcntClear v s
  | .deviceRegisterWrite off v => Sys2Proof.Machine.execDeviceRegisterWrite off v s
  | .messageInject core => Sys2Proof.Machine.execMessageInject core s
  | .messageEjection core k => Sys2Proof.Machine.execMessageEjection core k s
  | .dispatch core lane => Sys2Proof.Machine.execDispatch core lane s
  | .mailboxPostArrival core k => Sys2Proof.Machine.execMailboxPostArrival core k s
  | .noticeArrival core k => Sys2Proof.Machine.execNoticeArrival core k s
  | .launchRecordIntake core k => Sys2Proof.Machine.execLaunchRecordIntake core k s
  | .dependenceRelease core k => Sys2Proof.Machine.execDependenceRelease core k s
  | .evaluation die => Sys2Proof.Machine.execEvaluation die s
  | .placementRound die => Sys2Proof.Machine.execPlacementRound die s
  | .placementAttempt die => Sys2Proof.Machine.execPlacementAttempt die s
  | .reserving die queue => Sys2Proof.Machine.execReserving die queue s
  | .dispense die k => Sys2Proof.Machine.execDispense die k s
  | .steal die => Sys2Proof.Machine.execSteal die s
  | .schedDieSettings core k => Sys2Proof.Machine.execSchedDieSettings core k s
  | .schedStampRing core k => Sys2Proof.Machine.execSchedStampRing core k s
  | .poolOpen die task => Sys2Proof.Machine.execPoolOpen die task s
  | .poolMessageArrival core k => Sys2Proof.Machine.execPoolMessageArrival core k s
  | .flush core k => Sys2Proof.Machine.execFlush core k s
  | .close core k => Sys2Proof.Machine.execClose core k s
  | .tileMessageEntry core lane => Sys2Proof.Machine.execTileMessageEntry core lane s
  | .poolForcedLaunch core lane => Sys2Proof.Machine.execPoolForcedLaunch core lane s
  | .debugReadRegister core k => Sys2Proof.Machine.execDebugReadRegister core k s
  | .debugWriteRegister core k => Sys2Proof.Machine.execDebugWriteRegister core k s
  | .debugStop core k => Sys2Proof.Machine.execDebugStop core k s
  | .debugResume core k => Sys2Proof.Machine.execDebugResume core k s
  | .debugStep core k => Sys2Proof.Machine.execDebugStep core k s
  | .debugReadLaneState core k => Sys2Proof.Machine.execDebugReadLaneState core k s
  | .debugWriteLaneState core k => Sys2Proof.Machine.execDebugWriteLaneState core k s
  | .debugMark core k => Sys2Proof.Machine.execDebugMark core k s
  | .debugUnassignedOp core k => Sys2Proof.Machine.execDebugUnassignedOp core k s
  | .debugStopEffect core lane => Sys2Proof.Machine.execDebugStopEffect core lane s
  | .traceSync core => Sys2Proof.Machine.execTraceSync core s
  | .sectorSample sector temp => Sys2Proof.Machine.execSectorSample sector temp s
  | .stackSample stack temp => Sys2Proof.Machine.execStackSample stack temp s
  | .powerPeriod period => Sys2Proof.Machine.execPowerPeriod period s
  | .railCurrent rail amps => Sys2Proof.Machine.execRailCurrent rail amps s
  | .coolant sensor => Sys2Proof.Machine.execCoolant sensor s
  | .operatingPointChange quad => Sys2Proof.Machine.execOperatingPointChange quad s
  | .throttleWrite v => Sys2Proof.Machine.execThrottleWrite v s
  | .pshareWrite v => Sys2Proof.Machine.execPshareWrite v s
  | .memguarWrite v => Sys2Proof.Machine.execMemguarWrite v s
  | .alertstatClear v => Sys2Proof.Machine.execAlertstatClear v s
  | .alertTake => Sys2Proof.Machine.execAlertTake s
  | .flitRetry router dir => Sys2Proof.Machine.execFlitRetry router dir s
  | .linkRetrain router dir => Sys2Proof.Machine.execLinkRetrain router dir s
  | .linkRetrainDone router dir => Sys2Proof.Machine.execLinkRetrainDone router dir s
  | .linkstatClear v => Sys2Proof.Machine.execLinkstatClear v s
  | .dltstatClear v => Sys2Proof.Machine.execDltstatClear v s
  | .deltaRecord stack => Sys2Proof.Machine.execDeltaRecord stack s
  | .hostLaunch v => Sys2Proof.Machine.execHostLaunch v s
  | .faultReportMsi => Sys2Proof.Machine.execFaultReportMsi s
  | .msireq v => Sys2Proof.Machine.execMsireq v s
  | .partitionCommit p => Sys2Proof.Machine.execPartitionCommit p s
  | .partitionCommitDone p => Sys2Proof.Machine.execPartitionCommitDone p s
  | .translationInvalidate => Sys2Proof.Machine.execTranslationInvalidate s
  | .invalidateDone => Sys2Proof.Machine.execInvalidateDone s
  | .pageMigration => Sys2Proof.Machine.execPageMigration s
  | .migrationDone => Sys2Proof.Machine.execMigrationDone s
  | .sliceGate p on => Sys2Proof.Machine.execSliceGate p on s
  | .sliceGateApplied p => Sys2Proof.Machine.execSliceGateApplied p s
  | .ethernetFrameReceive f => Sys2Proof.Machine.execEthernetFrameReceive f s
  | .retransmitTimeout port => Sys2Proof.Machine.execRetransmitTimeout port s
  | .peerDown port => Sys2Proof.Machine.execPeerDown port s
  | .mgmtRead => Sys2Proof.Machine.execMgmtRead s
  | .mgmtWrite => Sys2Proof.Machine.execMgmtWrite s
  | .stage => Sys2Proof.Machine.execStage s
  | .activate => Sys2Proof.Machine.execActivate s
  | .warm => Sys2Proof.Machine.execWarm s
  | .mgmtLog => Sys2Proof.Machine.execMgmtLog s
  | .mgmtSpdm => Sys2Proof.Machine.execMgmtSpdm s
  | .mgmtBadOp => Sys2Proof.Machine.execMgmtBadOp s
  | .getVersion req => Sys2Proof.Machine.execGetVersion req s
  | .getCapabilities req => Sys2Proof.Machine.execGetCapabilities req s
  | .negotiateAlgorithms req => Sys2Proof.Machine.execNegotiateAlgorithms req s
  | .getDigests req => Sys2Proof.Machine.execGetDigests req s
  | .getCertificate req => Sys2Proof.Machine.execGetCertificate req s
  | .challenge req => Sys2Proof.Machine.execChallenge req s
  | .getMeasurements req => Sys2Proof.Machine.execGetMeasurements req s
  | .powerOn => Sys2Proof.Machine.execPowerOn s
  | .resetPin => Sys2Proof.Machine.execResetPin s
  | .pcieHotReset port => Sys2Proof.Machine.execPcieHotReset port s
  | .romWatchdog => Sys2Proof.Machine.execRomWatchdog s
  | .patternNotAnInstruction raw => Sys2Proof.Machine.execPatternNotAnInstruction raw s
  | .parcelFetchFault => Sys2Proof.Machine.execParcelFetchFault s
  | .zeroLengthReadReturn core laneAndPort => Sys2Proof.Machine.execZeroLengthReadReturn core laneAndPort s
  | .powerLoss => Sys2Proof.Machine.execPowerLoss s

end Sys2Proof.Machine
end

