-- ==== Sys2Proof/Machine/Reads.lean ====
section
/-! DEFINITION. The registers that an instruction reads, for the errors that a read of a register meets (R330). -/

namespace Sys2Proof.Machine

/-- The places of registers in the order of R295, as `Lane.wrote` and `Lane.lost` number them. -/
def placeS (n : Reg) : List Nat := if n = 0 then [] else [n.toNat - 1]
def placeM (n : MReg) : List Nat := if n = 0 then [] else [62 + n.toNat]
def placeH (n : HReg) : List Nat := [70 + n.toNat]

/-- The place of a vector register; of one that a stream is bound to, that of the stream's handle (R51, R134). -/
def Lane.placeV (l : Lane) (n : VReg) : List Nat :=
  match l.boundTo n with
  | some k => placeH (cfgHandle (l.streamOf k))
  | none => [31 + n.toNat]

/-- What a masked vector instruction reads: its sources, its mask, and its destination where elements of that stay (R115). -/
def Lane.readsMasked (l : Lane) (srcs : List VReg) (d : VReg) (m : MReg) : List Nat :=
  srcs.flatMap l.placeV ++ placeM m ++ (if m = 0 && (l.boundTo d).isNone then [] else l.placeV d)

/-- Some scalar registers. -/
def readsS (rs : List Reg) : List Nat := rs.flatMap placeS

/-- The registers `d` to `a` of a file (R108). -/
def Lane.readsFile (l : Lane) (d a : Reg) (vectors : Bool) : List Nat :=
  (List.range (a.toNat + 1 - d.toNat)).flatMap (fun i =>
    let n := BitVec.ofNat 5 (d.toNat + i)
    if vectors then l.placeV n else placeS n)

/-- The places of the registers that an instruction of a lane reads; those of an event are none. -/
def Lane.reads (l : Lane) : Instr → List Nat
  | .ldM _ b _ _ => readsS [b]
  | .stM d b _ _ | .stA d b _ _ | .ste d b _ | .stv d b _ _ => readsS [d, b]
  | .ldA _ a _ _ _ | .ldf _ a _ | .ldw _ a _ _ | .tagrd _ a | .reclaim a _ => readsS [a]
  | .spillm d a v => l.readsFile d a v
  | .amoadd _ a b _ _ | .amoand _ a b _ _ | .amoor _ a b _ _ | .amoxor _ a b _ _ | .amomin _ a b _ _ | .amomax _ a b _ _
  | .amominu _ a b _ _ | .amomaxu _ a b _ _ | .amoswap _ a b _ _ => readsS [a, b]
  | .amocas d a b _ _ => readsS [d, a, b]
  | .redadd a b _ _ | .redfadd a b _ | .redmin a b _ _ | .redmax a b _ _ | .redor a b _ _ => readsS [a, b]
  | .add _ a b | .sub _ a b | .and _ a b | .or _ a b | .xor _ a b | .shl _ a b | .shr _ a b | .sra _ a b | .mul _ a b
  | .mulh _ a b | .mulhu _ a b | .div _ a b | .divu _ a b | .rem _ a b | .remu _ a b | .slt _ a b | .sltu _ a b | .min _ a b
  | .max _ a b | .minu _ a b | .maxu _ a b | .bext _ a b _ | .eaddr _ a b _ | .ediff _ a b _ => readsS [a, b]
  | .clz _ a | .ctz _ a | .popc _ a | .sext _ a _ | .zext _ a _ | .addi _ a _ | .andi _ a _ | .ori _ a _ | .xori _ a _
  | .shli _ a _ | .shri _ a _ | .srai _ a _ | .slti _ a _ | .sltiu _ a _ | .balign _ a _ | .waddr _ a | .gaddr _ a => readsS [a]
  | .bins d a b _ => readsS [d, a, b]
  | .lui d _ ins _ => if ins then placeS d else []
  | .beq a b _ | .bne a b _ | .blt a b _ | .bge a b _ | .bltu a b _ | .bgeu a b _ => readsS [a, b]
  | .jalr _ a _ | .loop a _ => readsS [a]
  | .vadd d a b _ m | .vsub d a b _ m | .vmul d a b _ m | .vmin d a b _ m | .vmax d a b _ m => l.readsMasked [a, b] d m
  | .vand d a b _ m | .vor d a b _ m | .vxor d a b _ m | .vshl d a b _ m | .vshr d a b _ m | .vsra d a b _ m
  | .vperm d a b _ m => l.readsMasked [a, b] d m
  | .vfma d a b _ m => l.readsMasked [a, b, d] d m
  | .vabs d a _ m | .vneg d a _ m => l.readsMasked [a] d m
  | .vcmp _ a b _ _ m => [a, b].flatMap l.placeV ++ placeM m
  | .vsel _ a b _ m => [a, b].flatMap l.placeV ++ placeM m
  | .vbcast d a _ m => placeS a ++ l.readsMasked [] d m
  | .vmovvs d a _ m => placeS a ++ l.placeV d ++ placeM m
  | .vslide d a b _ m => placeS b ++ l.readsMasked [a] d m
  | .vredadd _ a _ m | .vredmax _ a _ m | .vredmin _ a _ m | .vmovsv _ a _ m => l.placeV a ++ placeM m
  | .mand _ a b | .mor _ a b => placeM a ++ placeM b
  | .mnot _ a | .mpop _ a => placeM a
  | .vld d a _ m => placeS a ++ l.readsMasked [] d m
  | .vst d a _ m => placeS a ++ l.placeV d ++ placeM m
  | .vlds d a b _ m => readsS [a, b] ++ l.readsMasked [] d m
  | .vgather d a b _ m => placeS a ++ l.readsMasked [b] d m
  | .vscatter d a b _ m => placeS a ++ [d, b].flatMap l.placeV ++ placeM m
  | .vcvt _ a _ _ _ => l.placeV a
  | .vpack a b _ st _ _ _ => (vregRange a (elemRegs st)).flatMap l.placeV ++ placeS b
  | .vunpack _ a _ _ _ => readsS [a]
  | .vcord _ a b _ _ => [a, b].flatMap l.placeV
  | .scord _ a b _ _ => readsS [a, b]
  | .hset _ d => placeS d
  | .hwaitf h _ | .hwaite h _ | .hadv h _ _ | .ldh _ h _ => placeH h
  | .sth d h _ | .sbind _ h d _ _ => placeS d ++ placeH h
  | .mma _ a b c _ | .mmat _ a b c _ => readsS [a, b, c]
  | .mzero a | .accsp _ a | .accfl _ a | .mpoll _ a | .mwait a => readsS [a]
  | .lmap _ a b | .accrd _ a b _ => readsS [a, b]
  | .accrow d a b _ => readsS [a, b] ++ (vregRange d 4).flatMap l.placeV
  | .bind _ a b _ _ | .send a b _ | .sendi a b _ | .bcopy _ a b _ | .bconv _ a b _ => readsS [a, b]
  | .cntwait _ a | .mbxcfg a | .bevict a | .bwait a | .engpush _ a _ => readsS [a]
  | .mbxpost a b d | .tspawnr d a b => readsS [a, b, d]
  | .tspawn _ a | .tdone _ a | .ttile _ a | .tabort _ a => readsS [a]
  | .tdep _ a b | .tnote _ a b | .tval _ a b => readsS [a, b]
  | .sleep d a => readsS [d, a]
  | .partset a | .lanegate a | .imgsave a _ | .imgload a | .crw a _ => readsS [a]
  | .addCompactS0 _ a => readsS [a]
  | .addCompact d a | .subCompact d a | .andCompact d a | .orCompact d a | .xorCompact d a => readsS [d, a]
  | .addiCompact d _ | .shliCompact d _ | .sraiCompact d _ => readsS [d]
  | .ldCompact _ b _ | .ldfCompact _ b _ => placeS (8 + b.setWidth 5)
  | .stCompact d b _ => readsS [8 + d.setWidth 5, 8 + b.setWidth 5]
  | .beqCompact a _ | .bneCompact a _ | .jalrCompact a => readsS [a]
  | _ => []

/-- The registers that the issuing lane's instruction reads meet their errors (R330). -/
def State.meetReads (s : State) (i : Instr) : State := s.meetLost s.cur (fun k => (s.lane.reads i).contains (k / 4))

end Sys2Proof.Machine
end

