-- ==== Sys2Proof/Machine/Cycle.lean ====
section
/-! DEFINITION. What one step of the machine consists of (R13, R214, R218; log entries 1 and 2): the turn of a lane, an event,
and the time that passes with it. -/

namespace Sys2Proof.Machine

/-- An outcome's next state changed. -/
def mapNext (f : State → State) : Host.Outcome State Fault Refusal → Host.Outcome State Fault Refusal
  | .next s => .next (f s)
  | .fault r => .fault r
  | .refused r => .refused r

/-! The turn of a lane. -/

/-- What the issuing lane does in its turn. -/
inductive Turn where
  | nothing | stop | enter | answer | result | due | watchdog | alert | dispatch | reissue | again (i : Instr) | past | breakpoint | fetch
  deriving DecidableEq, Repr

/-- Does a breakpoint match at the issuing lane's pc (R334)? -/
def State.breakHere (s : State) : Bool :=
  let d := s.myCore.dbg
  let one (n : Nat) (a : Word) : Bool :=
    bit d.bpcfg (8 * n) && bit d.bpcfg (8 * n + 1 + s.cur.lane % 4) && bits a 63 4 == bits s.lane.pc 63 4
  !s.lane.dbgSkip && (one 0 d.bp[0] || one 1 d.bp[1] || one 2 d.bp[2] || one 3 d.bp[3])

/-- What a lane goes on with although it is gated: an instruction whose access a page migration holds (R195, R304). -/
def State.heldTurn (s : State) : Turn :=
  let l := s.lane
  match l.waiting with
  | some i => if l.kept.held && l.run == .stalled && !l.dstop then .again i else .nothing
  | none => .nothing

/-- The issuing lane's turn: a trap whose handler's table is read again, a stop, an answer or a result that is held for the lane, and
traps that are due go before dispatch and issue (R106, R166, R183, R190, R205, R213, R326, R337, R338). -/
def State.plan (s : State) : Turn :=
  let l := s.lane
  if l.trapWait then (if s.watchDue s.cur then .watchdog else if s.handlerHeld s.cur then .nothing else .enter)
  else if s.stopDue s.cur then .stop
  else if !s.free l then s.heldTurn
  else if l.answer.isSome then .answer
  else if l.replied then .result
  else if !l.due.isEmpty && s.atBoundary s.cur then .due
  else if s.watchDue s.cur then .watchdog
  else if s.alertDue s.cur then .alert
  else if l.run = .idle then .dispatch
  else if l.run = .parked then .nothing
  else match l.req with
    | some q => if q.phase = .sent then .reissue else .nothing
    | none => match l.waiting with
      | some i => .again i
      | none =>
        if l.inline && s.pastInline s.cur l.pc then .past
        else if s.breakHere then .breakpoint
        else .fetch

/-- Is an instruction one that the release of a FENCE.rel holds back (R103)? -/
def heldByRelease : Instr → Bool
  | .stM .. | .stA .. | .ste .. | .stv .. | .reclaim .. | .spillm .. | .stCompact .. | .vst .. | .vscatter .. | .vpack ..
  | .sth .. | .amoadd .. | .amoand .. | .amoor .. | .amoxor .. | .amomin .. | .amomax .. | .amominu .. | .amomaxu ..
  | .amoswap .. | .amocas .. | .redadd .. | .redfadd .. | .redmin .. | .redmax .. | .redor .. | .send .. | .sendi ..
  | .engpush .. | .mma .. | .mmat .. | .mzero .. | .lmap .. | .accrow .. | .bind .. | .accrd .. | .accsp .. | .accfl ..
  | .bcopy .. | .bconv .. | .tspawn .. | .tspawnr .. | .tdep .. | .tdone .. | .ttile .. | .tnote .. | .tval .. | .tabort .. =>
    true
  | _ => false

/-- Is a stream bound to push (R133)? Its pushes are stores. -/
def Lane.pushes (l : Lane) : Bool := (List.range 8).any (fun n => bit (l.streamOf n) 0 && bit (l.streamOf n) 1)

/-- The release that a FENCE.rel left is satisfied before a store issues (R103). -/
def State.afterFence (s : State) (i : Instr) : Except Stop State :=
  match s.lane.relHold with
  | none => .ok s
  | some sc =>
    if heldByRelease i || s.lane.pushes then
      match s.release s.cur sc with
      | .ok t => .ok (t.setLane { t.lane with relHold := none })
      | .error e => .error e
    else .ok s

/-- SPV ends with the instruction that a TRET re-executes, where that one does not continue a spill (R192, R108). -/
def State.endSpv (s : State) (i : Instr) : State :=
  match i with
  | .spillm .. | .fillm .. => s
  | _ => if s.lane.spvEnd then s.setLane { s.lane with spv := false, spvEnd := false } else s

/-- The issuing lane issues an instruction, whose reads meet the errors of its registers (R330). -/
def State.issue (s : State) (i : Instr) : Host.Outcome State Fault Refusal :=
  match (s.endSpv i).afterFence i with
  | .ok t => exec i (t.meetReads i)
  | .error e => finish i (.error e)

/-- The issuing lane fetches, decodes and issues (R59, R60, R69, R70). -/
def State.fetchIssue (s : State) : Host.Outcome State Fault Refusal :=
  match s.fetchInstr s.cur with
  | .error (.trap _ _ _) => execParcelFetchFault s
  | .error (.wait t _) => .next t
  | .ok (t, x) => match s.lane.decode x with
    | .ok i => t.issue i
    | .error _ => execPatternNotAnInstruction (BitVec.ofNat 32 x) t

/-- A trap is taken before the instruction at the pc issues: a SPILLM or FILLM there has not read SPV, which stays for it;
before any other instruction TRET's clearing takes effect (R192, R108). -/
def State.keepSpv (s : State) : State :=
  let clear (x : Bool) : State := s.setLane { s.lane with spv := s.lane.spv && x, spvEnd := false }
  if !s.lane.spvEnd then s
  else match s.fetchInstr s.cur with
    | .error _ => clear false
    | .ok (_, x) => match s.lane.decode x with
      | .ok (.spillm ..) => clear true
      | .ok (.fillm ..) => clear true
      | _ => clear false

/-- The trap that is due first at the issuing lane is taken. -/
def State.takeDue (s : State) : Host.Outcome State Fault Refusal :=
  match s.lane.due with
  | .notice _ :: _ => .next (s.takeNotice s.cur)
  | _ => execJobFaultTrap s.cur.core s.cur.lane s

/-- What the lane kept of a wait is dropped: all of it at a fresh issue, else whether a migration holds the access. -/
def State.keepWait (s : State) (fresh : Bool) : State :=
  s.setLane { s.lane with kept := if fresh then Kept.nothing else { s.lane.kept with held := false } }

/-- The eligible cycles that pass with an instruction's end are counted: where they bring COUNT to the limit, WATCHDOG follows it (R53,
R106, R210). -/
def State.counting (s : State) (r : LaneRef) (f : State → Host.Outcome State Fault Refusal) : Host.Outcome State Fault Refusal :=
  if s.watchDue r then mapNext (fun t => if t.eligible r then t.takeWatchdog r else t) (f s) else f (s.watchTick r)

/-- The instruction that the issuing lane waits in goes on. -/
def State.resume (s : State) : Host.Outcome State Fault Refusal :=
  match s.lane.waiting with
  | some i => (s.keepWait false).issue i
  | none => .next s

/-- The issuing lane has its turn; the eligible cycles that pass with it are counted (R210). -/
def State.laneTurn (s : State) : Host.Outcome State Fault Refusal :=
  let r := s.cur
  match s.plan with
  | .nothing => .next (s.watchTick r)
  | .stop => execDebugStopEffect r.core r.lane s
  | .enter => .next ((s.watchTick r).enterHandler r (s.watchTick r).lane)
  | .answer => s.counting r (fun s => mapNext (·.afterStep r) (execAnswerArrival r.core r.lane s))
  | .result => s.counting r (fun s => mapNext (·.afterStep r) s.resume)
  | .due => s.keepSpv.takeDue
  | .watchdog => execWatchdog r.core r.lane s.keepSpv
  | .alert => execAlertTake s.keepSpv
  | .dispatch => execDispatch r.core r.lane s
  | .reissue => mapNext (·.afterStep r) (execParkedRequestReissue r.core r.lane (s.watchTick r))
  | .again i => mapNext (·.afterStep r) (((s.watchTick r).keepWait false).issue i)
  | .past => mapNext (·.afterStep r) (.next ((s.watchTick r).endPast r))
  | .breakpoint => .next (s.keepSpv.takeTrap Cause.breakpoint s.lane.pc)
  | .fetch => mapNext (·.afterStep r) ((s.watchTick r).keepWait true).fetchIssue

/-! Events. -/

/-- Is a core one of the machine's (R7, R326)? -/
def coreExists (c : Nat) : Bool := decide (c ≤ Config.mgmtCore)

/-- Is a lane one of the machine's (R6, R8)? -/
def laneExists (r : LaneRef) : Bool := coreExists r.core && decide (r.lane < 4)

/-- An event that happens on its own: not an access that a lane makes (R58), and not what fetch and translation make
themselves. -/
def schedulable (i : Instr) : Bool :=
  i.isEvent && match i with
    | .mcmdqPush .. | .mresqPop .. | .bcmdqPush .. | .bresqPop .. | .dropcntClear .. | .errcntClear ..
    | .deviceRegisterWrite .. | .throttleWrite .. | .pshareWrite .. | .memguarWrite .. | .alertstatClear .. | .linkstatClear ..
    | .dltstatClear .. | .msireq .. | .translationWalk .. | .parcelFetchFault | .patternNotAnInstruction .. => false
    | _ => true

/-- Does the machine hold the units that an event names (R7, R8)? The management core has a matrix engine and a Brook of its own, in
cluster 131,072 (log entry 4). -/
def unitsExist (i : Instr) : Bool :=
  match i with
  | .jobFaultTrap c l | .watchdog c l | .promiseMissed c l | .sleepTimer c l | .parkedRequestReissue c l | .answerArrival c l
  | .dispatch c l | .tileMessageEntry c l | .poolForcedLaunch c l | .debugStopEffect c l | .homeRead (.lane c l) => laneExists ⟨c, l⟩
  | .zeroLengthReadReturn c (l, p) => laneExists ⟨c, l⟩ && decide (p < 4)
  | .messageInject c | .traceSync c => coreExists c
  | .messageEjection c _ | .mailboxPostArrival c _ | .noticeArrival c _ | .dependenceRelease c _ | .schedDieSettings c _
  | .schedStampRing c _ | .poolMessageArrival c _ | .flush c _ | .close c _ | .debugReadRegister c _ | .debugWriteRegister c _
  | .debugStop c _ | .debugResume c _ | .debugStep c _ | .debugReadLaneState c _ | .debugWriteLaneState c _ | .debugMark c _
  | .debugUnassignedOp c _ => coreExists c
  | .launchRecordIntake c _ => coreExists c || c == hubSource
  | .matrixJobStart n | .matrixJobComplete n | .brookJobStart n _ | .brookJobComplete n | .barrierArrival n
  | .residencyEviction n => decide (n ≤ clusterOf Config.mgmtCore)
  | .teamReservation n _ _ => decide (n < clusterOf Config.mgmtCore)
  | .evaluation d | .placementRound d | .placementAttempt d | .reserving d _ | .dispense d _ | .steal d | .poolOpen d _ =>
    decide (d < Config.hubDie)
  | .deltaRecord n | .retransmitTimeout n | .peerDown n => decide (n < 16)
  | .sliceGate p _ => decide (p < 256)
  | _ => true

/-- Does the machine hold the storage that an upset names (R8)? -/
def upsetExists (u : Upset) : Bool :=
  match u with
  | .scalar c l _ | .vector c l _ _ | .mask c l _ | .handle c l _ _ | .cell c l _ _ | .ringFlit c l _ _ | .sendFlit c l _ _ _ =>
    laneExists ⟨c, l⟩
  | .memory .. | .copy .. => true

/-! Time. -/

/-- The multiples of `m` among the `n` ticks that follow a counter's value. -/
def multiples (a n m : Nat) : List Word := (List.range ((a + n) / m - a / m)).map (fun i => word ((a / m + 1 + i) * m))

/-- A die's counter advances by `n` ticks: evaluations at DTC[15:0] = 0 and steals at the steal period fall due (R255, R276). -/
def Die.pass (d : Die) (n : Nat) : Die :=
  { d with
    dtc := d.dtc + word n
    evals := d.evals ++ (multiples d.dtc.toNat n 65536).filter (fun t => !d.evals.contains t)
    stealDue := d.stealDue ++ (if d.stealp = 0 then [] else multiples d.dtc.toNat n (2 ^ (d.stealp.toNat + 6))) }

/-- The energy of a step is charged to partitions of a die (R256, R319). -/
def Die.charge (d : Die) (turn die : Nat) (ps : List Nat) : Die :=
  { d with accj := ps.foldl (fun t p => Table.put t p (Table.get 0 t p + word (Config.energy turn (die * 256 + p)))) d.accj }

/-- Does a test hold of a number below `n`? -/
def anyBelow (p : Nat → Bool) : Nat → Bool
  | 0 => false
  | n + 1 => p n || anyBelow p n

/-- The first core of the `q`-th of the 8,192 quads of a compute stack (R6, R7). -/
def quadCore (die q : Nat) : Nat := ((die % 8 * 64 + q / 128) * 256 + die / 8 * 64 + q / 2 % 64) * 8 + q % 2 * 4

/-- Is a partition the QTAG of a quad of a die (R291)? The quad of the management core is of partition 0. -/
def State.ownsQuad (s : State) (die p : Nat) : Bool :=
  if die = Config.hubDie then p == 0 else anyBelow (fun q => s.qtag (quadCore die q) == p) 8192

/-- The partition of the lane whose job an engine of a cluster runs (R319). -/
def State.jobParts (s : State) (x : Cluster) : List Nat :=
  (x.mrun.map (fun m => (s.laneAt ⟨m.core, m.job.lane⟩).part)).toList ++
    (x.brun.map (fun m => (s.laneAt ⟨m.core, m.job.lane⟩).part)).toList

/-- The partitions that a step's energy on a die may be charged to (R319): of the lane that issued, given as its die and its partition,
of the lanes whose jobs its engines run, and the QTAGs of its quads. -/
def State.chargeable (s : State) (who : Option (Nat × Nat)) (die : Nat) : List Nat :=
  let issuer := (who.filter (fun r => r.1 == die)).map (·.2)
  let jobs := (s.clusters.filter (fun x => dieOf (8 * x.1) == die)).flatMap (fun x => s.jobParts x.2)
  dedup (issuer.toList ++ jobs ++ (0 :: (s.parts.map (·.1)).filter (· != 0)).filter (s.ownsQuad die))

/-- A SYNC packet is due at a traced core of a die for each tick at which its DTC[31:0] was 0 (R339). -/
def Core.passSync (k : Core) (core : Nat) (ticks : List Word) : Core :=
  let d := k.dbg.emitSync core
  { k with dbg := if d.ten then { d with syncDue := ticks } else d }

/-- The trace encoders have further stores accepted (R340). -/
def State.encode (s : State) : State :=
  (s.cores.filter (fun k => !k.2.dbg.packets.isEmpty)).foldl (fun s k =>
    s.encoderStores k.1 (min (Config.traceStores s.turn k.1) 96)) s

/-- Time passes on every die and at the hub with the move of a lane, or of another agent (R3, R14; log entry 2). -/
def State.pass (s : State) (who : Option (Nat × Nat)) : State :=
  let s := s.encode
  let n (die : Nat) : Nat := Config.elapsed s.turn die
  let cores := s.cores.map (fun x => (x.1, x.2.passSync x.1 (multiples (s.die (dieOf x.1)).dtc.toNat (n (dieOf x.1)) (2 ^ 32))))
  let dies := (List.range 33).foldl (fun t die =>
    Table.put t die (((Table.get Die.reset t die).pass (n die)).charge s.turn die (s.chargeable who die))) s.dies
  { s with cores := cores, dies := dies, turn := s.turn + 1 }

/-- Enough rounds for all that a launch unit may have to do. -/
def Die.fuel (d : Die) : Nat :=
  64 * (d.tasks.length + d.input.length + d.evals.length + d.stealDue.length + d.offers.length + d.orders.length + 2)

/-- The launch units do what the ticks that have ended call for, before any agent moves (R255, R266, R280). -/
def State.caughtUp (s : State) : State := s.dies.foldl (fun s d => s.settleDie d.1 0 (s.die d.1).fuel) s

/-- What waits for ids at the launch units takes those that an agent's move has freed, in that tick (R246, R261). -/
def State.drainInputs (s : State) : State := s.dies.foldl (fun s d => s.drainInput d.1) s

/-! The step. -/

/-- The agent that moves next, and the agenda after it (log entry 1). -/
def State.choose (s : State) : State × Choice :=
  match s.agenda with
  | c :: t => ({ s with agenda := t }, c)
  | [] => (s, Config.choice s.turn)

/-- What an agent does. -/
def State.act (s : State) : Choice → Host.Outcome State Fault Refusal
  | .lane c l =>
    if laneExists ⟨c, l⟩ then
      let s : State := { s with cur := ⟨c, l⟩ }
      mapNext (fun t => t.prefetch ⟨c, l⟩ (Config.fetchAhead s.turn)) s.laneTurn
    else .next s
  | .event i => if schedulable i && unitsExist i then exec i s else .next s
  | .upset u => .next (if upsetExists u then s.upset u else s)
  | .host h => .next (s.hostAct h)
  | .passLink n => .next (s.passLink n)

/-- The die and the partition of the lane that an agent's move, from `s` to `t`, has issue an instruction: an instruction that waited
issues with the turn that ends its wait (R319). -/
def State.issuer (s t : State) : Choice → Option (Nat × Nat)
  | .lane c l =>
    let r : LaneRef := ⟨c, l⟩
    let issues := match ({ s with cur := r } : State).plan with
      | .fetch => true
      | .again _ => (t.laneAt r).run != .stalled
      | _ => false
    if laneExists r && issues then some (dieOf c, (s.laneAt r).part) else none
  | _ => none

/-- Does an event act on a start in progress? Any other agent waits while the start takes its next step (R350). -/
def startEvent : Choice → Bool
  | .event .romWatchdog | .event .powerLoss | .event .resetPin | .event (.pcieHotReset _) => true
  | _ => false

/-- One step: an agent moves, and time passes. Without power nothing does, until POWER_ON. -/
def State.cycle (s : State) : Host.Outcome State Fault Refusal :=
  if !s.powered then
    match s.agenda with
    | .event .powerOn :: t => mapNext (·.pass none) (execPowerOn { s with agenda := t })
    | _ => .fault .poweredOff
  else
    let (t, c) := s.caughtUp.choose
    if t.starting && !startEvent c then .next (t.startStep.pass none)
    else mapNext (fun u => u.drainInputs.pass (t.issuer u c)) (t.act c)

/-! A program placed for the next step. -/

/-- The physical byte address at which `withFetchWord` stores an instruction: local raw offset 0x10000 of core 0 (R18). -/
def fetchByte : Nat := Config.spadBase + 0x2000

/-- The raw-window address of that place. -/
def fetchPc : Word := 0xC000000000010000

/-- Lane 0 of core 0 runs at that place, and nothing else of it is due (log entry 38). -/
def Lane.toFetch (l : Lane) : Lane :=
  { l with
    pc := fetchPc, run := .running, gate := false, dstop := false, stall := 0, ptag := 0, inl := false, waiting := none
    waitJob := none, req := none, due := [], ahead := none, dbgStopReq := false, dbgStep := false, wen := false, relHold := none
    spvEnd := false, kept := Kept.nothing, trapWait := false }

/-- The state with an instruction of up to 32 bits stored where the next step fetches it, and lane 0 of core 0 to move. -/
def State.placeWord (s : State) (nbits w : Nat) : State :=
  let r : LaneRef := ⟨0, 0⟩
  let s : State := { s with
    powered := true, mem := Memory.setBytes s.mem fetchByte (w % 2 ^ nbits) 4, cur := r, agenda := [.lane 0 0] }
  s.setLaneAt r (s.laneAt r).toFetch

end Sys2Proof.Machine
end

