-- ==== Sys2Proof/Machine/Step.lean ====
section
/-! DEFINITION. The step of the machine, and a state that is about to run a given instruction. -/

namespace Sys2Proof.Machine

/-- One step (R13, R214, R218, R350): see `State.cycle`. -/
def step (s : State) : Host.Outcome State Fault Refusal := s.cycle

/-- The state whose next step runs the instruction whose bits are `w` (log entry 38). -/
def State.withFetchWord (s : State) (nbits w : Nat) : State := s.placeWord nbits w

end Sys2Proof.Machine
end

