-- ==== Sys2Proof/Safety.lean ====
section
/-! DEFINITION. What counts as a safe run, and the terms that statements use: the invariant of memory, frames, and the ordinary
conditions under which an instruction completes. -/

namespace Sys2Proof.Machine

/-! The invariant of a run. -/

/-- Memory and tags are in canonical form, so that equal memories are equal data: addresses strictly rising, and nothing listed
that an unlisted address has. -/
def State.memoryOk (s : State) : Prop :=
  Memory.wf s.mem = true ∧ Table.sorted s.tags = true ∧ s.tags.all (fun x => x.2 != 0) = true

/-- A run is safe when its memory stays canonical and the machine stops nowhere but without power (R348, R350). -/
def SafeStep (s : State) : Prop :=
  match step s with
  | .next t => t.memoryOk
  | .fault e => e = .poweredOff ∧ s.powered = false
  | .refused _ => False

/-! Turns. -/

/-- The state in which lane `l` of core `c` has its turn, with the rest of the agenda behind it (log entry 1). -/
def State.turnOf (s : State) (c l : Nat) (rest : List Choice) : State := { s with agenda := rest, cur := ⟨c, l⟩ }

/-! Frames. -/

/-- A lane with what every completion moves put back as in another lane: its pc, its running, what it waited for, and the marks of
the registers that it has written (R297). -/
def Lane.progressOf (l k : Lane) : Lane :=
  { l with pc := k.pc, run := k.run, stall := k.stall, waiting := k.waiting, waitJob := k.waitJob, dbgSkip := k.dbgSkip, wrote := k.wrote }

/-- The issuing lane of `t` is that of `s` but for its scalar registers and its progress. -/
def State.SameButScalars (t s : State) : Prop :=
  ({ t.lane.progressOf s.lane with sreg := s.lane.sreg } : Lane) = s.lane

/-- Nothing but the issuing lane differs: every other lane and every register of its core, and all the rest of the machine, each
byte of memory with it. -/
def State.SameElsewhere (t s : State) : Prop :=
  ({ t with cores := s.cores } : State) = s ∧
  (∀ r : LaneRef, r.core ≠ s.cur.core ∨ r.lane % 4 ≠ s.cur.lane % 4 → t.laneAt r = s.laneAt r) ∧
  (∀ c : Nat, ({ t.core c with lanes := (s.core c).lanes } : Core) = s.core c) ∧
  (∀ a : Nat, Memory.byte t.mem a = Memory.byte s.mem a)

/-! Ordinary memory accesses. -/

/-- Is the place a memory, translated or not, rather than a format window or a device register? -/
def Place.inMemory : Place → Bool
  | .fmt _ _ | .dev _ => false
  | _ => true

/-- A memory that an address names without translation. -/
def Place.direct : Place → Bool
  | .raw _ | .global _ _ | .coh _ => true
  | _ => false

/-- Nothing is in flight to a home, no notice of a drop is owed, and no mesh link retrains or retries a flit (R331). -/
def State.settled (s : State) : Prop := s.inflight = [] ∧ s.dropped = [] ∧ s.linksClear = true

/-- The word at a physical byte address has no error (R100). -/
def State.clean (s : State) (pa : Nat) : Prop := errKey pa ∉ s.unc ∧ errKey pa ∉ s.corr

/-- The core of the issuing lane has no watchpoint on (R334). -/
def State.unwatched (s : State) : Prop := s.myCore.dbg.wpcfg = 0

/-- The core of a lane emits no trace packet (R339). -/
def State.untraced (s : State) (r : LaneRef) : Prop := (s.core r.core).dbg.ten = false

/-- No mesh link retrains or retries a flit (R331), no message holds a router input, and none waits in an ejection buffer of core
`c` (R201). -/
def State.receives (s : State) (c : Nat) : Prop :=
  s.linksClear = true ∧ s.stuck = [] ∧ ∀ i, i < 4 → ((s.core c).lane i).ejbuf = none

/-- The physical byte address of the 64-bit word that an untranslated address names on the issuing core (R18, R306). -/
def State.wordAt (s : State) (p : Place) : Nat := p.byteAddr s.cur.core / 8 * 8

/-- The issuing lane may reach a place directly: a local window, or a home that is not foreign to it (R27 order 7). `ordinary` marks
an ordinary 64-bit load, the only read that the partition control area takes (R285). -/
def State.own (s : State) (p : Place) (ordinary : Bool) : Prop :=
  (∃ off, p = .raw off) ∨ s.foreign s.lane.part ordinary s.lane.sup (s.wordAt p) = false

/-- The ordinary case of an access of `w` bits at `a` by the issuing lane: a memory named directly, aligned, not foreign, nothing
in flight, no error at the word, no watchpoint. -/
def State.plain (s : State) (a : Word) (w : Nat) (p : Place) (ordinary : Bool := false) : Prop :=
  decodeWindow a = some p ∧ p.direct = true ∧ aligned a w = true ∧ s.own p ordinary ∧ s.settled ∧ s.clean (s.wordAt p) ∧ s.unwatched

/-- The value of `w` bits of a word from bit `sh` up. -/
def fieldOf (x : Word) (sh w : Nat) : Nat := x.toNat / 2 ^ sh % 2 ^ w

/-- `i` is a form of LD: of `n` bits at `a` into `d`, sign-extended or not, of length `len` (R65, R68, R101). -/
def State.LoadForm (s : State) (i : Instr) (d : Reg) (a : Word) (n : Nat) (sx : Bool) (len : Nat) : Prop :=
  (∃ b w off, i = .ldM d b w off ∧ sx = false ∧ len = 32 ∧ a = mAddr (s.s b) off (mWidth w) ∧ n = mWidth w) ∨
  (∃ b w acq, i = .ldA d b w sx acq ∧ len = 32 ∧ a = s.s b ∧ n = w.toNat + 1) ∨
  (∃ c b off, i = .ldCompact c b off ∧ d = cReg c ∧ sx = false ∧ len = 16 ∧ a = cAddr (s.s (cReg b)) off ∧ n = 64)

/-- `i` is a form of ST: the low `n` bits of `d` at `a`, with an optional release, of length `len` (R65, R68, R101). -/
def State.StoreForm (s : State) (i : Instr) (d : Reg) (a : Word) (n : Nat) (rel : Option Scope) (len : Nat) : Prop :=
  (∃ b w off, i = .stM d b w off ∧ rel = none ∧ len = 32 ∧ a = mAddr (s.s b) off (mWidth w) ∧ n = mWidth w) ∨
  (∃ b w, i = .stA d b w rel ∧ len = 32 ∧ a = s.s b ∧ n = w.toNat + 1) ∨
  (∃ c b off, i = .stCompact c b off ∧ d = cReg c ∧ rel = none ∧ len = 16 ∧ a = cAddr (s.s (cReg b)) off ∧ n = 64)

/-! Vector registers and streams. -/

/-- No stream is bound to a vector register (R51). -/
def Lane.noStreams (l : Lane) : Prop := ∀ n : Nat, bit (l.streamOf n) 0 = false

/-- The issuing lane completes a 32-bit instruction that writes vector register `d`. -/
def State.writeV (s : State) (d : VReg) (x : VWord) : State := (s.setV d x).advance 32

/-- The issuing lane completes a 32-bit instruction that writes mask register `d`. -/
def State.writeM (s : State) (d : MReg) (x : BitVec 32) : State := (s.setM d x).advance 32

/-- Element `j` of the vector register `r` of the issuing lane in the `e`-bit view (R49). -/
def State.el (s : State) (r : VReg) (e j : Nat) : Nat := vget (s.lane.v r) e j

/-- The signed value of an `e`-bit code (R28). -/
def signed (e x : Nat) : Int := (x : Int).bmod (2 ^ e)

/-- Instruction `i` completes with generator state `g` and vector register `d` written: `f` in the elements of the `e`-bit view that
`act` names, the old ones elsewhere (R115). -/
def State.Elementwise (s : State) (i : Instr) (g : Word) (d : VReg) (e : Nat) (act : Nat → Bool) (f : Nat → Nat) : Prop :=
  ∃ x : VWord, exec i s = .next ((setSeed g s).writeV d x) ∧
    ∀ j, j < 256 / e → vget x e j = if act j = true then f j else s.el d e j

/-! Releases and queues. -/

/-- Every release of the issuing lane is satisfied at once: nothing in flight, no job of its own that may still store, no write to
host memory (R102, R171, R312). -/
def State.released (s : State) : Prop := s.settled ∧ s.jobMayStore s.cur = false ∧ s.pcieWrites = []

/-- The 32-bit word at bit offset `h` of the quad of a core (R43). -/
def State.quad32 (s : State) (core h : Nat) : Nat := fieldOf (s.peek (quadByte core (h / 64))) (h % 64) 32

/-- The blocks that follow one another in the quad of a core from bit offset `h` up to `e`, of the formats that a window accepts
(R41, R152). -/
def State.quadBlocks (s : State) (core : Nat) (accepts : BlkFmt → Bool) (kquad : Bool) : Nat → List Blk → Nat → Prop
  | h, [], e => h = e
  | h, b :: t, e => h + 32 ≤ 2 ^ 21 ∧ ∃ size,
    decodeBlock (fun k => s.quad32 core (h + 32 * k)) accepts kquad (2 ^ 21 - h) = .ok (b, size) ∧ s.quadBlocks core accepts kquad (h + size) t e

/-- The cause with which the block at bit offset `h` of the quad of a core fails (R41, R152). -/
def State.quadFails (s : State) (core : Nat) (accepts : BlkFmt → Bool) (kquad : Bool) (h : Nat) (cause : BitVec 8) : Prop :=
  (2 ^ 21 < h + 32 ∧ cause = 0x05) ∨ (h + 32 ≤ 2 ^ 21 ∧ ∃ e,
    decodeBlock (fun k => s.quad32 core (h + 32 * k)) accepts kquad (2 ^ 21 - h) = .error e ∧ cause = e.cause)

/-- The state with a matrix job entered by the issuing lane, under the id of the core's counter (R142). -/
def State.entered (s : State) (op : MOp) : State :=
  s.setMyCore { s.myCore with
    mq := s.myCore.mq ++ [⟨s.myCore.mnext, s.cur.lane, op, none, s.lane.pc, s.lane.task, teamRoot s.cur.core s.lane, s.lane.gxy⟩]
    mnext := if s.myCore.mnext = 0xFFFFFFFF then 1 else s.myCore.mnext + 1 }

end Sys2Proof.Machine
end

