-- ==== Sys2Proof/Certificates/Slice0/Obligations.lean ====
section
/-! DEFINITION. The statements for the provers, from the numbered rules of the spec. -/

open Sys2Proof Sys2Proof.Machine

/-- R59, R61, R62, R66 to R68: no bit of an encoding is dropped. Every well-formed instruction is what its own encoding decodes to. -/
def Obligations.DecodeEncode : Prop :=
  ∀ (i : Instr) (n w : Nat), i.wf = true → encode i = some (n, w) → decodeBytes (leBytes w (n / 8)) = .ok (i, [])

/-- R61, R66, R67, R70: each word has one meaning. A pattern that decodes is exactly the encoding of what it decodes to, and what
it decodes to is well formed; so a reserved field is never accepted. That a word of TSPAWN, TDONE, TTILE or TABORT with a register field
set that the instruction does not use is no instruction is the model's choice (log entry 89): R66 and R185 do not say it. -/
def Obligations.EncodeDecode : Prop :=
  (∀ (w : Nat) (i : Instr), w < 2 ^ 32 → w % 2 = 1 → decode32 w = .ok i → i.wf = true ∧ encode i = some (32, w)) ∧
  (∀ (x : Nat) (i : Instr), x < 2 ^ 16 → x % 2 = 0 → decode16 x = .ok i → i.wf = true ∧ encode i = some (16, x))

/-- The canonical form of memory and tags, which makes equal memories equal data, is kept by every step, whichever agent moves. -/
def Obligations.StepKeepsMemoryForm : Prop :=
  ∀ s t : State, s.memoryOk → step s = .next t → t.memoryOk

/-- The invariant of `StepKeepsMemoryForm` holds after reset. -/
def Obligations.ResetMemoryForm : Prop := State.reset.memoryOk

/-- The statements about `exec` reach a run through this one (R13, R59, R60, R69; log entries 1, 2, 16). The launch units have caught up
with the ticks that have ended (`s₁`). When lane `l` of core `c` then has its turn, fetches (`v`: its eligible cycles counted, what an
ended wait kept dropped), and the bits at its pc decode to `i`, the step is `exec i`, whose register reads meet what those registers have
lost (R330), with the boundary, the fetch ahead, what waits for task ids at the launch units, and the time around it. What a turn is, how
time passes and what is fetched ahead are the model's choices (log entries 1, 2 and 16). -/
def Obligations.StepRunsDecoded : Prop :=
  ∀ (s t u : State) (c l x : Nat) (rest : List Choice) (i : Instr),
    let r : LaneRef := ⟨c, l⟩
    let s₁ := s.caughtUp
    let v := ((s₁.turnOf c l rest).watchTick r).keepWait true
    s.powered = true → laneExists r = true → s₁.starting = false → s₁.agenda = .lane c l :: rest →
    (s₁.turnOf c l rest).plan = .fetch → v.fetchInstr r = .ok (t, x) → v.lane.decode x = .ok i → (t.endSpv i).afterFence i = .ok u →
    step s = mapNext (fun w => ((w.afterStep r).prefetch r (Config.fetchAhead s₁.turn)).drainInputs.pass (some (dieOf c, (s₁.laneAt r).part)))
      (exec i (u.meetReads i))

/-- R49, R79: the frame of every instruction whose result statement answers `s.writeS d v`. A write to s0 is discarded. -/
def Obligations.ScalarWriteFrame : Prop :=
  ∀ (s : State) (d : Reg) (v : Word),
    (∀ m : Reg, (s.writeS d v).s m = if m = 0 then 0 else if m = d then v else s.s m) ∧
    (s.writeS d v).lane.pc = s.lane.pc + 32 ∧ (s.writeS d v).lane.run = .running ∧ (s.writeS d v).lane.stall = 0 ∧
    (s.writeS d v).SameButScalars s ∧ (s.writeS d v).SameElsewhere s

/-- R350 with the reset columns of R52, R58, R286, R324 and R347: what a completed cold start leaves. Registers that the spec gives
no value are not named here (log entry 41). RSEED of the management core, whose PHYS reads 0, is the model's choice (log entry 4). -/
def Obligations.ResetValues : Prop :=
  (∀ c l : Nat, l < 4 → ((State.reset.core c).lane l).run = .idle ∧ ((State.reset.core c).lane l).gate = false ∧
    State.reset.crRead ⟨c, l⟩ 0x000 = some (word (l * 2 ^ 24)) ∧ State.reset.crRead ⟨c, l⟩ 0x005 = some 0 ∧
    State.reset.crRead ⟨c, l⟩ 0x007 = some (word (c % 2 ^ 20 * 4 + l + 1)) ∧ State.reset.crRead ⟨c, l⟩ 0x020 = some 0x88 ∧
    State.reset.crRead ⟨c, l⟩ 0x022 = some 0 ∧ State.reset.crRead ⟨c, l⟩ 0x023 = some 0 ∧
    State.reset.crRead ⟨c, l⟩ 0x024 = some 0 ∧ State.reset.crRead ⟨c, l⟩ 0x025 = some 0) ∧
  (∀ c : Nat, (State.reset.core c).mnext = 1 ∧ (State.reset.core c).bnext = 1 ∧ (State.reset.core c).mq = [] ∧
    (State.reset.core c).bq = [] ∧ (State.reset.core c).mresq = [] ∧ (State.reset.core c).bresq = [] ∧
    (State.reset.core c).mbx = []) ∧
  (∀ n : Nat, (State.reset.die n).dtc = 0 ∧ (State.reset.die n).nextId = 1 ∧ (State.reset.die n).agelimit = 131072 ∧
    (State.reset.die n).stealp = 4) ∧
  (∀ n : Nat, (State.reset.sector n).tlim = 760 ∧ (State.reset.sector n).talert = 704 ∧ (State.reset.sector n).hys = 24 ∧
    (State.reset.sector n).throttle = 0 ∧ (State.reset.sector n).arm = true) ∧
  (∀ n k : Nat, (h : k < 16) → (State.reset.cluster n).resid[k] = .empty) ∧
  (∀ n k : Nat, (h : k < 4) → (State.reset.cluster n).sets[k].slots = []) ∧
  State.reset.mesh = [] ∧ State.reset.inflight = [] ∧ State.reset.parked = [] ∧ State.reset.mgmt.alerts = [] ∧
  (∀ p : Nat, (State.reset.part p).live.v = false) ∧ (∀ pa : Nat, State.reset.tag pa = 0)

/-- R42, R53, R60, R70, R106, R166, R183, R205, R206, R312. -/
def Obligations.LaneEventResults : Prop :=
  ∀ (s : State) (c l : Nat), s.untraced ⟨c, l⟩ →
    let r : LaneRef := ⟨c, l⟩
    let x := s.laneAt r
    let u : State := { s with cur := r }
    let parked (e : Lane) (cause : BitVec 8) (v pc : Word) : Lane := { e with
      run := .parked, req := none, trapcause := cause, trapval := v, trappc := pc &&& ~~~(15 : Word), traptick := (s.die (dieOf c)).dtc,
      stall := 0, waiting := none, waitJob := none, dbgSkip := false, trapWait := false }
    (∀ cause id rep rest, x.due = .jobFault cause id rep :: rest → s.free x = true → (x.run = .running ∨ x.run = .idle) → ∃ t,
      exec (.jobFaultTrap c l) s = .next t ∧ t.mem = s.mem ∧ t.mesh.length = s.mesh.length + 1 ∧
      t.laneAt r = parked { x with due := rest } cause (id.setWidth 64) (if x.run = .idle then 0 else x.pc)) ∧
    (let limit := if x.wlimit.toNat = 0 then 1 else min x.wlimit.toNat (2 ^ 31 - 1)
     x.wen = true → s.free x = true → (x.run = .running ∨ x.run = .stalled) → x.answer = none → x.replied = false →
      limit ≤ x.wcount.toNat → ∃ t,
      exec (.watchdog c l) s = .next t ∧ t.mem = s.mem ∧ t.mesh.length = s.mesh.length + 1 ∧
      t.laneAt r = parked { x with wcount := 0 } 0x12 (BitVec.ofNat 64 limit) x.pc) ∧
    (∀ d a, x.waiting = some (.sleep d a) → x.run = .stalled → s.free x = true → x.due = [] →
      (r ≠ mgmtLane0 ∨ s.mgmt.alerts = []) → (x.s a).toNat < (s.die (dieOf c)).dtc.toNat →
      ((x.s d).toNat % 2 ^ 32 = 0 → exec (.sleepTimer c l) s = .next (u.writeS d 0)) ∧
      ((x.s d).toNat % 2 ^ 32 ≠ 0 → u.brookDone ((x.s d).truncate 32) = false →
        exec (.promiseMissed c l) s = .next (u.takeTrap 0x0C (BitVec.ofNat 64 ((x.s d).toNat % 2 ^ 32))))) ∧
    (∀ p, exec (.zeroLengthReadReturn c (l, p)) s =
      .next { s with pcieWrites := s.pcieWrites.filter (fun w => !(w.who == r && (w.pa - Config.pcieBase) / 2 ^ 40 == p)) }) ∧
    (∀ pa d a o v, x.req = some ⟨pa, .ldf d 32, .answered v⟩ → x.waiting = some (.ldf d a o) → x.run = .stalled → s.free x = true →
      exec (.answerArrival c l) s = .next ((u.setLane { x with req := none }).writeS d v)) ∧
    (∀ pa d, x.req = some ⟨pa, .ldf d 32, .sent⟩ → s.settled → s.parked = [] → s.clean pa → ∃ t, exec (.parkedRequestReissue c l) s = .next t ∧
      t.mem = s.mem ∧ (s.tag pa ≠ 0 → (t.laneAt r).req = some ⟨pa, .ldf d 32, .answered (s.peek pa)⟩ ∧ t.parked = []) ∧
      (s.tag pa = 0 → (t.laneAt r).req = some ⟨pa, .ldf d 32, .held⟩ ∧ t.parked = [r])) ∧
    (∀ e y, x.ring = [e] → x.run = .idle → s.free x = true → x.due = [] → s.mgmt.unrep.contains (c / 4) = false →
      (c ≠ Config.mgmtCore ∨ s.mgmt.alerts = []) →
      s.tableEntry r (e.hdr.toNat / 2 ^ 22 % 64) = .ok (s, y) →
      let cls := e.hdr.toNat / 2 ^ 22 % 64
      (cls ≠ 63 → y ≠ 0 → y.toNat % 16 = 0 → ∃ t, exec (.dispatch c l) s = .next t ∧ t.mem = s.mem ∧ (t.laneAt r).run = .running ∧
        (t.laneAt r).pc = y ∧ (t.laneAt r).intrap = false ∧ (t.laneAt r).active = true ∧ (t.laneAt r).ring = [e] ∧
        (∀ n, (t.laneAt r).s n = if n = 1 then ringAddr r e.slot else if n = 2 then BitVec.ofNat 64 (256 * e.flits)
          else if n = 3 then BitVec.ofNat 64 cls else if n = 4 then BitVec.ofNat 64 (e.hdr.toNat / 2 ^ 39 % 2 ^ 20)
          else if n = 5 ∧ e.hdr.getLsbD 59 = true then BitVec.ofNat 64 (e.w2.toNat % 2 ^ 24) else 0)) ∧
      (1 ≤ cls → cls ≤ 55 → y = 0 → e.hdr.getLsbD 59 = false → s.unc = [] → s.corr = [] → ∃ t, exec (.dispatch c l) s = .next t ∧ t.mem = s.mem ∧
        (t.laneAt r).run = .idle ∧ (t.laneAt r).ring = [] ∧ (t.core c).dropcnt = (s.core c).dropcnt + 1 ∧
        t.mesh.length = s.mesh.length + 1)) ∧
    (s.cur = r → x.ahead = none → decodeWindow x.pc = none → exec .parcelFetchFault s = .next (s.takeTrap 0x05 x.pc)) ∧
    (∀ (raw : BitVec 32) e, s.cur = r → x.inl = false →
      (raw.toNat % 2 = 1 → decode32 raw.toNat = .error e →
        exec (.patternNotAnInstruction raw) s = .next (s.takeTrap (if e = .reserved then 0x02 else 0x01) (raw.setWidth 64))) ∧
      (raw.toNat % 2 = 0 → decode16 (raw.toNat % 65536) = .error e →
        exec (.patternNotAnInstruction raw) s = .next (s.takeTrap (if e = .reserved then 0x02 else 0x01) (BitVec.ofNat 64 (raw.toNat % 65536)))))

/-- R106, R215, R216, R299, R300, R306. The model's choices behind the clauses: an event that finds nothing to do leaves the state as it
was (log entry 1); an application core's read acts on the home itself, and its misaligned reads outside main memory and its narrow reads
of the control area are access faults (log entries 64, 92 and 99); only a walk fills the Estuary and sets A and D (log entry 24). -/
def Obligations.HomeEventResults : Prop :=
  ∀ s : State,
    (∀ c l pa k, (s.laneAt ⟨c, l⟩).req = some ⟨pa, k, .held⟩ → s.parked = [⟨c, l⟩] → s.clean pa →
      let due : Bool := k.holds (s.laneAt ⟨c, l⟩) (s.peek pa) (s.tag pa)
      (k.onTag = false → due = true → ∃ t, exec (.homeRead (.lane c l)) s = .next t ∧ t.mem = s.mem ∧ t.tags = s.tags ∧
        (t.laneAt ⟨c, l⟩).req = some ⟨pa, k, .answered (s.peek pa)⟩ ∧ t.parked = []) ∧
      (k.onTag = true ∨ due = false → exec (.homeRead (.lane c l)) s = .next s)) ∧
    (∀ a w, w = 8 ∨ w = 16 ∨ w = 32 ∨ w = 64 → a * 8 % w = 0 → s.mgmt.safe = false → s.linksClear = true →
      hostPageOff (a / 8 * 8) = none → imsicFile (a / 8 * 8) = none →
      (homeOf (a / 8 * 8) ≠ .none → a / 8 * 8 < Config.mgmtSpadBase → (∀ o, homeOf (a / 8 * 8) = .control o → w = 64) → s.clean (a / 8 * 8) →
        exec (.homeRead (.host a w)) s = .next { s with hostReads := s.hostReads ++ [⟨a, w,
          some (BitVec.ofNat 64 (fieldOf (s.peek (a / 8 * 8)) (a % 8 * 8) w))⟩] }) ∧
      (homeOf (a / 8 * 8) = .none ∨ Config.mgmtSpadBase ≤ a / 8 * 8 ∨ (∃ o, homeOf (a / 8 * 8) = .control o) ∧ w ≠ 64 →
        exec (.homeRead (.host a w)) s = .next { s with hostReads := s.hostReads ++ [⟨a, w, none⟩] })) ∧
    (∀ a w, w = 16 ∨ w = 32 ∨ w = 64 → a * 8 % w ≠ 0 → s.mgmt.safe = false → s.linksClear = true → mainMemory a w = false →
      exec (.homeRead (.host a w)) s = .next { s with hostReads := s.hostReads ++ [⟨a, w, none⟩] }) ∧
    (∀ a w, s.mgmt.safe = true → exec (.homeRead (.host a w)) s = .next s) ∧
    (∀ (die : Nat) (va : Word) (k : Access) (p : Nat) (P : Part) (leaf : Word) (at_ lev pa : Nat), s.memoryOk → s.parts = [(p, P)] → p ≠ 0 →
      P.live.v = true → P.live.xv = true → s.hub.mig = none → s.estuary = [] → s.parked = [] →
      let vb := va.toNat / 8 % 2 ^ 56
      let write : Bool := k == .store || k == .tstore || k == .amo || k == .red
      s.walk vb p P.live.ppn.toNat 4 = (s, .leaf leaf at_ lev) → homeOf at_ = .hbm →
      leafAddr leaf lev vb = some pa → pteAllows leaf k = true → physOk pa false = true → ∃ t,
        exec (.translationWalk die P.live.sid.toNat va k) s = .next t ∧ t.cores = s.cores ∧
        t.peek at_ = leaf ||| 0x40 ||| (if write then 0x80 else 0) ∧
        t.estuary = [⟨die, va.toNat / 2 ^ 15 % 32, P.live.sid.toNat, lev, vb / 2 ^ (12 + 9 * lev), leaf ||| 0x40 ||| (if write then 0x80 else 0)⟩] ∧
        (∀ x, x < at_ ∨ at_ + 8 ≤ x → Memory.byte t.mem x = Memory.byte s.mem x)) ∧
    (∀ die va k p P t, s.parts = [(p, P)] → p ≠ 0 → P.live.v = true → P.live.xv = true → s.hub.mig = none → s.estuary = [] →
      s.walk (va.toNat / 8 % 2 ^ 56) p P.live.ppn.toNat 4 = (t, .fail) → exec (.translationWalk die P.live.sid.toNat va k) s = .next t)

/-- R58, R165, R178, R319, R323, R324, R327, R332, R347. The model's choices behind the clauses: a pop of an empty queue, a push at a full
one and an MSIREQ without a route leave the state as it was for the lane to try again or go on (log entry 1); LINKSTAT and DLTSTAT are
those that the lane's own selectors name (log entry 71); an IMSIC file keeps its pending identities as an ascending list (log entry 92). -/
def Obligations.DeviceRegisterResults : Prop :=
  ∀ (s : State) (sc : Scope) (d : Reg) (v : Word), s.unwatched →
    let k := s.myCore
    let at_ (n : Nat) : Word := BitVec.ofNat 64 (0x8800000000000000 + 64 * n)
    let x := s.mgmt.sel[s.cur.lane % 4]'(Nat.mod_lt _ (by decide))
    (∀ (pl : Nat → Place), s.released → recordSpace v = true → v.toNat % 64 = 0 →
      (∀ i, i < 4 → s.plain (v + BitVec.ofNat 64 (64 * i)) 64 (pl i)) →
      let w (i : Nat) : Word := s.peek (s.wordAt (pl i))
      (k.mq.length < 16 → (∀ op, s.matrixCommand s.cur [w 0, w 1, w 2, w 3] = .ok op → exec (.mcmdqPush sc v) s =
          .next (s.enterMatrix s.cur op (some ((w 0).toNat % 8))).1) ∧
        (∀ e, s.matrixCommand s.cur [w 0, w 1, w 2, w 3] = .error e → exec (.mcmdqPush sc v) s = .next (s.takeTrap e.1 e.2))) ∧
      (k.bq.length < 16 → s.lane.waiting = none → (∀ rm, s.lane.brookCheck (w 0) (w 1) (w 2) (w 3) none = .ok rm → exec (.bcmdqPush sc v) s =
          .next (s.enterBrook s.cur (w 0) (w 1) (w 2) (w 3) rm true).1) ∧
        (∀ e, s.lane.brookCheck (w 0) (w 1) (w 2) (w 3) none = .error e → exec (.bcmdqPush sc v) s = .next (s.takeTrap e.1 e.2))) ∧
      (16 ≤ k.mq.length → exec (.mcmdqPush sc v) s = .next s) ∧
      (16 ≤ k.bq.length → s.lane.waiting = none → ∃ t, exec (.bcmdqPush sc v) s = .next t ∧ t.myCore.bq = k.bq ∧ t.mem = s.mem)) ∧
    (∀ y t, k.mresq = y :: t → exec (.mresqPop d) s = .next ((s.setMyCore { k with mresq := t }).setS d y)) ∧
    (∀ y t, k.bresq = y :: t → exec (.bresqPop d) s = .next ((s.setMyCore { k with bresq := t }).setS d y)) ∧
    (k.mresq = [] → exec (.mresqPop d) s = .next s) ∧ (k.bresq = [] → exec (.bresqPop d) s = .next s) ∧
    (s.lane.sup = true → exec (.dropcntClear v) s = .next (s.setMyCore { k with dropcnt := k.dropcnt &&& ~~~v }) ∧
      exec (.errcntClear v) s = .next (s.setMyCore { k with errCorr := k.errCorr &&& ~~~(v.truncate 32)
                                                            errUnc := k.errUnc &&& ~~~(BitVec.ofNat 32 (v.toNat / 2 ^ 32)) })) ∧
    (s.lane.sup = false → exec (.dropcntClear v) s = .next (s.takeTrap 0x03 (at_ 11)) ∧ exec (.errcntClear v) s = .next (s.takeTrap 0x03 (at_ 12))) ∧
    (∀ n, n < 4 → exec (.deviceRegisterWrite (BitVec.ofNat 16 (64 * (7 + n))) v) s =
      .next (s.setMyCore (k.setLane n { k.lane n with rxcnt := v }))) ∧
    (∀ n, n = 1 ∨ n = 3 ∨ n = 4 ∨ n = 5 ∨ n = 6 ∨ (13 ≤ n ∧ n < 64) →
      exec (.deviceRegisterWrite (BitVec.ofNat 16 (64 * n)) v) s = .next (s.takeTrap 0x05 (at_ n))) ∧
    (s.cur.core = Config.mgmtCore →
      (let n := x.sec.toNat
       exec (.throttleWrite v) s = .next (s.setSector n { s.sector n with throttle := v.truncate 4 })) ∧
      (let p := x.part.toNat
       let g := v.toNat % 2 ^ 14
       let others := ((s.shares.filter (fun y => y.1 != p)).map (fun y => y.2.share)).sum
       (others + g ≤ Config.powerBudget → exec (.pshareWrite v) s =
         .next { s with shares := Table.put s.shares p { s.share p with share := g }, mgmt := { s.mgmt with psRefused := false } }) ∧
       (Config.powerBudget < others + g → exec (.pshareWrite v) s = .next { s with mgmt := { s.mgmt with psRefused := true } })) ∧
      (let n := x.part.toNat * 16 + x.stk.toNat
       let g := v.toNat % 2 ^ 17
       let others := ((s.guar.filter (fun y => y.1 % 16 == x.stk.toNat && y.1 / 16 != x.part.toNat)).map (fun y => y.2.toNat)).sum
       (others + g ≤ 65536 → exec (.memguarWrite v) s =
         .next { s with guar := Table.put s.guar n (BitVec.ofNat 17 g), mgmt := { s.mgmt with mgRefused := false } }) ∧
       (65536 < others + g → exec (.memguarWrite v) s = .next { s with mgmt := { s.mgmt with mgRefused := true } })) ∧
      (s.mgmt.alerts.length ≤ 16 → exec (.alertstatClear v) s = .next { s with mgmt := { s.mgmt with ovf := s.mgmt.ovf && !v.getLsbD 8 } }) ∧
      (let n := x.link.toNat
       exec (.linkstatClear v) s = .next { s with links := Table.put s.links n { s.link n with
        retry := (s.link n).retry &&& ~~~(v.truncate 32), train := (s.link n).train &&& ~~~(BitVec.ofNat 16 (v.toNat / 2 ^ 32)) } }) ∧
      (let n := x.dlt.toNat
       exec (.dltstatClear v) s = .next { s with delta := Table.put s.delta n { s.deltaOf n with
        lost := (s.deltaOf n).lost &&& ~~~(BitVec.ofNat 32 (v.toNat / 2 ^ 32)) } }) ∧
      (∀ a b, Table.find s.page.fmsi 0 = some (a, b) → a.getLsbD 0 = true → a.toNat / 2 ^ 11 % 2 ^ 11 ≠ 0 →
        let sent : State := { s with msis := s.msis ++ [BitVec.ofNat 64 (a.toNat / 2 % 2 ^ 21 * 2 ^ 8)] }
        let file := a.toNat / 4 % 64 * 8 + a.toNat / 2 ^ 8 % 8
        let id := a.toNat / 2 ^ 11 % 2 ^ 11
        let y := Table.get ImsicFile.reset s.imsic file
        let pending := y.pending
        (a.getLsbD 1 = true ∨ id ∈ pending → exec (.msireq v) s = .next sent) ∧
        (a.getLsbD 1 = false → id ∉ pending → exec (.msireq v) s =
          .next { sent with imsic := Table.put s.imsic file { y with pending := insertBy (fun m n => decide (m ≤ n)) id pending } })) ∧
      (Table.find s.page.fmsi 0 = none ∨ (∃ a b, Table.find s.page.fmsi 0 = some (a, b) ∧ (a.getLsbD 0 = false ∨ a.toNat / 2 ^ 11 % 2 ^ 11 = 0)) →
        exec (.msireq v) s = .next s)) ∧
    (s.cur.core < Config.mgmtCore →
      exec (.throttleWrite v) s = .next (s.takeTrap 0x05 (at_ 0x43)) ∧ exec (.pshareWrite v) s = .next (s.takeTrap 0x05 (at_ 0x45)) ∧
      exec (.memguarWrite v) s = .next (s.takeTrap 0x05 (at_ 0x49)) ∧ exec (.alertstatClear v) s = .next (s.takeTrap 0x05 (at_ 0x4C)) ∧
      exec (.linkstatClear v) s = .next (s.takeTrap 0x05 (at_ 0x4E)) ∧ exec (.dltstatClear v) s = .next (s.takeTrap 0x05 (at_ 0x52)) ∧
      exec (.msireq v) s = .next (s.takeTrap 0x05 (at_ 0x54)))

/-- R173 to R176, R200 to R204, R213. That body word 1 of a mailbox post holds the score in bits 63:32 over the payload is the model's
choice (log entry 67). -/
def Obligations.MessageEventResults : Prop :=
  ∀ (s : State) (c : Nat),
    let k := s.core c
    (∀ l ws, l < 4 → (k.lane l).sendq = [ws] → (k.lane l).save = .none → (∀ i, i < 4 → i ≠ l → (k.lane i).sendq = []) →
      c < Config.mgmtCore →
      let h := (ws.headD 0).toNat
      let p := h / 2 ^ 28 % 256
      s.remoteRange p (h % 2 ^ 20) = none →
      let target := s.mapCore p (h % 2 ^ 20) (if h / 2 ^ 61 % 2 = 1 then none else some (h / 2 ^ 20 % 4))
      (∀ f ∈ s.mesh, target ≠ some f.dest) → ∃ t, exec (.messageInject c) s = .next t ∧ ((t.core c).lane l).sendq = [] ∧ (t.core c).lastInject = l ∧ t.mem = s.mem ∧
        (∀ d, target = some d → t.mesh = s.mesh ++ [⟨c, some l, d, ws⟩]) ∧
        (target = none → t.mesh.length = s.mesh.length + 1 ∧ (t.core c).dropcnt = k.dropcnt + 1 ∧ (t.part p).drop = (s.part p).drop + 1)) ∧
    (∀ src lane ws, s.mesh = [⟨src, lane, c, ws⟩] → c < Config.mgmtCore → s.receives c →
      let h := (ws.headD 0).toNat
      let cls := h / 2 ^ 22 % 64
      let p := h / 2 ^ 28 % 256
      let l := h / 2 ^ 20 % 4
      let f := ws.length / 4
      let plainClass : Prop := h / 2 ^ 61 % 2 = 0 ∧ cls ≠ 56 ∧ cls ≠ 57 ∧ cls ≠ 58 ∧ cls ≠ 60 ∧ cls ≠ 62
      (plainClass → (k.lane l).pool = none → (k.lane l).ring = [] → (p = 0 ∨ h / 2 ^ 60 % 2 = 1 ∨ p = (k.lane l).ptag.toNat) →
        s.memoryOk → s.parked = [] → ws.length ≤ 32 →
        ∃ t, exec (.messageEjection c 0) s = .next t ∧ t.mesh = [] ∧
        ((t.core c).lane l).ring = [⟨0, f, ws.headD 0, ws.getD 2 0, none, 0, 0, ⟨src, lane⟩⟩] ∧ ((t.core c).lane l).rxcnt = (k.lane l).rxcnt + 1 ∧
        (∀ i x, ws[i]? = some x → t.peek (rawByte c (ringOff ⟨c, l⟩ 0) + 8 * i) = x)) ∧
      (plainClass → (k.lane l).pool = none → p ≠ 0 → h / 2 ^ 60 % 2 = 0 → p ≠ (k.lane l).ptag.toNat → src ≤ Config.mgmtCore → ∃ t,
        exec (.messageEjection c 0) s = .next t ∧ (t.core src).dropcnt = (s.core src).dropcnt + 1 ∧
        (t.part p).drop = (s.part p).drop + 1 ∧ t.mem = s.mem ∧ (lane = none → t.mesh = []) ∧
        (∀ m, lane = some m → let x := s.laneAt ⟨src, m⟩
          t.mesh = [⟨src, none, src, mkHeader src m 58 x.ptag.toNat 1 src false true false ::
            noticeWords 0x08 x.ptag.toNat x.task.toNat 0 0 (s.die (dieOf src)).dtc 0 (ws.headD 0) ++ [0, 0, 0]⟩])) ∧
      (h / 2 ^ 61 % 2 = 1 → (p = 0 ∨ h / 2 ^ 60 % 2 = 1 ∨ p = (k.lane k.mbxOwner).ptag.toNat) → ∃ t, exec (.mailboxPostArrival c 0) s = .next t ∧
        t.mesh = [] ∧ t.mem = s.mem ∧
        let y : BitVec 32 × BitVec 32 := (BitVec.ofNat 32 ((ws.getD 1 0).toNat / 2 ^ 32), (ws.getD 1 0).truncate 32)
        (k.mbxK = 0 → (t.core c).mbx = k.mbx) ∧
        (k.mbx.length < k.mbxK → (t.core c).mbx = (k.mbx.takeWhile (fun z => decide (y.1.toNat ≤ z.1.toNat))) ++
          y :: (k.mbx.dropWhile (fun z => decide (y.1.toNat ≤ z.1.toNat)))) ∧
        (∀ z m, 0 < k.mbxK → k.mbx = m ++ [z] → k.mbx.length = k.mbxK → y.1.toNat ≤ z.1.toNat → (t.core c).mbx = k.mbx)) ∧
      (h / 2 ^ 61 % 2 = 0 → cls = 58 → (p = 0 ∨ h / 2 ^ 60 % 2 = 1 ∨ p = (k.lane l).ptag.toNat) →
        ((k.lane l).noticeq.toNat / 256 = 0 → ∃ t, exec (.noticeArrival c 0) s = .next t ∧ t.mesh = [] ∧ t.mem = s.mem ∧
          (t.core c).dropcnt = k.dropcnt + 1) ∧
        (∀ (pl : Nat → Place), s.cur = ⟨c, l⟩ → s.memoryOk → s.released → s.parked = [] → (k.lane l).noticeq.toNat / 256 ≠ 0 →
          let base : Word := (k.lane l).noticeq &&& ~~~(255 : Word)
          (∀ i, i < 5 → s.plain (base - 64 + BitVec.ofNat 64 (64 * i)) 64 (pl i) ∧ (pl i).isSpad = true) →
          s.peek (s.wordAt (pl 0)) = 0 → ∃ t, exec (.noticeArrival c 0) s = .next t ∧ t.mesh = [] ∧
            t.peek (s.wordAt (pl 0)) = 0x100000000 ∧ (∀ i, i < 4 → t.peek (s.wordAt (pl (i + 1))) = ws.getD (i + 1) 0))))

/-- R204, R250, R255, R261 to R276. The model's choices behind the clauses: the task that a class-57 message names is a free value of its
body (log entry 18); messages of classes 57 and 62 that a lane or another core sent are dropped and counted at the destination (log
entries 28 and 30); a committed task is READY until an order of it goes out (log entry 32); a steal is an attempt of 4 ticks that keeps
DEQ, and an order stays where it is if it is stealable no more (log entry 33); what the unit does by itself waits for the attempt in
progress (log entry 34); DEQ is the tick in which the attempt resolves (log entry 59); die settings apply from the next round (log
entry 71). -/
def Obligations.LaunchUnitResults : Prop :=
  (∀ (s : State) (c src : Nat) (ws : Msg), s.mesh = [⟨src, none, c, ws⟩] → c < Config.mgmtCore → dieOf c ≠ Config.hubDie → s.receives c →
    let h := (ws.headD 0).toNat
    let cls := h / 2 ^ 22 % 64
    let p := h / 2 ^ 28 % 256
    let die := dieOf c
    let tagged : Prop := h / 2 ^ 61 % 2 = 0 ∧ (p = 0 ∨ h / 2 ^ 60 % 2 = 1 ∨ p = ((s.core c).lane (h / 2 ^ 20 % 4)).ptag.toNat)
    let counted (i : Instr) : Prop := ∃ t, exec i s = .next t ∧ t.mesh = [] ∧ t.mem = s.mem ∧
      (t.core c).dropcnt = (s.core c).dropcnt + 1 ∧ (t.part p).drop = (s.part p).drop + 1
    let w (i : Nat) : Word := ws.getD i 0
    let x : Vector Word 8 := #v[w 1, w 2, w 3, w 4, w 5, w 6, w 7, w 8]
    (cls = 56 → tagged → 12 ≤ ws.length →
      (recordBad x = true → counted (.launchRecordIntake c 0)) ∧
      (∀ k, recordBad x = false → (w 1).toNat % 8 ≠ 2 → (w 1).getLsbD 52 = false → w 3 = 0 → w 5 = 0 → (w 7).toNat / 2 ^ 49 % 128 = 0 →
        (w 1).toNat / 2 ^ 28 % 256 = 0 → 0 < (w 7).toNat % 2 ^ 16 → (s.die die).input = [] → (s.die die).allocRun 1 = some k → ∃ t y,
        exec (.launchRecordIntake c 0) s = .next t ∧ t.mesh = [] ∧ (t.die die).task? (BitVec.ofNat 16 k) = some y ∧ y.record = x ∧
        y.state = .waiting ∧ y.deps = (w 7).toNat % 2 ^ 16 ∧ y.ptag.toNat = p ∧ y.home = none)) ∧
    (cls = 57 → tagged → h / 2 ^ 60 % 2 = 0 → counted (.dependenceRelease c 0)) ∧
    (∀ y, cls = 57 → tagged → h / 2 ^ 60 % 2 = 1 → (s.die die).task? (Config.releaseTask (ws.drop 1)) = some y → y.ptag.toNat = p →
      y.state = .waiting → 1 < y.deps → ∃ t, exec (.dependenceRelease c 0) s = .next t ∧ t.mesh = [] ∧
      (t.die die).task? y.id = some { y with deps := y.deps - 1 }) ∧
    (cls = 62 → tagged → src ≠ Config.mgmtCore → counted (.schedDieSettings c 0)) ∧
    (cls = 62 → tagged → src = Config.mgmtCore → (w 1).toNat % 16 = 0 → ∃ t, exec (.schedDieSettings c 0) s = .next t ∧ t.mesh = [] ∧
      t.die die = { s.die die with dieSettings := some ((w 2).truncate 32, BitVec.ofNat 4 ((w 2).toNat / 2 ^ 32)) }) ∧
    (cls = 62 → tagged → src = Config.mgmtCore → (w 1).toNat % 16 = 1 → ∃ t, exec (.schedStampRing c 0) s = .next t ∧ t.mesh = [] ∧
      let q := (w 1).toNat / 2 ^ 8 % 256
      (stampBaseOk (w 2) = true → Table.find (t.die die).stamps q = some (w 2, (w 3).truncate 4)) ∧
      (w 2 = 0 → t.die die = { s.die die with stamps := Table.del (s.die die).stamps q }) ∧
      (w 2 ≠ 0 → stampBaseOk (w 2) = false → (t.core c).dropcnt = (s.core c).dropcnt + 1))) ∧
  (∀ (s : State) (die : Nat) (x : Task), (s.die die).tasks = [x] →
    let d := s.die die
    let q := recQueue x.record
    let noneTaken : Prop := ∀ o, o ∈ d.orders → o.taken = none
    let ageAfter (tick : Word) : Prop := ∀ n y, d.ageing n = some y → tick.toNat < y.2.toNat
    (∀ tick pr, d.evals = [tick] → tick.toNat < d.dtc.toNat → tick.toNat < 2 ^ 63 → d.roundAt = none → d.attempt = none → d.orders = [] →
      d.stealDue = [] → d.heads = [] → x.state = .waiting ∨ x.state = .ready →
      x.place = none → x.inGang = false → x.curve ≠ [] → x.succs = [] → x.home = none → d.stamps = [] → d.settings = [(x.ptag.toNat, pr)] →
      let value := curveAt x.curve ((tick + BitVec.ofNat 64 (recEst x.record)) - x.arr).toNat
      let cost : Int := (pr.1.toNat * recEnergy x.record : Nat)
      ∃ t, exec (.evaluation die) s = .next t ∧ (t.die die).evals = [] ∧ (t.die die).settings = [] ∧
        (t.die die).priceOf x.ptag.toNat = pr ∧ t.mem = s.mem ∧ ∃ y, (t.die die).task? x.id = some y ∧
        (value * 2 ^ 20 < cost → y.state = .abandoned ∧ t.mesh.length = s.mesh.length + 1) ∧ (cost ≤ value * 2 ^ 20 → y = x ∧ t.mesh = s.mesh)) ∧
    (∀ tick, d.roundAt = some tick → tick.toNat < d.dtc.toNat → d.evals = [] → d.attempt = none → d.stealDue = [] → noneTaken → ageAfter tick →
      x.queued = true → x.inGang = false → x.place = none → ∃ t, exec (.placementRound die) s = .next t ∧ (t.die die).roundAt = none ∧
      (t.die die).attempt = some ⟨x.id, [], tick + 4, [], none⟩ ∧ (t.die die).task? x.id = some x ∧ (t.die die).dieSettings = none ∧
      (d.dieSettings = none → (t.die die).agelimit = d.agelimit ∧ (t.die die).stealp = d.stealp) ∧
      (∀ a p, d.dieSettings = some (a, p) → (t.die die).agelimit = a ∧ (t.die die).stealp = p)) ∧
    (∀ a, d.attempt = some a → a.head = x.id → a.rest = [] → a.held = [] → a.thief = none → a.due.toNat < d.dtc.toNat → d.evals = [] →
      d.roundAt = none → d.stealDue = [] → d.offers = [] → noneTaken → ageAfter a.due → x.queued = true → x.inGang = false → x.place = none →
      (die < Config.hubDie → x.ptag = 0 → s.parts = [] → s.sectors = [] → s.hold = false → s.shares = [] → ∃ t y, exec (.placementAttempt die) s = .next t ∧
        (t.die die).attempt = none ∧ (t.die die).task? x.id = some y ∧
        y.place = some (die % 8 * 64, die / 8 * 64) ∧ y.queued = false ∧ y.deq = a.due ∧
        (recCols x.record = 0 → recRows x.record = 0 →
          (t.die die).orders = d.orders ++ [⟨x.id, die % 8 * 8 * 32 + die / 8 * 8, false, none⟩])) ∧
      (s.findPlace die x [] = none → ∃ t, exec (.placementAttempt die) s = .next t ∧ (t.die die).attempt = none ∧
        (t.die die).task? x.id = some { x with failp := x.failp + 1 })) ∧
    (∀ since, d.heads = [(q, x.id, since)] → d.agelimit ≠ 0 → x.queued = true → x.inGang = false → x.target = none → x.place = none →
      d.attempt = none → d.evals = [] → d.roundAt = none → d.stealDue = [] → d.offers = [] → noneTaken →
      since.toNat + d.agelimit.toNat + 1 < d.dtc.toNat →
      let due := since + d.agelimit.setWidth 64 + 1
      let xs := (cheapest x [] ((s.regions die x.ptag.toNat).flatMap (fun r => r.origins x))).getD []
      ∃ t, exec (.reserving die q) s = .next t ∧ (t.die die).task? x.id = some { x with target := some xs } ∧
        (t.die die).roundAt = none ∧ (t.die die).attempt = some ⟨x.id, [], due + 4, [], none⟩) ∧
    (∀ x0 y0 held, x.place = some (x0, y0) → recCols x.record = 0 → recRows x.record = 0 → recKind x.record = 0 → x0 < 512 → y0 < 256 →
      let cl := x0 * 256 + y0
      let sec := sectorOf (cl * 8)
      (d.orders = [⟨x.id, sec, held, none⟩] →
        (s.withholds sec x.ptag.toNat = false → ∃ t, exec (.dispense die 0) s = .next t ∧ t.mesh = s.mesh ∧
          (t.die die).orders = [⟨x.id, sec, held, some d.dtc⟩] ∧ (t.die die).task? x.id = some { x with state := .running }) ∧
        (s.hot sec = true → s.overPower x.ptag.toNat = false → ∃ t, exec (.dispense die 0) s = .next t ∧ t.mesh = s.mesh ∧
          (t.die die).orders = [⟨x.id, sec, true, none⟩] ∧ (t.die die).task? x.id = some x)) ∧
      (∀ tick, d.orders = [⟨x.id, sec, held, some tick⟩] → let t := s.endTaken die
        (s.withholds sec x.ptag.toNat = false → (t.die die).orders = [] ∧
          (∃ y, (t.die die).task? x.id = some y ∧ y.state = .running ∧ y.sent = true ∧ y.held = (d.dtc - x.deq).toNat) ∧
          t.mesh = s.mesh ++ ((List.range 8).filter (fun k => (recCmask x.record).testBit k)).map (fun k => ⟨hubSource + 1 + sec, none, cl * 8 + k,
            [mkHeader (cl * 8 + k) (recLane x.record) (recClass x.record) x.ptag.toNat 0 (cl * 8 + k) true true false, recWord x.record 1,
             BitVec.ofNat 64 ((if x.inGang then recGidx x.record else 0) * 2 ^ 8 + recStage x.record * 2 ^ 16 + x.id.toNat * 2 ^ 32), 0]⟩)) ∧
        (s.hot sec = true → s.overPower x.ptag.toNat = false → t.mesh = s.mesh ∧ (t.die die).orders = [⟨x.id, sec, true, none⟩] ∧
          (t.die die).task? x.id = some { x with state := if x.sent = true then .running else .ready })) ∧
      (d.orders = [⟨x.id, sec, true, none⟩] → s.hot sec = true → s.overPower x.ptag.toNat = false → x.inGang = false → x.state = .ready →
        x.queued = false → x.target = none → d.roundAt = none → d.evals = [] → d.offers = [] → d.heads = [] →
        (∀ tick, d.stealDue = [tick] → tick.toNat < d.dtc.toNat → d.attempt = none → ∃ t, exec (.steal die) s = .next t ∧ t.mesh = s.mesh ∧
          (t.die die).stealDue = [] ∧ (t.die die).offers = [] ∧ (t.die die).orders = d.orders ∧ (t.die die).task? x.id = some x ∧
          (t.die die).attempt = some ⟨x.id, [], tick + 4, [(cl, recLane x.record)], some sec⟩) ∧
        (∀ due hs, d.stealDue = [] → d.attempt = some ⟨x.id, [], due, hs, some sec⟩ → due.toNat < d.dtc.toNat →
          let place := firstSome (fun n => (s.stealPlace die x hs n).map (fun c => (n, c))) (neighbours sec)
          ∃ t, exec (.placementAttempt die) s = .next t ∧ t.mesh = s.mesh ∧ (t.die die).attempt = none ∧
          (∀ n c, place = some (n, c) → (t.die die).task? x.id = some { x with place := some c } ∧
            (t.die die).orders = [⟨x.id, n, false, none⟩]) ∧
          (place = none → (t.die die).task? x.id = some { x with fails := x.fails + 1 } ∧ (t.die die).orders = d.orders)))))

/-- R231 to R239. That an order which is taken in a tick goes out as the tick ends is the model's reading of R278 (log entry 33). -/
def Obligations.PoolResults : Prop :=
  (∀ (s : State) (die c : Nat) (x : Task) (sec : Nat) (held : Bool) (rest : List Nat), (s.die die).tasks = [x] →
    recKind x.record = 1 → x.cores = c :: rest → s.withholds sec x.ptag.toNat = false →
    let d := s.die die
    let r : LaneRef := ⟨c, recLane x.record⟩
    (d.orders = [⟨x.id, sec, held, none⟩] → ∃ t, exec (.poolOpen die x.id.toNat) s = .next t ∧ t.mesh = s.mesh ∧ t.cores = s.cores ∧
      (t.die die).orders = [⟨x.id, sec, held, some d.dtc⟩] ∧ (t.die die).task? x.id = some { x with state := .running }) ∧
    (∀ tick, d.orders = [⟨x.id, sec, held, some tick⟩] → x.sent = false →
      let v := (s.setDie die { d with orders := [⟨x.id, sec, held, none⟩] }).untake die x
      let t := s.endTaken die
      (∀ u p, v.poolCheck r x = .ok (u, some p) → u.dies = v.dies → (t.laneAt r).pool = some p ∧
        (t.die die).orders = [] ∧ ∃ y, (t.die die).task? x.id = some y ∧ y.state = .running ∧ y.sent = true) ∧
      (∀ u, v.poolCheck r x = .ok (u, none) → u.dies = v.dies → x.deq ≠ d.dtc → x.inGang = false → x.succs = [] → x.home = none →
        d.stamps = [] → (t.die die).orders = [] ∧ ∃ y, (t.die die).task? x.id = some y ∧ y.state = .abandoned))) ∧
  (∀ (s : State) (c l : Nat) (p : Pool), l < 4 → c < Config.mgmtCore → (s.laneAt ⟨c, l⟩).pool = some p →
    let r : LaneRef := ⟨c, l⟩
    let x := s.laneAt r
    (∀ src ws, s.mesh = [⟨src, none, c, ws⟩] → s.receives c → x.save = .none →
      let h := (ws.headD 0).toNat
      let e := (ws.getD 1 0).toNat % 2 ^ 16
      h / 2 ^ 20 % 4 = l → h / 2 ^ 22 % 64 = p.cls.toNat → p.cls.toNat < 56 → h / 2 ^ 59 % 8 = 0 → (h / 2 ^ 28 % 256 = 0 ∨ h / 2 ^ 28 % 256 = x.ptag.toNat) →
      (∀ n rest, e < 0xFFFE → p.closed = false → p.ebase ≤ e → e < p.ebase + p.nexp → 128 + p.roww ≤ 64 * ws.length → p.bufs = [] → p.free = n :: rest →
        p.roww % 64 = 0 → p.pbase % 64 = 0 → p.pageAt n + p.psz ≤ 2097152 → s.memoryOk → s.parked = [] →
        (∀ i, i < p.psz / 64 → s.clean (rawByte c (p.pageAt n + 64 * i))) → ∃ t, exec (.poolMessageArrival c 0) s = .next t ∧ t.mesh = [] ∧
        (t.laneAt r).pool = some { p with bufs := [(e, ⟨n, 1⟩)], free := rest } ∧ t.peek (rawByte c (p.pageAt n)) = ws.getD 1 0 ∧
        (∀ j, j < p.roww / 64 → t.peek (rawByte c (p.pageAt n + 2048 + 64 * j)) = ws.getD (2 + j) 0)) ∧
      (e < 0xFFFE → p.closed = true ∨ e < p.ebase ∨ p.ebase + p.nexp ≤ e ∨ 64 * ws.length < 128 + p.roww → ∃ t, exec (.poolMessageArrival c 0) s = .next t ∧ t.mem = s.mem ∧
        (t.core c).dropcnt = (s.core c).dropcnt + 1 ∧ t.mesh.length = 1 ∧ (t.laneAt r).pool = some p) ∧
      (p.closed = false → ∀ b, p.bufs = [b] →
        let q := { p with bufs := [], tiles := p.tiles ++ [⟨b.1, b.2.count, b.2.page, 2⟩] }
        (e = 0xFFFF → ∃ t, exec (.flush c 0) s = .next t ∧ t.mesh = [] ∧ (t.laneAt r).pool = some q ∧ t.mem = s.mem) ∧
        (e = 0xFFFE → ∃ t, exec (.close c 0) s = .next t ∧ t.mesh = [] ∧ t.mem = s.mem ∧
          (t.laneAt r).pool = some { q with closed := true, tiles := q.tiles ++ [⟨0, 0, 0, 3⟩] }))) ∧
    (∀ src ws, x.ejbuf = some ⟨⟨src, none, c, ws⟩, .page⟩ → x.save = .none →
      let h := (ws.headD 0).toNat
      let e := (ws.getD 1 0).toNat % 2 ^ 16
      h / 2 ^ 20 % 4 = l → h / 2 ^ 22 % 64 = p.cls.toNat →
      (∀ b, p.closed = false → e < 0xFFFE → p.ebase ≤ e → e < p.ebase + p.nexp → 128 + p.roww ≤ 64 * ws.length → p.bufs = [b] → b.1 ≠ e → p.free = [] →
        p.tiles = [] → x.ring = [] → ∃ t, exec (.poolForcedLaunch c l) s = .next t ∧ t.mem = s.mem ∧
        (t.laneAt r).pool = some { p with bufs := [], tiles := [⟨b.1, b.2.count, b.2.page, 1⟩] })) ∧
    (∀ g rest, p.tiles = g :: rest → x.ring = [] → ∃ t, exec (.tileMessageEntry c l) s = .next t ∧
      (t.laneAt r).pool = some { p with tiles := rest } ∧ (t.laneAt r).rxcnt = x.rxcnt + 1 ∧ ∃ e, (t.laneAt r).ring = [e] ∧ e.slot = 0 ∧
      e.flits = 1 ∧ e.tile = some (g.page, g.kind) ∧ e.task = p.task ∧ e.place.toNat = p.stage.toNat * 2 ^ 16))

/-- R333, R336, R337, R339, R340. The model's choices behind the clauses: a packet enters the buffer within the step that causes it,
behind the SYNC packets that are due (log entry 43); a module's reply and a trace packet are stored without the check of R27 order 7, and
a stop that names a lane of another partition stops the request's own lanes first and then answers 2 (log entry 73); the encoder's stores
go three to a packet, the control word last (log entry 86). -/
def Obligations.DebugResults : Prop :=
  (∀ (s : State) (src : Nat) (lane : Option Nat) (c : Nat) (ws : Msg), s.mesh = [⟨src, lane, c, ws⟩] →
    s.linksClear = true → s.stuck = [] → (∀ l e, ((s.core c).lane l).ejbuf = some e → e.flight.isDebug = false) →
    let h := (ws.headD 0).toNat
    let w := (ws.getD 1 0).toNat
    let v := ws.getD 2 0
    let ra := ws.getD 3 0
    let op := w % 16
    let l := w / 2 ^ 4 % 4
    let sel := w / 2 ^ 8 % 4
    let idx : Nat := w / 2 ^ 16 % 2 ^ 12
    let p := h / 2 ^ 28 % 256
    let r : LaneRef := ⟨c, l⟩
    let s0 : State := { s with mesh := [] }
    let x := s.laneAt r
    let d := (s.core c).dbg
    let mine (n : Nat) : Prop := p = 0 ∨ (s.laneAt ⟨c, n⟩).part = p
    let ans (i : Instr) (t : State) (y : Word) (st : Nat) : Prop := exec i s = .next (t.dbgReply ra y st)
    let withDbg (e : Debug) : State := s0.setCore c { s0.core c with dbg := e }
    h / 2 ^ 61 % 2 = 0 → h / 2 ^ 22 % 64 = 60 →
    (op = 0 → (p ≠ 0 → ans (.debugReadRegister c 0) s0 0 2) ∧ (p = 0 →
      (idx = 0 → ans (.debugReadRegister c 0) s0
        (BitVec.ofNat 64 (d.arm.toNat + d.ten.toNat * 2 ^ 4 + d.tlm.toNat * 2 ^ 8 + d.tkind.toNat * 2 ^ 16)) 1) ∧
      (idx = 1 → ans (.debugReadRegister c 0) s0 (BitVec.ofNat 64 ((s.laneAt ⟨c, 0⟩).dstop.toNat + (s.laneAt ⟨c, 1⟩).dstop.toNat * 2 +
        (s.laneAt ⟨c, 2⟩).dstop.toNat * 4 + (s.laneAt ⟨c, 3⟩).dstop.toNat * 8)) 1) ∧
      (∀ n : Fin 4, (idx = 2 + n.val → ans (.debugReadRegister c 0) s0 d.bp[n] 1) ∧ (idx = 16 + n.val → ans (.debugReadRegister c 0) s0 d.dpc[n] 1) ∧
        (idx = 20 + n.val → ans (.debugReadRegister c 0) s0 ((d.dcause[n]).setWidth 64) 1) ∧ (idx = 24 + n.val → ans (.debugReadRegister c 0) s0 d.dval[n] 1)) ∧
      (idx = 6 → ans (.debugReadRegister c 0) s0 d.bpcfg 1) ∧ (∀ n : Fin 2, idx = 7 + n.val → ans (.debugReadRegister c 0) s0 d.wp[n] 1) ∧
      (idx = 9 → ans (.debugReadRegister c 0) s0 d.wpcfg 1) ∧ (idx = 10 → ans (.debugReadRegister c 0) s0 d.trcbase 1) ∧
      (idx = 11 → ans (.debugReadRegister c 0) s0 (BitVec.ofNat 64 (d.nsz.toNat + d.tdrop.toNat * 2 ^ 32)) 1) ∧
      ((12 ≤ idx ∧ idx < 16) ∨ 28 ≤ idx → ans (.debugReadRegister c 0) s0 0 4))) ∧
    (op = 1 → (p ≠ 0 → ans (.debugWriteRegister c 0) s0 0 2) ∧ (p = 0 →
      let d := d.emitSync c
      (idx = 0 → let e : Debug := { d with arm := v.truncate 4, ten := v.getLsbD 4, tlm := BitVec.ofNat 4 (v.toNat / 2 ^ 8), tkind := BitVec.ofNat 6 (v.toNat / 2 ^ 16) }
        (d.ten = true ∨ v.getLsbD 4 = false → ans (.debugWriteRegister c 0) (withDbg e) 0 1) ∧
        (d.ten = false → v.getLsbD 4 = true → ans (.debugWriteRegister c 0) ((withDbg e).trace ⟨c, 0⟩ 0 (s.die (dieOf c)).dtc) 0 1)) ∧
      (∀ n : Fin 4, (idx = 2 + n.val → ans (.debugWriteRegister c 0) (withDbg { d with bp := d.bp.set n v }) 0 1) ∧
        (idx = 16 + n.val → ans (.debugWriteRegister c 0) (withDbg { d with dpc := d.dpc.set n (v &&& ~~~(15 : Word)) }) 0 1)) ∧
      (idx = 6 → ans (.debugWriteRegister c 0) (withDbg { d with bpcfg := v &&& 0x1F1F1F1F }) 0 1) ∧
      (∀ n : Fin 2, idx = 7 + n.val → ans (.debugWriteRegister c 0) (withDbg { d with wp := d.wp.set n v }) 0 1) ∧
      (idx = 9 → ans (.debugWriteRegister c 0) (withDbg { d with wpcfg := v &&& 0xFFFF00F7FFFF00F7 }) 0 1) ∧
      (idx = 10 → ans (.debugWriteRegister c 0) (withDbg { d with trcbase := v &&& ~~~(127 : Word) }) 0 1) ∧
      (idx = 11 → ans (.debugWriteRegister c 0) (withDbg { d with nsz := v.truncate 4, tdrop := BitVec.ofNat 32 (v.toNat / 2 ^ 32) }) 0 1) ∧
      (idx = 1 ∨ (20 ≤ idx ∧ idx < 28) → ans (.debugWriteRegister c 0) (withDbg d) 0 1) ∧
      ((12 ≤ idx ∧ idx < 16) ∨ 28 ≤ idx → ans (.debugWriteRegister c 0) s0 0 4))) ∧
    (op = 2 → d.replies = [] →
      let named (n : Nat) : Prop := n < 4 ∧ v.getLsbD n = true
      let asked (t : State) : Prop := t.mesh = [] ∧ t.mem = s.mem ∧ ∀ n, n < 4 →
        (named n ∧ mine n ∧ (s.laneAt ⟨c, n⟩).dstop = false → t.laneAt ⟨c, n⟩ = { s.laneAt ⟨c, n⟩ with dbgStopReq := true }) ∧
        (¬(named n ∧ mine n ∧ (s.laneAt ⟨c, n⟩).dstop = false) → t.laneAt ⟨c, n⟩ = s.laneAt ⟨c, n⟩)
      ((∃ n, named n) → (∀ n, named n → ¬mine n) → ∃ u, ans (.debugStop c 0) u 0 2 ∧ asked u ∧ (u.core c).dbg = d) ∧
      ((∃ n, named n ∧ mine n ∧ (s.laneAt ⟨c, n⟩).dstop = false) → ∃ t m st, exec (.debugStop c 0) s = .next t ∧ asked t ∧
        (t.core c).dbg.replies = [(m, ra, st)] ∧ (∀ n, n < 4 → (m.getLsbD n = true ↔ named n ∧ mine n)) ∧
        ((∃ n, named n ∧ ¬mine n) → st = 2) ∧ ((∀ n, named n → mine n) → st = 1))) ∧
    (∀ i : Instr, (op = 3 ∧ i = .debugResume c 0) ∨ (op = 4 ∧ i = .debugStep c 0) ∨ (op = 5 ∧ i = .debugReadLaneState c 0) ∨
        (op = 6 ∧ i = .debugWriteLaneState c 0) →
      (¬mine l → ans i s0 0 2) ∧ (mine l → x.dstop = false → ans i s0 0 3)) ∧
    (mine l → x.dstop = true → ∀ n : Fin 4, n.val = l →
      let back (skip step : Bool) : Lane := { x with dstop := false, dbgStopReq := false, dbgStep := step, ahead := none
                                                     dbgSkip := skip || d.dcause[n] == 0x14 }
      let moved (y : Lane) : Lane := if x.run = .idle ∧ d.dpc[n] = 0 then y
        else { y with pc := d.dpc[n], run := if x.run = .idle then .running else x.run }
      (op = 3 → ans (.debugResume c 0) (s0.setLaneAt r (moved (back (v.getLsbD 0) false))) 0 1) ∧
      (op = 4 → ∃ t, exec (.debugStep c 0) s = .next t ∧ t.laneAt r = moved (back false true) ∧ t.mem = s.mem ∧
        (t.core c).dbg = { d with replies := d.replies ++ [(BitVec.ofNat 4 (2 ^ l), ra, 1)] }) ∧
      (op = 5 → let s1 := s0.meetLost r (· == dbgPart sel idx)
        (sel = 0 → idx < 32 → ans (.debugReadLaneState c 0) s1 (x.s (BitVec.ofNat 5 idx)) 1) ∧
        (sel = 1 → ∀ y, s0.crRead r idx = some y → ans (.debugReadLaneState c 0) s1 y 1) ∧
        (sel = 2 → ans (.debugReadLaneState c 0) s1 x.pc 1) ∧
        (sel = 3 → idx < 128 → ans (.debugReadLaneState c 0) s1 (BitVec.ofNat 64 (vget (x.v (BitVec.ofNat 5 (idx / 4))) 64 (idx % 4))) 1) ∧
        ((sel = 0 ∧ 32 ≤ idx) ∨ (sel = 1 ∧ s0.crRead r idx = none) ∨ (sel = 3 ∧ 128 ≤ idx) → ans (.debugReadLaneState c 0) s0 0 4)) ∧
      (op = 6 → (sel = 0 → idx < 32 → ans (.debugWriteLaneState c 0) (s0.setLaneAt r (x.setS (BitVec.ofNat 5 idx) v)) 0 1) ∧
        (sel = 1 → (s0.crRead r idx).isSome = true → crRefuses idx v = false → ans (.debugWriteLaneState c 0) (s0.crSet r idx v) 0 1) ∧
        (sel = 2 → ans (.debugWriteLaneState c 0) (s0.setLaneAt r { x with pc := v &&& ~~~(15 : Word) }) 0 1) ∧
        (sel = 3 → idx < 128 → ∃ y, ans (.debugWriteLaneState c 0) (s0.setLaneAt r (x.setV (BitVec.ofNat 5 (idx / 4)) y)) 0 1 ∧
          ∀ j, j < 4 → vget y 64 j = if j = idx % 4 then v.toNat else vget (x.v (BitVec.ofNat 5 (idx / 4))) 64 j) ∧
        ((sel = 0 ∧ 32 ≤ idx) ∨ (sel = 1 ∧ s0.crRead r idx = none) ∨ (sel = 3 ∧ 128 ≤ idx) → ans (.debugWriteLaneState c 0) s0 0 4))) ∧
    (op = 7 → (mine l → ans (.debugMark c 0) (s0.trace r 7 v) 0 1) ∧ (¬mine l → ans (.debugMark c 0) s0 0 2)) ∧
    (8 ≤ op → ans (.debugUnassignedOp c 0) s0 0 4)) ∧
  (∀ (s : State) (c l : Nat) (n : Fin 4), n.val = l →
    let r : LaneRef := ⟨c, l⟩
    let x := s.laneAt r
    (s.untraced r → x.dbgStopReq = true → x.run = .running → x.dstop = false → x.dbgStep = false → (s.core c).dbg.replies = [] →
      ∃ t, exec (.debugStopEffect c l) s = .next t ∧ t.mem = s.mem ∧ (t.laneAt r).dstop = true ∧ (t.laneAt r).dbgStopReq = false ∧
      (t.laneAt r).run = .running ∧ (t.core c).dbg.dpc[n] = x.pc &&& ~~~(15 : Word) ∧ (t.core c).dbg.dcause[n] = 0x15 ∧ (t.core c).dbg.dval[n] = 0) ∧
    (let first : Debug := { (s.core c).dbg with syncDue := [] }
     let all : Debug := (s.core c).dbg.syncDue.foldl (fun e tick => if e.packets.length < 32 then
       { e with packets := e.packets ++ [(BitVec.ofNat 64 (tick.toNat % 2 ^ 36 + c % 2 ^ 20 * 2 ^ 44), tick)] }
       else { e with tdrop := e.tdrop + 1 }) first
     exec (.traceSync c) s = .next (s.setCore c { s.core c with dbg := all }))) ∧
  (∀ (s : State) (a y : Word) (st core off : Nat), s.memoryOk → s.parked = [] → a.toNat % 64 = 0 → st < 256 → core < Config.mgmtCore →
    decodeWindow a = some (.global core off) → decodeWindow (a + 64) = some (.global core (off + 64)) →
    let pa := Config.spadBase + core * 65536 + off / 8
    (s.dbgReply a y st).peek pa = BitVec.ofNat 64 st ∧ (s.dbgReply a y st).peek (pa + 8) = y ∧
      (s.dbgReply a y st).tag pa = 1) ∧
  (∀ (s : State) (r : LaneRef) (kind : Nat) (data : Word),
    let d := (s.core r.core).dbg
    let t := s.trace r kind data
    let head := BitVec.ofNat 64 ((s.die (dieOf r.core)).dtc.toNat % 2 ^ 36 + kind * 2 ^ 36 + r.lane * 2 ^ 40 + r.core % 2 ^ 20 * 2 ^ 44)
    t.mem = s.mem ∧ t.mesh = s.mesh ∧ (d.ten = false → t = s) ∧
    (d.ten = true → d.syncDue = [] →
      (kind = 0 ∨ kind = 7 ∨ (0 < kind ∧ kind < 7 ∧ r.lane < 4 ∧ d.tlm.getLsbD r.lane = true ∧ d.tkind.getLsbD (kind - 1) = true)) →
      (t.core r.core).dbg = if d.packets.length < 32 then { d with packets := d.packets ++ [(head, data)] } else { d with tdrop := d.tdrop + 1 })) ∧
  (∀ (s : State) (c core off : Nat) (p : Word × Word) (rest : List (Word × Word)), s.memoryOk → s.parked = [] → core < Config.mgmtCore →
    64 ≤ off → off % 64 = 0 →
    let d := (s.core c).dbg
    let at_ (o : Nat) : Nat := Config.spadBase + core * 65536 + o / 8
    let x := (s.peek (at_ (off - 64))).toNat
    let n := x / 2 ^ 32
    let k := off + 128 * (n % 2 ^ d.nsz.toNat)
    d.packets = p :: rest → d.stored = 0 →
    decodeWindow d.trcbase = some (.global core off) → decodeWindow (d.trcbase - 64) = some (.global core (off - 64)) →
    k + 128 ≤ 524288 → s.clean (at_ (off - 64)) →
    ((n + 2 ^ 32 - x % 2 ^ 32) % 2 ^ 32 ≠ 2 ^ d.nsz.toNat → let t := s.encoderStores c 3
      t.peek (at_ k) = p.1 ∧ t.peek (at_ (k + 64)) = p.2 ∧
      t.peek (at_ (off - 64)) = BitVec.ofNat 64 (x % 2 ^ 32 + (n + 1) % 2 ^ 32 * 2 ^ 32) ∧ (t.core c).dbg = { d with packets := rest }) ∧
    ((n + 2 ^ 32 - x % 2 ^ 32) % 2 ^ 32 = 2 ^ d.nsz.toNat → let t := s.encoderStores c 1
      t.mem = s.mem ∧ (t.core c).dbg = { d with packets := rest, tdrop := d.tdrop + 1 }))

/-- R193, R316, R318, R320 to R323, R326, R331. The model's choices behind the clauses: what is metered is the free energy of each step,
every tag's counted (log entry 9); gating covers a debug stop, which covers the rest, in STATE (log entry 12); a notice of the hub has SRC
0 and enters the mesh at the management core (log entry 31); a sample's temperature and a rail's current are arguments of the event, cut
to their field (log entry 75). -/
def Obligations.PowerResults : Prop :=
  ∀ (s : State),
    let hub := (s.die Config.hubDie).dtc
    let raised (t : State) (c : BitVec 8) (v : Word) : Prop :=
      t.mgmt.alerts = (insertBy Alert.le ⟨c, v, hub⟩ s.mgmt.alerts).take 16 ∧
      t.mgmt.ovf = (s.mgmt.ovf || decide (16 ≤ s.mgmt.alerts.length))
    let defined := s.parts.filter (fun p => p.1 != 0 && p.2.live.v)
    (∀ n T, n < 2048 → let x := s.sector n
      let die := n % 32 / 8 * 8 + n / 32 / 8
      let T := T % 4096
      ∃ t, exec (.sectorSample n T) s = .next t ∧ t.mem = s.mem ∧
      let y := t.sector n
      y.temp = T ∧ y.tick = (s.die die).dtc.truncate 40 ∧ y.tlim = x.tlim ∧ y.talert = x.talert ∧ y.hys = x.hys ∧ y.throttle = x.throttle ∧
      y.trip = (if 840 ≤ T then true else if T + x.hys.toNat < 840 then false else x.trip) ∧
      y.isOver = (if x.tlim.toNat ≤ T then true else if T + x.hys.toNat < x.tlim.toNat then false else x.isOver) ∧
      (x.talert.toNat ≤ T → x.arm = true → y.arm = false ∧ raised t 0x20 (BitVec.ofNat 64 n)) ∧
      (x.talert.toNat ≤ T → x.arm = false → y.arm = false ∧ t.mgmt = s.mgmt) ∧
      (T < x.talert.toNat → y.arm = (if T + x.hys.toNat < x.talert.toNat then true else x.arm) ∧ t.mgmt = s.mgmt) ∧
      let stops : Prop := (x.isOver || x.trip) = true ∧ (y.isOver || y.trip) = false ∧
        (s.overPower 0 = false ∨ ∃ q, q ∈ defined ∧ s.overPower q.1 = false)
      (stops → (t.die die).roundAt = some (((s.die die).roundAt.map (fun r => earlier r (s.die die).dtc)).getD (s.die die).dtc)) ∧
      (¬stops → t.dies = s.dies)) ∧
    (∀ n T, n < 16 → let x := s.memStack n
      let T := T % 4096
      ∃ t, exec (.stackSample n T) s = .next t ∧ t.mem = s.mem ∧
      let y := t.memStack n
      y.temp = T ∧ y.hot = (if 680 ≤ T then true else if T < 640 then false else x.hot) ∧
      (800 ≤ T → x.armed = true → y.armed = false ∧ raised t 0x21 (BitVec.ofNat 64 n)) ∧
      (800 ≤ T → x.armed = false → y.armed = false ∧ t.mgmt = s.mgmt) ∧
      (T < 800 → y.armed = (if T < 776 then true else x.armed) ∧ t.mgmt = s.mgmt) ∧
      (y.hot = x.hot → t.mesh = s.mesh) ∧ (y.hot ≠ x.hot → t.mesh.length = s.mesh.length + defined.length ∧
        ∀ q, defined = [q] → ∃ h, t.mesh = s.mesh ++ [⟨Config.mgmtCore, none, q.2.live.supc.toNat, [h, BitVec.ofNat 64 (0x09 + q.1 % 256 * 2 ^ 8),
          hub, BitVec.ofNat 64 (if y.hot = true then 0xC000 else 0x10000), BitVec.ofNat 64 n, 0, 0, 0]⟩] ∧
          h.toNat / 2 ^ 22 % 64 = 58 ∧ h.toNat / 2 ^ 28 % 256 = q.1 % 256)) ∧
    (∀ n T, 2048 ≤ n → exec (.sectorSample n T) s = .next s) ∧ (∀ n T, 16 ≤ n → exec (.stackSample n T) s = .next s) ∧
    (let ps : List Nat := defined.map (·.1);
      ps.Nodup →
      let energy (p : Nat) : Word := (s.dies.map (fun d => Table.get 0 d.2.accj p)).sum
      let D (p : Nat) : Nat := (energy p - (s.share p).charged).toNat / 16
      let S (p : Nat) : Nat := (s.share p).share
      let E (p : Nat) : Nat := if (s.share p).known = true then (s.share p).eff else S p
      let dem (p : Nat) : Bool := s.heldForPower p || decide (15 * E p ≤ 16 * D p)
      let lent := ((ps.filter (fun p => !dem p)).map (fun p => min (S p) (D p + S p / 16))).sum
      let want := ((ps.filter dem).map S).sum
      let spare := 8400 - (lent + want)
      let metered (p : Nat) : Prop := p = 0 ∨ ∃ d, d ∈ s.dies ∧ ∃ v, (p, v) ∈ d.2.accj
      let n := s.hub.periods + 1
      1000 * n ≤ hub.toNat →
      ∃ t, exec (.powerPeriod n) s = .next t ∧ t.mem = s.mem ∧ t.hub = { s.hub with periods := n } ∧
      (∀ ks : List Nat, ks.Nodup → (∀ p, p ∈ ks ↔ metered p) → t.hold = (s.hold && decide (10000 ≤ (ks.map D).sum))) ∧
      ∀ p, p ∈ ps → (t.share p).share = S p ∧ (t.share p).draw = D p ∧ (t.share p).dem = dem p ∧ (t.share p).known = true ∧
        (t.share p).withheld = false ∧ (metered p → (t.share p).charged = energy p) ∧
        (t.share p).eff = if dem p = false then min (S p) (D p + S p / 16)
          else if want = 0 then spare / (ps.filter dem).length else S p + spare * S p / want) ∧
    (∀ n, n ≠ s.hub.periods + 1 ∨ hub.toNat < 1000 * n → exec (.powerPeriod n) s = .next s) ∧
    (∀ n a, n < 8 → let x := Table.get Rail.reset s.rails n
      let a := a % 65536
      let since := x.since.getD hub
      let late : Bool := decide (20000 < (hub - since).toNat)
      ∃ t, exec (.railCurrent n a) s = .next t ∧
      Table.get Rail.reset t.rails n = (if a ≤ 2083 then ⟨a, none, false⟩ else ⟨a, some since, x.raised || late⟩) ∧
      (2083 < a → late = true → x.raised = false → t.hold = true ∧ raised t 0x22 (BitVec.ofNat 64 n)) ∧
      (a ≤ 2083 ∨ late = false ∨ x.raised = true → t.hold = s.hold ∧ t.mgmt = s.mgmt)) ∧
    (∀ n a, 8 ≤ n → exec (.railCurrent n a) s = .next s) ∧
    (∀ n, ∃ t, exec (.coolant n) s = .next t ∧ raised t 0x23 (BitVec.ofNat 64 n)) ∧
    (∀ q, q < 262144 → Table.sorted s.quads = true → ∃ t v, exec (.operatingPointChange q) s = .next t ∧
      let x (i l : Nat) : Lane := s.laneAt ⟨4 * q + i, l⟩
      (∀ i l, i < 4 → l < 4 → s.stateCode (x i l) ≠ 0 → (x i l).point ≤ v) ∧
      (v = 0 ∨ ∃ i l, i < 4 ∧ l < 4 ∧ s.stateCode (x i l) ≠ 0 ∧ (x i l).point = v) ∧
      (∀ p, (s.quad q).change = some p → t.quad q = ⟨p, none⟩) ∧
      ((s.quad q).change = none → t.quad q = ⟨(s.quad q).point, if v = (s.quad q).point then none else some v⟩)) ∧
    (∀ q, 262144 ≤ q → exec (.operatingPointChange q) s = .next s) ∧
    (∀ router dir, let n := router % 2 ^ 17 + dir % 4 * 2 ^ 17
      let x := s.link n
      (linkExists router dir = true →
        (x.fails < 8 → x.down = false → exec (.flitRetry router dir) s =
          .next { s with links := Table.put s.links n { x with retry := x.retry + 1, fails := x.fails + 1 } }) ∧
        (8 ≤ x.fails ∨ x.down = true → exec (.flitRetry router dir) s = .next s) ∧
        (8 ≤ x.fails → x.down = false →
          exec (.linkRetrain router dir) s = .next { s with links := Table.put s.links n { x with train := x.train + 1, down := true } })) ∧
      (x.fails < 8 ∨ x.down = true → exec (.linkRetrain router dir) s = .next s) ∧
      (linkExists router dir = false → exec (.flitRetry router dir) s = .next s ∧ exec (.linkRetrain router dir) s = .next s) ∧
      (x.down = true → exec (.linkRetrainDone router dir) s =
        .next { s with links := Table.put s.links n { x with down := false, fails := 0 } })) ∧
    (∀ x y, x < 511 → y < 256 → (linkExists (x * 256 + y) 0 = true ↔ x % 64 ≠ 63 ∨ y % 2 = 0)) ∧
    (∀ a rest, s.mgmt.alerts = a :: rest → s.alertReady a = true →
      let r : LaneRef := ⟨Config.mgmtCore, 0⟩
      (∀ u e u1 e1, s.trapHandler r = (u, some e) → a.cause.toNat ∈ [0x20, 0x21, 0x22, 0x23] → u.untraced r → (u.laneAt r).intrap = false →
        (({ u with mgmt := { u.mgmt with alerts := rest } } : State).withdraw r).trapHandler r = (u1, some e1) →
        exec .alertTake s = .next (u1.setLaneAt r { u.laneAt r with
          req := none, trapcause := a.cause, trapval := a.value, traptick := (u.die Config.hubDie).dtc, stall := 0, waiting := none
          waitJob := none, trappc := (if (u.laneAt r).run = .idle then 0 else (u.laneAt r).pc &&& ~~~(15 : Word)), dbgSkip := false
          run := .running, intrap := true, pc := e1, trapWait := false })) ∧
      (∀ u, s.trapHandler r = (u, none) → exec .alertTake s = .next u))

/-- R287 to R303, R308, R309, R313, R314, R341, R342. The model's choices behind the clauses: how many frames of a peer count as
acknowledged when a timer runs out is free (log entry 35); a frame's address enters the digest as eight bytes, least significant first
(log entry 61); an invalidation takes the registers as they stand when it begins (log entry 62); a launch or a frame for partition 0 is
accepted (log entry 63); a report whose ring's control word lies outside the coherent window is dropped (log entry 65); SEQ counts the
digest requests of a partition (log entry 66); a remote range spans logical numbers from its base (log entry 72). -/
def Obligations.HubResults : Prop :=
  (∀ (s : State) (v : Word),
    let p := v.toNat / 2 ^ 32 % 256
    let at_ := Config.cohBase + 64 * (v.toNat % 2 ^ 20)
    (s.mgmt.safe = true → exec (.hostLaunch v) s = .next s) ∧
    (s.mgmt.safe = false → p ≠ 0 → (s.part p).live.v = false → exec (.hostLaunch v) s = .next { s with page := { s.page with ldrop := s.page.ldrop + 1 } }) ∧
    (s.mgmt.safe = false → p = 0 ∨ (s.part p).live.v = true → (∀ k, k < 8 → s.clean (at_ + 8 * k)) → exec (.hostLaunch v) s = .next { s with
      hubLaunch := s.hubLaunch ++ [(v.toNat / 2 ^ 20 % 32, p, (s.die Config.hubDie).dtc, (List.range 8).map (fun k => s.peek (at_ + 8 * k)))] })) ∧
  (∀ (s : State) (tag : BitVec 8) (body : List Word) (rest : List (BitVec 8 × List Word)), s.reports = (tag, body) :: rest →
    let p := tag.toNat
    let dropped (t : State) : Prop := t.reports = rest ∧ t.mem = s.mem ∧ t.msis = s.msis ∧ (t.part p).drop = (s.part p).drop + 1
    (Table.find s.page.fmsi p = none → ∃ t, exec .faultReportMsi s = .next t ∧ dropped t) ∧
    (∀ a b, Table.find s.page.fmsi p = some (a, b) →
      let base := Config.cohBase + 32 * (b.toNat % 2 ^ 21)
      let x := (s.peek (base - 8)).toNat
      let n := x / 2 ^ 32
      let room := 2 ^ (a.toNat / 2 ^ 24 % 16)
      let at_ := base + 32 * (n % room)
      (a.getLsbD 0 = false ∨ a.toNat / 2 ^ 11 % 2 ^ 11 = 0 ∨ ((n + 2 ^ 32 - x % 2 ^ 32) % 2 ^ 32 = room ∧ s.clean (base - 8)) →
        ∃ t, exec .faultReportMsi s = .next t ∧ dropped t) ∧
      (a.getLsbD 0 = true → a.toNat / 2 ^ 11 % 2 ^ 11 ≠ 0 → (n + 2 ^ 32 - x % 2 ^ 32) % 2 ^ 32 ≠ room → s.memoryOk → s.parked = [] →
        b.toNat % 2 ^ 21 ≠ 0 → at_ + 32 ≤ Config.cohBase + Config.mboxOff → s.clean (base - 8) →
        ∃ t, exec .faultReportMsi s = .next t ∧ t.reports = rest ∧ (∀ i, i < 4 → t.peek (at_ + 8 * i) = body.getD i 0) ∧
        t.peek (base - 8) = BitVec.ofNat 64 (x % 2 ^ 32 + (n + 1) % 2 ^ 32 * 2 ^ 32) ∧
        t.msis = s.msis ++ [BitVec.ofNat 64 (p + a.toNat / 2 % 2 ^ 21 * 2 ^ 8)]))) ∧
  (∀ (s : State) (p : Nat),
    let x := s.part p
    (s.hub.gos.head? = some p → (∀ q, q ∈ s.parts → q.2.checked = none) → ∃ t code, exec (.partitionCommit p) s = .next t ∧
      (t.part p).checked = some code ∧ (t.part p).cfg = x.cfg ∧ (t.part p).live = (if code = 0 then x.cfg else x.live) ∧
      t.hub = s.hub ∧ t.mem = s.mem ∧ (code = 0 → x.cfg.v = true → x.live.v = false → (t.share p).draw = 0 ∧ (t.share p).known = false) ∧
      (code = 0 → x.cfg.v = true → x.cfg.wlo.toNat + x.cfg.wn.toNat ≤ 0x3FBF ∧
        (x.cfg.inUse.Pairwise (fun a b => ∀ c l, c < Config.mgmtCore → l < 4 → ¬(rectNames a c l = true ∧ rectNames b c l = true))) ∧
        (∀ q, q ∈ s.parts → q.1 ≠ 0 → q.1 ≠ p → q.2.live.v = true → (x.cfg.xv = true → q.2.live.sid ≠ x.cfg.sid) ∧
          ∀ a b c l, a ∈ x.cfg.inUse → b ∈ q.2.live.inUse → c < Config.mgmtCore → l < 4 →
            ¬(rectNames a c l = true ∧ rectNames b c l = true)))) ∧
    (s.hub.gos.head? ≠ some p → exec (.partitionCommit p) s = .next s) ∧
    (∀ code, x.checked = some code → exec (.partitionCommitDone p) s = .next
      { s.setPart p { x with checked := none, stat := code, gen := x.gen + 1 } with hub := { s.hub with gos := s.hub.gos.drop 1 } }) ∧
    (∀ on, ∃ t, exec (.sliceGate p on) s = .next t ∧ t = s.setPart p { x with pg := on, pgd := false, pgWait := true } ∧
      ∀ l : Lane, l.ptag.toNat = p → p ≠ 0 → t.gated l = (l.gate || on)) ∧
    (x.pgWait = true → exec (.sliceGateApplied p) s = .next (s.setPart p { x with pgd := true, pgWait := false }))) ∧
  (∀ (s : State),
    let g := s.hub
    let meets (v : Inval) (x n : Nat) : Prop := v.all = true ∨
      (x < v.va / 32768 * 32768 + (v.len + 32767) / 32768 * 32768 ∧ v.va / 32768 * 32768 < x + n)
    let drops (v : Inval) (y : Xlate) : Prop := y.sid = v.sid ∧ meets v (y.vpn * 2 ^ (15 + 9 * y.level)) (2 ^ (15 + 9 * y.level))
    (g.reqs.head? = some false → g.xrun = none → g.mig = none →
      let v : Inval := ⟨g.xsid.toNat, g.xall, g.xva.toNat, g.xlen.toNat⟩
      ∃ t, exec .translationInvalidate s = .next t ∧ t.hub = { g with xrun := some v } ∧ t.mem = s.mem ∧
      ∀ y, y ∈ t.estuary ↔ y ∈ s.estuary ∧ ¬drops v y) ∧
    (∀ v, g.xrun = some v → (∀ q, q ∈ s.inflight → isTrans q.addr = false) → (∀ w, w ∈ s.pcieWrites → isTrans w.addr = false) →
      ∃ t, exec .invalidateDone s = .next t ∧
      t.hub = { g with xrun := none, xgen := g.xgen + 1, reqs := g.reqs.drop 1 } ∧ t.mem = s.mem ∧
      ∀ y, y ∈ t.estuary ↔ y ∈ s.estuary ∧ ¬drops v y) ∧
    (∀ v, g.xrun = some v → (∃ a : Word, isTrans a = true ∧ meets v (a.toNat / 32768 % 2 ^ 44 * 32768) 32768 ∧
        ((∃ q, q ∈ s.inflight ∧ q.addr = a ∧ q.sid = v.sid) ∨ (∃ w, w ∈ s.pcieWrites ∧ w.addr = a ∧ w.sid = v.sid))) →
      exec .invalidateDone s = .next s) ∧
    (g.reqs.head? = some true → g.xrun = none → g.mig = none → exec .pageMigration s = .next { s with
      hub := { g with mstat := 1, mig := some ⟨g.msid.toNat, g.mva, g.mpte, g.mold, g.mnew⟩ } }) ∧
    (∀ m, g.mig = some m → (∃ a : Word, isTrans a = true ∧ a.toNat / 32768 % 2 ^ 44 = m.va.toNat / 32768 % 2 ^ 44 ∧
        ((∃ q, q ∈ s.inflight ∧ q.addr = a ∧ q.sid = m.sid) ∨ (∃ w, w ∈ s.pcieWrites ∧ w.addr = a ∧ w.sid = m.sid))) →
      exec .migrationDone s = .next s) ∧
    (∀ m, g.mig = some m → (∀ q, q ∈ s.inflight → isTrans q.addr = false) → (∀ w, w ∈ s.pcieWrites → isTrans w.addr = false) →
      let o := m.old.toNat / 2 ^ 10 % 2 ^ 44
      let n := m.new.toNat / 2 ^ 10 % 2 ^ 44
      let pte := m.pte.toNat / 8 * 8
      let ended (t : State) (st : BitVec 8) : Prop :=
        t.hub = { g with mstat := st, mgen := g.mgen + 1, mig := none, reqs := g.reqs.drop 1 }
      (o * 4096 < Config.hbmEnd → n * 4096 < Config.hbmEnd → (∀ k, k ∈ s.unc → k / 4096 ≠ o) → o ≠ n → s.memoryOk → s.parked = [] →
        pte < Config.hbmEnd → pte / 4096 ≠ n → s.clean pte → s.cache = [] → s.writeBacks = [] →
        ∃ t, exec .migrationDone s = .next t ∧ ended t (if s.peek pte = m.old then 2 else 3) ∧
        t.peek pte = (if s.peek pte = m.old then m.new else s.peek pte) ∧
        ∀ k, k < 4096 → Memory.byte t.mem (n * 4096 + k) = Memory.byte s.mem (o * 4096 + k)) ∧
      (physOk (o * 4096) true = false ∨ physOk (n * 4096) true = false → ∃ t, exec .migrationDone s = .next t ∧ ended t 4 ∧ t.mem = s.mem))) ∧
  (∀ (s : State) (f : EthFrame),
    let n := f.port.toNat
    let x := s.port n
    let q := x.peer f.mac
    let h := (f.msg.headD 0).toNat
    let p := f.rpart.toNat
    let x0 (k : Nat) : Word := Table.get 0 s.page.range (p * 16 + 2 * k)
    let x1 (k : Nat) : Word := Table.get 0 s.page.range (p * 16 + 2 * k + 1)
    let names (k : Nat) : Prop := (x0 k).getLsbD 63 = true ∧ (x1 k).toNat % 2 ^ 48 = f.mac.toNat ∧ (x1 k).toNat / 2 ^ 52 % 256 = f.srcPart.toNat ∧
      (x0 k).toNat / 2 ^ 20 % 2 ^ 20 ≤ h / 2 ^ 39 % 2 ^ 20 ∧ h / 2 ^ 39 % 2 ^ 20 ≤ (x0 k).toNat / 2 ^ 20 % 2 ^ 20 + (x0 k).toNat / 2 ^ 40 % 2 ^ 20
    let dropped : Prop := ∃ t, exec (.ethernetFrameReceive f) s = .next t ∧ t.mesh = s.mesh ∧ (t.part p).drop = (s.part p).drop + 1 ∧
      ((t.port n).peer f.mac).expect = q.expect + 1
    (f.ethType ≠ 0x88B5 → exec (.ethernetFrameReceive f) s = .next { s with ports := Table.put s.ports n { x with dropped := x.dropped + 1 } }) ∧
    (f.ethType = 0x88B5 → f.seq ≠ q.expect → exec (.ethernetFrameReceive f) s = .next s) ∧
    (f.ethType = 0x88B5 → f.seq = q.expect → (p ≠ 0 ∧ (s.part p).live.v = false) ∨ (∀ k, k < 8 → ¬names k) → dropped) ∧
    (∀ k d : Nat, f.ethType = 0x88B5 → f.seq = q.expect → p = 0 ∨ (s.part p).live.v = true → f.msg.length = 4 * (h / 2 ^ 36 % 8 + 1) → k < 8 → names k →
      (∀ j, j < k → ¬names j) → s.mapCore p (h % 2 ^ 20) (some (h / 2 ^ 20 % 4)) = some d → ∃ (t : State) (h' : Word), exec (.ethernetFrameReceive f) s = .next t ∧
      t.mesh = s.mesh ++ [⟨hubSource, none, d, h' :: f.msg.drop 1⟩] ∧ ((t.port n).peer f.mac).expect = q.expect + 1 ∧
      h'.toNat / 2 ^ 39 % 2 ^ 20 = ((x0 k).toNat % 2 ^ 20 + h / 2 ^ 39 % 2 ^ 20 - (x0 k).toNat / 2 ^ 20 % 2 ^ 20) % 2 ^ 20 ∧
      h'.toNat / 2 ^ 28 % 256 = p ∧ h'.toNat / 2 ^ 62 % 2 = 1 ∧ h'.toNat % 2 ^ 28 = h % 2 ^ 28 ∧ h'.toNat / 2 ^ 36 % 8 = h / 2 ^ 36 % 8 ∧
      h'.toNat / 2 ^ 59 % 8 = h / 2 ^ 59 % 8)) ∧
  (∀ (s : State) (n : Nat),
    let x := s.port n
    (exec (.retransmitTimeout n) s = .next { s with ports := Table.put s.ports n { x with peers := x.peers.map (fun q =>
      let k := Config.ethAcked s.turn (n * 2 ^ 48 + q.mac.toNat)
      { q with unacked := q.unacked.drop k, retx := if q.unacked.length ≤ k then 0 else if k = 0 then q.retx + 1 else 1 }) } }) ∧
    (∀ q, x.peers = [q] → 256 ≤ q.retx → ∃ t, exec (.peerDown n) s = .next t ∧
      (t.port n).peers = [{ q with down := true, unacked := [], retx := 0 }] ∧
      ∀ p, (t.part p).drop = (s.part p).drop + BitVec.ofNat 64 (q.unacked.filter (fun f => f.srcPart.toNat == p)).length)) ∧
  (∀ (s : State) (q : DeltaReq) (rest : List DeltaReq), s.deltaReqs = q :: rest →
    let d := s.deltaOf q.part
    let base := d.base.toNat * 128
    let room := 2 ^ d.nsz.toNat
    let x := (s.peek (base - 8)).toNat
    let n := x / 2 ^ 32
    let at_ := base + 128 * (n % room)
    let full : Prop := (n + 2 ^ 32 - x % 2 ^ 32) % 2 ^ 32 = room
    let frames := s.dirtyFrames q.part q.stack
    (d.en = false ∨ full → s.unc = [] → ∃ t, exec (.deltaRecord q.stack) s = .next t ∧ t.deltaReqs = rest ∧ t.mem = s.mem ∧
      (t.deltaOf q.part).lost = d.lost + 1) ∧
    (d.en = true → base ≠ 0 → at_ + 128 ≤ Config.hbmEnd → ¬full → s.memoryOk → s.parked = [] → s.clean (base - 8) →
      (∀ i, i < 16 → s.clean (at_ + 8 * i)) → (q.merged = false → ∀ f ∈ frames, ∀ i, i < 512 → s.clean (f * 4096 + 8 * i)) →
      ∃ t, exec (.deltaRecord q.stack) s = .next t ∧ t.deltaReqs = rest ∧
      t.peek at_ = BitVec.ofNat 64 (q.task.toNat + q.die % 32 * 2 ^ 16 + q.stack % 16 * 2 ^ 24 + q.part % 256 * 2 ^ 32) ∧
      t.peek (at_ + 8) = BitVec.ofNat 64 q.seq.toNat ∧ t.peek (at_ + 16) = q.cmp ∧ (∀ i, 4 ≤ i → i < 8 → t.peek (at_ + 8 * i) = 0) ∧
      t.peek (base - 8) = BitVec.ofNat 64 (x % 2 ^ 32 + (n + 1) % 2 ^ 32 * 2 ^ 32) ∧
      (q.merged = true → t.peek (at_ + 24) = 0xFFFFFFFF) ∧
      (q.merged = false → t.peek (at_ + 24) = BitVec.ofNat 64 frames.length ∧
        (q.part ≠ 0 → ∀ f, f / 2 ^ 25 = q.stack → (q.part, f) ∉ t.dirty) ∧
        (∀ f, f ∈ frames ↔ (q.part, f) ∈ s.dirty ∧ f / 2 ^ 25 = q.stack) ∧ frames.Pairwise (· ≤ ·) ∧
        ∀ i, i < 8 → t.peek (at_ + 64 + 8 * i) = (wordsLE (sha512 (frames.flatMap (fun f =>
          natLE (f * 4096) 8 ++ (List.range 4096).map (fun j => Memory.byte s.mem (f * 4096 + j))))) 8).getD i 0)))

/-- R344 to R354. The model's choices behind the clauses: keys, firmware, helper data, the certificate and port modes are free values
(log entry 10); where an image has its magic, version and length is taken from outside the spec (log entry 37); the mailbox is coherent
memory that its rows read and write (log entry 48); the steps of a warm start, and MGMT_WRITE of a record that a push would trap on, are
readings (log entry 76); the bytes of the repair map under its digest (log entry 93); the codes and layout of SPDM messages are taken from
outside the spec, and a signature covers a free transcript with the response (log entry 94). -/
def Obligations.StartAndManagementResults : Prop :=
  (∀ (s : State), s.memoryOk →
    let m := s.mgmt
    let begun (t : State) (warm : Bool) : Prop := t.powered = true ∧ (∀ c, t.core c = Core.reset c) ∧ t.parts = [] ∧ t.mesh = [] ∧ t.tags = [] ∧
      t.inflight = [] ∧ t.dies = [] ∧ t.clusters = [] ∧ (∀ a, Memory.byte t.mem a = if warm = true ∧ a < Config.hbmEnd then Memory.byte s.mem a else 0) ∧
      t.mgmt.step = 0 ∧ t.mgmt.fails = m.fails ∧ t.mgmt.kind = (if warm then 2 else 1) ∧ t.mgmt.warm = warm ∧ t.mgmt.safe = false ∧
      t.mgmt.pref = m.pref ∧ t.mgmt.floor = m.floor ∧ t.mgmt.valA = m.valA ∧ t.mgmt.valB = m.valB ∧ t.mgmt.imgA = m.imgA ∧ t.mgmt.imgB = m.imgB ∧
      t.mgmt.alerts = [] ∧ t.mgmt.unrep = m.unrep ∧ t.mgmt.mapDigest = m.mapDigest ∧
      t.mgmt.log = if s.starting = true then ((s.die Config.hubDie).dtc, 2, m.step.setWidth 64, m.bootStat) :: m.log.take 4095 else m.log
    (s.starting = true ↔ m.step ≠ 10 ∧ ¬(m.safe = true ∧ m.step = 9)) ∧
    (s.powered = false → (∃ t, exec .powerOn s = .next t ∧ begun t false) ∧ ∀ l, s.agenda = .event .resetPin :: l → step s = .fault .poweredOff) ∧
    (s.powered = true → (∃ t, exec .resetPin s = .next t ∧ begun t false) ∧
      (∀ port, (port < 4 → m.ports.testBit port = true → ∃ t, exec (.pcieHotReset port) s = .next t ∧ begun t true) ∧
        (4 ≤ port ∨ m.ports.testBit port = false → exec (.pcieHotReset port) s = .next s)) ∧
      (let late : Prop := (if m.warm then 2000000000 else 20000000000) < (s.die Config.hubDie).dtc.toNat
       (s.starting = true → late → ∃ t, exec .romWatchdog s = .next t ∧ begun t false) ∧
       (s.starting = false ∨ ¬late → exec .romWatchdog s = .next s))) ∧
    exec .powerLoss s = .next { s with powered := false, mgmt := { m with staging := false } } ∧
    (∀ c rest, s.powered = true → s.caughtUp.starting = true → s.caughtUp.agenda = c :: rest → startEvent c = false →
      step s = .next (({ s.caughtUp with agenda := rest } : State).startStep.pass none)) ∧
    (m.step = 0 → let t := s.startStep
      let good (b : Bool) : Prop := (if b then m.valB else m.valA) = true ∧ signatureValid (if b then m.imgB else m.imgA) = true ∧
        m.floor.toNat ≤ (if b then m.verB else m.verA).toNat
      let first := if m.fails + 1 ≤ 2 then m.pref else !m.pref
      let runs (b : Bool) : Prop := t.mgmt.chosen = some b ∧ t.mgmt.bank = b ∧ t.mgmt.safe = false
      t.mem = s.mem ∧ t.mgmt.step = 1 ∧ t.mgmt.fails = m.fails + 1 ∧ (m.fails + 1 < 6 → good first → runs first) ∧
      (m.fails + 1 < 6 → ¬good first → good (!first) → runs (!first)) ∧
      (6 ≤ m.fails + 1 ∨ (¬good first ∧ ¬good (!first)) → t.mgmt.safe = true ∧ t.mgmt.chosen = none)) ∧
    (m.step = 1 → (m.warm = false → s.startStep = { s with mgmt := { m with step := 2 } }) ∧
      (m.warm = true → m.mapDigest = sha512 (mapBytes m.repairs m.unrep) → s.startStep = { s with mgmt := { m with step := 5 } }) ∧
      (m.warm = true → m.mapDigest ≠ sha512 (mapBytes m.repairs m.unrep) → s.startStep.mgmt.step = 4)) ∧
    (m.step = 2 → s.startStep.mgmt.step = 3 ∧ (s.startStep.mgmt.noid = false ↔
      P521.signedBy Config.romKey m.helper m.helperSig = true ∧ P521.keyMatches s.startStep.mgmt.deviceKey m.certKey = true) ∧
      (P521.signedBy Config.romKey m.helper m.helperSig = true → s.startStep.mgmt.log = m.log) ∧
      (P521.signedBy Config.romKey m.helper m.helperSig = false →
        ∃ x, s.startStep.mgmt.log = ((s.die Config.hubDie).dtc, 5, 3, x) :: m.log.take 4095)) ∧
    (m.step = 3 → let t := s.startStep
      t.mgmt.step = 4 ∧ t.mgmt.mapDigest = sha512 (mapBytes t.mgmt.repairs t.mgmt.unrep) ∧
      (m.log.length + t.mgmt.unrep.length ≤ 4096 → t.mgmt.log.length = m.log.length + t.mgmt.unrep.length)) ∧
    (m.step = 8 → let t := s.startStep
      t.mgmt.step = 9 ∧ t.parts = [] ∧ t.mesh = [] ∧ t.tags = [] ∧ t.dies = s.dies ∧ (∀ c, t.core c = Core.reset c) ∧
      ∀ a, Memory.byte t.mem a = if m.warm = true ∧ a < Config.hbmEnd then Memory.byte s.mem a else 0) ∧
    (m.step = 9 → let t := s.startStep
      let ver := if m.bank then m.verB else m.verA
      t.mem = s.mem ∧ t.mgmt.step = 10 ∧ t.mgmt.pref = m.bank ∧ t.mgmt.fails = 0 ∧ t.mgmt.floor = ver ∧
      t.mgmt.key = BitVec.ofNat 64 (1 + ver.toNat * 2 ^ 16 + 2 ^ 48) ∧
      t.mgmt.log.head? = some ((s.die Config.hubDie).dtc, 2, 10, t.mgmt.bootStat))) ∧
  (∀ (u : State) (q : MboxReq) (st : Nat) (res : List Word), u.memoryOk → u.parked = [] → q.slot < 16 → st < 256 → (∀ o, o < 512 → u.clean (mboxByte (8 * o))) →
    let t := u.mboxReply q st res
    (∀ i, i < 4 → t.peek (slotByte q.slot (4 + i)) = res.getD i 0) ∧
    (t.peek (slotByte q.slot 0)).toNat % 4 = 2 ∧ (t.peek (slotByte q.slot 0)).toNat / 2 ^ 16 % 256 = st ∧
    t.peek (mboxByte 8) = u.peek (mboxByte 8) + 1 ∧ t.peek (mboxByte 0) = u.peek (mboxByte 0) ∧ t.mgmt = u.mgmt ∧
    (∀ a b, Table.find u.page.fmsi 0 = some (a, b) → a.getLsbD 0 = true → a.toNat / 2 ^ 11 % 2 ^ 11 ≠ 0 →
      t.msis = u.msis ++ [BitVec.ofNat 64 (a.toNat / 2 % 2 ^ 21 * 2 ^ 8)])) ∧
  (∀ (s : State), s.memoryOk → s.parked = [] → s.starting = false → (∀ o, o < 512 → s.clean (mboxByte (8 * o))) →
    s.peek (mboxByte 0) ≠ s.peek (mboxByte 8) →
    let k := (s.peek (mboxByte 8)).toNat % 16
    let w := s.peek (slotByte k 0)
    let a := s.peek (slotByte k 1)
    let b := s.peek (slotByte k 2)
    let q : MboxReq := ⟨k, w, a, b, s.peek (slotByte k 3)⟩
    let op := w.toNat / 2 ^ 8 % 16
    let r (i : Instr) (t : State) (st : Nat) (res : List Word) : Prop := exec i s = .next (t.mboxReply q st res)
    let m := s.mgmt
    let logged (t : State) (kind : Nat) : State := t.logRecord kind (m.step.setWidth 64) t.mgmt.bootStat
    w.toNat % 4 = 1 →
    (m.safe = true → (op = 1 → r .mgmtWrite s 5 []) ∧ (op = 4 → r .warm s 5 []) ∧ (op = 6 → r .mgmtSpdm s 5 []) ∧ (7 ≤ op → r .mgmtBadOp s 5 [])) ∧
    let lane1 : LaneRef := ⟨Config.mgmtCore, 1⟩
    let side (d : DevReg) : Fifo := if d = .mcmdq ∨ d = .mresq then .matrix else .brook
    (op = 0 → (∀ d, mboxReg a = some d → (d.isWO = true → r .mgmtRead s 2 []) ∧
        (d.isWO = false → d.isFifo = false → r .mgmtRead s 1 [s.devRead lane1 d]) ∧
        (d.isWO = false → d.isFifo = true → (∀ u x, s.popFifo lane1 (side d) = .ok (u, x) → r .mgmtRead u 1 [x]) ∧
          (∀ e, s.popFifo lane1 (side d) = .error e → exec .mgmtRead s = .next s))) ∧
      (mboxReg a = none → r .mgmtRead s 2 [])) ∧
    (op = 3 → (∀ bank : Bool, a.getLsbD 0 = bank → (if bank then m.valB else m.valA) = true →
        r .activate (logged { s with mgmt := { m with pref := bank } } 3) 1 []) ∧
      (∀ bank : Bool, a.getLsbD 0 = bank → (if bank then m.valB else m.valA) = false → r .activate (logged s 3) 2 [])) ∧
    (op = 5 → (∀ x y z v, m.log[a.toNat]? = some (x, y, z, v) → r .mgmtLog s 1 [x, y, z, v]) ∧ (m.log.length ≤ a.toNat → r .mgmtLog s 2 [])) ∧
    (op = 2 → m.staging = true → let t := { s with mgmt := if m.bank then { m with valA := true, staging := false } else { m with valB := true, staging := false } }
      r .stage (logged t 3) 1 [(if m.bank then m.verA else m.verB).setWidth 64]) ∧
    (op = 2 → m.staging = false → Config.hbmEnd < a.toNat + b.toNat → r .stage (logged s 3) 2 []) ∧
    (op = 2 → m.staging = false → a.toNat + b.toNat ≤ Config.hbmEnd → (∀ i, i < b.toNat → s.clean ((a.toNat + i) / 8 * 8)) →
      let img := (List.range b.toNat).map (fun i => Memory.byte s.mem (a.toNat + i))
      let byte (i : Nat) : Nat := (img.getD i 0).toNat
      let magic := byte 0 + byte 1 * 2 ^ 8 + byte 2 * 2 ^ 16 + byte 3 * 2 ^ 24
      let ver : BitVec 16 := BitVec.ofNat 16 (byte 4 + byte 5 * 2 ^ 8)
      let len := byte 8 + byte 9 * 2 ^ 8 + byte 10 * 2 ^ 16 + byte 11 * 2 ^ 24
      12 ≤ b.toNat →
      (magic ≠ 0x504C5448 ∨ b.toNat ≠ len + 260 → r .stage (logged s 3) 2 []) ∧
      (magic = 0x504C5448 → b.toNat = len + 260 →
        (signatureValid img = false → r .stage (logged (logged s 5) 3) 3 []) ∧
        (signatureValid img = true → ver.toNat < m.floor.toNat → r .stage (logged s 3) 4 []) ∧
        (signatureValid img = true → m.floor.toNat ≤ ver.toNat → exec .stage s = .next { s with
          mgmt := if m.bank then { m with valA := false, imgA := img, verA := ver, staging := true }
            else { m with valB := false, imgB := img, verB := ver, staging := true } }))) ∧
    (m.safe = false →
      (op = 1 → (∀ d, mboxReg a = some d → (d.isRO = true → r .mgmtWrite s 2 []) ∧
          (d.isRO = false → d.isFifo = false → r .mgmtWrite (s.devWrite lane1 d (BitVec.allOnes 64) b) 1 []) ∧
          (d.isRO = false → d.isFifo = true → (∀ u, s.pushFifo lane1 (side d) b .dev = .ok u → r .mgmtWrite u 1 []) ∧
            (∀ u c v, s.pushFifo lane1 (side d) b .dev = .error (.trap u c v) → r .mgmtWrite s 2 []) ∧
            (∀ u c, s.pushFifo lane1 (side d) b .dev = .error (.wait u c) → exec .mgmtWrite s = .next s))) ∧
        (mboxReg a = none → r .mgmtWrite s 2 [])) ∧
      (op = 4 → exec .warm s = .next ((s.mboxReply q 1 []).beginStart true)) ∧
      (op = 6 → (1920 < a.toNat → r .mgmtSpdm s 2 []) ∧ (a.toNat ≤ 1920 →
        let req := (List.range a.toNat).map (fun i => Memory.byte s.mem (mboxByte (0x800 + i)))
        let res := (s.spdmAnswer req).take 1920
        ∃ t, r .mgmtSpdm t 1 [BitVec.ofNat 64 res.length] ∧ t.mgmt = m ∧ ∀ i, i < res.length → Memory.byte t.mem (mboxByte (0x800 + i)) = res.getD i 0)) ∧
      (7 ≤ op → r .mgmtBadOp s 2 []))) ∧
  (∀ (s : State) (req : List Byte) (i : Instr) (code : Byte),
    (i = .getVersion req ∧ code = 0x84) ∨ (i = .getCapabilities req ∧ code = 0xE1) ∨ (i = .negotiateAlgorithms req ∧ code = 0xE3) ∨
      (i = .getDigests req ∧ code = 0x81) ∨ (i = .getCertificate req ∧ code = 0x82) ∨ (i = .challenge req ∧ code = 0x83) ∨
      (i = .getMeasurements req ∧ code = 0xE0) →
    let q := req.getD 1 0
    let p1 := req.getD 2 0
    let p2 := (req.getD 3 0).toNat
    let off := (req.getD 4 0).toNat + 256 * (req.getD 5 0).toNat
    let len := (req.getD 6 0).toNat + 256 * (req.getD 7 0).toNat
    let supported : Prop := q = 0x84 ∨ q = 0xE1 ∨ q = 0xE3 ∨ q = 0x81 ∨ (q = 0x82 ∧ p1 = 0 ∧ off < s.mgmt.cert.length) ∨ (q = 0x83 ∧ p1 = 0) ∨
      (q = 0xE0 ∧ (p2 ≤ 5 ∨ p2 = 0xFF))
    let sends (x : List Byte) : Prop := ∃ a b, s.spdmAnswer req = a ++ x ++ b
    let signed : Prop := ∃ x n, s.spdmAnswer req = x ++ P521.sign s.mgmt.deviceKey n (Config.spdmTranscript s.turn req ++ x)
    let m := s.mgmt
    (s.starting = false → q = code ∨ spdmCodes.contains q = false → exec i s = .next { s with spdm := s.spdm ++ [s.spdmAnswer req] }) ∧
    (s.starting = true → exec i s = .next s) ∧
    (m.noid = false → supported → (s.spdmAnswer req).getD 1 0 = q &&& 0x7F) ∧
    (m.noid = true ∨ ¬supported → (s.spdmAnswer req).getD 1 0 = 0x7F) ∧
    (m.noid = false → (q = 0x81 → sends (sha512 m.cert)) ∧
      (q = 0x82 → p1 = 0 → off < m.cert.length → sends ((m.cert.drop off).take (min len 1024))) ∧
      (q = 0x83 → p1 = 0 → sends (sha512 m.cert) ∧ signed) ∧ (q = 0xE0 → p2 ≤ 5 ∨ p2 = 0xFF → p1.toNat % 2 = 1 → signed)) ∧
    (m.noid = false → q = 0xE0 → (p2 = 1 → sends (sha512 m.rom)) ∧
      (p2 = 2 → sends (sha512 (if m.bank then m.imgB else m.imgA) ++ natLE (if m.bank then m.verB else m.verA).toNat 2)) ∧
      (p2 = 3 → sends m.mapDigest) ∧ (p2 = 4 → sends (natLE m.key.toNat 8)) ∧ (p2 = 5 → sends (natLE m.bootStat.toNat 8))))

/-- R62, R64, R66 to R70. -/
def Obligations.DecodeWords : Prop :=
  decode32 0b00000001100_00111_01000_00111_00001_1 = .ok (.stM 7 8 7 12) ∧
  decode32 0b0101_000_00_0_001111_00010_00001_00010_1 = .ok (.stv 1 2 15 none) ∧
  decode32 0b110111_00111_01010_01001_01000_00011_1 = .ok (.amomaxu 8 9 10 true (.acqRel .sys)) ∧
  decode32 0b000000_01110_10001_10000_01111_00100_1 = .ok (.remu 15 16 17) ∧
  decode32 0b000000111110_0101_00110_00101_00101_1 = .ok (.shri 5 6 62) ∧
  decode32 0b000000_00011_00000_00010_00001_00111_1 = .ok (.waddr 1 2) ∧
  decode32 0b1111111111010_101_10001_00011_01000_1 = .ok (.bgeu 3 17 (-6)) ∧
  decode32 0b101101_01110_00111_00110_10101_01011_1 = .ok (.vcmp 5 6 7 .le .bf16 3) ∧
  decode32 0b001110_00010_01011_01010_01001_01100_1 = .ok (.vlds 9 10 11 .e32 3) ∧
  decode32 0b110001_00101_00011_00010_01100_01101_1 = .ok (.vpack 2 3 .cw8 .f32 (.fixed .rtz) .auto true) ∧
  decode32 0b011001_11111_00000_00010_00001_01110_1 = .ok (.scord 1 2 0 .recip 31) ∧
  decode32 0b000001100100_0100_00110_00101_01111_1 = .ok (.ldh 5 6 100) ∧
  decode32 0b001011_00010_00011_00010_00001_10001_1 = .ok (.bind 1 2 3 (.fixed .rdn) true) ∧
  decode32 0b0000_0000_000_00010_00001_00011_10011_1 = .ok (.mbxpost 1 2 3) ∧
  decode32 0b0011_0000_000_00000_00111_00000_10100_1 = .ok (.bwait 7) ∧
  decode32 0b000000_00100_00000_00010_00001_10101_1 = .ok (.ttile 1 2) ∧
  decode32 0b000100_0000000000_00000_00000_10111_1 = .ok (.nop) ∧
  decode16 0b111101_00101_0101_0 = .ok (.addiCompact 5 (-3)) ∧
  decode16 0b11111_010_001_1000_0 = .ok (.ldCompact 1 2 31) ∧
  decode16 0b0_00001_00000_1101_0 = .ok (.jalrCompact 1) ∧
  decode16 0 = .error .illegal ∧
  decode16 0b0000000000000000_1111_0 = .error .reserved ∧
  decode32 (0b11010_1) = .error .reserved ∧
  decode32 0b000000_11100_00011_00010_00001_00100_1 = .error .illegal ∧
  decode16 0xF4AA = .ok (.addiCompact 5 (-3)) ∧
  decodeInline 0b1_00000_00000_1101_0 = .ok .endhCompact ∧
  decodeInline 0b000000_00000_00011_00010_00001_00100_1 = .error .illegal

/-- R82 (the rows but division and bit fields): each instruction completes with the table's value, whatever x and y are. -/
def Obligations.IntegerResults : Prop :=
  ∀ (s : State) (d a b : Reg) (x y : Word), x = s.s a → y = s.s b →
    (∃ v, exec (.add d a b) s = .next (s.writeS d v) ∧ v.toNat = (x.toNat + y.toNat) % 2 ^ 64) ∧
    (∃ v, exec (.sub d a b) s = .next (s.writeS d v) ∧ (v.toNat + y.toNat) % 2 ^ 64 = x.toNat) ∧
    (∃ v, exec (.and d a b) s = .next (s.writeS d v) ∧ ∀ i, v.getLsbD i = (x.getLsbD i && y.getLsbD i)) ∧
    (∃ v, exec (.or d a b) s = .next (s.writeS d v) ∧ ∀ i, v.getLsbD i = (x.getLsbD i || y.getLsbD i)) ∧
    (∃ v, exec (.xor d a b) s = .next (s.writeS d v) ∧ ∀ i, v.getLsbD i = (x.getLsbD i ^^ y.getLsbD i)) ∧
    (∃ v, exec (.shl d a b) s = .next (s.writeS d v) ∧ v.toNat = x.toNat * 2 ^ (y.toNat % 64) % 2 ^ 64) ∧
    (∃ v, exec (.shr d a b) s = .next (s.writeS d v) ∧ v.toNat = x.toNat / 2 ^ (y.toNat % 64)) ∧
    (∃ v, exec (.sra d a b) s = .next (s.writeS d v) ∧ v.toInt = x.toInt / 2 ^ (y.toNat % 64)) ∧
    (∃ v, exec (.mul d a b) s = .next (s.writeS d v) ∧ v.toNat = x.toNat * y.toNat % 2 ^ 64) ∧
    (∃ v, exec (.mulh d a b) s = .next (s.writeS d v) ∧ v.toInt = x.toInt * y.toInt / 2 ^ 64) ∧
    (∃ v, exec (.mulhu d a b) s = .next (s.writeS d v) ∧ v.toNat = x.toNat * y.toNat / 2 ^ 64) ∧
    (∃ v, exec (.slt d a b) s = .next (s.writeS d v) ∧ v = if x.toInt < y.toInt then 1 else 0) ∧
    (∃ v, exec (.sltu d a b) s = .next (s.writeS d v) ∧ v = if x.toNat < y.toNat then 1 else 0) ∧
    (∃ v, exec (.min d a b) s = .next (s.writeS d v) ∧ v.toInt = min x.toInt y.toInt) ∧
    (∃ v, exec (.max d a b) s = .next (s.writeS d v) ∧ v.toInt = max x.toInt y.toInt) ∧
    (∃ v, exec (.minu d a b) s = .next (s.writeS d v) ∧ v.toNat = min x.toNat y.toNat) ∧
    (∃ v, exec (.maxu d a b) s = .next (s.writeS d v) ∧ v.toNat = max x.toNat y.toNat) ∧
    (∃ v, exec (.clz d a) s = .next (s.writeS d v) ∧ (x = 0 → v = 64) ∧
      (x ≠ 0 → v.toNat < 64 ∧ 2 ^ (63 - v.toNat) ≤ x.toNat ∧ x.toNat < 2 ^ (64 - v.toNat))) ∧
    (∃ v, exec (.ctz d a) s = .next (s.writeS d v) ∧ (x = 0 → v = 64) ∧
      (x ≠ 0 → x.toNat % 2 ^ v.toNat = 0 ∧ x.toNat / 2 ^ v.toNat % 2 = 1)) ∧
    (∃ v, exec (.popc d a) s = .next (s.writeS d v) ∧ v.toNat = ((List.range 64).filter (fun i => x.getLsbD i)).length)

/-- R83: quotient and remainder for every x and y, the zero divisor and the overflowing pair among them. -/
def Obligations.DivisionResults : Prop :=
  ∀ (s : State) (d a b : Reg) (x y : Word), x = s.s a → y = s.s b →
    (∃ q r, exec (.div d a b) s = .next (s.writeS d q) ∧ exec (.rem d a b) s = .next (s.writeS d r) ∧
      (y = 0 → q = BitVec.allOnes 64 ∧ r = x) ∧
      (x.toInt = -(2 ^ 63) → y.toInt = -1 → q.toInt = -(2 ^ 63) ∧ r = 0) ∧
      (y ≠ 0 → ¬(x.toInt = -(2 ^ 63) ∧ y.toInt = -1) →
        q.toInt = x.toInt.tdiv y.toInt ∧ r.toInt = x.toInt - q.toInt * y.toInt)) ∧
    (∃ q r, exec (.divu d a b) s = .next (s.writeS d q) ∧ exec (.remu d a b) s = .next (s.writeS d r) ∧
      (y = 0 → q = BitVec.allOnes 64 ∧ r = x) ∧
      (y ≠ 0 → q.toNat = x.toNat / y.toNat ∧ r.toNat = x.toNat - q.toNat * y.toNat))

/-- R84, bit by bit for BINS and as numbers for the others. -/
def Obligations.BitFieldResults : Prop :=
  ∀ (s : State) (d a b : Reg) (g : BitVec 6) (x : Word) (p : Nat), x = s.s a → p = (s.s b).toNat % 64 →
    (∃ v, exec (.bext d a b g) s = .next (s.writeS d v) ∧ v.toNat = x.toNat / 2 ^ p % 2 ^ (g.toNat + 1)) ∧
    (∃ v, exec (.bins d a b g) s = .next (s.writeS d v) ∧ ∀ i, i < 64 →
      v.getLsbD i = if p ≤ i ∧ i ≤ p + g.toNat then x.getLsbD (i - p) else (s.s d).getLsbD i) ∧
    (∃ v, exec (.sext d a g) s = .next (s.writeS d v) ∧ v.toInt = (x.toNat : Int).bmod (2 ^ (g.toNat + 1))) ∧
    (∃ v, exec (.zext d a g) s = .next (s.writeS d v) ∧ v.toNat = x.toNat % 2 ^ (g.toNat + 1))

/-- R85 and R86. -/
def Obligations.ImmediateResults : Prop :=
  ∀ (s : State) (d a : Reg) (imm : BitVec 12) (amt : BitVec 6) (k : BitVec 2) (ins : Bool) (h : BitVec 16) (x : Word),
    x = s.s a →
    (∃ v, exec (.addi d a imm) s = .next (s.writeS d v) ∧ v = BitVec.ofInt 64 (x.toInt + imm.toInt)) ∧
    (∃ v, exec (.andi d a imm) s = .next (s.writeS d v) ∧ ∀ i, i < 64 → v.getLsbD i = (x.getLsbD i && imm.getLsbD (min i 11))) ∧
    (∃ v, exec (.ori d a imm) s = .next (s.writeS d v) ∧ ∀ i, i < 64 → v.getLsbD i = (x.getLsbD i || imm.getLsbD (min i 11))) ∧
    (∃ v, exec (.xori d a imm) s = .next (s.writeS d v) ∧ ∀ i, i < 64 → v.getLsbD i = (x.getLsbD i ^^ imm.getLsbD (min i 11))) ∧
    (∃ v, exec (.shli d a amt) s = .next (s.writeS d v) ∧ v.toNat = x.toNat * 2 ^ amt.toNat % 2 ^ 64) ∧
    (∃ v, exec (.shri d a amt) s = .next (s.writeS d v) ∧ v.toNat = x.toNat / 2 ^ amt.toNat) ∧
    (∃ v, exec (.srai d a amt) s = .next (s.writeS d v) ∧ v.toInt = x.toInt / 2 ^ amt.toNat) ∧
    (∃ v, exec (.slti d a imm) s = .next (s.writeS d v) ∧ v = if x.toInt < imm.toInt then 1 else 0) ∧
    (∃ v, exec (.sltiu d a imm) s = .next (s.writeS d v) ∧ v = if (x.toNat : Int) < imm.toInt % 2 ^ 64 then 1 else 0) ∧
    (∃ v, exec (.lui d k ins h) s = .next (s.writeS d v) ∧ ∀ i, i < 64 →
      v.getLsbD i = if i / 16 = k.toNat then h.getLsbD (i % 16) else (ins && (s.s d).getLsbD i))

/-- R24 and R89 to R91. What GADDR gives on the management core is the model's choice (log entry 4). -/
def Obligations.AddressResults : Prop :=
  ∀ (s : State) (d a b : Reg) (g : BitVec 6) (x y : Word) (w n k : Nat), x = s.s a → y = s.s b → w = g.toNat + 1 → n = 64 / w →
    k = (y - x).toNat % 64 →
    (x.toNat % 64 = 0 → exec (.eaddr d a b g) s =
      .next (s.writeS d (BitVec.ofNat 64 (x.toNat + 64 * (y.toNat / n) + w * (y.toNat % n))))) ∧
    (x.toNat % 64 ≠ 0 → exec (.eaddr d a b g) s = .next (s.takeTrap 0x04 x) ∧ exec (.ediff d a b g) s = .next (s.takeTrap 0x04 x)) ∧
    (x.toNat % 64 = 0 → k % w = 0 → k / w < n →
      exec (.ediff d a b g) s = .next (s.writeS d (BitVec.ofNat 64 ((y - x).toNat / 64 * n + k / w)))) ∧
    (x.toNat % 64 = 0 → ¬(k % w = 0 ∧ k / w < n) → exec (.ediff d a b g) s = .next (s.takeTrap 0x04 y)) ∧
    (∃ v, exec (.balign d a g) s = .next (s.writeS d v) ∧
      v.toNat = (x.toNat + 2 ^ g.toNat - 1) % 2 ^ 64 / 2 ^ g.toNat * 2 ^ g.toNat) ∧
    (∃ v, exec (.waddr d a) s = .next (s.writeS d v) ∧ v.toNat = x.toNat / 64 * 64) ∧
    (x.toNat / 2 ^ 59 = 0b11000 → x.toNat / 2 ^ 21 % 2 ^ 38 = 0 → exec (.gaddr d a) s =
      .next (s.writeS d (BitVec.ofNat 64 (2 ^ 63 + coreX s.cur.core * 2 ^ 50 + coreY s.cur.core * 2 ^ 42 +
        (s.cur.core % 8 / 4 * 4 + x.toNat / 2 ^ 19 % 4) * 2 ^ 39 + x.toNat % 2 ^ 19)))) ∧
    (x.toNat / 2 ^ 59 = 0b10000 → x.toNat / 2 ^ 19 % 2 ^ 20 = 0 → exec (.gaddr d a) s = .next (s.writeS d x)) ∧
    (¬(x.toNat / 2 ^ 59 = 0b11000 ∧ x.toNat / 2 ^ 21 % 2 ^ 38 = 0) → ¬(x.toNat / 2 ^ 59 = 0b10000 ∧ x.toNat / 2 ^ 19 % 2 ^ 20 = 0) →
      exec (.gaddr d a) s = .next (s.takeTrap 0x05 x))

/-- R92: the selectors 0 to 4. -/
def Obligations.CoordResults : Prop :=
  ∀ (s : State) (d : Reg),
    exec (.coord d .phys) s = .next (s.writeS d (BitVec.ofNat 64 ((s.coreId s.cur).toNat % 2 ^ 20))) ∧
    exec (.coord d .log) s = .next (s.writeS d (BitVec.ofNat 64 ((s.coreId s.cur).toNat / 2 ^ 32 % 2 ^ 20))) ∧
    (s.lane.task = 0 → ∀ sel, sel = .gxy ∨ sel = .gidx ∨ sel = .stage → exec (.coord d sel) s = .next (s.writeS d 0)) ∧
    (s.lane.task ≠ 0 →
      exec (.coord d .gxy) s = .next (s.writeS d (BitVec.ofNat 64 (s.lane.place.toNat % 256))) ∧
      exec (.coord d .gidx) s = .next (s.writeS d (BitVec.ofNat 64 (s.lane.place.toNat / 256 % 16))) ∧
      exec (.coord d .stage) s = .next (s.writeS d (BitVec.ofNat 64 (s.lane.place.toNat / 65536 % 256))))

/-- R94 and R95. `branchTo` moves the pc (and emits the trace packet of R339 at a traced core). -/
def Obligations.BranchAndJumpResults : Prop :=
  ∀ (s : State) (d a b : Reg) (off : BitVec 13) (far : BitVec 21) (imm : BitVec 12) (x y pc : Word),
    x = s.s a → y = s.s b → pc = s.lane.pc →
    let near (c : Prop) (t : State) : Prop :=
      (c → t = s.branchTo (pc + off.signExtend 64 * 16)) ∧ (¬c → t = s.advance 32)
    (∃ t, exec (.beq a b off) s = .next t ∧ near (x = y) t) ∧
    (∃ t, exec (.bne a b off) s = .next t ∧ near (x ≠ y) t) ∧
    (∃ t, exec (.blt a b off) s = .next t ∧ near (x.toInt < y.toInt) t) ∧
    (∃ t, exec (.bge a b off) s = .next t ∧ near (x.toInt ≥ y.toInt) t) ∧
    (∃ t, exec (.bltu a b off) s = .next t ∧ near (x.toNat < y.toNat) t) ∧
    (∃ t, exec (.bgeu a b off) s = .next t ∧ near (x.toNat ≥ y.toNat) t) ∧
    exec (.jal d far) s = .next ((s.setS d (pc + 32)).branchTo (pc + far.signExtend 64 * 16)) ∧
    ((x + imm.signExtend 64 * 16).toNat % 16 = 0 →
      exec (.jalr d a imm) s = .next ((s.setS d (pc + 32)).branchTo (x + imm.signExtend 64 * 16))) ∧
    ((x + imm.signExtend 64 * 16).toNat % 16 ≠ 0 →
      exec (.jalr d a imm) s = .next (s.takeTrap 0x04 (x + imm.signExtend 64 * 16))) ∧
    (x = 0 → exec (.loop a imm) s = .next (s.advance 32)) ∧
    (x = 1 → exec (.loop a imm) s = .next ((s.setS a 0).advance 32)) ∧
    (x ≠ 0 → x ≠ 1 → exec (.loop a imm) s = .next ((s.setS a (x - 1)).branchTo (pc + imm.signExtend 64 * 16))) ∧
    (∀ t, (s.branchTo t).lane.pc = t ∧ (s.branchTo t).lane.run = .running) ∧
    (∀ t, s.myCore.dbg.ten = false → s.branchTo t = s.setLane (s.lane.jump t))

/-- R67, R68, OP 1 to 7: each compact form writes what its 32-bit equal writes and moves past one parcel. -/
def Obligations.CompactScalarResults : Prop :=
  ∀ (s : State) (d a : Reg) (imm amt : BitVec 6),
    let one (v : Word) : Host.Outcome State Fault Refusal := .next ((s.setS d v).setLane ((s.setS d v).lane.advance 16))
    exec (.addCompactS0 d a) s = one (s.s a) ∧ exec (.addCompact d a) s = one (s.s d + s.s a) ∧
    exec (.subCompact d a) s = one (s.s d - s.s a) ∧ exec (.andCompact d a) s = one (s.s d &&& s.s a) ∧
    exec (.orCompact d a) s = one (s.s d ||| s.s a) ∧ exec (.xorCompact d a) s = one (s.s d ^^^ s.s a) ∧
    exec (.addiCompactS0 d imm) s = one (imm.signExtend 64) ∧ exec (.addiCompact d imm) s = one (s.s d + imm.signExtend 64) ∧
    exec (.shliCompact d amt) s = one (s.s d <<< amt.toNat) ∧ exec (.sraiCompact d amt) s = one ((s.s d).sshiftRight amt.toNat)

/-- R27, R39, R58, R99 to R101: the M form (R65), the A form and OP 8 (R68) of LD, over each space. -/
def Obligations.LoadResults : Prop :=
  ∀ (s : State) (i : Instr) (d : Reg) (a : Word) (n : Nat) (sx : Bool) (len : Nat), s.LoadForm i d a n sx len →
      let done (u : State) (x : Nat) : Host.Outcome State Fault Refusal :=
        .next ((u.setS d (if sx then sextN x n else zextN x n)).advance len)
      (∀ t g, s.checkAccess s.cur a n .load = .ok (t, g) →
        (g.place.inMemory = true → ∀ u v tag, t.homeWord s.cur g.pa = (u, v, tag) → exec i s = done u (fieldOf v g.sh n)) ∧
        (∀ win off, g.place = .fmt win off →
          (∀ u x, t.windowRead s.cur a win off n = .ok (u, x) → exec i s = done u x) ∧
          (∀ u c v, t.windowRead s.cur a win off n = .error (.trap u c v) → exec i s = .next (u.takeTrap c v))) ∧
        (∀ off, g.place = .dev off →
          (∀ u x, t.devLoad s.cur off n = .ok (u, x) → exec i s = done u x) ∧
          (∀ u c, t.devLoad s.cur off n = .error (.wait u c) → exec i s = .next (u.stallOn i c)))) ∧
      (∀ t c v, s.checkAccess s.cur a n .load = .error (.trap t c v) → exec i s = .next (t.takeTrap c v))

/-- R23, R101: the ordinary load. The next state is `writeS`, whose frame `ScalarWriteFrame` states. -/
def Obligations.PlainLoadValue : Prop :=
  ∀ (s : State) (d a : Reg) (w : BitVec 6) (sx : Bool) (acq : Option Scope) (p : Place) (x : Nat),
    s.plain (s.s a) (w.toNat + 1) p (w.toNat == 63) → x = fieldOf (s.peek (s.wordAt p)) ((s.s a).toNat % 64) (w.toNat + 1) →
    exec (.ldA d a w sx acq) s =
      .next (s.writeS d (if sx then BitVec.ofInt 64 ((x : Int).bmod (2 ^ (w.toNat + 1))) else BitVec.ofNat 64 x))

/-- R26, R27, R99, R101: the three forms of ST. The access in flight names the home of the form's own address. -/
def Obligations.StoreResults : Prop :=
  ∀ (s : State) (i : Instr) (d : Reg) (a : Word) (n : Nat) (rel : Option Scope) (len : Nat), s.StoreForm i d a n rel len →
      (∀ t g u, s.checkAccess s.cur a n .store = .ok (t, g) → t.releaseOpt t.cur rel = .ok u →
        (g.place.inMemory = true → homeOf g.pa ≠ .pcie → ∃ q : Posted,
          exec i s = .next (({ u with inflight := u.inflight ++ [q] } : State).advance len) ∧
          q.pa = g.pa ∧ q.op = .store (maskAt g.sh n) (placeAt g.sh n ((s.s d).toNat % 2 ^ n)) ∧ q.who = u.cur ∧
          q.addr = a ∧ q.checked = g.checked) ∧
        (∀ off, g.place = .dev off →
          (∀ v, u.devStore u.cur off n ((s.s d).toNat % 2 ^ n) (rel.getD .dev) = .ok v → exec i s = .next (v.advance len)))) ∧
      (∀ t c v, s.checkAccess s.cur a n .store = .error (.trap t c v) → exec i s = .next (t.takeTrap c v))

/-- R26, R27 order 7, R104, R216: what a write does when it arrives, and that no byte outside its word changes. That an application
core's store acts on the home itself, apart from the caches, and that an aligned one of 8 to 64 bits is one step, are the model's choices
(log entries 64 and 92). -/
def Obligations.HomeMergeResults : Prop :=
  (∀ (s : State) (q : Posted) (rest : List Posted), s.memoryOk → s.inflight = q :: rest → s.parked = [] → s.dropped = [] → s.linksClear = true →
    s.clean q.pa → q.pa % 8 = 0 → (homeOf q.pa = .hbm ∨ homeOf q.pa = .coh ∨ ∃ c, homeOf q.pa = .spad c) → readOnlyBits q.pa = 0 →
    (q.checked = false ∨ s.foreign q.ptag.toNat q.ordinary false q.pa = false → ∃ t,
      exec (.homeMerge (.posted 0)) s = .next t ∧ t.inflight = rest ∧
      (∀ a, a < q.pa ∨ q.pa + 8 ≤ a → Memory.byte t.mem a = Memory.byte s.mem a) ∧
      (∀ m v, q.op = .store m v → t.peek q.pa = (s.peek q.pa &&& ~~~m) ||| (v &&& m) ∧ t.tag q.pa = s.tag q.pa) ∧
      (∀ v ver, q.op = .stv v ver → t.peek q.pa = v ∧ t.tag q.pa = ver) ∧
      (q.op = .reclaim → t.peek q.pa = s.peek q.pa ∧ t.tag q.pa = 0)) ∧
    (q.checked = true → s.foreign q.ptag.toNat q.ordinary false q.pa = true → ∃ t,
      exec (.homeMerge (.posted 0)) s = .next t ∧ (∀ a, Memory.byte t.mem a = Memory.byte s.mem a) ∧
      (t.core q.who.core).dropcnt = (s.core q.who.core).dropcnt + 1 ∧
      (t.part q.ptag.toNat).drop = (s.part q.ptag.toNat).drop + 1)) ∧
  (∀ (s : State) (pa w : Nat) (x : Word), s.memoryOk → s.parked = [] → s.linksClear = true → s.mgmt.safe = false → s.clean pa → pa % 8 = 0 →
    (homeOf pa = .hbm ∨ homeOf pa = .coh ∨ ∃ c, homeOf pa = .spad c) → pa < Config.mgmtSpadBase → readOnlyBits pa = 0 →
    w = 8 ∨ w = 16 ∨ w = 32 ∨ w = 64 → ∃ t, exec (.homeMerge (.host .store pa w x)) s = .next t ∧
      t.peek pa = (s.peek pa &&& ~~~maskAt 0 w) ||| (x &&& maskAt 0 w) ∧
      (∀ a, a < pa ∨ pa + 8 ≤ a → Memory.byte t.mem a = Memory.byte s.mem a))

/-- R110 for the AMOs, on a word reached in the ordinary way (`State.plain`). -/
def Obligations.AtomicResults : Prop :=
  ∀ (s : State) (d a b : Reg) (w64 : Bool) (ord : AmoOrd) (p : Place) (w sh pa old y : Nat),
    w = (if w64 then 64 else 32) → s.plain (s.s a) w p → pa = s.wordAt p → (∀ off, homeOf pa ≠ .control off) →
    s.jobMayStore s.cur = false → s.pcieWrites = [] → s.parked = [] →
    sh = (s.s a).toNat % 64 → old = fieldOf (s.peek pa) sh w → y = (s.s b).toNat % 2 ^ w →
    let lo (x : Nat) : Int := (x : Int).bmod (2 ^ w)
    let done (i : Instr) (new : Nat) : Prop :=
      exec i s = .next ((s.poke pa ((s.peek pa &&& ~~~maskAt sh w) ||| placeAt sh w new) s.lane.part).writeS d
        (BitVec.ofInt 64 (lo old)))
    done (.amoadd d a b w64 ord) (old + y) ∧ done (.amoand d a b w64 ord) (old &&& y) ∧ done (.amoor d a b w64 ord) (old ||| y) ∧
    done (.amoxor d a b w64 ord) (old ^^^ y) ∧ done (.amomin d a b w64 ord) (if lo old ≤ lo y then old else y) ∧
    done (.amomax d a b w64 ord) (if lo old ≤ lo y then y else old) ∧ done (.amominu d a b w64 ord) (min old y) ∧
    done (.amomaxu d a b w64 ord) (max old y) ∧ done (.amoswap d a b w64 ord) y ∧
    done (.amocas d a b w64 ord) (if old = (s.s d).toNat % 2 ^ w then y else old)

/-- R99, R110: REDADD, REDFADD, REDMIN, REDMAX and REDOR, at issue and at the home. -/
def Obligations.ReductionResults : Prop :=
  (∀ (s t u : State) (a b : Reg) (w64 : Bool) (rel : Option Scope) (g : Target) (i : Instr) (fn : RedFn) (w : Nat),
    (i = .redadd a b w64 rel ∧ fn = .add) ∨ (i = .redfadd a b rel ∧ fn = .fadd ∧ w64 = false) ∨ (i = .redmin a b w64 rel ∧ fn = .min) ∨
      (i = .redmax a b w64 rel ∧ fn = .max) ∨ (i = .redor a b w64 rel ∧ fn = .or) →
    w = (if w64 then 64 else 32) → s.checkAccess s.cur (s.s a) w .red = .ok (t, g) → t.releaseOpt t.cur rel = .ok u →
    homeOf g.pa ≠ .pcie → ∃ q : Posted,
      exec i s = .next (({ u with inflight := u.inflight ++ [q] } : State).advance 32) ∧
      q.pa = g.pa ∧ q.op = .red fn g.sh w (s.s b) ∧ q.checked = g.checked) ∧
  (∀ (s : State) (q : Posted) (rest : List Posted) (fn : RedFn) (sh w old y : Nat) (x : Word), s.memoryOk → s.inflight = q :: rest →
    s.parked = [] → s.dropped = [] → s.linksClear = true → s.clean q.pa → q.pa % 8 = 0 → (homeOf q.pa = .hbm ∨ homeOf q.pa = .coh ∨ ∃ c, homeOf q.pa = .spad c) →
    readOnlyBits q.pa = 0 → (q.checked = false ∨ s.foreign q.ptag.toNat q.ordinary false q.pa = false) → q.op = .red fn sh w x → (w = 32 ∨ w = 64) → sh + w ≤ 64 →
    old = fieldOf (s.peek q.pa) sh w → y = x.toNat % 2 ^ w → ∃ t new,
      exec (.homeMerge (.posted 0)) s = .next t ∧
      (fn = .add → new = (old + y) % 2 ^ w) ∧ (fn = .fadd → new = f32Add old y) ∧ (fn = .or → new = old ||| y) ∧
      (fn = .min → new = if (old : Int).bmod (2 ^ w) ≤ (y : Int).bmod (2 ^ w) then old else y) ∧
      (fn = .max → new = if (old : Int).bmod (2 ^ w) ≤ (y : Int).bmod (2 ^ w) then y else old) ∧
      t.peek q.pa = (s.peek q.pa &&& ~~~maskAt sh w) ||| placeAt sh w new ∧
      (∀ a, a < q.pa ∨ q.pa + 8 ≤ a → Memory.byte t.mem a = Memory.byte s.mem a))

/-- R104, R106 on a plain scratchpad word. -/
def Obligations.TagResults : Prop :=
  ∀ (s : State) (d a : Reg) (ver : BitVec 4) (o : Option Scope) (c b : BitVec 3) (off : BitVec 5) (p : Place) (pa : Nat),
    s.plain (s.s a) 64 p → p.isSpad = true → pa = s.wordAt p → s.parked = [] → s.lane.req = none → s.jobMayStore s.cur = false → s.pcieWrites = [] →
    (s.tag pa ≠ 0 → exec (.ldf d a o) s = .next (s.writeS d (s.peek pa))) ∧
    (s.tag pa ≠ 0 → s.s a = cAddr (s.s (cReg b)) off →
      exec (.ldfCompact c b off) s = .next ((s.setS (cReg c) (s.peek pa)).advance 16)) ∧
    (s.tag pa = ver → exec (.ldw d a ver o) s = .next (s.writeS d (s.peek pa))) ∧
    (s.tag pa = 0 → exec (.ste d a o) s = .next (((s.poke pa (s.s d) s.lane.part).setTag pa 1).advance 32)) ∧
    exec (.tagrd d a) s = .next (s.writeS d ((s.tag pa).setWidth 64)) ∧
    (∃ q : Posted, exec (.stv d a ver o) s = .next (({ s with inflight := [q] } : State).advance 32) ∧ q.pa = pa ∧
      q.op = .stv (s.s d) ver) ∧
    (∃ q : Posted, exec (.reclaim a o) s = .next (({ s with inflight := [q] } : State).advance 32) ∧ q.pa = pa ∧ q.op = .reclaim) ∧
    (∀ i, (i = .ldf d a o ∧ s.tag pa = 0) ∨ (i = .ldw d a ver o ∧ s.tag pa ≠ ver) ∨ (i = .ste d a o ∧ s.tag pa ≠ 0) → ∃ t,
      exec i s = .next t ∧ t.lane.run = .stalled ∧ t.lane.stall = 1 ∧ t.lane.pc = s.lane.pc ∧ t.parked = [s.cur] ∧
      (∃ k, t.lane.req = some ⟨pa, k, .held⟩) ∧ t.mem = s.mem ∧ t.tags = s.tags)

/-- R102, R103. Code 6 for the wait of a release is the model's reading (log entry 53); which jobs it waits for is log entry 17. -/
def Obligations.FenceResults : Prop :=
  ∀ (s : State) (sc : Scope) (i : Bool),
    let flush (t : State) : State := t.setLane { t.lane with ahead := none }
    let done (t : State) : Host.Outcome State Fault Refusal := .next ((if i then flush t else t).advance 32)
    exec (.fence .ionly) s = .next ((flush s).advance 32) ∧ exec (.fence (.acq sc i)) s = done s ∧
    (∃ t, exec (.fence (.rel sc i)) s = done t ∧ (sc = .lane → t.lane.relHold = s.lane.relHold) ∧
      (sc ≠ .lane → t.lane.relHold = some sc ∨ (s.lane.relHold = some .sys ∧ t.lane.relHold = some .sys)) ∧
      t = s.setLane { s.lane with relHold := t.lane.relHold }) ∧
    (∀ t, s.release s.cur sc = .ok t → exec (.fence (.full sc i)) s = done t) ∧
    (let waits : Prop := exec (.fence (.full sc i)) s = .next (s.stallOn (.fence (.full sc i)) 6)
     (∀ t c, s.release s.cur sc = .error (.wait t c) → c = 6 ∧ exec (.fence (.full sc i)) s = .next (t.stallOn (.fence (.full sc i)) 6)) ∧
     (∀ q n, sc ≠ .lane → s.inflight = [q] → s.dropped = [] → q.who = s.cur → q.writer = .lane → n ∈ q.path → (s.link n).down = true → waits) ∧
     (sc ≠ .lane → s.settled → s.jobMayStore s.cur = true → waits) ∧
     (sc = .sys → s.settled → (∃ w, w ∈ s.pcieWrites ∧ w.who = s.cur) → waits)) ∧
    (sc = .lane → s.release s.cur sc = .ok s)

/-- R108: both files, over a spill area in the local raw window. -/
def Obligations.SpillFillResults : Prop :=
  ∀ (s : State) (d a : Reg) (file : Bool) (k z size ptr : Nat), d.toNat ≤ a.toNat → k = (if file then 4 else 1) → z = 64 * k →
    size = (a.toNat - d.toNat + 1) * z → ptr = s.lane.spillptr.toNat → s.lane.spv = false → s.lane.spvEnd = false →
    s.lane.waiting = none → s.lane.spillptr.toNat % 64 = 0 → s.settled → s.unc = [] → s.corr = [] → s.unwatched →
    (0xC000000000000000 ≤ ptr → ptr + size ≤ 0xC000000000200000 → s.lane.spillbase.toNat ≤ ptr → ptr + size ≤ s.lane.spilllim.toNat →
      ∃ t, exec (.spillm d a file) s = .next t ∧ t.lane.spillptr.toNat = ptr + size ∧ t.lane.pc = s.lane.pc + 32 ∧
        (∀ n, t.lane.s n = s.lane.s n) ∧ (∀ n, t.lane.v n = s.lane.v n) ∧ t.mem = s.mem ∧
        t.inflight.map (fun q => (q.pa, q.op)) = (List.range (size / 64)).map (fun j =>
          (rawByte s.cur.core (ptr - 0xC000000000000000 + 64 * j),
            WriteOp.store (BitVec.allOnes 64) (if file then
              BitVec.ofNat 64 ((s.lane.v (BitVec.ofNat 5 (d.toNat + j / 4))).toNat / 2 ^ (64 * (j % 4)))
              else s.lane.s (BitVec.ofNat 5 (d.toNat + j)))))) ∧
    (size ≤ ptr → 0xC000000000000000 ≤ ptr - size → ptr ≤ 0xC000000000200000 → s.lane.spillbase.toNat + size ≤ ptr →
      ptr ≤ s.lane.spilllim.toNat → ∃ t, exec (.fillm d a file) s = .next t ∧ t.lane.spillptr.toNat = ptr - size ∧
        t.lane.pc = s.lane.pc + 32 ∧ t.mem = s.mem ∧ t.inflight = [] ∧
        let at_ (j : Nat) : Word := s.peek (rawByte s.cur.core (ptr - size - 0xC000000000000000 + 64 * j))
        (file = false → (∀ n, t.lane.v n = s.lane.v n) ∧
          ∀ n : Reg, t.lane.s n = if n ≠ 0 ∧ d.toNat ≤ n.toNat ∧ n.toNat ≤ a.toNat then at_ (n.toNat - d.toNat) else s.lane.s n) ∧
        (file = true → (∀ n, t.lane.s n = s.lane.s n) ∧
          ∀ n : VReg, if d.toNat ≤ n.toNat ∧ n.toNat ≤ a.toNat then
            ∀ i, i < 4 → (t.lane.v n).toNat / 2 ^ (64 * i) % 2 ^ 64 = (at_ (4 * (n.toNat - d.toNat) + i)).toNat
            else t.lane.v n = s.lane.v n)) ∧
    (¬(s.lane.spillbase.toNat ≤ ptr ∧ ptr + size ≤ s.lane.spilllim.toNat) →
      exec (.spillm d a file) s = .next (s.takeTrap 0x0D (BitVec.ofNat 64 size))) ∧
    (¬(ptr ≤ s.lane.spilllim.toNat ∧ s.lane.spillbase.toNat + size ≤ ptr) →
      exec (.fillm d a file) s = .next (s.takeTrap 0x0D (BitVec.ofNat 64 size)))

/-- R190, R191, R335 for the two instructions whose effect is a trap. -/
def Obligations.TrapEntryResults : Prop :=
  ∀ (s : State) (i : Instr) (e : BitVec 10) (c : BitVec 8), (i = .trap e ∧ c = 0x13) ∨ (i = .bkpt e ∧ c = 0x14) →
    s.untraced s.cur →
    let armed : Bool := i == .bkpt e && s.myCore.dbg.arm.toNat.testBit s.cur.lane
    let regs : Lane := { s.lane with
      req := none, trapcause := c, trapval := e.setWidth 64, trappc := s.lane.pc &&& ~~~(15 : Word), traptick := s.dtc,
      stall := 0, waiting := none, waitJob := none, dbgSkip := false, trapWait := false }
    (armed = false → s.lane.intrap = false → ∀ u h, (s.withdraw s.cur).trapHandler s.cur = (u, some h) →
      exec i s = .next (u.setLaneAt s.cur { regs with run := .running, intrap := true, pc := h })) ∧
    (armed = false → s.lane.intrap = true → exec i s = .next (((s.withdraw s.cur).setLane { regs with run := .parked }).sendHw
      s.cur.core s.lane.supc.toNat 0 59 s.lane.part (trapReport c (e.setWidth 64) (s.lane.pc &&& ~~~(15 : Word)) s.cur))) ∧
    (armed = true → ∃ t, exec i s = .next t ∧ t.lane.dstop = true ∧ (t.myCore.dbg.dcause[s.cur.lane % 4]'(Nat.mod_lt _ (by decide))) = c ∧
      (t.myCore.dbg.dval[s.cur.lane % 4]'(Nat.mod_lt _ (by decide))) = e.setWidth 64 ∧
      (t.myCore.dbg.dpc[s.cur.lane % 4]'(Nat.mod_lt _ (by decide))) = s.lane.pc &&& ~~~(15 : Word) ∧
      t.lane.trapcause = s.lane.trapcause ∧ t.lane.trappc = s.lane.trappc ∧ t.mem = s.mem)

/-- R192. That TRAPVAL holds the instruction word is the model's reading of R193 (log entry 20). -/
def Obligations.TrapReturnResults : Prop :=
  ∀ s : State,
    (s.lane.intrap = true → exec .tret s = .next (s.setLane { s.lane with
      pc := s.lane.trappc, intrap := false, run := .running, stall := 0, waiting := none, waitJob := none, spvEnd := s.lane.spv,
      dbgSkip := s.lane.trapcause == 0x14 })) ∧
    (s.lane.intrap = false → exec .tret s = .next (s.takeTrap 0x01 0x0400002F)) ∧
    (s.lane.spvEnd = true → ∀ i, (∀ d a f, i ≠ .spillm d a f ∧ i ≠ .fillm d a f) →
      s.endSpv i = s.setLane { s.lane with spv := false, spvEnd := false }) ∧
    (∀ d a f, s.endSpv (.spillm d a f) = s ∧ s.endSpv (.fillm d a f) = s)

/-- R52, R53, R55, R197: CRW then CRR, register by register, and the three refusals. -/
def Obligations.ControlRegisterResults : Prop :=
  ∀ (s : State) (d a : Reg) (n : BitVec 12) (v : Word), v = s.s a →
    let k := n.toNat
    let priv : Prop := k = 0x020 ∨ k = 0x023 ∨ k = 0x024 ∨ k = 0x025
    let bad : Prop := (k = 0x005 ∧ 5 ≤ v.toNat % 8) ∨
      (0x030 ≤ k ∧ k ≤ 0x037 ∧ v.getLsbD 63 = true ∧ 2097152 < v.toNat % 2 ^ 21 / 64 * 64 + v.toNat / 2 ^ 27 % 2 ^ 16 * 64) ∨
      (0x040 ≤ k ∧ k ≤ 0x047 ∧ v.getLsbD 0 = true ∧ v.toNat / 4 % 4 = 3)
    let absent : Prop := s.crRead s.cur k = none
    (absent ↔ ¬(k ≤ 0x007 ∨ (0x010 ≤ k ∧ k ≤ 0x013) ∨ (0x020 ≤ k ∧ k ≤ 0x025) ∨ (0x030 ≤ k ∧ k ≤ 0x037) ∨ (0x040 ≤ k ∧ k ≤ 0x047))) ∧
    (∀ x, s.crRead s.cur k = some x → exec (.crr d n) s = .next (s.writeS d x)) ∧
    (absent → exec (.crr d n) s = .next (s.takeTrap 0x01 (instrWord (.crr d n))) ∧
      exec (.crw a n) s = .next (s.takeTrap 0x01 (instrWord (.crw a n)))) ∧
    (¬absent → priv → s.lane.sup = false → exec (.crw a n) s = .next (s.takeTrap 0x03 (instrWord (.crw a n)))) ∧
    (¬absent → ¬(priv ∧ s.lane.sup = false) → bad → exec (.crw a n) s = .next (s.takeTrap 0x01 v)) ∧
    (¬absent → ¬(priv ∧ s.lane.sup = false) → ¬bad → ∃ t, exec (.crw a n) s = .next t ∧ t.lane.pc = s.lane.pc + 32 ∧
      (∀ m, t.s m = s.s m) ∧ t.mem = s.mem ∧ (∀ m, m ≠ k → m ≠ 0 → t.crRead t.cur m = s.crRead s.cur m) ∧
      (k = 0x000 → t.lane.spx = BitVec.ofNat 5 (v.toNat / 2 ^ 8) ∧ t.lane.spv = v.getLsbD 13) ∧
      (k = 0x002 → t.crRead t.cur k = some (v &&& ~~~(15 : Word))) ∧ (k = 0x005 → t.crRead t.cur k = some (v &&& 7)) ∧
      (k = 0x006 → t.crRead t.cur k = some (v &&& 0x1FFFFFFFF)) ∧
      (k = 0x007 → t.crRead t.cur k = some (if v = 0 then 1 else v)) ∧
      (0x010 ≤ k → k ≤ 0x012 → t.crRead t.cur k = some (v &&& ~~~(63 : Word))) ∧
      (k = 0x013 → t.crRead t.cur k = some (v &&& ~~~(0x7FFF : Word))) ∧
      (k = 0x020 → ∀ l, t.crRead ⟨s.cur.core, l⟩ k =
        some (BitVec.ofNat 64 (max 1 (v.toNat % 16) + 16 * max 1 (v.toNat / 16 % 16)))) ∧
      (k = 0x023 → t.crRead t.cur k = some (v &&& 0x80000000FFFFFFFF)) ∧
      (k = 0x024 → t.crRead t.cur k = some (v &&& ~~~(0xFFF : Word))) ∧
      (k = 0x025 → t.crRead t.cur k = some (v &&& ~~~(0xF0 : Word))) ∧
      (0x030 ≤ k → k ≤ 0x037 → t.crRead t.cur k = some (v &&& 0x800007FFF81FFFC0)) ∧
      (0x040 ≤ k → k ≤ 0x047 → t.crRead t.cur k = some (v &&& 0x0000FFFFFFFF00FF)) ∧
      (k = 0x001 ∨ k = 0x003 ∨ k = 0x004 ∨ k = 0x021 ∨ k = 0x022 → t.crRead t.cur k = s.crRead s.cur k))

/-- R194, R195, R208. That unpark makes a parked lane run whether or not it is gated is the model's reading (log entry 21). -/
def Obligations.SystemResults : Prop :=
  ∀ (s : State) (d a : Reg) (v : Word), v = s.s a →
    exec (.dtcr d) s = .next (s.writeS d (s.die (dieOf s.cur.core)).dtc) ∧
    exec .nop s = .next (s.setLane (s.lane.advance 32)) ∧
    (s.lane.sup = false → exec (.partset a) s = .next (s.takeTrap 0x03 (instrWord (.partset a))) ∧
      exec (.lanegate a) s = .next (s.takeTrap 0x03 (instrWord (.lanegate a)))) ∧
    (s.lane.sup = true →
      (v.toNat / 2 ^ 52 ≠ 0 → exec (.partset a) s = .next (s.takeTrap 0x01 v)) ∧
      (∀ r, v.toNat / 2 ^ 52 = 0 → s.namedLane s.cur (v.toNat % 2 ^ 20) (v.toNat / 2 ^ 20 % 4) = some r →
        (v.getLsbD 23 = false → exec (.partset a) s =
          .next ((s.setLaneAt r { s.laneAt r with sup := v.getLsbD 22 }).advance 32)) ∧
        (v.getLsbD 23 = true → s.lane.ptag = 0 → s.tagSettable r = true → ∃ t, exec (.partset a) s = .next t ∧
          (t.laneAt r).sup = v.getLsbD 22 ∧ (t.laneAt r).ptag = BitVec.ofNat 8 (v.toNat / 2 ^ 24) ∧
          (t.laneAt r).supc = BitVec.ofNat 20 (v.toNat / 2 ^ 32) ∧ t.mem = s.mem ∧
          let kept := if (s.laneAt r).active = true then (s.laneAt r).ring.take 1 else []
          (t.laneAt r).ring = kept ∧
          (t.core r.core).dropcnt = (s.core r.core).dropcnt + BitVec.ofNat 64 ((s.laneAt r).ring.length - kept.length)) ∧
        (v.getLsbD 23 = true → s.lane.ptag = 0 → s.tagSettable r = false → exec (.partset a) s = .next (s.stallOn (.partset a) 6))) ∧
      (v.toNat / 2 ^ 52 = 0 → v.getLsbD 23 = true → s.lane.ptag ≠ 0 → exec (.partset a) s = .next (s.takeTrap 0x03 v)) ∧
      (v.toNat / 2 ^ 27 ≠ 0 ∨ 3 < v.toNat / 2 ^ 24 % 8 ∨ v.toNat / 2 ^ 20 % 16 = 0 → exec (.lanegate a) s = .next (s.takeTrap 0x01 v)) ∧
      (v.toNat / 2 ^ 27 = 0 → v.toNat / 2 ^ 24 % 8 ≤ 3 → v.toNat / 2 ^ 20 % 16 ≠ 0 →
        s.maskLanes s.cur (v.toNat % 2 ^ 20) (v.toNat / 2 ^ 20 % 16) = none → exec (.lanegate a) s = .next (s.takeTrap 0x03 v)) ∧
      (v.toNat / 2 ^ 52 = 0 → ¬(v.getLsbD 23 = true ∧ s.lane.ptag ≠ 0) →
        s.namedLane s.cur (v.toNat % 2 ^ 20) (v.toNat / 2 ^ 20 % 4) = none → exec (.partset a) s = .next (s.takeTrap 0x03 v)) ∧
      (∀ rs, v.toNat / 2 ^ 27 = 0 → v.toNat / 2 ^ 24 % 8 ≤ 3 → v.toNat / 2 ^ 20 % 16 ≠ 0 →
        s.maskLanes s.cur (v.toNat % 2 ^ 20) (v.toNat / 2 ^ 20 % 16) = some rs →
        exec (.lanegate a) s = .next (rs.foldl (fun t r => t.laneGate (v.toNat / 2 ^ 24 % 8) r) (s.advance 32)))) ∧
    (∀ (t : State) (r : LaneRef),
      t.laneGate 0 r = t.setLaneAt r { t.laneAt r with gate := true } ∧
      t.laneGate 1 r = t.setLaneAt r { t.laneAt r with gate := false, save := .none } ∧
      ((t.laneAt r).run = .parked → t.laneGate 2 r = t.setLaneAt r { t.laneAt r with
        run := .running, pc := (t.laneAt r).trappc, intrap := false, ahead := none }) ∧
      ((t.laneAt r).run ≠ .parked → t.laneGate 2 r = t) ∧
      ((t.laneAt r).ring = [] → ((t.laneGate 3 r).laneAt r).run = .idle ∧ ((t.laneGate 3 r).laneAt r).req = none))

/-- R68 (OP 10 to 13), R69, R96, R331. That a lane which runs inline code has no end of it while INTRAP = 1 is the model's reading (log
entry 40), and so is the code 6 with which ENDH waits for a store that a link holds (log entry 53). -/
def Obligations.EndhAndCompactControlResults : Prop :=
  ∀ (s : State) (a : Reg) (off : BitVec 6) (far : BitVec 11), s.untraced s.cur →
    let goes (pc : Word) : State :=
      let j := s.setLane (s.lane.jump pc)
      if s.lane.inl && !s.lane.intrap && s.pastInline s.cur pc then j.endPast s.cur else j
    (∀ i, i = .endh ∨ i = .endhCompact → (∀ t, s.endh s.cur = .ok t → exec i s = .next t) ∧
      (∀ q n, s.inflight = [q] → s.dropped = [] → q.who = s.cur → q.writer = .lane → n ∈ q.path → (s.link n).down = true →
        exec i s = .next (s.stallOn i 6))) ∧
    (∀ e, s.lane.active = true → s.lane.ring = [e] → s.settled → ∃ t, exec .endh s = .next t ∧ exec .endhCompact s = .next t ∧ t.lane.run = .idle ∧ t.lane.ring = [] ∧
      t.lane.intrap = false ∧ t.lane.active = false ∧ (∀ x, Memory.byte t.mem x = Memory.byte s.mem x)) ∧
    (s.s a = 0 → exec (.beqCompact a off) s = .next (goes (s.lane.pc + off.zeroExtend 64 * 16)) ∧
      exec (.bneCompact a off) s = .next (s.advance 16)) ∧
    (s.s a ≠ 0 → exec (.bneCompact a off) s = .next (goes (s.lane.pc + off.zeroExtend 64 * 16)) ∧
      exec (.beqCompact a off) s = .next (s.advance 16)) ∧
    exec (.jalCompact far) s = .next (goes (s.lane.pc + far.signExtend 64 * 16)) ∧
    ((s.s a).toNat % 16 = 0 → exec (.jalrCompact a) s = .next (s.setLane (s.lane.jump (s.s a)))) ∧
    ((s.s a).toNat % 16 ≠ 0 → exec (.jalrCompact a) s = .next (s.takeTrap 0x04 (s.s a)))

/-- R115, R118. -/
def Obligations.VectorElementResults : Prop :=
  ∀ (s : State) (d a b : VReg) (ty : VTy) (v : View) (m : MReg), s.lane.noStreams →
    let act (j : Nat) : Bool := (s.lane.m m).getLsbD j
    let g0 := s.lane.rseed
    (tyFloat ty = none →
      let e := viewBits (tyView ty)
      let x := s.el a e
      let y := s.el b e
      let z := s.el d e
      let sg := signed e
      let done (i : Instr) (f : Nat → Nat) : Prop := s.Elementwise i g0 d e act f
      done (.vadd d a b ty m) (fun j => (x j + y j) % 2 ^ e) ∧ done (.vsub d a b ty m) (fun j => (x j + 2 ^ e - y j) % 2 ^ e) ∧
      done (.vmul d a b ty m) (fun j => x j * y j % 2 ^ e) ∧ done (.vfma d a b ty m) (fun j => (x j * y j + z j) % 2 ^ e) ∧
      done (.vmin d a b ty m) (fun j => if sg (x j) ≤ sg (y j) then x j else y j) ∧
      done (.vmax d a b ty m) (fun j => if sg (x j) ≤ sg (y j) then y j else x j) ∧
      done (.vabs d a ty m) (fun j => (sg (x j)).natAbs) ∧ done (.vneg d a ty m) (fun j => (2 ^ e - x j) % 2 ^ e)) ∧
    (∀ f, tyFloat ty = some f →
      let e := viewBits (tyView ty)
      let x (j : Nat) : FVal := f.decode (s.el a e j)
      let y (j : Nat) : FVal := f.decode (s.el b e j)
      let z (j : Nat) : FVal := f.decode (s.el d e j)
      let rm := s.lane.rmode
      let g := (drawsFor rm act g0 (256 / e)).1
      let dr (j : Nat) : Nat := (drawsFor rm act g0 (256 / e)).2.getD j 0
      let done (i : Instr) (g : Word) (h : Nat → Nat) : Prop := s.Elementwise i g d e act h
      done (.vadd d a b ty m) g (fun j => f.round rm (dr j) (FVal.add rm (x j) (y j))) ∧
      done (.vsub d a b ty m) g (fun j => f.round rm (dr j) (FVal.add rm (x j) (y j).negate)) ∧
      done (.vmul d a b ty m) g (fun j => f.round rm (dr j) (FVal.mul (x j) (y j))) ∧
      done (.vfma d a b ty m) g (fun j => f.round rm (dr j) (FVal.fma rm (x j) (y j) (z j))) ∧
      done (.vmin d a b ty m) g0 (fun j => f.minmax false (s.el a e j) (s.el b e j)) ∧
      done (.vmax d a b ty m) g0 (fun j => f.minmax true (s.el a e j) (s.el b e j)) ∧
      done (.vabs d a ty m) g0 (fun j => if x j = .nan then f.nanCode else s.el a e j % f.signBit) ∧
      done (.vneg d a ty m) g0 (fun j => if x j = .nan then f.nanCode else (s.el a e j + f.signBit) % (2 * f.signBit)) ∧
      (rm ≠ .rs → g = g0 ∧ ∀ j, dr j = 0)) ∧
    (let e := viewBits v
     let x := s.el a e
     let y := s.el b e
     let done (i : Instr) (f : Nat → Nat) : Prop := s.Elementwise i g0 d e act f
     done (.vand d a b v m) (fun j => x j &&& y j) ∧ done (.vor d a b v m) (fun j => x j ||| y j) ∧
     done (.vxor d a b v m) (fun j => x j ^^^ y j) ∧ done (.vshl d a b v m) (fun j => x j * 2 ^ (y j % e) % 2 ^ e) ∧
     done (.vshr d a b v m) (fun j => x j / 2 ^ (y j % e)) ∧
     done (.vsra d a b v m) (fun j => (signed e (x j) / 2 ^ (y j % e) % 2 ^ e).toNat))

/-- R119, R120, R122. -/
def Obligations.VectorMoveResults : Prop :=
  ∀ (s : State) (d a b : VReg) (r q : Reg) (v : View) (ty : VTy) (m md ma mb : MReg) (e n : Nat), s.lane.noStreams →
    e = viewBits v → n = 256 / e →
    let act (j : Nat) : Bool := (s.lane.m m).getLsbD j
    let g := s.lane.rseed
    let x := s.el a e
    s.Elementwise (.vsel d a b v m) g d e (fun _ => true) (fun j => if act j = true then x j else s.el b e j) ∧
    s.Elementwise (.vbcast d r v m) g d e act (fun _ => (s.s r).toNat % 2 ^ e) ∧
    s.Elementwise (.vperm d a b v m) g d e act (fun j => x (s.el b e j % n)) ∧
    s.Elementwise (.vslide d a q v m) g d e act (fun j =>
      if 0 ≤ (j : Int) + (s.s q).toInt ∧ (j : Int) + (s.s q).toInt < n then x ((j : Int) + (s.s q).toInt).toNat else 0) ∧
    (∀ i, i < n → act i = true → (∀ j, j < i → act j = false) →
      exec (.vmovsv r a v m) s = .next (s.writeS r (BitVec.ofInt 64 (signed e (x i)))) ∧
      s.Elementwise (.vmovvs d r v m) g d e (fun j => j == i) (fun _ => (s.s r).toNat % 2 ^ e)) ∧
    ((∀ i, i < n → act i = false) → exec (.vmovsv r a v m) s = .next (s.writeS r 0) ∧
      s.Elementwise (.vmovvs d r v m) g d e (fun _ => false) (fun _ => 0)) ∧
    (∀ c, ∃ k : BitVec 32, exec (.vcmp md a b c ty m) s = .next (s.writeM md k) ∧ ∀ i, i < 32 → (k.getLsbD i = true ↔
      i < 256 / viewBits (tyView ty) ∧ act i = true ∧
      let w := viewBits (tyView ty)
      let p := s.el a w i
      let o := s.el b w i
      match tyFloat ty, c with
      | none, .eq => p = o
      | none, .lt => signed w p < signed w o
      | none, .le => signed w p ≤ signed w o
      | none, .ltu => p < o
      | some f, .eq => (f.decode p).eqv (f.decode o) = true
      | some f, .lt => (f.decode p).lt (f.decode o) = true
      | some f, .le => (f.decode p).lt (f.decode o) = true ∨ (f.decode p).eqv (f.decode o) = true
      | some _, .ltu => False)) ∧
    exec (.mand md ma mb) s = .next (s.writeM md (s.lane.m ma &&& s.lane.m mb)) ∧
    exec (.mor md ma mb) s = .next (s.writeM md (s.lane.m ma ||| s.lane.m mb)) ∧
    exec (.mnot md ma) s = .next (s.writeM md (~~~s.lane.m ma)) ∧
    exec (.mpop r ma) s = .next (s.writeS r (BitVec.ofNat 64 ((List.range 32).filter (fun i => (s.lane.m ma).getLsbD i)).length))

/-- R121. -/
def Obligations.VectorReductionResults : Prop :=
  ∀ (s : State) (d a : VReg) (ty : VTy) (m : MReg) (e n : Nat), s.lane.noStreams → e = viewBits (tyView ty) → n = 256 / e →
    let act (j : Nat) : Bool := (s.lane.m m).getLsbD j
    let x := s.el a e
    let first (i : Instr) (v : Nat) : Prop := ∃ r : VWord, exec i s = .next (s.writeV d r) ∧
      ∀ j, j < n → vget r e j = if j = 0 then v else 0
    (tyFloat ty = none →
      first (.vredadd d a ty m) (((List.range n).map (fun j => if act j then x j else 0)).sum % 2 ^ e) ∧
      (∃ v, first (.vredmax d a ty m) v ∧ (∀ j, j < n → act j = true → signed e (x j) ≤ signed e v) ∧
        ((∃ j, j < n ∧ act j = true ∧ x j = v) ∨ ((∀ j, j < n → act j = false) ∧ v = 2 ^ (e - 1)))) ∧
      (∃ v, first (.vredmin d a ty m) v ∧ (∀ j, j < n → act j = true → signed e v ≤ signed e (x j)) ∧
        ((∃ j, j < n ∧ act j = true ∧ x j = v) ∨ ((∀ j, j < n → act j = false) ∧ v = 2 ^ (e - 1) - 1)))) ∧
    (∀ f, tyFloat ty = some f →
      (∀ g v, treeAll s.lane.rmode (fun dr p q => f.round s.lane.rmode dr (FVal.add s.lane.rmode (f.decode p) (f.decode q)))
          (Nat.log2 n) ((List.range n).map (fun j => if act j then x j else 0)) s.lane.rseed = (g, v) →
        exec (.vredadd d a ty m) s = .next ((setSeed g s).writeV d (BitVec.ofNat 256 v)) ∧ (s.lane.rmode ≠ .rs → g = s.lane.rseed)) ∧
      first (.vredmax d a ty m) (((List.range n).map (fun j => if act j then x j else f.signBit + f.infCode)).foldl (f.minmax true)
        (f.signBit + f.infCode)) ∧
      first (.vredmin d a ty m) (((List.range n).map (fun j => if act j then x j else f.infCode)).foldl (f.minmax false) f.infCode))

/-- R116, R123. -/
def Obligations.VectorMemoryResults : Prop :=
  ∀ (s : State) (d b : VReg) (a q : Reg) (v : View) (m : MReg) (i : Instr) (e : Nat) (addr : Nat → Word) (st : Bool),
    s.lane.noStreams → e = viewBits v →
    (i = .vld d a v m ∧ st = false ∧ addr = fun j => s.s a + word (vstep (s.s a) e * j)) ∨
      (i = .vlds d a q v m ∧ st = false ∧ addr = fun j => s.s a + s.s q * word j) ∨
      (i = .vgather d a b v m ∧ st = false ∧ addr = fun j => s.s a + word (vstep (s.s a) e * s.el b e j)) ∨
      (i = .vst d a v m ∧ st = true ∧ addr = fun j => s.s a + word (vstep (s.s a) e * j)) ∨
      (i = .vscatter d a b v m ∧ st = true ∧ addr = fun j => s.s a + word (vstep (s.s a) e * s.el b e j)) →
    let k : Access := if st then .store else .load
    let js := activeElems (s.lane.m m) (256 / e)
    (∀ u found, s.checkElems e k addr js = .ok (u, found) →
      (st = false → ∀ z xs, u.readElems e addr found js = (z, xs) →
        exec i s = .next (z.writeV d (vmerge e (s.lane.m m) (s.lane.v d) (fun j => Table.get 0 xs j)))) ∧
      (st = true → exec i s = .next ((js.foldl (fun t j => t.storeElem (addr j) e (s.el d e j)) u).advance 32))) ∧
    (∀ u c x, s.checkElems e k addr js = .error (.trap u c x) → exec i s = .next (u.takeTrap c x)) ∧
    (∀ pl : Nat → Place, s.settled → (∀ j ∈ js, s.plain (addr j) e (pl j)) →
      let field (j : Nat) : Nat := fieldOf (s.peek (s.wordAt (pl j))) ((addr j).toNat % 64) e
      (st = false → s.Elementwise i s.lane.rseed d e (fun j => (s.lane.m m).getLsbD j) field) ∧
      (st = true → ∃ t, exec i s = .next t ∧ t.mem = s.mem ∧ t.SameButScalars s ∧ (∀ r, t.s r = s.s r) ∧
        t.inflight.map (fun p => (p.pa, p.op, p.addr)) = js.map (fun j =>
          (s.wordAt (pl j), WriteOp.store (maskAt ((addr j).toNat % 64) e) (placeAt ((addr j).toNat % 64) e (s.el d e j)), addr j))))

/-- R124 to R127. -/
def Obligations.ConversionResults : Prop :=
  ∀ (s : State) (d a : VReg) (r : Reg) (tt st : ElemTy) (rm : RmField) (fmt : BlkFmt) (cb : CbSel) (kq : Bool), s.lane.noStreams →
    let mode := s.lane.rm rm
    (∃ x : VWord,
      let w := elemBits st
      let n := 256 / max w (elemBits tt)
      let dr := drawsFor mode (fun _ => (elemFloat st).isSome || (elemFloat tt).isSome) s.lane.rseed n
      let xs := (List.range n).map (fun j => elemVal st (s.el a w j))
      exec (.vcvt d a tt st rm) s = .next ((amaxOf st xs (setSeed dr.1 s)).writeV d x) ∧
      ∀ j, j < 256 / elemBits tt → vget x (elemBits tt) j =
        if j < n then convert tt mode (dr.2.getD j 0) (elemVal st (s.el a w j)) % 2 ^ elemBits tt else 0) ∧
    (let at_ := s.s r
     let vals := (List.range 32).map (fun j => elemVal st (elemOf s.lane.v a st j))
     let ws := wordsOf at_ (encodeBlock vals fmt cb kq mode s.lane.rseed)
     let i : Instr := .vpack a r fmt st rm cb kq
     (at_.toNat % 32 ≠ 0 → exec i s = .next (s.takeTrap 0x04 at_)) ∧
     (at_.toNat % 32 = 0 → recordSpace at_ = false → exec i s = .next (s.takeTrap 0x05 at_)) ∧
     (at_.toNat % 32 = 0 → recordSpace at_ = true →
       (∀ u, s.checkWords ws = .ok u → ∃ t, exec i s = .next t ∧
         t = (ws.foldl (fun t w => t.storeWord w.1 w.2.1 w.2.2) (let z := amaxOf st vals u
           if mode = .rs then setSeed (drawMany s.lane.rseed 32) z else z)).advance 32 ∧
         (∀ (pl : Nat → Place), (∀ j, (h : j < ws.length) → s.plain ws[j].1 64 (pl j)) → t.mem = s.mem ∧
           t.inflight.map (fun p => (p.pa, p.op)) = ws.zipIdx.map (fun x => (s.wordAt (pl x.2), WriteOp.store x.1.2.1 x.1.2.2)))) ∧
       (∀ u c v, s.checkWords ws = .error (.trap u c v) → exec i s = .next (u.takeTrap c v)))) ∧
    (let at_ := s.s r
     let i : Instr := .vunpack d r fmt tt rm
     let dr := drawsFor mode (fun _ => true) s.lane.rseed 32
     (at_.toNat % 32 ≠ 0 → exec i s = .next (s.takeTrap 0x04 at_)) ∧
     (at_.toNat % 32 = 0 → recordSpace at_ = false → exec i s = .next (s.takeTrap 0x05 at_)) ∧
     (at_.toNat % 32 = 0 → recordSpace at_ = true → ∀ u blk size, s.blockAt s.cur true at_ (· == fmt) false .load = .ok (u, blk, size) →
       let c (j : Nat) : Nat := convert tt mode (dr.2.getD j 0) (blk.values.getD j .nan)
       let z := setSeed dr.1 u
       exec i s = .next ((z.setLane (z.lane.setVecs ((elemPack d tt c).map (fun x => (x.1, x.2, x.2))))).advance 32)) ∧
     (at_.toNat % 32 = 0 → recordSpace at_ = true → ∀ u c v, s.blockAt s.cur true at_ (· == fmt) false .load = .error (.trap u c v) →
       exec i s = .next (u.takeTrap c v)))

/-- R33 to R37, R41, R126: the encoder and the decoder of PB32 blocks agree. -/
def Obligations.PackedBlockDecodes : Prop :=
  ∀ (v : List FVal) (f : BlkFmt) (cb : CbSel) (kq : Bool) (rm : RoundMode) (g : Word), v.length = 32 → (cb = .cb 0 ∨ f = .cw8) →
    ∃ b, decodeBlock (fun k => (encodeBlock v f cb kq rm g).getD k 0) (fun x => x == f) kq (2 ^ 21) =
      .ok (b, 32 * (encodeBlock v f cb kq rm g).length)

/-- R28 to R31: decode and round agree on every code. -/
def Obligations.FloatRoundingExact : Prop :=
  ∀ (f : FFmt) (rm : RoundMode) (draw c : Nat), f = .f32 ∨ f = .f16 ∨ f = .bf16 → c < 2 ^ f.width → draw < 2 ^ 16 →
    (f.decode c = .nan → f.round rm draw (f.decode c) = f.nanCode) ∧
    (f.decode c ≠ .nan → f.round rm draw (f.decode c) = c) ∧
    (∀ (neg : Bool) (m : Nat) (k : Int), (f.decode (f.infCode - 1)).lt (.fin false m k) = true →
      let least (n : Nat) (e : Int) : Prop := (FVal.fin false m k).lt (.fin false n e) = false
      let top : Int := 2 ^ (f.ebits - 1)
      let toInf : Prop := match rm with
        | .rne => least (2 ^ (f.mbits + 2) - 1) (top - 2 - f.mbits)
        | .rtz => False
        | .rup => neg = false
        | .rdn => neg = true
        | .rs => least ((2 ^ (f.mbits + 1) - 1) * 2 ^ 16 + (2 ^ 16 - draw)) (top - 17 - f.mbits)
      let sign := if neg then f.signBit else 0
      (toInf → f.round rm draw (.fin neg m k) = sign + f.infCode) ∧
      (¬toInf → f.round rm draw (.fin neg m k) = sign + f.infCode - 1))

/-- R136 to R139. SCORD, VCORD and RAND complete for every state and operands; VCORD is shown with no stream bound. Where R138 lists
no result, the result is the model's free value, held to the range that R137 leaves (log entry 6). -/
def Obligations.CordicAndRandomResults : Prop :=
  (∀ (s : State) (d a b : Reg) (fn : CordicFn) (n1 : BitVec 5),
    let x : BitVec 32 := (s.s a).truncate 32
    let y : BitVec 32 := if fn = .atan2 then (s.s b).truncate 32 else 0
    exec (.scord d a b fn n1) s = .next (s.writeS d ((cordicOf fn (n1.toNat + 1) x y).setWidth 64))) ∧
  (∀ (s : State) (d a b : VReg) (fn : CordicFn) (n1 : BitVec 5), s.lane.noStreams →
    ∃ r : VWord, exec (.vcord d a b fn n1) s = .next (s.writeV d r) ∧ ∀ j, j < 8 →
      let x : BitVec 32 := BitVec.ofNat 32 (s.el a 32 j)
      let y : BitVec 32 := if fn = .atan2 then BitVec.ofNat 32 (s.el b 32 j) else 0
      vget r 32 j = (cordicOf fn (n1.toNat + 1) x y).toNat) ∧
  (∀ (s : State) (d : Reg),
    let p := s.lane.rseed ^^^ (s.lane.rseed <<< 13)
    let q := p ^^^ (p >>> 7)
    let g := q ^^^ (q <<< 17)
    exec (.rand d) s = .next ((s.setLane { s.lane with rseed := g }).writeS d g)) ∧
  (∀ (fn : CordicFn) (n : Nat) (x y : BitVec 32),
    let r := cordicOf fn n x y
    let lo := (cordicRange fn n x y).1
    let hi := (cordicRange fn n x y).2
    (∀ k, cordicSpecial fn x y = some k → r = k) ∧
    (cordicSpecial fn x y = none → r = lo ∨ r = hi ∨ (fkind r ≠ .nan ∧ fplace lo ≤ fplace r ∧ fplace r ≤ fplace hi))) ∧
  (∀ (fn : CordicFn) (y : BitVec 32), fn ≠ .atan2 → cordicSpecial fn 0x7FC00000 y = some 0x7FC00000) ∧
  cordicSpecial .sin 0x80000000 0 = some 0x80000000 ∧ cordicSpecial .cos 0 0 = some 0x3F800000 ∧
  cordicSpecial .sin 0x7F800000 0 = some 0x7FC00000 ∧ cordicSpecial .exp 0xFF800000 0 = some 0 ∧
  cordicSpecial .log 0x80000000 0 = some 0xFF800000 ∧ cordicSpecial .log 0xBF800000 0 = some 0x7FC00000 ∧
  cordicSpecial .sqrt 0x80000000 0 = some 0x80000000 ∧ cordicSpecial .sqrt 0xBF800000 0 = some 0x7FC00000 ∧
  cordicSpecial .rsqrt 0x80000000 0 = some 0xFF800000 ∧ cordicSpecial .recip 0xFF800000 0 = some 0x80000000 ∧
  cordicSpecial .atan2 0x80000000 0xBF800000 = some 0xC0490FDB

/-- R128 to R133. -/
def Obligations.HandleResults : Prop :=
  ∀ (s : State) (h : HReg) (d : Reg) (n : BitVec 12) (o : Bool) (v : View) (k : BitVec 3) (p q : Place) (pa : Nat),
    let x := s.lane.h h
    let fault (c : Nat) : State := s.takeTrap 0x11 (BitVec.ofNat 64 (h.toNat + c * 2 ^ 32))
    let ops (tail : Bool) (need : Nat) (i : Instr) : Prop :=
      (i = .hwaitf h n ∧ tail = false ∧ need = n.toNat) ∨ (i = .hwaite h n ∧ tail = true ∧ need = n.toNat) ∨
      (i = .hadv h tail n ∧ need = n.toNat) ∨ (i = .ldh d h n ∧ tail = false ∧ need = n.toNat + 1) ∨
      (i = .sth d h n ∧ tail = true ∧ need = n.toNat + 1)
    (∀ tail need i, ops tail need i → (x.valid = false ∨ x.role.toNat.testBit (if tail then 1 else 0) = false) →
      exec i s = .next (fault 0)) ∧
    (∀ tail need i, ops tail need i → x.valid = true → x.role.toNat.testBit (if tail then 1 else 0) = true → x.slots.toNat < need →
      exec i s = .next (fault n.toNat)) ∧
    (x.valid = true → s.plain x.ctl 64 p → pa = s.wordAt p → s.parked = [] → s.lane.req = none → s.released →
      let head := (s.peek pa).toNat % 2 ^ 32
      let tl := (s.peek pa).toNat / 2 ^ 32
      let filled := (tl + 2 ^ 32 - head) % 2 ^ 32
      let size := min x.slotw.toNat 64
      let slot (c : Nat) : Word := x.base + BitVec.ofNat 64 (x.slotw.toNat * (c % 2 ^ 32 % x.slots.toNat))
      (x.role.getLsbD 0 = true → n.toNat ≤ x.slots.toNat →
        (n.toNat ≤ filled → exec (.hwaitf h n) s = .next (s.advance 32) ∧
          exec (.hadv h false n) s = .next ((s.poke pa (BitVec.ofNat 64 (tl * 2 ^ 32 + (head + n.toNat) % 2 ^ 32)) s.lane.part).advance 32)) ∧
        (filled < n.toNat → exec (.hadv h false n) s = .next (fault n.toNat) ∧ ∃ t, exec (.hwaitf h n) s = .next t ∧
          t.lane.run = .stalled ∧ t.lane.stall = 2 ∧ t.parked = [s.cur] ∧ t.lane.pc = s.lane.pc ∧ t.mem = s.mem)) ∧
      (x.role.getLsbD 1 = true → n.toNat ≤ x.slots.toNat →
        (n.toNat + filled ≤ x.slots.toNat → exec (.hwaite h n) s = .next (s.advance 32) ∧
          exec (.hadv h true n) s = .next ((s.poke pa (BitVec.ofNat 64 ((tl + n.toNat) % 2 ^ 32 * 2 ^ 32 + head)) s.lane.part).advance 32)) ∧
        (x.slots.toNat < n.toNat + filled → exec (.hadv h true n) s = .next (fault n.toNat) ∧ ∃ t, exec (.hwaite h n) s = .next t ∧
          t.lane.run = .stalled ∧ t.lane.stall = 2 ∧ t.parked = [s.cur] ∧ t.lane.pc = s.lane.pc ∧ t.mem = s.mem)) ∧
      (x.role.getLsbD 0 = true → n.toNat + 1 ≤ x.slots.toNat → n.toNat + 1 ≤ filled → s.plain (slot (head + n.toNat)) size q (size == 64) →
        exec (.ldh d h n) s = .next (s.writeS d (BitVec.ofNat 64
          (fieldOf (s.peek (s.wordAt q)) ((slot (head + n.toNat)).toNat % 64) size)))) ∧
      (x.role.getLsbD 1 = true → n.toNat + 1 + filled ≤ x.slots.toNat → s.plain (slot (tl + n.toNat)) size q → ∃ w : Posted,
        exec (.sth d h n) s = .next (({ s with inflight := [w] } : State).advance 32) ∧ w.pa = s.wordAt q ∧
        w.addr = slot (tl + n.toNat) ∧
        w.op = .store (maskAt ((slot (tl + n.toNat)).toNat % 64) size) (placeAt ((slot (tl + n.toNat)).toNat % 64) size (s.s d).toNat))) ∧
    (s.plain (s.s d) 64 p true → s.plain (s.s d + 64) 64 q true → recordSpace (s.s d) = true → (s.s d).toNat % 64 = 0 →
      let b := s.peek (s.wordAt p)
      let w := (s.peek (s.wordAt q)).toNat
      let y : Handle := ⟨b, BitVec.ofNat 16 w, BitVec.ofNat 16 (w / 2 ^ 16), BitVec.ofNat 2 (w / 2 ^ 32)⟩
      (y.valid = true ∧ b.toNat % 64 = 0 ∧ spanOk y = true → exec (.hset h d) s = .next ((s.setLane (s.lane.setH h y)).advance 32)) ∧
      (¬(y.valid = true ∧ b.toNat % 64 = 0 ∧ spanOk y = true) → exec (.hset h d) s = .next (fault 0))) ∧
    (let ok : Prop := x.valid = true ∧ x.role.toNat.testBit (if o then 1 else 0) = true ∧ x.slotw.toNat = viewBits v
     (ok → (s.s d).toNat < 2 ^ 32 → exec (.sbind k h d o v) s = .next ((s.setLane (s.lane.setStream k.toNat (BitVec.ofNat 64
        (1 + (if o then 2 else 0) + (match v with | .e8 => 0 | .e16 => 4 | .e32 => 8) + h.toNat * 2 ^ 4 + (s.s d).toNat * 2 ^ 16)))).advance 32)) ∧
     (¬ok → exec (.sbind k h d o v) s = .next (fault 0)) ∧
     (ok → 2 ^ 32 ≤ (s.s d).toNat → exec (.sbind k h d o v) s = .next (s.takeTrap 0x10 (s.s d)))) ∧
    ((s.lane.streamOf k.toNat).getLsbD 0 = true → exec (.sunbind k) s = .next ((s.setLane (s.lane.setStream k.toNat 0)).advance 32)) ∧
    ((s.lane.streamOf k.toNat).getLsbD 0 = false → exec (.sunbind k) s = .next (s.advance 32))

/-- R142, R153, R155, R157, R159, R163. That BIND reports RS before its addresses is log entry 60, and that the job which runs counts
toward the sixteen of a queue is log entry 56: the model's choices. -/
def Obligations.MatrixIssueResults : Prop :=
  ∀ (s : State) (d a b c : Reg) (p1 : BitVec 4) (rm : RmField) (cm : Bool), s.released →
    let A := s.s a
    let B := s.s b
    let C := s.s c
    let done (op : MOp) (d : Reg) : Host.Outcome State Fault Refusal := .next ((s.entered op).writeS d (s.myCore.mnext.setWidth 64))
    let issues (i : Instr) (op : MOp) (d : Reg) : Prop :=
      (s.myCore.mq.length < 16 → exec i s = done op d) ∧ (16 ≤ s.myCore.mq.length → exec i s = .next (s.stallOn i 3))
    let badDesc (team : Bool) : Prop := C.toNat / 2 ^ 56 ≠ 0 ∨ C.toNat / 2 ^ 16 % 256 = 0 ∨ C.toNat / 2 ^ 24 % 16 = 0 ∨
      (team = false ∧ C.toNat / 2 ^ 42 ≠ 0) ∨ (team = true ∧ (C.toNat / 2 ^ 32 % 1024 ≠ 1023 ∨ s.teamBad s.cur C = true))
    let stream (x : Word) : Option (BitVec 8) := match decodeWindow x with
      | some (.fmt _ _) => if x.toNat % 32 = 0 then none else some 0x04
      | _ => some 0x05
    (badDesc false → exec (.mma d a b c p1) s = .next (s.takeTrap 0x01 C)) ∧
    (badDesc true → exec (.mmat d a b c p1) s = .next (s.takeTrap 0x01 C)) ∧
    (¬badDesc false → (∀ e, stream A = some e → exec (.mma d a b c p1) s = .next (s.takeTrap e A)) ∧
      (∀ e, stream A = none → stream B = some e → exec (.mma d a b c p1) s = .next (s.takeTrap e B)) ∧
      (stream A = none → stream B = none → issues (.mma d a b c p1) (.mma false (p1.toNat + 1) A B C) d)) ∧
    (¬badDesc true → (s.lane.gxy.1 ≠ 0 ∨ stream A = none) → (s.lane.gxy.2 ≠ 0 ∨ stream B = none) →
      issues (.mmat d a b c p1) (.mma true (p1.toNat + 1) A B C) d) ∧
    (A.toNat < 2 ^ 16 → issues (.mzero a) (.mzero (A.truncate 16)) 0 ∧ issues (.accsp d a) (.accsp (A.truncate 16)) d ∧
      issues (.accfl d a) (.accfl (A.truncate 16)) d) ∧
    (2 ^ 16 ≤ A.toNat → ∀ i, i = .mzero a ∨ i = .accsp d a ∨ i = .accfl d a → exec i s = .next (s.takeTrap 0x01 A)) ∧
    (s.lane.rm rm = .rs → exec (.bind d a b rm cm) s = .next (s.takeTrap 0x01 4)) ∧
    (s.lane.rm rm ≠ .rs → A.toNat % 64 = 0 → B.toNat % 64 = 0 → inScratch A = true → inScratch B = true →
      issues (.bind d a b rm cm) (.bind A B (s.lane.rm rm) cm) d) ∧
    (s.lane.rm rm ≠ .rs → A.toNat % 64 ≠ 0 → exec (.bind d a b rm cm) s = .next (s.takeTrap 0x04 A)) ∧
    (s.lane.rm rm ≠ .rs → A.toNat % 64 = 0 → B.toNat % 64 = 0 → inScratch A = false → exec (.bind d a b rm cm) s = .next (s.takeTrap 0x05 A))

/-- R157, R158, R160, R161, R164. That a wait for a job finds nothing complete while LAST is 0, before the first completion, is log
entry 42, the model's choice; what a wait of a Brook job gives for an id whose status the lane does not hold (log entry 15) is said in
BrookWaitResults. -/
def Obligations.JobWaitResults : Prop :=
  ∀ (s : State) (d a b : Reg) (v : VReg) (rm : RmField), s.released → s.myCore.mq.length < 16 → s.lane.noStreams →
    let A := s.s a
    let B := s.s b
    let id := s.myCore.mnext
    let waits (i : Instr) (op : MOp) : Prop := exec i s =
      .next (((s.entered op).setLane { s.lane with waitJob := some (.pending id) }).stallOn i 3)
    (s.lane.waitJob = none → A.toNat < 2 ^ 16 →
      (B.toNat ≤ 8 ∨ B = 15 → waits (.lmap d a b) (.lmap d (A.truncate 16) B.toNat)) ∧
      (¬(B.toNat ≤ 8 ∨ B = 15) → exec (.lmap d a b) s = .next (s.takeTrap 0x01 B)) ∧
      (s.lane.rm rm ≠ .rs → accrdBad v B = false →
        waits (.accrd v a b rm) (.accrd v (A.truncate 16) (B.toNat % 32) (B.toNat / 2 ^ 8 % 4) (s.lane.rm rm)))) ∧
    (s.lane.waitJob = none → 2 ^ 16 ≤ A.toNat → exec (.lmap d a b) s = .next (s.takeTrap 0x01 A)) ∧
    (∀ row x, s.lane.waitJob = some (.reply row x true) →
      exec (.lmap d a b) s = .next (s.advance 32) ∧ exec (.accrd v a b rm) s = .next (s.advance 32)) ∧
    (∀ row x, s.lane.waitJob = some (.reply row x false) → exec (.lmap d a b) s = .next (s.writeS d x)) ∧
    (∀ row x, s.lane.waitJob = some (.reply row x false) → row.length = 32 → accrdBad v B = false → ∃ t, exec (.accrd v a b rm) s = .next t ∧
      t.lane.pc = s.lane.pc + 32 ∧ t.mem = s.mem ∧ (∀ m, t.s m = s.s m) ∧
      (let ty := B.toNat / 2 ^ 8 % 4
       ∀ j, j < 32 → elemOf t.lane.v v (if ty = 0 then .f32 else if ty = 1 then .bf16 else .f16) j =
        if ty = 0 then (row.getD j 0).toNat
        else convert (if ty = 1 then .bf16 else .f16) (s.lane.rm rm) 0 (FFmt.f32.decode (row.getD j 0).toNat) % 2 ^ 16) ∧
      (t.lane.amaxM, t.lane.amaxN) = amaxAll (s.lane.amaxM, s.lane.amaxN) (row.map (fun x => FFmt.f32.decode x.toNat))) ∧
    (s.lane.rm rm ≠ .rs → A.toNat < 2 ^ 16 → B.toNat < 32 → exec (.accrow v a b rm) s = .next ((s.entered (.accrow (A.truncate 16) B.toNat
      ((List.range 32).map (fun j => BitVec.ofNat 32 (elemOf s.lane.v v .f32 j))) (s.lane.rm rm))).advance 32)) ∧
    (let j (r : Reg) : BitVec 32 := (s.s r).truncate 32
     let done (r : Reg) : Prop := (∀ x ∈ s.myCore.mq, x.lane % 4 ≠ s.cur.lane % 4) ∨
       (j r ≠ 0 ∧ s.lane.mlast ≠ 0 ∧ (s.lane.mlast - j r).toNat < 2 ^ 31)
     (done a → exec (.mpoll d a) s = .next (s.writeS d 1)) ∧ (¬done a → exec (.mpoll d a) s = .next (s.writeS d 0)) ∧
     (done d → exec (.mwait d) s = .next (s.advance 32)) ∧ (¬done d → exec (.mwait d) s = .next (s.stallOn (.mwait d) 3)))

/-- R142 to R147, R152, R154, R158 to R161, R164 to R167, R169. A job of the lane's queue head starts and completes. How many of its
acts its start makes is free (log entry 39), so each clause holds for every number of them. The slot that a fault report names is
that of the label which the fault concerns, as the set stands when the job faults (log entry 69). Both are the model's choices. -/
def Obligations.MatrixJobResults : Prop :=
  (∀ (s : State) (cl k : Nat) (j : MJob), k < 8 → (s.core (cl * 8 + k)).mq = [j] → (∀ i, i < 8 → i ≠ k → (s.core (cl * 8 + i)).mq = []) →
    (s.cluster cl).mcore < 8 → (s.cluster cl).started = [] → (s.cluster cl).mrun = none → (s.laneAt ⟨cl * 8 + k, j.lane⟩).accspill = 0 →
    s.settled → j.key = none → j.fifo = none → (∀ i, i < 2 ^ 15 → s.clean (quadByte (cl * 8 + k) i)) →
    let c := cl * 8 + k
    let r : LaneRef := ⟨c, j.lane⟩
    let a := s.accSet cl j.lane
    let ends (P : State → Prop) : Prop := ∃ t u, exec (.matrixJobStart cl) s = .next t ∧ exec (.matrixJobComplete cl) t = .next u ∧
      (u.cluster cl).mrun = none ∧ (u.core c).mq = [] ∧ (u.laneAt r).mlast = j.id ∧ u.mem = s.mem ∧ P u
    ∀ n old lab, ((∃ x, a.find lab = some (n, x) ∧ x.cells = old ∧ x.lost = [] ∧ Table.sorted old = true) ∨
        (a.find lab = none ∧ a.free = some n ∧ old = [])) →
      let keeps (u : State) : Prop := u.accSet cl j.lane = a
      let holds (u : State) (cells : List (Nat × BitVec 32)) : Prop :=
        u.accSet cl j.lane = ⟨Table.put a.slots n ⟨lab, cells, a.counter + 1, []⟩, a.counter + 1⟩
      let answers (u : State) (row : List (BitVec 32)) (v : Word) : Prop :=
        (s.laneAt r).waitJob = some (.pending j.id) → (u.laneAt r).waitJob = some (.reply row v false)
      let blocks (x : Word) (layout : Bool) (bs : List Blk) : Prop :=
        ∃ e, s.quadBlocks c (windowAccepts (streamWin x)) layout (x.toNat % 2 ^ 21) bs e
      (j.op = .mzero lab → ends (fun u => holds u [])) ∧ (j.op = .accfl lab → ends (fun u => holds u old)) ∧
      (∀ d, j.op = .lmap d lab 15 → ends (fun u => keeps u ∧ answers u [] (if a.find lab = none then 9 else BitVec.ofNat 64 n))) ∧
      (∀ d row ty rm, j.op = .accrd d lab row ty rm →
        ends (fun u => keeps u ∧ answers u ((List.range 32).map (fun c => Table.get 0 old (32 * row + c))) 0)) ∧
      (∀ row x rm, row < 32 → j.op = .accrow lab row x rm → ends (fun u => ∃ cells, holds u cells ∧ ∀ p c, p < 32 → c < 32 →
        cellAt cells p c = if p = row then BitVec.ofNat 32 (FFmt.f32.round rm 0 (FVal.add rm
          (FFmt.f32.decode (cellAt old p c).toNat) (FFmt.f32.decode (x.getD c 0).toNat))) else cellAt old p c)) ∧
      (∀ p A B desc xs ys, j.op = .mma false p A B desc → dLabel desc = lab →
        blocks A (dLa desc) xs → xs.length = (dNr desc + 1) * dKb desc → blocks B (dLb desc) ys → ys.length = (dNc desc + 1) * dKb desc →
        ends (fun u => ∃ cells, holds u cells ∧ ∀ q c, q < 32 → c < 32 → cellAt cells q c =
          if q ≤ dNr desc ∧ c ≤ dNc desc then BitVec.ofNat 32 (((((xs.drop (q * dKb desc)).take (dKb desc)).map (·.align p)).zip
            (((ys.drop (c * dKb desc)).take (dKb desc)).map (·.align (dPb desc)))).foldl (fun acc z => f32Add acc (blockProduct z.1 z.2))
            (if dZero desc then 0 else (cellAt old q c).toNat)) else if dZero desc then 0 else cellAt old q c)) ∧
      (∀ p A B desc xs h cause, j.op = .mma false p A B desc → dLabel desc = lab → xs.length < (dNr desc + 1) * dKb desc →
        s.quadBlocks c (windowAccepts (streamWin A)) (dLa desc) (A.toNat % 2 ^ 21) xs h →
        s.quadFails c (windowAccepts (streamWin A)) (dLa desc) h cause → (s.laneAt r).run ≠ .parked → (s.laneAt r).due = [] →
        ends (fun u => keeps u ∧ (u.laneAt r).due = [.jobFault cause j.id
          (jobReport j cl ⟨cause, A - BitVec.ofNat 64 (A.toNat % 2 ^ 21) + BitVec.ofNat 64 h, lab, (a.find lab).map (·.1)⟩)]))) ∧
  (∀ (s : State) (cl : Nat) (m : MRun) (e : MEnd), (s.cluster cl).mrun = some m → m.done = some e → (s.core m.core).mq = [m.job] →
    s.settled → m.job.key = none → (m.job.fifo = none ∨ (s.core m.core).mresq.length < 16) →
    let j := m.job
    let r : LaneRef := ⟨m.core, j.lane⟩
    let f := e.compared.failure
    ∃ t, exec (.matrixJobComplete cl) s = .next t ∧ (t.cluster cl).mrun = none ∧ (t.core m.core).mq = [] ∧ (t.laneAt r).mlast = j.id ∧
      t.mem = s.mem ∧ (f ≠ none → t.accSet cl j.lane = s.accSet cl j.lane) ∧
      (∀ o, e.compared = .out o → t.accSet cl j.lane = (s.accSet cl j.lane).writeBack o ∧
        ((s.laneAt r).waitJob = some (.pending j.id) → (t.laneAt r).waitJob = some (.reply o.row o.value false))) ∧
      (f ≠ none → (s.laneAt r).waitJob = some (.pending j.id) → (t.laneAt r).waitJob = some (.reply [] 0 true)) ∧
      (∀ o, j.fifo = some o → (t.core m.core).mresq = (s.core m.core).mresq ++ [BitVec.ofNat 64 (j.id.toNat + o * 2 ^ 32 +
        (match f with | some e => 2 ^ 35 + e.cause.toNat * 2 ^ 40 | none => 0))]) ∧
      (j.fifo = none → (t.core m.core).mresq = (s.core m.core).mresq) ∧
      (∀ e, f = some e → (s.laneAt r).run ≠ .parked → (s.laneAt r).due = [] → (t.laneAt r).due = [.jobFault e.cause j.id (jobReport j cl e)])) ∧
  (∀ (a : AccSet) (o : MOut) (n : Nat), (∀ x ∈ o.edits, x.1 ≠ n) → Table.find (a.writeBack o).slots n = Table.find a.slots n) ∧
  (∀ f, (MEnd.fault f).compared = .fault f) ∧ (∀ o, o.copy = none → (MEnd.out o).compared = .out o) ∧
  (∀ o y lab cells, o.copy = some y → Table.find o.edits y.slot = some (some (lab, cells)) →
    ((∀ p c, p < 32 → c < 32 → cellAt cells p c = cellAt y.cells p c) → (MEnd.out o).compared = .out o) ∧
    (∀ p c, p < 32 → c < 32 → cellAt cells p c ≠ cellAt y.cells p c → (MEnd.out o).compared = .fault ⟨0x0F, 0, lab, some y.slot⟩))

/-- R155, R156. -/
def Obligations.TeamReservationResults : Prop :=
  ∀ (s : State) (cl c l : Nat) (tid : BitVec 8) (j : MJob) (p : Nat) (a b desc : Word),
    s.teamJob cl (cl, l, tid) = some (c, j) → j.op = .mma true p a b desc → (s.core c).oldestOfLane j = true →
    (s.cluster cl).granted = none → (s.cluster cl).reserved = [] → (s.cluster cl).hasTeam (cl, l, tid) = false →
    let key := (cl, l, tid)
    (dTc desc = 0 → dTr desc = 0 → ∃ t, exec (.teamReservation cl l tid) s = .next t ∧ t.cores = s.cores ∧ t.mem = s.mem ∧
      t.cluster cl = { s.cluster cl with granted := some key, reserved := []
                                         started := (s.cluster cl).started ++ [⟨cl, l, tid, false, none, none⟩] }) ∧
    (∀ c2 j2 p2 a2 b2 desc2, dTc desc = 1 → dTr desc = 0 → s.teamJob (cl + 256) (cl, l, tid) = some (c2, j2) →
      j2.op = .mma true p2 a2 b2 desc2 → (s.core c2).oldestOfLane j2 = true →
      (s.cluster (cl + 256)).granted = none → (s.cluster (cl + 256)).reserved = [] → ∃ t u, exec (.teamReservation cl l tid) s = .next t ∧
        t.cluster cl = { s.cluster cl with granted := some key, reserved := [] } ∧ t.cluster (cl + 256) = s.cluster (cl + 256) ∧
        exec (.teamReservation cl l tid) t = .next u ∧ u.cores = s.cores ∧ u.mem = s.mem ∧
        let bad : Bool := decide (¬(p = p2 ∧ desc &&& 0x0000FC00FFFF0000 = desc2 &&& 0x0000FC00FFFF0000))
        u.cluster cl = { s.cluster cl with granted := some key, reserved := []
                                           started := (s.cluster cl).started ++ [⟨cl, l, tid, bad, none, none⟩] } ∧
        u.cluster (cl + 256) = { s.cluster (cl + 256) with
          granted := some key, reserved := []
          started := (s.cluster (cl + 256)).started ++ [⟨cl, l, tid, bad, none, none⟩] })

/-- R173 to R176. The layout of body word 1 of a mailbox post is log entry 67, the model's choice. -/
def Obligations.MessageResults : Prop :=
  ∀ (s : State) (a b d : Reg) (n : BitVec 2) (sc : Scope), s.released →
    let h := (s.s a).toNat
    let cls := h / 2 ^ 22 % 64
    let flits := h / 2 ^ 36 % 8 + 1
    let header (h : Nat) (mb : Bool) : Word :=
      mkHeader (h % 2 ^ 20) (h / 2 ^ 20 % 4) (h / 2 ^ 22 % 64) s.lane.part (h / 2 ^ 36 % 8) (s.logical s.cur) false false mb
    let queues (i : Instr) (m : Msg) : Prop :=
      (s.lane.sendq.length < 8 → exec i s = .next ((s.setLane { s.lane with sendq := s.lane.sendq ++ [m] }).advance 32)) ∧
      (8 ≤ s.lane.sendq.length → exec i s = .next (s.stallOn i 5))
    let mayClass : Prop := cls ≠ 0 ∧ (s.lane.sup = true ∨ cls < 56 ∨ cls = 63)
    (cls = 0 → exec (.send a b sc) s = .next (s.takeTrap 0x01 (s.s a)) ∧ exec (.sendi a b sc) s = .next (s.takeTrap 0x01 (s.s a))) ∧
    (56 ≤ cls → cls ≤ 62 → s.lane.sup = false → exec (.send a b sc) s = .next (s.takeTrap 0x03 (s.s a)) ∧
      (flits = 1 → exec (.sendi a b sc) s = .next (s.takeTrap 0x03 (s.s a)))) ∧
    (flits ≠ 1 → exec (.sendi a b sc) s = .next (s.takeTrap 0x01 (s.s a))) ∧
    (mayClass → flits = 1 → queues (.sendi a b sc) [header h false, s.s b, 0, 0]) ∧
    (mayClass → spanInWindow (s.s b) (4 * flits - 1) = false → exec (.send a b sc) s = .next (s.takeTrap 0x05 (s.s b))) ∧
    (mayClass → spanInWindow (s.s b) (4 * flits - 1) = true → (s.s b).toNat % 64 ≠ 0 → exec (.send a b sc) s = .next (s.takeTrap 0x04 (s.s b))) ∧
    (∀ pl : Nat → Place, mayClass → spanInWindow (s.s b) (4 * flits - 1) = true → (s.s b).toNat % 64 = 0 →
      (∀ i, i < 4 * flits - 1 → s.plain (s.s b + BitVec.ofNat 64 (64 * i)) 64 (pl i)) →
      queues (.send a b sc) (header h false :: (List.range (4 * flits - 1)).map (fun i => s.peek (s.wordAt (pl i))))) ∧
    ((s.s a).toNat ≤ (s.myCore.lane n.toNat).rxcnt.toNat → exec (.cntwait n a) s = .next (s.advance 32)) ∧
    ((s.myCore.lane n.toNat).rxcnt.toNat < (s.s a).toNat → exec (.cntwait n a) s = .next (s.stallOn (.cntwait n a) 7)) ∧
    (h / 2 ^ 20 ≠ 0 → exec (.mbxpost a b d) s = .next (s.takeTrap 0x01 (s.s a))) ∧
    (h / 2 ^ 20 = 0 → queues (.mbxpost a b d) [header h true, BitVec.ofNat 64 ((s.s b).toNat % 2 ^ 32 * 2 ^ 32 + (s.s d).toNat % 2 ^ 32), 0, 0]) ∧
    (let k := s.myCore
     let me := s.cur.lane % 4
     let entry (p y : BitVec 32) : Word := BitVec.ofNat 64 (p.toNat * 2 ^ 32 + y.toNat)
     ((∀ row v f, s.lane.waitJob ≠ some (.reply row v f)) → (∀ i ∈ k.mbxWait, (k.lane i).takes = true → i = me) →
       (k.mbx = [] → ∃ w, me ∈ w ∧ exec (.mbxtake d) s = .next ((s.setMyCore { k with mbxWait := w }).stallOn (.mbxtake d) 7)) ∧
       (∀ p y t, k.mbx = (p, y) :: t → exec (.mbxtake d) s = .next ((s.setMyCore { k with mbx := t }).writeS d (entry p y)))) ∧
     (∀ i rest p y, (∀ row v f, s.lane.waitJob ≠ some (.reply row v f)) → k.mbxWait = i :: rest → (k.lane i).takes = true → i < 4 → i ≠ me →
       k.mbx = [(p, y)] → ∃ t, exec (.mbxtake d) s = .next t ∧ t.myCore.mbx = [] ∧
         (t.myCore.lane i).waitJob = some (.reply [] (entry p y) false) ∧ t.lane.run = .stalled ∧ t.lane.stall = 7 ∧ t.mem = s.mem) ∧
     (∀ row v f, s.lane.waitJob = some (.reply row v f) → exec (.mbxtake d) s = .next (s.writeS d v))) ∧
    (1 ≤ h → h ≤ 8 → exec (.mbxcfg a) s =
      .next ((s.setMyCore { s.myCore with mbx := [], mbxK := h, mbxOwner := s.cur.lane % 4 }).advance 32)) ∧
    (h = 0 ∨ 8 < h → exec (.mbxcfg a) s = .next (s.takeTrap 0x01 (s.s a)))

/-- R165, R177 to R179, R182, R184. An instruction that waits for a queue entry keeps the descriptor that it has read (R178). That
the job which runs counts toward the sixteen of a queue is log entry 56, that BEVICT is put in order with the jobs and names its filler
as it is posted is log entry 68, and the acts of a job that the queue holds are log entry 39's: the model's choices. -/
def Obligations.BrookIssueResults : Prop :=
  ∀ (s : State) (d a b : Reg) (conv : Bool) (sc : Scope) (pl : Nat → Place), s.released → recordSpace (s.s a) = true → (s.s a).toNat % 64 = 0 →
    (∀ i, i < 4 → s.plain (s.s a + BitVec.ofNat 64 (64 * i)) 64 (pl i)) →
    let w (i : Nat) : Word := s.peek (s.wordAt (pl i))
    let cl := clusterOf s.cur.core
    let k := s.myCore
    let c := s.cluster cl
    let i : Instr := if conv then .bconv d a b sc else .bcopy d a b sc
    let slot (x : Word) : Nat := x.toNat / 2 ^ 32 % 16
    let promise (src dst w2 bar : Word) : Word :=
      let lat := if w2.getLsbD 58 = true then 4000 else max (brookLatency src) (max (brookLatency dst) (if bar = 0 then 0 else brookLatency bar))
      let len := w2.toNat % 2 ^ 32
      BitVec.ofNat 64 (max s.dtc.toNat (s.lastPromise cl) + lat + (if w2.toNat / 2 ^ 37 % 4 = 0 then (len + 255) / 256 else 4 * len))
    let entered (src dst w2 bar : Word) (rm : RoundMode) (fifo : Bool) : State := (s.setMyCore { k with
        bq := k.bq ++ [⟨k.bnext, s.cur.lane, src, dst, w2, bar, rm, fifo, s.lane.pc, promise src dst w2 bar, c.border, false⟩]
        bnext := if k.bnext = 0xFFFFFFFF then 1 else k.bnext + 1 }).setCluster cl { c with
      border := c.border + 1
      resid := if w2.getLsbD 36 = true then c.resid.set (slot w2) (.filling s.cur.core k.bnext) (Nat.mod_lt _ (by decide)) else c.resid }
    let first : Prop := s.lane.waiting = none ∨ s.lane.kept.desc = none
    let keeps (bar : Word) (rm : RoundMode) : State :=
      s.setLane { s.lane with kept := { s.lane.kept with desc := some ([w 0, w 1, w 2, bar], rm) } }
    (∀ rm, first → s.lane.brookCheck (w 0) (w 1) (w 2) (s.s b) (some conv) = .ok rm →
      (k.bq.length < 16 → exec i s = .next ((((entered (w 0) (w 1) (w 2) (s.s b) rm false).setS d (k.bnext.setWidth 64)).setS (d + 1)
        (promise (w 0) (w 1) (w 2) (s.s b))).advance 32)) ∧
      (16 ≤ k.bq.length → exec i s = .next ((keeps (s.s b) rm).stallOn i 3))) ∧
    (∀ e, first → s.lane.brookCheck (w 0) (w 1) (w 2) (s.s b) (some conv) = .error e → exec i s = .next (s.takeTrap e.1 e.2)) ∧
    (∀ rm, first → s.lane.brookCheck (w 0) (w 1) (w 2) (w 3) none = .ok rm → k.bq.length < 16 →
      exec (.engpush .brook a sc) s = .next ((entered (w 0) (w 1) (w 2) (w 3) rm true).advance 32)) ∧
    (∀ e, first → s.lane.brookCheck (w 0) (w 1) (w 2) (w 3) none = .error e → exec (.engpush .brook a sc) s = .next (s.takeTrap e.1 e.2)) ∧
    (∀ x y z bar rm, s.lane.waiting ≠ none → s.lane.kept.desc = some ([x, y, z, bar], rm) → k.bq.length < 16 →
      exec i s = .next ((((entered x y z bar rm false).setS d (k.bnext.setWidth 64)).setS (d + 1) (promise x y z bar)).advance 32) ∧
      exec (.engpush .brook a sc) s = .next ((entered x y z bar rm true).advance 32)) ∧
    (k.mq.length < 16 → (∀ op, s.matrixCommand s.cur [w 0, w 1, w 2, w 3] = .ok op → exec (.engpush .matrix a sc) s =
        .next ((s.enterMatrix s.cur op (some ((w 0).toNat % 8))).1.advance 32)) ∧
      (∀ e, s.matrixCommand s.cur [w 0, w 1, w 2, w 3] = .error e → exec (.engpush .matrix a sc) s = .next (s.takeTrap e.1 e.2))) ∧
    (k.mresq = [] → exec (.engpop .matrix d) s = .next (s.stallOn (.engpop .matrix d) 3)) ∧
    (∀ x t, k.mresq = x :: t → exec (.engpop .matrix d) s = .next ((s.setMyCore { k with mresq := t }).writeS d x)) ∧
    (k.bresq = [] → exec (.engpop .brook d) s = .next (s.stallOn (.engpop .brook d) 3)) ∧
    (∀ x t, k.bresq = x :: t → exec (.engpop .brook d) s = .next ((s.setMyCore { k with bresq := t }).writeS d x)) ∧
    ((s.s b).toNat < 16 → exec (.bevict b) s = .next ((s.setCluster cl { c with evicts := c.evicts ++ [⟨(s.s b).toNat, c.border, c.fillerOf (s.s b).toNat⟩], border := c.border + 1 }).advance 32)) ∧
    (16 ≤ (s.s b).toNat → exec (.bevict b) s = .next (s.takeTrap 0x01 (s.s b)))

/-- R164, R183. That a wait finds nothing complete while LAST is 0, before the first completion, is log entry 42, and the status that
SLEEP gives for an id that names no completed job is free by log entry 15: the model's choices. -/
def Obligations.BrookWaitResults : Prop :=
  ∀ (s : State) (d a : Reg),
    let j (r : Reg) : BitVec 32 := (s.s r).truncate 32
    let done (r : Reg) : Prop := (∀ x ∈ s.myCore.bq, x.lane % 4 ≠ s.cur.lane % 4) ∨
      (j r ≠ 0 ∧ s.lane.blast ≠ 0 ∧ (s.lane.blast - j r).toNat < 2 ^ 31)
    let late : Prop := (s.s a).toNat < s.dtc.toNat
    (done a → exec (.bwait a) s = .next (s.advance 32)) ∧ (¬done a → exec (.bwait a) s = .next (s.stallOn (.bwait a) 3)) ∧
    (j d ≠ 0 → done d → ∀ n, Table.find s.lane.bstat (j d).toNat = some n → exec (.sleep d a) s = .next (s.writeS d (BitVec.ofNat 64 n))) ∧
    (j d ≠ 0 → done d → Table.find s.lane.bstat (j d).toNat = none → exec (.sleep d a) s = .next (s.writeS d (Config.jobStatus (j d).toNat))) ∧
    (j d = 0 ∨ ¬done d → ¬late → exec (.sleep d a) s = .next (s.stallOn (.sleep d a) 4)) ∧
    (j d = 0 → late → exec (.sleep d a) s = .next (s.writeS d 0)) ∧
    (j d ≠ 0 → ¬done d → late → exec (.sleep d a) s = .next (s.takeTrap 0x0C ((j d).setWidth 64)))

/-- R105, R180 to R182. -/
def Obligations.BrookJobResults : Prop :=
  ∀ (s : State) (cl k : Nat) (j : BJob) (p q : Place), k < 8 → (s.core (cl * 8 + k)).bq = [j] → (∀ i, i < 8 → i ≠ k → (s.core (cl * 8 + i)).bq = []) →
    (s.cluster cl).bcore < 8 → s.cur = ⟨cl * 8 + k, j.lane⟩ → s.memoryOk → s.settled → s.parked = [] →
    (j.fifo = false ∨ (s.core (cl * 8 + k)).bresq.length < 16) →
    let gone (t : State) (status : Nat) : Prop := (t.core (cl * 8 + k)).bq = [] ∧ (t.laneAt s.cur).blast = j.id ∧
      Table.find (t.laneAt s.cur).bstat j.id.toNat = some status ∧
      (t.core (cl * 8 + k)).bresq = (s.core (cl * 8 + k)).bresq ++ (if j.fifo then [BitVec.ofNat 64 (j.id.toNat + status * 2 ^ 32)] else [])
    (j.word2 = 64 → (s.cluster cl).brun = none → (s.cluster cl).evicts = [] → s.plain j.src 64 p → s.plain j.dst 64 q →
      q.isSpad = true → ∃ t u, exec (.brookJobStart cl 1) s = .next t ∧ (∀ x, Memory.byte t.mem x = Memory.byte s.mem x) ∧
        exec (.brookJobComplete cl) t = .next u ∧ (u.cluster cl).brun = none ∧ gone u 0 ∧ u.peek (s.wordAt q) = s.peek (s.wordAt p) ∧
        (∀ x, x < s.wordAt q ∨ s.wordAt q + 8 ≤ x → Memory.byte u.mem x = Memory.byte s.mem x)) ∧
    (∀ b, (s.cluster cl).brun = some b → b.core = cl * 8 + k → b.job = j → b.arrived = false → b.fault = none → b.superseded = false →
      j.word2.getLsbD 39 = true → j.pieces ≤ b.moved → s.plain j.bar 64 p → p.isSpad = true →
      let pa := s.wordAt p
      let x := (s.peek pa).toNat
      let ver : BitVec 4 := BitVec.ofNat 4 (j.word2.toNat / 2 ^ 40)
      ∃ t, exec (.barrierArrival cl) s = .next t ∧ (t.cluster cl).brun = some { b with arrived := true } ∧
        (∀ y, y < pa ∨ pa + 8 ≤ y → Memory.byte t.mem y = Memory.byte s.mem y) ∧
        (s.tag pa = ver → x / 2 ^ 32 ≠ 0 → (x + 1) % 2 ^ 32 = x / 2 ^ 32 → t.peek pa = BitVec.ofNat 64 (x / 2 ^ 32 * 2 ^ 32) ∧
          t.tag pa = if ver = 15 then 1 else ver + 1) ∧
        (s.tag pa = ver → (x / 2 ^ 32 = 0 ∨ (x + 1) % 2 ^ 32 ≠ x / 2 ^ 32) →
          t.peek pa = BitVec.ofNat 64 (x / 2 ^ 32 * 2 ^ 32 + (x + 1) % 2 ^ 32) ∧ t.tag pa = ver) ∧
        (s.tag pa ≠ ver → t.peek pa = s.peek pa ∧ t.tag pa = s.tag pa ∧
          (t.part s.lane.part).stale = (s.part s.lane.part).stale + 1 ∧ t.mesh.length = s.mesh.length + 1)) ∧
    (∀ n o f rest, (s.cluster cl).evicts = ⟨n, o, f⟩ :: rest → n < 16 → (s.cluster cl).brun = none → ∃ t, exec (.residencyEviction cl) s = .next t ∧
      (f = none → (s.cluster cl).residAt n = .resident → (t.cluster cl).residAt n = .empty ∧ (t.cluster cl).evicts = rest ∧
        t.mem = s.mem ∧ t.cores = s.cores) ∧
      (j.word2.getLsbD 36 = true → j.word2.getLsbD 39 = false → j.word2.toNat / 2 ^ 32 % 16 = n → j.order < o → f = some (cl * 8 + k, j.id) →
        (s.cluster cl).residAt n = .filling (cl * 8 + k) j.id → (t.cluster cl).residAt n = .empty ∧ gone t 1 ∧ t.mem = s.mem))

/-- R185, R186, R245 to R250, R261. The last two clauses are the wait in the launch unit's input and its end. On the management core,
which has no launch unit, TSPAWN stalls with code 5 for ever: log entry 70, the model's choice. -/
def Obligations.TaskSpawnResults : Prop :=
  (∀ (s : State) (d a b : Reg) (pl ql : Nat → Place), s.released → s.lane.waiting = none → s.lane.waitJob = none → recordSpace (s.s a) = true → (s.s a).toNat % 64 = 0 →
    (∀ i, i < 7 → s.plain (s.s a + BitVec.ofNat 64 (64 * i)) 64 (pl i)) →
    let die := s.myDie
    let w (i : Nat) : Word := s.peek (s.wordAt (pl i))
    let x : Vector Word 8 := #v[w 0, w 1, w 2, w 3, w 4, w 5, w 6, 0]
    let empty : Prop := (s.die die).input = []
    let waits (i : Instr) (home : Option (LaneRef × Word)) (tiles : Option (List Word)) : Prop :=
      ((s.die die).input.length < 64 → exec i s = .next ((s.setDie die { s.die die with input := (s.die die).input ++
        [.spawn s.cur ⟨⟨s.cur, s.lane.ptag, s.lane.supc, home, s.dtc, false⟩, x, [], []⟩ tiles] }).stallOn i 5)) ∧
      (64 ≤ (s.die die).input.length → exec i s = .next (s.stallOn i 5))
    let simple : Prop := (w 0).getLsbD 52 = false ∧ w 2 = 0 ∧ w 4 = 0 ∧ (w 6).toNat / 2 ^ 49 % 128 = 0
    let kind := (w 0).toNat % 8
    let deps := (w 6).toNat % 2 ^ 16
    let gid := (w 0).toNat / 2 ^ 28 % 256
    (s.myDie = Config.hubDie → exec (.tspawn d a) s = .next (s.stallOn (.tspawn d a) 5)) ∧
    (s.myDie ≠ Config.hubDie →
      (recordBad x = true → exec (.tspawn d a) s = .next (s.takeTrap 0x01 (s.s a))) ∧
      (recordBad x = false → kind = 2 →
        (s.lane.ptag = 0 → exec (.tspawn d a) s = .next ((s.setSettings die ((w 2).toNat % 256) x).writeS d 0)) ∧
        (s.lane.ptag ≠ 0 → s.lane.sup = true → exec (.tspawn d a) s = .next ((s.setSettings die s.lane.part x).writeS d 0)) ∧
        (s.lane.ptag ≠ 0 → s.lane.sup = false → exec (.tspawn d a) s = .next (s.takeTrap 0x03 (s.s a)))) ∧
      (recordBad x = false → kind ≠ 2 → simple →
        ((s.die die).allocRun 1 = none ∨ ¬empty → waits (.tspawn d a) (some (s.cur, s.s a)) none) ∧
        (∀ k, empty → (s.die die).allocRun 1 = some k → gid = 0 → (0 < deps ∨ s.lane.ptag = 0) → ∃ u : State, exec (.tspawn d a) s =
          .next (u.writeS d (BitVec.ofNat 64 k)) ∧ u.mem = s.mem ∧ u.cores = s.cores ∧ (u.die die).nextId = (if k = 65535 then 1 else k + 1) ∧
          ∃ y, (u.die die).task? (BitVec.ofNat 16 k) = some y ∧ y.record = x ∧ y.ptag = s.lane.ptag ∧ y.supc = s.lane.supc ∧
            y.home = some (s.cur, s.s a) ∧ y.arr = s.dtc ∧ y.deps = deps ∧ y.succs = [] ∧
            (0 < deps → y.state = .waiting ∧ y.queued = false) ∧ (deps = 0 → y.state = .ready ∧ y.queued = true ∧ y.enq = s.dtc)))) ∧
    (∀ n : Nat, s.myDie ≠ Config.hubDie → s.s b = BitVec.ofNat 64 n → 1 ≤ n → n ≤ 1024 → recordBad x = false → kind = 0 → simple →
      recordSpace (s.s d) = true → (s.s d).toNat % 64 = 0 →
      (∀ i, i < n → s.plain (s.s d + BitVec.ofNat 64 (64 * i)) 64 (ql i)) →
      let rows (i : Nat) : Nat := (s.peek (s.wordAt (ql i))).toNat / 2 ^ 16 % 64
      let live := ((List.range n).filter (fun i => rows i != 0)).map (fun i => s.s d + BitVec.ofNat 64 (64 * i))
      (∀ i, i < n → rows i ≤ 32) →
        (live = [] → exec (.tspawnr a d b) s = .next (s.writeS a 0)) ∧
        (live ≠ [] → (s.die die).allocRun live.length = none ∨ ¬empty → waits (.tspawnr a d b) none (some live)) ∧
        (∀ k, empty → live ≠ [] → (s.die die).allocRun live.length = some k → gid = 0 → 0 < deps → ∃ u : State, exec (.tspawnr a d b) s =
          .next (u.writeS a (BitVec.ofNat 64 (k + live.length * 2 ^ 16))) ∧ u.mem = s.mem ∧ u.cores = s.cores ∧
          ∀ i at_, live[i]? = some at_ → ∃ y, (u.die die).task? (BitVec.ofNat 16 (k + i)) = some y ∧ y.record = x.set 1 at_ ∧
            y.state = .waiting ∧ y.deps = deps ∧ y.home = none)) ∧
    (recordSpace (s.s b) = false → exec (.tspawn d b) s = .next (s.takeTrap 0x05 (s.s b))) ∧
    (recordSpace (s.s b) = true → (s.s b).toNat % 64 ≠ 0 → exec (.tspawn d b) s = .next (s.takeTrap 0x04 (s.s b)))) ∧
  (∀ (s : State) (d a b : Reg) (i : Instr), i = .tspawn d a ∨ i = .tspawnr d a b →
    (∀ row v f, s.lane.waitJob = some (.reply row v f) → exec i s = .next (s.writeS d v)) ∧
    ((∀ row v f, s.lane.waitJob ≠ some (.reply row v f)) → s.lane.waiting ≠ none → (∃ e ∈ (s.die s.myDie).input, e.isSpawn s.cur = true) →
      exec i s = .next (s.stallOn i 5))) ∧
  (∀ (s : State) (die k : Nat) (r : LaneRef) (x : Checked) (tiles : Option (List Word)) (rest : List Intake),
    (s.die die).input = .spawn r x tiles :: rest → (s.die die).allocRun (idsOf tiles) = some k → recGid x.record = 0 → 0 < recDeps x.record →
    ∃ u, s.takeInput die = some u ∧ u.mem = s.mem ∧ (u.die die).input = rest ∧
      (u.laneAt r).waitJob = some (.reply [] (spawnValue tiles k) false) ∧
      (tiles = none → ∃ y, (u.die die).task? (BitVec.ofNat 16 k) = some y ∧ y.record = x.record ∧ y.arr = x.origin.arr ∧
        y.deps = recDeps x.record ∧ y.state = .waiting ∧ y.home = x.origin.home))

/-- R187 to R189. -/
def Obligations.TaskRequestResults : Prop :=
  ∀ (s : State) (d a b : Reg), s.released → s.myDie ≠ Config.hubDie → s.untraced s.cur →
    let die := s.myDie
    let A := s.s a
    let B := s.s b
    let mine (r : Word) (t : Task) : Prop := r.toNat < 2 ^ 16 ∧ (s.die die).task? (BitVec.ofNat 16 r.toNat) = some t ∧ t.ptag = s.lane.ptag
    let gives (i : Instr) (v : Word) : Prop := exec i s = .next (s.writeS d v)
    ((∀ y, mine B y → y.state ≠ .waiting ∨ A = B) → gives (.tdep d a b) 2) ∧
    (∀ y, mine B y → y.state = .waiting → A ≠ B →
      (A ≠ 0 → (∀ x, mine A x → x.state = .abandoned) → gives (.tdep d a b) 2) ∧
      (∀ x, A ≠ 0 → mine A x → x.state = .complete → gives (.tdep d a b) 1) ∧
      (∀ x, A ≠ 0 → mine A x → x.state ≠ .complete → x.state ≠ .abandoned → ∃ u : State, exec (.tdep d a b) s = .next (u.writeS d 0) ∧ u.mem = s.mem ∧
        (u.die die).task? y.id = some { y with deps := y.deps + 1 } ∧
        (u.die die).task? x.id = some { x with succs := x.succs ++ [⟨y.id, none, false⟩] }) ∧
      (A = 0 → 1 < y.deps → ∃ u : State, exec (.tdep d a b) s = .next (u.writeS d 0) ∧ u.mem = s.mem ∧
        (u.die die).task? y.id = some { y with deps := y.deps - 1 })) ∧
    (s.lane.task = 0 → exec (.tdone d a) s = .next (s.takeTrap 0x01 0)) ∧
    (s.lane.task ≠ 0 → s.lane.inTile = true → exec (.tdone d a) s = .next (s.takeTrap 0x01 (s.lane.task.setWidth 64))) ∧
    (s.lane.task ≠ 0 → s.lane.inTile = false → ∀ t, (s.die die).task? s.lane.task = some t → t.state = .running →
      let t1 : Task := { t with done := s.cur.core :: t.done, status := t.status ||| BitVec.ofNat 8 A.toNat }
      (recKind t.record ≠ 1 → (∃ c ∈ t1.cores, c ∉ t1.done) → ∃ u : State, exec (.tdone d a) s = .next (u.writeS d 0) ∧ u.mem = s.mem ∧ u.lane = { s.lane with task := 0 } ∧
        (u.die die).task? t.id = some t1) ∧
      (recKind t.record = 1 ∨ (∀ c ∈ t1.cores, c ∈ t1.done) → t.home = none → t.succs = [] → Table.find (s.die die).stamps t.ptag.toNat = none → ∃ u : State,
        exec (.tdone d a) s = .next (u.writeS d 1) ∧ u.mem = s.mem ∧ u.lane = { s.lane with task := 0 } ∧
        ∃ z, (u.die die).task? t.id = some z ∧ z.state = .complete ∧ z.cmp = s.dtc ∧ z.status = t1.status ∧ z.place = none)) ∧
    (s.lane.task = 0 ∨ 1023 < A.toNat → exec (.ttile d a) s = .next (s.takeTrap 0x01 A)) ∧
    (s.lane.task ≠ 0 → A.toNat ≤ 1023 →
      ((s.die die).task? s.lane.task = none → gives (.ttile d a) 0) ∧
      (∀ t, (s.die die).task? s.lane.task = some t → (A.toNat ∈ t.tiles → gives (.ttile d a) 0) ∧
        (A.toNat ∉ t.tiles → (∀ e ∈ t.succs, e.tile ≠ some A.toNat) → ∃ u : State, exec (.ttile d a) s = .next (u.writeS d 1) ∧
          (u.die die).task? t.id = some { t with tiles := A.toNat :: t.tiles }) ∧
        (∀ y, A.toNat ∉ t.tiles → t.succs = [⟨y.id, some A.toNat, false⟩] → (s.die die).task? y.id = some y → y.ptag = t.ptag → y.id ≠ t.id →
          y.state = .waiting → 1 < y.deps → ∃ u : State, exec (.ttile d a) s = .next (u.writeS d 1) ∧
          (u.die die).task? y.id = some { y with deps := y.deps - 1 } ∧
          (u.die die).task? t.id = some { t with tiles := A.toNat :: t.tiles, succs := [⟨y.id, some A.toNat, true⟩] }))) ∧
    exec (.tnote d a b) s = .next ((s.sendHw s.cur.core s.lane.supc.toNat 0 58 s.lane.part
      (noticeWords 7 s.lane.part s.lane.task.toNat 0 (A.toNat % 2 ^ 16) s.dtc B 0)).writeS d s.dtc) ∧
    (let p := if B = 0 then s.lane.part else B.toNat
     (2 < A.toNat → exec (.tval d a b) s = .next (s.takeTrap 0x01 A)) ∧
     (A.toNat ≤ 2 → 256 ≤ B.toNat → exec (.tval d a b) s = .next (s.takeTrap 0x01 B)) ∧
     (A.toNat ≤ 2 → B.toNat < 256 → s.lane.part ≠ 0 → p ≠ s.lane.part → exec (.tval d a b) s = .next (s.takeTrap 0x03 B)) ∧
     (A.toNat ≤ 2 → B.toNat < 256 → (s.lane.part = 0 ∨ p = s.lane.part) →
      gives (.tval d a b) (if A = 0 then Table.get 0 (s.die die).accval p else if A = 1 then Table.get 0 (s.die die).accj p
        else (Table.get (0, 0) (s.die die).price p).1.setWidth 64))) ∧
    (let id := BitVec.ofNat 64 (A.toNat % 2 ^ 16)
     ((∀ t, mine id t → t.state = .complete ∨ t.state = .abandoned) → gives (.tabort d a) 2) ∧
     (∀ t, mine id t → t.state = .running → exec (.tabort d a) s = .next ((s.flagAbandon die t.id).writeS d 1)) ∧
     (∀ t, mine id t → t.state = .waiting ∨ t.state = .ready → t.inGang = false → t.succs = [] → t.home = none →
      Table.find (s.die die).stamps t.ptag.toNat = none → ∃ u : State, exec (.tabort d a) s = .next (u.writeS d 0) ∧ u.mem = s.mem ∧
        (∃ z, (u.die die).task? t.id = some z ∧ z.state = .abandoned ∧ z.cmp = s.dtc) ∧ u.mesh.length = s.mesh.length + 1))

/-- R196, R294 to R298; the layout behind the header is log entry 23's. -/
def Obligations.ImageResults : Prop :=
  (∀ (s : State) (a : Reg) (inc : Bool), s.lane.sup = false →
    exec (.imgsave a inc) s = .next (s.takeTrap 0x03 (instrWord (.imgsave a inc))) ∧
    exec (.imgload a) s = .next (s.takeTrap 0x03 (instrWord (.imgload a)))) ∧
  (∀ (s : State) (a : Reg) (inc : Bool) (pl ql : Nat → Place) (r : LaneRef), s.lane.sup = true → s.memoryOk → s.released → s.parked = [] →
    recordSpace (s.s a) = true → (s.s a).toNat % 64 = 0 →
    (∀ i, i < 4 → s.plain (s.s a + BitVec.ofNat 64 (64 * i)) 64 (pl i) ∧ (pl i).isSpad = true) →
    let w (i : Nat) : Word := s.peek (s.wordAt (pl i))
    let named := s.namedLane s.cur ((w 0).toNat % 2 ^ 20) ((w 0).toNat / 2 ^ 20 % 4)
    let img (i : Nat) : Word := w 1 + BitVec.ofNat 64 (64 * i)
    let limit := (w 2).toNat
    let good (i : Nat) : Prop := s.plain (img i) 64 (ql i) ∧ (ql i).isSpad = true
    let status (i : Instr) (c : Nat) (size : Option Nat) (P : State → Prop) : Prop := ∃ t q rest, exec i s = .next t ∧
      t.lane.pc = s.lane.pc + 32 ∧ t.inflight = q :: rest ∧ q.pa = s.wordAt (pl 3) ∧ q.op = .store 0xFF (BitVec.ofNat 64 c) ∧
      (match size with
       | none => rest = []
       | some n => ∃ u, rest = [u] ∧ u.pa = s.wordAt (pl 3) ∧ u.op = .store 0xFFFFFFFF00000000 (BitVec.ofNat 64 (n * 2 ^ 32))) ∧ P t
    (named = none → exec (.imgsave a inc) s = .next (s.takeTrap 0x16 (s.s a)) ∧ exec (.imgload a) s = .next (s.takeTrap 0x16 (s.s a))) ∧
    (named = some r → r.core ≠ s.cur.core ∨ r.lane % 4 ≠ s.cur.lane % 4 →
      (∀ ws full, (s.laneAt r).run = .idle → (s.laneAt r).req = none → (s.laneAt r).savedLater = false →
          let v := (s.saveBegin r).withdraw r
          v.quiet r = true → v.imageWords r inc = (v, ws, full) →
        ws.length < 2 ^ 32 →
        (limit < 64 * ws.length → status (.imgsave a inc) 3 none (fun t => t.mem = s.mem)) ∧
        (64 * ws.length ≤ limit → (∀ i, i < ws.length → good i) → status (.imgsave a inc) 1 (some ws.length) (fun t =>
          (∀ i x, ws[i]? = some x → t.peek (s.wordAt (ql i)) = x) ∧ (t.laneAt r).imgSeq = (s.laneAt r).imgSeq + 1 ∧
          (t.laneAt r).imgBase = some (ws.getD 2 0)))) ∧
      (let free : Prop := s.gated (s.laneAt r) = false ∧ (s.laneAt r).dstop = false ∧ (s.laneAt r).run = .idle
       let n := (s.peek (s.wordAt (ql 0))).toNat / 2 ^ 32
       (s.gated (s.laneAt r) = false → (s.laneAt r).run = .running → status (.imgload a) 2 (some 0) (fun t => t.mem = s.mem)) ∧
       (free → limit < 256 → status (.imgload a) 3 (some 0) (fun t => t.mem = s.mem)) ∧
       (free → 256 ≤ limit → (∀ i, i < 4 → good i) → s.peek (s.wordAt (ql 1)) ≠ s.mgmt.key → status (.imgload a) 4 (some 4) (fun t =>
         t.mem = s.mem ∧ t.laneAt r = s.laneAt r)) ∧
       (free → 4 ≤ n → 64 * n ≤ limit → 256 ≤ limit → (∀ i, i < n → good i) → s.peek (s.wordAt (ql 1)) = s.mgmt.key →
         (s.peek (s.wordAt (ql 0))).getLsbD 8 = false → ∀ b z,
         ImageBody.ofFull ((List.range (n - 4)).map (fun i => s.peek (s.wordAt (ql (i + 4))))) = some b →
         s.applyImage r (s.peek (s.wordAt (ql 0))) b = some z → status (.imgload a) 1 (some n) (fun t =>
           (t.laneAt r).gate = true ∧ (t.laneAt r).imgBase = some (s.peek (s.wordAt (ql 2))) ∧
           (∀ i x, i < 31 → b.parts[i]? = some [x] → (t.laneAt r).s (BitVec.ofNat 5 (i + 1)) = x) ∧
           (∀ x, b.parts[86]? = some [x] → (t.laneAt r).pc = x &&& ~~~(15 : Word))))))) ∧
  (∀ (b base : ImageBody) (ns : List Nat), b.always.length < 2 ^ 64 → b.parts.length < 2 ^ 64 → (∀ p ∈ b.parts, p.length < 2 ^ 64) →
    ImageBody.ofFull b.full = some b ∧
    (ns.length < 2 ^ 64 → (∀ n ∈ ns, n < b.parts.length) → (∀ n, n < b.parts.length → n ∉ ns → base.parts.getD n [] = b.parts.getD n []) →
      base.ofDelta (b.delta ns) = some b))
end

