-- ==== Sys2Proof/Laws/Table.lean ====
section
/-! SUPPORT. Reading a sparse table after a change of it, and the order that every change keeps. -/

namespace Sys2Proof.Machine

variable {α : Type}

theorem Table.find_put_same (t : List (Nat × α)) (n : Nat) (v : α) : Table.find (Table.put t n v) n = some v := by
  induction t with
  | nil => simp [Table.put, Table.find]
  | cons x t ih =>
    obtain ⟨k, w⟩ := x
    simp only [Table.put]
    split
    · simp [Table.find]
    · split
      · simp [Table.find]
      · next h1 h2 => simp [Table.find, Ne.symm h2, ih]

theorem Table.find_put_ne (t : List (Nat × α)) {n m : Nat} (v : α) (h : m ≠ n) :
    Table.find (Table.put t n v) m = Table.find t m := by
  induction t with
  | nil => simp [Table.put, Table.find, Ne.symm h]
  | cons x t ih =>
    obtain ⟨k, w⟩ := x
    simp only [Table.put]
    split
    · simp [Table.find, Ne.symm h]
    · split
      · next h2 => subst h2; simp [Table.find, Ne.symm h]
      · simp [Table.find, ih]

@[simp] theorem Table.get_put_same (d : α) (t : List (Nat × α)) (n : Nat) (v : α) :
    Table.get d (Table.put t n v) n = v := by
  simp [Table.get, Table.find_put_same]

theorem Table.get_put_ne (d : α) (t : List (Nat × α)) {n m : Nat} (v : α) (h : m ≠ n) :
    Table.get d (Table.put t n v) m = Table.get d t m := by
  simp [Table.get, Table.find_put_ne t v h]

theorem Table.find_del_ne (t : List (Nat × α)) {n m : Nat} (h : m ≠ n) :
    Table.find (Table.del t n) m = Table.find t m := by
  induction t with
  | nil => rfl
  | cons x t ih =>
    obtain ⟨k, w⟩ := x
    simp only [Table.del]
    split
    · next h2 => subst h2; simp [Table.find, Ne.symm h]
    · simp [Table.find, ih]

/-- Every index of a table in order lies above its head. -/
theorem Table.head_lt {k : Nat} {w : α} {t : List (Nat × α)} (h : Table.sorted ((k, w) :: t)) :
    Table.sorted t ∧ ∀ x ∈ t, k < x.1 := by
  induction t generalizing k w with
  | nil => simp [Table.sorted]
  | cons y t ih =>
    obtain ⟨j, u⟩ := y
    simp only [Table.sorted, Bool.and_eq_true, decide_eq_true_eq] at h
    obtain ⟨hj, ht⟩ := h
    refine ⟨ht, ?_⟩
    intro x hx
    rcases List.mem_cons.1 hx with rfl | hx
    · exact hj
    · exact Nat.lt_trans hj ((ih ht).2 x hx)

theorem Table.sorted_cons {k : Nat} {w : α} {t : List (Nat × α)} (ht : Table.sorted t) (h : ∀ x ∈ t, k < x.1) :
    Table.sorted ((k, w) :: t) := by
  cases t with
  | nil => rfl
  | cons y t =>
    obtain ⟨j, u⟩ := y
    simp only [Table.sorted, Bool.and_eq_true, decide_eq_true_eq]
    exact ⟨h (j, u) (by simp), ht⟩

theorem Table.mem_put {t : List (Nat × α)} {n : Nat} {v : α} {x : Nat × α} (h : x ∈ Table.put t n v) :
    x = (n, v) ∨ x ∈ t := by
  induction t with
  | nil => simpa [Table.put] using h
  | cons y t ih =>
    obtain ⟨k, w⟩ := y
    simp only [Table.put] at h
    split at h
    · simpa using h
    · split at h
      · rcases List.mem_cons.1 h with h | h
        · exact .inl h
        · exact .inr (List.mem_cons_of_mem _ h)
      · rcases List.mem_cons.1 h with h | h
        · exact .inr (by simp [h])
        · exact (ih h).imp id (List.mem_cons_of_mem _)

theorem Table.mem_del {t : List (Nat × α)} {n : Nat} {x : Nat × α} (h : x ∈ Table.del t n) : x ∈ t := by
  induction t with
  | nil => simp [Table.del] at h
  | cons y t ih =>
    obtain ⟨k, w⟩ := y
    simp only [Table.del] at h
    split at h
    · exact List.mem_cons_of_mem _ h
    · rcases List.mem_cons.1 h with h | h
      · simp [h]
      · exact List.mem_cons_of_mem _ (ih h)

/-- Setting an entry keeps the order. -/
theorem Table.sorted_put {t : List (Nat × α)} (n : Nat) (v : α) (h : Table.sorted t) : Table.sorted (Table.put t n v) := by
  induction t with
  | nil => rfl
  | cons y t ih =>
    obtain ⟨k, w⟩ := y
    obtain ⟨ht, hlt⟩ := Table.head_lt h
    simp only [Table.put]
    split
    · next hn =>
      refine Table.sorted_cons h ?_
      intro x hx
      rcases List.mem_cons.1 hx with rfl | hx
      · exact hn
      · exact Nat.lt_trans hn (hlt x hx)
    · split
      · next hn => subst hn; exact Table.sorted_cons ht hlt
      · next h1 h2 =>
        refine Table.sorted_cons (ih ht) ?_
        intro x hx
        rcases Table.mem_put hx with rfl | hx
        · exact Nat.lt_of_le_of_ne (Nat.le_of_not_lt h1) (Ne.symm h2)
        · exact hlt x hx

/-- Removing an entry keeps the order. -/
theorem Table.sorted_del {t : List (Nat × α)} (n : Nat) (h : Table.sorted t) : Table.sorted (Table.del t n) := by
  induction t with
  | nil => rfl
  | cons y t ih =>
    obtain ⟨k, w⟩ := y
    obtain ⟨ht, hlt⟩ := Table.head_lt h
    simp only [Table.del]
    split
    · exact ht
    · exact Table.sorted_cons (ih ht) (fun x hx => hlt x (Table.mem_del hx))

/-- In a table in order an index is not listed once it has been removed. -/
theorem Table.find_del_same {t : List (Nat × α)} (n : Nat) (h : Table.sorted t) : Table.find (Table.del t n) n = none := by
  induction t with
  | nil => rfl
  | cons y t ih =>
    obtain ⟨k, w⟩ := y
    obtain ⟨ht, hlt⟩ := Table.head_lt h
    simp only [Table.del]
    split
    · next hn =>
      subst hn
      clear ih h
      induction t with
      | nil => rfl
      | cons z t ih =>
        obtain ⟨j, u⟩ := z
        have hj : k < j := hlt (j, u) (by simp)
        simp only [Table.find, Nat.ne_of_gt hj, if_false]
        exact ih (Table.head_lt ht).1 (fun x hx => hlt x (List.mem_cons_of_mem _ hx))
    · next hn => simp [Table.find, hn, ih ht]

end Sys2Proof.Machine
end

