-- ==== Sys2Proof/Laws/Memory.lean ====
section
/-! SUPPORT. Memory: reads after writes, and the canonical form that every memory operation keeps. -/

namespace Sys2Proof.Machine

/-- The two halves of the canonical form. -/
theorem Memory.wf_iff (m : List Host.Cell) :
    Memory.wf m = true ↔ Table.sorted m = true ∧ ∀ c ∈ m, c.2 ≠ Memory.unlisted := by
  simp [Memory.wf, List.all_eq_true]

theorem Memory.wf_nil : Memory.wf [] = true := rfl

/-- Writing one byte keeps the canonical form. -/
theorem Memory.wf_setByte {m : List Host.Cell} (h : Memory.wf m = true) (a : Nat) (b : Byte) :
    Memory.wf (Memory.setByte m a b) = true := by
  rw [Memory.wf_iff] at h ⊢
  obtain ⟨hs, hv⟩ := h
  unfold Memory.setByte Table.setD
  split
  · exact ⟨Table.sorted_del a hs, fun c hc => hv c (Table.mem_del hc)⟩
  · next hb =>
    refine ⟨Table.sorted_put a b hs, fun c hc => ?_⟩
    rcases Table.mem_put hc with rfl | hc
    · exact hb
    · exact hv c hc

/-- Writing several bytes keeps the canonical form. -/
theorem Memory.wf_setBytes {m : List Host.Cell} (h : Memory.wf m = true) (a v n : Nat) :
    Memory.wf (Memory.setBytes m a v n) = true := by
  induction n generalizing m a v with
  | zero => exact h
  | succ n ih => exact ih (Memory.wf_setByte h a _) (a + 1) (v / 256)

/-- Writing a word keeps the canonical form. -/
theorem Memory.wf_setWord {m : List Host.Cell} (h : Memory.wf m = true) (a : Nat) (v : Word) :
    Memory.wf (Memory.setWord m a v) = true := Memory.wf_setBytes h a _ 8

/-- A byte written is the byte read. -/
theorem Memory.byte_setByte_same {m : List Host.Cell} (h : Memory.wf m = true) (a : Nat) (b : Byte) :
    Memory.byte (Memory.setByte m a b) a = b := by
  have hs := ((Memory.wf_iff m).1 h).1
  unfold Memory.byte Memory.setByte Table.setD
  split
  · next hb => simp [Table.get, Table.find_del_same a hs, hb]
  · simp

/-- Other bytes are untouched by a write. -/
theorem Memory.byte_setByte_ne (m : List Host.Cell) {a x : Nat} (b : Byte) (h : x ≠ a) :
    Memory.byte (Memory.setByte m a b) x = Memory.byte m x := by
  unfold Memory.byte Memory.setByte Table.setD
  split
  · simp [Table.get, Table.find_del_ne m h]
  · exact Table.get_put_ne _ _ _ h

/-- A write of several bytes leaves every byte outside them. -/
theorem Memory.byte_setBytes_out (m : List Host.Cell) (a v n x : Nat) (h : x < a ∨ a + n ≤ x) :
    Memory.byte (Memory.setBytes m a v n) x = Memory.byte m x := by
  induction n generalizing m a v with
  | zero => rfl
  | succ n ih =>
    rw [Memory.setBytes, ih _ _ _ (by omega), Memory.byte_setByte_ne m _ (by omega)]

/-- Bytes read from outside a write are unchanged. -/
theorem Memory.bytes_setBytes_out (m : List Host.Cell) (a v n x k : Nat) (h : x + k ≤ a ∨ a + n ≤ x) :
    Memory.bytes (Memory.setBytes m a v n) x k = Memory.bytes m x k := by
  induction k generalizing x with
  | zero => rfl
  | succ k ih => simp only [Memory.bytes]; rw [ih (x + 1) (by omega), Memory.byte_setBytes_out m a v n x (by omega)]

/-- The bytes of a number come back from where they were written. -/
theorem Memory.bytes_setBytes_same {m : List Host.Cell} (h : Memory.wf m = true) (a v n : Nat) :
    Memory.bytes (Memory.setBytes m a v n) a n = v % 256 ^ n := by
  induction n generalizing m a v with
  | zero => simp [Memory.bytes, Nat.mod_one]
  | succ n ih =>
    simp only [Memory.bytes, Memory.setBytes]
    rw [ih (Memory.wf_setByte h a _), Memory.byte_setBytes_out _ _ _ _ _ (by omega), Memory.byte_setByte_same h]
    rw [BitVec.toNat_ofNat, show (2 : Nat) ^ 8 = 256 from rfl, Nat.pow_succ, Nat.mul_comm (256 ^ n) 256, Nat.mod_mul]

/-- A word written is the word read. -/
theorem Memory.word_setWord_same {m : List Host.Cell} (h : Memory.wf m = true) (a : Nat) (v : Word) :
    Memory.word (Memory.setWord m a v) a = v := by
  unfold Memory.word Memory.setWord
  rw [Memory.bytes_setBytes_same h]
  have hv : v.toNat < 256 ^ 8 := by simpa using v.isLt
  rw [Nat.mod_eq_of_lt hv]
  simp [Machine.word]

/-- A word elsewhere is untouched by a write of a word. -/
theorem Memory.word_setWord_out (m : List Host.Cell) (a x : Nat) (v : Word) (h : x + 8 ≤ a ∨ a + 8 ≤ x) :
    Memory.word (Memory.setWord m a v) x = Memory.word m x := by
  unfold Memory.word Memory.setWord
  rw [Memory.bytes_setBytes_out _ _ _ _ _ _ h]

/-! The operations at homes. -/

theorem State.markDirty_mem (s : State) (pa p : Nat) : (s.markDirty pa p).mem = s.mem := by
  unfold State.markDirty
  split
  · split <;> rfl
  · rfl

theorem State.ctlWrite_mem (s : State) (off : Nat) (x : Word) : (s.ctlWrite off x).mem = s.mem := by
  unfold State.ctlWrite
  by_cases h : off < Config.entryOff
  · simp only [h, if_true]
    split <;> rfl
  · simp only [h, if_false]
    split <;> first | rfl | (split <;> rfl)

theorem State.setTag_mem (s : State) (pa : Nat) (t : BitVec 4) : (s.setTag pa t).mem = s.mem := rfl

theorem State.markWritten_mem (s : State) (pa : Nat) : (s.markWritten pa).mem = s.mem := by
  unfold State.markWritten
  split <;> rfl

theorem State.freshCode_mem (s : State) (pa : Nat) : (s.freshCode pa).mem = s.mem := rfl

/-- A word set by the unit of its home keeps the canonical form. -/
theorem State.setHome_wf {s : State} (h : Memory.wf s.mem = true) (pa : Nat) (v : Word) (p : Nat) :
    Memory.wf (s.setHome pa v p).mem = true := by
  unfold State.setHome
  split
  · rw [State.ctlWrite_mem]; exact h
  · exact h
  · exact h
  · exact Memory.wf_setWord h _ _

/-- A store of a word at a home keeps the canonical form. -/
theorem State.poke_wf {s : State} (h : Memory.wf s.mem = true) (pa : Nat) (v : Word) (p : Nat) :
    Memory.wf (s.poke pa v p).mem = true := by
  unfold State.poke
  split <;> exact State.setHome_wf h _ _ _

/-- A fold of steps that keep the canonical form keeps it. -/
theorem foldl_keeps {α : Type} (f : State → α → State) (P : State → Prop) (hf : ∀ s x, P s → P (f s x)) (xs : List α) (s : State)
    (h : P s) : P (xs.foldl f s) := by
  induction xs generalizing s with
  | nil => exact h
  | cons x xs ih => exact ih _ (hf s x h)

/-- The zero rewrite of an uncorrectable word keeps the canonical form. -/
theorem State.zeroRewrite_wf {s : State} (h : Memory.wf s.mem = true) (pa p : Nat) :
    Memory.wf (s.zeroRewrite pa p).mem = true := by
  unfold State.zeroRewrite
  dsimp only
  split
  · exact foldl_keeps _ (fun s => Memory.wf s.mem = true) (fun s i hs => State.setHome_wf hs _ _ _) _ _ (by exact h)
  · rw [State.setTag_mem]; exact State.setHome_wf (by exact h) _ _ _

theorem State.countUnc_mem (s : State) (pa : Nat) : (s.countUnc pa).mem = s.mem := by
  unfold State.countUnc
  split <;> rfl

theorem State.countCorr_mem (s : State) (pa : Nat) : (s.countCorr pa).mem = s.mem := by
  unfold State.countCorr
  split <;> rfl

theorem State.correct_mem (s : State) (pa : Nat) : (s.correct pa).mem = s.mem := by
  unfold State.correct
  split
  · rw [State.countCorr_mem]; rfl
  · rfl

/-- The zero rewrite with its counts keeps the canonical form. -/
theorem State.lost_wf {s : State} (h : Memory.wf s.mem = true) (pa p : Nat) :
    Memory.wf (((s.zeroRewrite pa p).countUnc pa).countErr p).mem = true := by
  show Memory.wf ((s.zeroRewrite pa p).countUnc pa).mem = true
  rw [State.countUnc_mem]
  exact State.zeroRewrite_wf h _ _

/-- A masked merge keeps the canonical form. -/
theorem State.merge_wf {s : State} (h : Memory.wf s.mem = true) (pa : Nat) (m v : Word) (p : Nat) :
    Memory.wf (s.merge pa m v p).mem = true := by
  have hc : Memory.wf (s.correct pa).mem = true := by rw [State.correct_mem]; exact h
  unfold State.merge
  dsimp only
  by_cases h1 : m = BitVec.allOnes 64 ∧ homeOf pa ≠ .hbm
  · rw [if_pos h1]; exact State.poke_wf (s := s.freshCode pa) h _ _ _
  · rw [if_neg h1]
    by_cases h2 : s.unc.contains (errKey pa) = true
    · rw [if_pos h2, State.setTag_mem]; exact State.poke_wf (State.lost_wf h _ _) _ _ _
    · rw [if_neg h2]; exact State.poke_wf hc _ _ _

theorem State.chargeTask_mem (s : State) (r : LaneRef) : (s.chargeTask r).mem = s.mem := by
  unfold State.chargeTask
  dsimp only
  split <;> rfl

/-- A read at a home keeps the canonical form. -/
theorem State.readHome_wf {s : State} (h : Memory.wf s.mem = true) (pa p : Nat) (who : Option LaneRef) :
    Memory.wf (s.readHome pa p who).1.mem = true := by
  unfold State.readHome
  split
  · cases who with
    | none => exact State.lost_wf h _ _
    | some r => dsimp only; rw [State.chargeTask_mem]; exact State.lost_wf h _ _
  · dsimp only; rw [State.correct_mem]; exact h

/-- A read-modify-write at a home keeps the canonical form. -/
theorem State.rmw_wf {s : State} (h : Memory.wf s.mem = true) (pa off w p : Nat) (who : Option LaneRef) (f : Nat → Nat) :
    Memory.wf (s.rmw pa off w p who f).1.mem = true := by
  unfold State.rmw
  exact State.merge_wf (State.readHome_wf h _ _ _) _ _ _ _

/-- Reset memory has the canonical form. -/
theorem reset_memory_wf : Memory.wf State.reset.mem = true := rfl

end Sys2Proof.Machine
end

