-- ==== Sys2Proof/Laws/Operands.lean ====
section
/-! SUPPORT. Vector registers: the elements of a vector built element by element. -/

namespace Sys2Proof.Machine

/-- The digits of a sum of digits in base `2 ^ e`, and its bound. -/
theorem digits_sum (e : Nat) (f : Nat → Nat) (n : Nat) :
    (List.range n).foldl (fun a i => a + f i % 2 ^ e * 2 ^ (e * i)) 0 < 2 ^ (e * n) ∧
    ∀ i, i < n → (List.range n).foldl (fun a i => a + f i % 2 ^ e * 2 ^ (e * i)) 0 / 2 ^ (e * i) % 2 ^ e = f i % 2 ^ e := by
  induction n with
  | zero => simp
  | succ n ih =>
    obtain ⟨hb, hd⟩ := ih
    rw [List.range_succ, List.foldl_append, List.foldl_cons, List.foldl_nil]
    generalize (List.range n).foldl (fun a i => a + f i % 2 ^ e * 2 ^ (e * i)) 0 = a at hb hd ⊢
    have hp : 0 < 2 ^ (e * n) := by positivity
    have hf : f n % 2 ^ e < 2 ^ e := Nat.mod_lt _ (by positivity)
    refine ⟨?_, fun i hi => ?_⟩
    · rw [Nat.mul_succ, Nat.pow_add]
      calc a + f n % 2 ^ e * 2 ^ (e * n) < 2 ^ (e * n) + f n % 2 ^ e * 2 ^ (e * n) := by omega
        _ = (f n % 2 ^ e + 1) * 2 ^ (e * n) := by ring
        _ ≤ 2 ^ e * 2 ^ (e * n) := Nat.mul_le_mul_right _ hf
        _ = 2 ^ (e * n) * 2 ^ e := Nat.mul_comm _ _
    · obtain hi | rfl := Nat.lt_succ_iff_lt_or_eq.mp hi
      · obtain ⟨k, hk⟩ : ∃ k, n = i + 1 + k := ⟨n - (i + 1), by omega⟩
        have : f n % 2 ^ e * 2 ^ (e * n) = 2 ^ (e * i) * (2 ^ e * (f n % 2 ^ e * 2 ^ (e * k))) := by
          rw [hk, show e * (i + 1 + k) = e * i + e + e * k by ring, Nat.pow_add, Nat.pow_add]; ring
        rw [this, Nat.add_mul_div_left _ _ (by positivity), Nat.add_mul_mod_self_left]
        exact hd i hi
      · rw [Nat.mul_comm (f i % 2 ^ e), Nat.add_mul_div_left _ _ hp, Nat.div_eq_of_lt hb, Nat.zero_add, Nat.mod_mod]

/-- An element of a vector built element by element is what the function gives, cut to the width of the view. -/
theorem vget_vmake {e : Nat} (f : Nat → Nat) {i : Nat} (hi : i < 256 / e) : vget (vmake e f) e i = f i % 2 ^ e := by
  obtain ⟨hb, hd⟩ := digits_sum e f (256 / e)
  have h : 2 ^ (e * (256 / e)) ≤ 2 ^ 256 := Nat.pow_le_pow_right (by decide) (Nat.mul_div_le 256 e)
  unfold vget vmake
  rw [BitVec.toNat_ofNat, Nat.mod_eq_of_lt (Nat.lt_of_lt_of_le hb h)]
  exact hd i hi

end Sys2Proof.Machine
end

