-- ==== Sys2Proof/Laws/State.lean ====
section
/-! SUPPORT. What each update of the state, and of a lane, leaves and sets: one lemma per field. -/

namespace Sys2Proof.Machine

/-! The whole state. -/

@[simp] theorem State.setCore_agenda (s : State) (c : Nat) (k : Core) : (s.setCore c k).agenda = s.agenda := rfl
@[simp] theorem State.setCore_turn (s : State) (c : Nat) (k : Core) : (s.setCore c k).turn = s.turn := rfl
@[simp] theorem State.setCore_cur (s : State) (c : Nat) (k : Core) : (s.setCore c k).cur = s.cur := rfl
@[simp] theorem State.setCore_powered (s : State) (c : Nat) (k : Core) : (s.setCore c k).powered = s.powered := rfl
@[simp] theorem State.setCore_clusters (s : State) (c : Nat) (k : Core) : (s.setCore c k).clusters = s.clusters := rfl
@[simp] theorem State.setCore_dies (s : State) (c : Nat) (k : Core) : (s.setCore c k).dies = s.dies := rfl
@[simp] theorem State.setCore_sectors (s : State) (c : Nat) (k : Core) : (s.setCore c k).sectors = s.sectors := rfl
@[simp] theorem State.setCore_memStacks (s : State) (c : Nat) (k : Core) : (s.setCore c k).memStacks = s.memStacks := rfl
@[simp] theorem State.setCore_rails (s : State) (c : Nat) (k : Core) : (s.setCore c k).rails = s.rails := rfl
@[simp] theorem State.setCore_hold (s : State) (c : Nat) (k : Core) : (s.setCore c k).hold = s.hold := rfl
@[simp] theorem State.setCore_quads (s : State) (c : Nat) (k : Core) : (s.setCore c k).quads = s.quads := rfl
@[simp] theorem State.setCore_shares (s : State) (c : Nat) (k : Core) : (s.setCore c k).shares = s.shares := rfl
@[simp] theorem State.setCore_guar (s : State) (c : Nat) (k : Core) : (s.setCore c k).guar = s.guar := rfl
@[simp] theorem State.setCore_parts (s : State) (c : Nat) (k : Core) : (s.setCore c k).parts = s.parts := rfl
@[simp] theorem State.setCore_hub (s : State) (c : Nat) (k : Core) : (s.setCore c k).hub = s.hub := rfl
@[simp] theorem State.setCore_page (s : State) (c : Nat) (k : Core) : (s.setCore c k).page = s.page := rfl
@[simp] theorem State.setCore_estuary (s : State) (c : Nat) (k : Core) : (s.setCore c k).estuary = s.estuary := rfl
@[simp] theorem State.setCore_mgmt (s : State) (c : Nat) (k : Core) : (s.setCore c k).mgmt = s.mgmt := rfl
@[simp] theorem State.setCore_links (s : State) (c : Nat) (k : Core) : (s.setCore c k).links = s.links := rfl
@[simp] theorem State.setCore_delta (s : State) (c : Nat) (k : Core) : (s.setCore c k).delta = s.delta := rfl
@[simp] theorem State.setCore_dirty (s : State) (c : Nat) (k : Core) : (s.setCore c k).dirty = s.dirty := rfl
@[simp] theorem State.setCore_deltaReqs (s : State) (c : Nat) (k : Core) : (s.setCore c k).deltaReqs = s.deltaReqs := rfl
@[simp] theorem State.setCore_mem (s : State) (c : Nat) (k : Core) : (s.setCore c k).mem = s.mem := rfl
@[simp] theorem State.setCore_tags (s : State) (c : Nat) (k : Core) : (s.setCore c k).tags = s.tags := rfl
@[simp] theorem State.setCore_written (s : State) (c : Nat) (k : Core) : (s.setCore c k).written = s.written := rfl
@[simp] theorem State.setCore_corr (s : State) (c : Nat) (k : Core) : (s.setCore c k).corr = s.corr := rfl
@[simp] theorem State.setCore_unc (s : State) (c : Nat) (k : Core) : (s.setCore c k).unc = s.unc := rfl
@[simp] theorem State.setCore_parked (s : State) (c : Nat) (k : Core) : (s.setCore c k).parked = s.parked := rfl
@[simp] theorem State.setCore_inflight (s : State) (c : Nat) (k : Core) : (s.setCore c k).inflight = s.inflight := rfl
@[simp] theorem State.setCore_dropped (s : State) (c : Nat) (k : Core) : (s.setCore c k).dropped = s.dropped := rfl
@[simp] theorem State.setCore_mesh (s : State) (c : Nat) (k : Core) : (s.setCore c k).mesh = s.mesh := rfl
@[simp] theorem State.setCore_stuck (s : State) (c : Nat) (k : Core) : (s.setCore c k).stuck = s.stuck := rfl
@[simp] theorem State.setCore_hubLaunch (s : State) (c : Nat) (k : Core) : (s.setCore c k).hubLaunch = s.hubLaunch := rfl
@[simp] theorem State.setCore_reports (s : State) (c : Nat) (k : Core) : (s.setCore c k).reports = s.reports := rfl
@[simp] theorem State.setCore_msis (s : State) (c : Nat) (k : Core) : (s.setCore c k).msis = s.msis := rfl
@[simp] theorem State.setCore_ports (s : State) (c : Nat) (k : Core) : (s.setCore c k).ports = s.ports := rfl
@[simp] theorem State.setCore_pcieWrites (s : State) (c : Nat) (k : Core) : (s.setCore c k).pcieWrites = s.pcieWrites := rfl
@[simp] theorem State.setCore_hostReads (s : State) (c : Nat) (k : Core) : (s.setCore c k).hostReads = s.hostReads := rfl
@[simp] theorem State.setCore_cache (s : State) (c : Nat) (k : Core) : (s.setCore c k).cache = s.cache := rfl
@[simp] theorem State.setCore_writeBacks (s : State) (c : Nat) (k : Core) : (s.setCore c k).writeBacks = s.writeBacks := rfl
@[simp] theorem State.setCore_imsic (s : State) (c : Nat) (k : Core) : (s.setCore c k).imsic = s.imsic := rfl
@[simp] theorem State.setCore_spdm (s : State) (c : Nat) (k : Core) : (s.setCore c k).spdm = s.spdm := rfl
@[simp] theorem State.setLaneAt_agenda (s : State) (r : LaneRef) (l : Lane) : (s.setLaneAt r l).agenda = s.agenda := rfl
@[simp] theorem State.setLaneAt_turn (s : State) (r : LaneRef) (l : Lane) : (s.setLaneAt r l).turn = s.turn := rfl
@[simp] theorem State.setLaneAt_cur (s : State) (r : LaneRef) (l : Lane) : (s.setLaneAt r l).cur = s.cur := rfl
@[simp] theorem State.setLaneAt_powered (s : State) (r : LaneRef) (l : Lane) : (s.setLaneAt r l).powered = s.powered := rfl
@[simp] theorem State.setLaneAt_clusters (s : State) (r : LaneRef) (l : Lane) : (s.setLaneAt r l).clusters = s.clusters := rfl
@[simp] theorem State.setLaneAt_dies (s : State) (r : LaneRef) (l : Lane) : (s.setLaneAt r l).dies = s.dies := rfl
@[simp] theorem State.setLaneAt_sectors (s : State) (r : LaneRef) (l : Lane) : (s.setLaneAt r l).sectors = s.sectors := rfl
@[simp] theorem State.setLaneAt_memStacks (s : State) (r : LaneRef) (l : Lane) : (s.setLaneAt r l).memStacks = s.memStacks := rfl
@[simp] theorem State.setLaneAt_rails (s : State) (r : LaneRef) (l : Lane) : (s.setLaneAt r l).rails = s.rails := rfl
@[simp] theorem State.setLaneAt_hold (s : State) (r : LaneRef) (l : Lane) : (s.setLaneAt r l).hold = s.hold := rfl
@[simp] theorem State.setLaneAt_quads (s : State) (r : LaneRef) (l : Lane) : (s.setLaneAt r l).quads = s.quads := rfl
@[simp] theorem State.setLaneAt_shares (s : State) (r : LaneRef) (l : Lane) : (s.setLaneAt r l).shares = s.shares := rfl
@[simp] theorem State.setLaneAt_guar (s : State) (r : LaneRef) (l : Lane) : (s.setLaneAt r l).guar = s.guar := rfl
@[simp] theorem State.setLaneAt_parts (s : State) (r : LaneRef) (l : Lane) : (s.setLaneAt r l).parts = s.parts := rfl
@[simp] theorem State.setLaneAt_hub (s : State) (r : LaneRef) (l : Lane) : (s.setLaneAt r l).hub = s.hub := rfl
@[simp] theorem State.setLaneAt_page (s : State) (r : LaneRef) (l : Lane) : (s.setLaneAt r l).page = s.page := rfl
@[simp] theorem State.setLaneAt_estuary (s : State) (r : LaneRef) (l : Lane) : (s.setLaneAt r l).estuary = s.estuary := rfl
@[simp] theorem State.setLaneAt_mgmt (s : State) (r : LaneRef) (l : Lane) : (s.setLaneAt r l).mgmt = s.mgmt := rfl
@[simp] theorem State.setLaneAt_links (s : State) (r : LaneRef) (l : Lane) : (s.setLaneAt r l).links = s.links := rfl
@[simp] theorem State.setLaneAt_delta (s : State) (r : LaneRef) (l : Lane) : (s.setLaneAt r l).delta = s.delta := rfl
@[simp] theorem State.setLaneAt_dirty (s : State) (r : LaneRef) (l : Lane) : (s.setLaneAt r l).dirty = s.dirty := rfl
@[simp] theorem State.setLaneAt_deltaReqs (s : State) (r : LaneRef) (l : Lane) : (s.setLaneAt r l).deltaReqs = s.deltaReqs := rfl
@[simp] theorem State.setLaneAt_mem (s : State) (r : LaneRef) (l : Lane) : (s.setLaneAt r l).mem = s.mem := rfl
@[simp] theorem State.setLaneAt_tags (s : State) (r : LaneRef) (l : Lane) : (s.setLaneAt r l).tags = s.tags := rfl
@[simp] theorem State.setLaneAt_written (s : State) (r : LaneRef) (l : Lane) : (s.setLaneAt r l).written = s.written := rfl
@[simp] theorem State.setLaneAt_corr (s : State) (r : LaneRef) (l : Lane) : (s.setLaneAt r l).corr = s.corr := rfl
@[simp] theorem State.setLaneAt_unc (s : State) (r : LaneRef) (l : Lane) : (s.setLaneAt r l).unc = s.unc := rfl
@[simp] theorem State.setLaneAt_parked (s : State) (r : LaneRef) (l : Lane) : (s.setLaneAt r l).parked = s.parked := rfl
@[simp] theorem State.setLaneAt_inflight (s : State) (r : LaneRef) (l : Lane) : (s.setLaneAt r l).inflight = s.inflight := rfl
@[simp] theorem State.setLaneAt_dropped (s : State) (r : LaneRef) (l : Lane) : (s.setLaneAt r l).dropped = s.dropped := rfl
@[simp] theorem State.setLaneAt_mesh (s : State) (r : LaneRef) (l : Lane) : (s.setLaneAt r l).mesh = s.mesh := rfl
@[simp] theorem State.setLaneAt_stuck (s : State) (r : LaneRef) (l : Lane) : (s.setLaneAt r l).stuck = s.stuck := rfl
@[simp] theorem State.setLaneAt_hubLaunch (s : State) (r : LaneRef) (l : Lane) : (s.setLaneAt r l).hubLaunch = s.hubLaunch := rfl
@[simp] theorem State.setLaneAt_reports (s : State) (r : LaneRef) (l : Lane) : (s.setLaneAt r l).reports = s.reports := rfl
@[simp] theorem State.setLaneAt_msis (s : State) (r : LaneRef) (l : Lane) : (s.setLaneAt r l).msis = s.msis := rfl
@[simp] theorem State.setLaneAt_ports (s : State) (r : LaneRef) (l : Lane) : (s.setLaneAt r l).ports = s.ports := rfl
@[simp] theorem State.setLaneAt_pcieWrites (s : State) (r : LaneRef) (l : Lane) : (s.setLaneAt r l).pcieWrites = s.pcieWrites := rfl
@[simp] theorem State.setLaneAt_hostReads (s : State) (r : LaneRef) (l : Lane) : (s.setLaneAt r l).hostReads = s.hostReads := rfl
@[simp] theorem State.setLaneAt_cache (s : State) (r : LaneRef) (l : Lane) : (s.setLaneAt r l).cache = s.cache := rfl
@[simp] theorem State.setLaneAt_writeBacks (s : State) (r : LaneRef) (l : Lane) : (s.setLaneAt r l).writeBacks = s.writeBacks := rfl
@[simp] theorem State.setLaneAt_imsic (s : State) (r : LaneRef) (l : Lane) : (s.setLaneAt r l).imsic = s.imsic := rfl
@[simp] theorem State.setLaneAt_spdm (s : State) (r : LaneRef) (l : Lane) : (s.setLaneAt r l).spdm = s.spdm := rfl
@[simp] theorem State.setLane_agenda (s : State) (l : Lane) : (s.setLane l).agenda = s.agenda := rfl
@[simp] theorem State.setLane_turn (s : State) (l : Lane) : (s.setLane l).turn = s.turn := rfl
@[simp] theorem State.setLane_cur (s : State) (l : Lane) : (s.setLane l).cur = s.cur := rfl
@[simp] theorem State.setLane_powered (s : State) (l : Lane) : (s.setLane l).powered = s.powered := rfl
@[simp] theorem State.setLane_clusters (s : State) (l : Lane) : (s.setLane l).clusters = s.clusters := rfl
@[simp] theorem State.setLane_dies (s : State) (l : Lane) : (s.setLane l).dies = s.dies := rfl
@[simp] theorem State.setLane_sectors (s : State) (l : Lane) : (s.setLane l).sectors = s.sectors := rfl
@[simp] theorem State.setLane_memStacks (s : State) (l : Lane) : (s.setLane l).memStacks = s.memStacks := rfl
@[simp] theorem State.setLane_rails (s : State) (l : Lane) : (s.setLane l).rails = s.rails := rfl
@[simp] theorem State.setLane_hold (s : State) (l : Lane) : (s.setLane l).hold = s.hold := rfl
@[simp] theorem State.setLane_quads (s : State) (l : Lane) : (s.setLane l).quads = s.quads := rfl
@[simp] theorem State.setLane_shares (s : State) (l : Lane) : (s.setLane l).shares = s.shares := rfl
@[simp] theorem State.setLane_guar (s : State) (l : Lane) : (s.setLane l).guar = s.guar := rfl
@[simp] theorem State.setLane_parts (s : State) (l : Lane) : (s.setLane l).parts = s.parts := rfl
@[simp] theorem State.setLane_hub (s : State) (l : Lane) : (s.setLane l).hub = s.hub := rfl
@[simp] theorem State.setLane_page (s : State) (l : Lane) : (s.setLane l).page = s.page := rfl
@[simp] theorem State.setLane_estuary (s : State) (l : Lane) : (s.setLane l).estuary = s.estuary := rfl
@[simp] theorem State.setLane_mgmt (s : State) (l : Lane) : (s.setLane l).mgmt = s.mgmt := rfl
@[simp] theorem State.setLane_links (s : State) (l : Lane) : (s.setLane l).links = s.links := rfl
@[simp] theorem State.setLane_delta (s : State) (l : Lane) : (s.setLane l).delta = s.delta := rfl
@[simp] theorem State.setLane_dirty (s : State) (l : Lane) : (s.setLane l).dirty = s.dirty := rfl
@[simp] theorem State.setLane_deltaReqs (s : State) (l : Lane) : (s.setLane l).deltaReqs = s.deltaReqs := rfl
@[simp] theorem State.setLane_mem (s : State) (l : Lane) : (s.setLane l).mem = s.mem := rfl
@[simp] theorem State.setLane_tags (s : State) (l : Lane) : (s.setLane l).tags = s.tags := rfl
@[simp] theorem State.setLane_written (s : State) (l : Lane) : (s.setLane l).written = s.written := rfl
@[simp] theorem State.setLane_corr (s : State) (l : Lane) : (s.setLane l).corr = s.corr := rfl
@[simp] theorem State.setLane_unc (s : State) (l : Lane) : (s.setLane l).unc = s.unc := rfl
@[simp] theorem State.setLane_parked (s : State) (l : Lane) : (s.setLane l).parked = s.parked := rfl
@[simp] theorem State.setLane_inflight (s : State) (l : Lane) : (s.setLane l).inflight = s.inflight := rfl
@[simp] theorem State.setLane_dropped (s : State) (l : Lane) : (s.setLane l).dropped = s.dropped := rfl
@[simp] theorem State.setLane_mesh (s : State) (l : Lane) : (s.setLane l).mesh = s.mesh := rfl
@[simp] theorem State.setLane_stuck (s : State) (l : Lane) : (s.setLane l).stuck = s.stuck := rfl
@[simp] theorem State.setLane_hubLaunch (s : State) (l : Lane) : (s.setLane l).hubLaunch = s.hubLaunch := rfl
@[simp] theorem State.setLane_reports (s : State) (l : Lane) : (s.setLane l).reports = s.reports := rfl
@[simp] theorem State.setLane_msis (s : State) (l : Lane) : (s.setLane l).msis = s.msis := rfl
@[simp] theorem State.setLane_ports (s : State) (l : Lane) : (s.setLane l).ports = s.ports := rfl
@[simp] theorem State.setLane_pcieWrites (s : State) (l : Lane) : (s.setLane l).pcieWrites = s.pcieWrites := rfl
@[simp] theorem State.setLane_hostReads (s : State) (l : Lane) : (s.setLane l).hostReads = s.hostReads := rfl
@[simp] theorem State.setLane_cache (s : State) (l : Lane) : (s.setLane l).cache = s.cache := rfl
@[simp] theorem State.setLane_writeBacks (s : State) (l : Lane) : (s.setLane l).writeBacks = s.writeBacks := rfl
@[simp] theorem State.setLane_imsic (s : State) (l : Lane) : (s.setLane l).imsic = s.imsic := rfl
@[simp] theorem State.setLane_spdm (s : State) (l : Lane) : (s.setLane l).spdm = s.spdm := rfl
@[simp] theorem State.setS_agenda (s : State) (n : Reg) (v : Word) : (s.setS n v).agenda = s.agenda := rfl
@[simp] theorem State.setS_turn (s : State) (n : Reg) (v : Word) : (s.setS n v).turn = s.turn := rfl
@[simp] theorem State.setS_cur (s : State) (n : Reg) (v : Word) : (s.setS n v).cur = s.cur := rfl
@[simp] theorem State.setS_powered (s : State) (n : Reg) (v : Word) : (s.setS n v).powered = s.powered := rfl
@[simp] theorem State.setS_clusters (s : State) (n : Reg) (v : Word) : (s.setS n v).clusters = s.clusters := rfl
@[simp] theorem State.setS_dies (s : State) (n : Reg) (v : Word) : (s.setS n v).dies = s.dies := rfl
@[simp] theorem State.setS_sectors (s : State) (n : Reg) (v : Word) : (s.setS n v).sectors = s.sectors := rfl
@[simp] theorem State.setS_memStacks (s : State) (n : Reg) (v : Word) : (s.setS n v).memStacks = s.memStacks := rfl
@[simp] theorem State.setS_rails (s : State) (n : Reg) (v : Word) : (s.setS n v).rails = s.rails := rfl
@[simp] theorem State.setS_hold (s : State) (n : Reg) (v : Word) : (s.setS n v).hold = s.hold := rfl
@[simp] theorem State.setS_quads (s : State) (n : Reg) (v : Word) : (s.setS n v).quads = s.quads := rfl
@[simp] theorem State.setS_shares (s : State) (n : Reg) (v : Word) : (s.setS n v).shares = s.shares := rfl
@[simp] theorem State.setS_guar (s : State) (n : Reg) (v : Word) : (s.setS n v).guar = s.guar := rfl
@[simp] theorem State.setS_parts (s : State) (n : Reg) (v : Word) : (s.setS n v).parts = s.parts := rfl
@[simp] theorem State.setS_hub (s : State) (n : Reg) (v : Word) : (s.setS n v).hub = s.hub := rfl
@[simp] theorem State.setS_page (s : State) (n : Reg) (v : Word) : (s.setS n v).page = s.page := rfl
@[simp] theorem State.setS_estuary (s : State) (n : Reg) (v : Word) : (s.setS n v).estuary = s.estuary := rfl
@[simp] theorem State.setS_mgmt (s : State) (n : Reg) (v : Word) : (s.setS n v).mgmt = s.mgmt := rfl
@[simp] theorem State.setS_links (s : State) (n : Reg) (v : Word) : (s.setS n v).links = s.links := rfl
@[simp] theorem State.setS_delta (s : State) (n : Reg) (v : Word) : (s.setS n v).delta = s.delta := rfl
@[simp] theorem State.setS_dirty (s : State) (n : Reg) (v : Word) : (s.setS n v).dirty = s.dirty := rfl
@[simp] theorem State.setS_deltaReqs (s : State) (n : Reg) (v : Word) : (s.setS n v).deltaReqs = s.deltaReqs := rfl
@[simp] theorem State.setS_mem (s : State) (n : Reg) (v : Word) : (s.setS n v).mem = s.mem := rfl
@[simp] theorem State.setS_tags (s : State) (n : Reg) (v : Word) : (s.setS n v).tags = s.tags := rfl
@[simp] theorem State.setS_written (s : State) (n : Reg) (v : Word) : (s.setS n v).written = s.written := rfl
@[simp] theorem State.setS_corr (s : State) (n : Reg) (v : Word) : (s.setS n v).corr = s.corr := rfl
@[simp] theorem State.setS_unc (s : State) (n : Reg) (v : Word) : (s.setS n v).unc = s.unc := rfl
@[simp] theorem State.setS_parked (s : State) (n : Reg) (v : Word) : (s.setS n v).parked = s.parked := rfl
@[simp] theorem State.setS_inflight (s : State) (n : Reg) (v : Word) : (s.setS n v).inflight = s.inflight := rfl
@[simp] theorem State.setS_dropped (s : State) (n : Reg) (v : Word) : (s.setS n v).dropped = s.dropped := rfl
@[simp] theorem State.setS_mesh (s : State) (n : Reg) (v : Word) : (s.setS n v).mesh = s.mesh := rfl
@[simp] theorem State.setS_stuck (s : State) (n : Reg) (v : Word) : (s.setS n v).stuck = s.stuck := rfl
@[simp] theorem State.setS_hubLaunch (s : State) (n : Reg) (v : Word) : (s.setS n v).hubLaunch = s.hubLaunch := rfl
@[simp] theorem State.setS_reports (s : State) (n : Reg) (v : Word) : (s.setS n v).reports = s.reports := rfl
@[simp] theorem State.setS_msis (s : State) (n : Reg) (v : Word) : (s.setS n v).msis = s.msis := rfl
@[simp] theorem State.setS_ports (s : State) (n : Reg) (v : Word) : (s.setS n v).ports = s.ports := rfl
@[simp] theorem State.setS_pcieWrites (s : State) (n : Reg) (v : Word) : (s.setS n v).pcieWrites = s.pcieWrites := rfl
@[simp] theorem State.setS_hostReads (s : State) (n : Reg) (v : Word) : (s.setS n v).hostReads = s.hostReads := rfl
@[simp] theorem State.setS_cache (s : State) (n : Reg) (v : Word) : (s.setS n v).cache = s.cache := rfl
@[simp] theorem State.setS_writeBacks (s : State) (n : Reg) (v : Word) : (s.setS n v).writeBacks = s.writeBacks := rfl
@[simp] theorem State.setS_imsic (s : State) (n : Reg) (v : Word) : (s.setS n v).imsic = s.imsic := rfl
@[simp] theorem State.setS_spdm (s : State) (n : Reg) (v : Word) : (s.setS n v).spdm = s.spdm := rfl
@[simp] theorem State.setV_agenda (s : State) (n : VReg) (v : VWord) : (s.setV n v).agenda = s.agenda := rfl
@[simp] theorem State.setV_turn (s : State) (n : VReg) (v : VWord) : (s.setV n v).turn = s.turn := rfl
@[simp] theorem State.setV_cur (s : State) (n : VReg) (v : VWord) : (s.setV n v).cur = s.cur := rfl
@[simp] theorem State.setV_powered (s : State) (n : VReg) (v : VWord) : (s.setV n v).powered = s.powered := rfl
@[simp] theorem State.setV_clusters (s : State) (n : VReg) (v : VWord) : (s.setV n v).clusters = s.clusters := rfl
@[simp] theorem State.setV_dies (s : State) (n : VReg) (v : VWord) : (s.setV n v).dies = s.dies := rfl
@[simp] theorem State.setV_sectors (s : State) (n : VReg) (v : VWord) : (s.setV n v).sectors = s.sectors := rfl
@[simp] theorem State.setV_memStacks (s : State) (n : VReg) (v : VWord) : (s.setV n v).memStacks = s.memStacks := rfl
@[simp] theorem State.setV_rails (s : State) (n : VReg) (v : VWord) : (s.setV n v).rails = s.rails := rfl
@[simp] theorem State.setV_hold (s : State) (n : VReg) (v : VWord) : (s.setV n v).hold = s.hold := rfl
@[simp] theorem State.setV_quads (s : State) (n : VReg) (v : VWord) : (s.setV n v).quads = s.quads := rfl
@[simp] theorem State.setV_shares (s : State) (n : VReg) (v : VWord) : (s.setV n v).shares = s.shares := rfl
@[simp] theorem State.setV_guar (s : State) (n : VReg) (v : VWord) : (s.setV n v).guar = s.guar := rfl
@[simp] theorem State.setV_parts (s : State) (n : VReg) (v : VWord) : (s.setV n v).parts = s.parts := rfl
@[simp] theorem State.setV_hub (s : State) (n : VReg) (v : VWord) : (s.setV n v).hub = s.hub := rfl
@[simp] theorem State.setV_page (s : State) (n : VReg) (v : VWord) : (s.setV n v).page = s.page := rfl
@[simp] theorem State.setV_estuary (s : State) (n : VReg) (v : VWord) : (s.setV n v).estuary = s.estuary := rfl
@[simp] theorem State.setV_mgmt (s : State) (n : VReg) (v : VWord) : (s.setV n v).mgmt = s.mgmt := rfl
@[simp] theorem State.setV_links (s : State) (n : VReg) (v : VWord) : (s.setV n v).links = s.links := rfl
@[simp] theorem State.setV_delta (s : State) (n : VReg) (v : VWord) : (s.setV n v).delta = s.delta := rfl
@[simp] theorem State.setV_dirty (s : State) (n : VReg) (v : VWord) : (s.setV n v).dirty = s.dirty := rfl
@[simp] theorem State.setV_deltaReqs (s : State) (n : VReg) (v : VWord) : (s.setV n v).deltaReqs = s.deltaReqs := rfl
@[simp] theorem State.setV_mem (s : State) (n : VReg) (v : VWord) : (s.setV n v).mem = s.mem := rfl
@[simp] theorem State.setV_tags (s : State) (n : VReg) (v : VWord) : (s.setV n v).tags = s.tags := rfl
@[simp] theorem State.setV_written (s : State) (n : VReg) (v : VWord) : (s.setV n v).written = s.written := rfl
@[simp] theorem State.setV_corr (s : State) (n : VReg) (v : VWord) : (s.setV n v).corr = s.corr := rfl
@[simp] theorem State.setV_unc (s : State) (n : VReg) (v : VWord) : (s.setV n v).unc = s.unc := rfl
@[simp] theorem State.setV_parked (s : State) (n : VReg) (v : VWord) : (s.setV n v).parked = s.parked := rfl
@[simp] theorem State.setV_inflight (s : State) (n : VReg) (v : VWord) : (s.setV n v).inflight = s.inflight := rfl
@[simp] theorem State.setV_dropped (s : State) (n : VReg) (v : VWord) : (s.setV n v).dropped = s.dropped := rfl
@[simp] theorem State.setV_mesh (s : State) (n : VReg) (v : VWord) : (s.setV n v).mesh = s.mesh := rfl
@[simp] theorem State.setV_stuck (s : State) (n : VReg) (v : VWord) : (s.setV n v).stuck = s.stuck := rfl
@[simp] theorem State.setV_hubLaunch (s : State) (n : VReg) (v : VWord) : (s.setV n v).hubLaunch = s.hubLaunch := rfl
@[simp] theorem State.setV_reports (s : State) (n : VReg) (v : VWord) : (s.setV n v).reports = s.reports := rfl
@[simp] theorem State.setV_msis (s : State) (n : VReg) (v : VWord) : (s.setV n v).msis = s.msis := rfl
@[simp] theorem State.setV_ports (s : State) (n : VReg) (v : VWord) : (s.setV n v).ports = s.ports := rfl
@[simp] theorem State.setV_pcieWrites (s : State) (n : VReg) (v : VWord) : (s.setV n v).pcieWrites = s.pcieWrites := rfl
@[simp] theorem State.setV_hostReads (s : State) (n : VReg) (v : VWord) : (s.setV n v).hostReads = s.hostReads := rfl
@[simp] theorem State.setV_cache (s : State) (n : VReg) (v : VWord) : (s.setV n v).cache = s.cache := rfl
@[simp] theorem State.setV_writeBacks (s : State) (n : VReg) (v : VWord) : (s.setV n v).writeBacks = s.writeBacks := rfl
@[simp] theorem State.setV_imsic (s : State) (n : VReg) (v : VWord) : (s.setV n v).imsic = s.imsic := rfl
@[simp] theorem State.setV_spdm (s : State) (n : VReg) (v : VWord) : (s.setV n v).spdm = s.spdm := rfl
@[simp] theorem State.setM_agenda (s : State) (n : MReg) (v : BitVec 32) : (s.setM n v).agenda = s.agenda := rfl
@[simp] theorem State.setM_turn (s : State) (n : MReg) (v : BitVec 32) : (s.setM n v).turn = s.turn := rfl
@[simp] theorem State.setM_cur (s : State) (n : MReg) (v : BitVec 32) : (s.setM n v).cur = s.cur := rfl
@[simp] theorem State.setM_powered (s : State) (n : MReg) (v : BitVec 32) : (s.setM n v).powered = s.powered := rfl
@[simp] theorem State.setM_clusters (s : State) (n : MReg) (v : BitVec 32) : (s.setM n v).clusters = s.clusters := rfl
@[simp] theorem State.setM_dies (s : State) (n : MReg) (v : BitVec 32) : (s.setM n v).dies = s.dies := rfl
@[simp] theorem State.setM_sectors (s : State) (n : MReg) (v : BitVec 32) : (s.setM n v).sectors = s.sectors := rfl
@[simp] theorem State.setM_memStacks (s : State) (n : MReg) (v : BitVec 32) : (s.setM n v).memStacks = s.memStacks := rfl
@[simp] theorem State.setM_rails (s : State) (n : MReg) (v : BitVec 32) : (s.setM n v).rails = s.rails := rfl
@[simp] theorem State.setM_hold (s : State) (n : MReg) (v : BitVec 32) : (s.setM n v).hold = s.hold := rfl
@[simp] theorem State.setM_quads (s : State) (n : MReg) (v : BitVec 32) : (s.setM n v).quads = s.quads := rfl
@[simp] theorem State.setM_shares (s : State) (n : MReg) (v : BitVec 32) : (s.setM n v).shares = s.shares := rfl
@[simp] theorem State.setM_guar (s : State) (n : MReg) (v : BitVec 32) : (s.setM n v).guar = s.guar := rfl
@[simp] theorem State.setM_parts (s : State) (n : MReg) (v : BitVec 32) : (s.setM n v).parts = s.parts := rfl
@[simp] theorem State.setM_hub (s : State) (n : MReg) (v : BitVec 32) : (s.setM n v).hub = s.hub := rfl
@[simp] theorem State.setM_page (s : State) (n : MReg) (v : BitVec 32) : (s.setM n v).page = s.page := rfl
@[simp] theorem State.setM_estuary (s : State) (n : MReg) (v : BitVec 32) : (s.setM n v).estuary = s.estuary := rfl
@[simp] theorem State.setM_mgmt (s : State) (n : MReg) (v : BitVec 32) : (s.setM n v).mgmt = s.mgmt := rfl
@[simp] theorem State.setM_links (s : State) (n : MReg) (v : BitVec 32) : (s.setM n v).links = s.links := rfl
@[simp] theorem State.setM_delta (s : State) (n : MReg) (v : BitVec 32) : (s.setM n v).delta = s.delta := rfl
@[simp] theorem State.setM_dirty (s : State) (n : MReg) (v : BitVec 32) : (s.setM n v).dirty = s.dirty := rfl
@[simp] theorem State.setM_deltaReqs (s : State) (n : MReg) (v : BitVec 32) : (s.setM n v).deltaReqs = s.deltaReqs := rfl
@[simp] theorem State.setM_mem (s : State) (n : MReg) (v : BitVec 32) : (s.setM n v).mem = s.mem := rfl
@[simp] theorem State.setM_tags (s : State) (n : MReg) (v : BitVec 32) : (s.setM n v).tags = s.tags := rfl
@[simp] theorem State.setM_written (s : State) (n : MReg) (v : BitVec 32) : (s.setM n v).written = s.written := rfl
@[simp] theorem State.setM_corr (s : State) (n : MReg) (v : BitVec 32) : (s.setM n v).corr = s.corr := rfl
@[simp] theorem State.setM_unc (s : State) (n : MReg) (v : BitVec 32) : (s.setM n v).unc = s.unc := rfl
@[simp] theorem State.setM_parked (s : State) (n : MReg) (v : BitVec 32) : (s.setM n v).parked = s.parked := rfl
@[simp] theorem State.setM_inflight (s : State) (n : MReg) (v : BitVec 32) : (s.setM n v).inflight = s.inflight := rfl
@[simp] theorem State.setM_dropped (s : State) (n : MReg) (v : BitVec 32) : (s.setM n v).dropped = s.dropped := rfl
@[simp] theorem State.setM_mesh (s : State) (n : MReg) (v : BitVec 32) : (s.setM n v).mesh = s.mesh := rfl
@[simp] theorem State.setM_stuck (s : State) (n : MReg) (v : BitVec 32) : (s.setM n v).stuck = s.stuck := rfl
@[simp] theorem State.setM_hubLaunch (s : State) (n : MReg) (v : BitVec 32) : (s.setM n v).hubLaunch = s.hubLaunch := rfl
@[simp] theorem State.setM_reports (s : State) (n : MReg) (v : BitVec 32) : (s.setM n v).reports = s.reports := rfl
@[simp] theorem State.setM_msis (s : State) (n : MReg) (v : BitVec 32) : (s.setM n v).msis = s.msis := rfl
@[simp] theorem State.setM_ports (s : State) (n : MReg) (v : BitVec 32) : (s.setM n v).ports = s.ports := rfl
@[simp] theorem State.setM_pcieWrites (s : State) (n : MReg) (v : BitVec 32) : (s.setM n v).pcieWrites = s.pcieWrites := rfl
@[simp] theorem State.setM_hostReads (s : State) (n : MReg) (v : BitVec 32) : (s.setM n v).hostReads = s.hostReads := rfl
@[simp] theorem State.setM_cache (s : State) (n : MReg) (v : BitVec 32) : (s.setM n v).cache = s.cache := rfl
@[simp] theorem State.setM_writeBacks (s : State) (n : MReg) (v : BitVec 32) : (s.setM n v).writeBacks = s.writeBacks := rfl
@[simp] theorem State.setM_imsic (s : State) (n : MReg) (v : BitVec 32) : (s.setM n v).imsic = s.imsic := rfl
@[simp] theorem State.setM_spdm (s : State) (n : MReg) (v : BitVec 32) : (s.setM n v).spdm = s.spdm := rfl
@[simp] theorem State.advance_agenda (s : State) (n : Nat) : (s.advance n).agenda = s.agenda := rfl
@[simp] theorem State.advance_turn (s : State) (n : Nat) : (s.advance n).turn = s.turn := rfl
@[simp] theorem State.advance_cur (s : State) (n : Nat) : (s.advance n).cur = s.cur := rfl
@[simp] theorem State.advance_powered (s : State) (n : Nat) : (s.advance n).powered = s.powered := rfl
@[simp] theorem State.advance_clusters (s : State) (n : Nat) : (s.advance n).clusters = s.clusters := rfl
@[simp] theorem State.advance_dies (s : State) (n : Nat) : (s.advance n).dies = s.dies := rfl
@[simp] theorem State.advance_sectors (s : State) (n : Nat) : (s.advance n).sectors = s.sectors := rfl
@[simp] theorem State.advance_memStacks (s : State) (n : Nat) : (s.advance n).memStacks = s.memStacks := rfl
@[simp] theorem State.advance_rails (s : State) (n : Nat) : (s.advance n).rails = s.rails := rfl
@[simp] theorem State.advance_hold (s : State) (n : Nat) : (s.advance n).hold = s.hold := rfl
@[simp] theorem State.advance_quads (s : State) (n : Nat) : (s.advance n).quads = s.quads := rfl
@[simp] theorem State.advance_shares (s : State) (n : Nat) : (s.advance n).shares = s.shares := rfl
@[simp] theorem State.advance_guar (s : State) (n : Nat) : (s.advance n).guar = s.guar := rfl
@[simp] theorem State.advance_parts (s : State) (n : Nat) : (s.advance n).parts = s.parts := rfl
@[simp] theorem State.advance_hub (s : State) (n : Nat) : (s.advance n).hub = s.hub := rfl
@[simp] theorem State.advance_page (s : State) (n : Nat) : (s.advance n).page = s.page := rfl
@[simp] theorem State.advance_estuary (s : State) (n : Nat) : (s.advance n).estuary = s.estuary := rfl
@[simp] theorem State.advance_mgmt (s : State) (n : Nat) : (s.advance n).mgmt = s.mgmt := rfl
@[simp] theorem State.advance_links (s : State) (n : Nat) : (s.advance n).links = s.links := rfl
@[simp] theorem State.advance_delta (s : State) (n : Nat) : (s.advance n).delta = s.delta := rfl
@[simp] theorem State.advance_dirty (s : State) (n : Nat) : (s.advance n).dirty = s.dirty := rfl
@[simp] theorem State.advance_deltaReqs (s : State) (n : Nat) : (s.advance n).deltaReqs = s.deltaReqs := rfl
@[simp] theorem State.advance_mem (s : State) (n : Nat) : (s.advance n).mem = s.mem := rfl
@[simp] theorem State.advance_tags (s : State) (n : Nat) : (s.advance n).tags = s.tags := rfl
@[simp] theorem State.advance_written (s : State) (n : Nat) : (s.advance n).written = s.written := rfl
@[simp] theorem State.advance_corr (s : State) (n : Nat) : (s.advance n).corr = s.corr := rfl
@[simp] theorem State.advance_unc (s : State) (n : Nat) : (s.advance n).unc = s.unc := rfl
@[simp] theorem State.advance_parked (s : State) (n : Nat) : (s.advance n).parked = s.parked := rfl
@[simp] theorem State.advance_inflight (s : State) (n : Nat) : (s.advance n).inflight = s.inflight := rfl
@[simp] theorem State.advance_dropped (s : State) (n : Nat) : (s.advance n).dropped = s.dropped := rfl
@[simp] theorem State.advance_mesh (s : State) (n : Nat) : (s.advance n).mesh = s.mesh := rfl
@[simp] theorem State.advance_stuck (s : State) (n : Nat) : (s.advance n).stuck = s.stuck := rfl
@[simp] theorem State.advance_hubLaunch (s : State) (n : Nat) : (s.advance n).hubLaunch = s.hubLaunch := rfl
@[simp] theorem State.advance_reports (s : State) (n : Nat) : (s.advance n).reports = s.reports := rfl
@[simp] theorem State.advance_msis (s : State) (n : Nat) : (s.advance n).msis = s.msis := rfl
@[simp] theorem State.advance_ports (s : State) (n : Nat) : (s.advance n).ports = s.ports := rfl
@[simp] theorem State.advance_pcieWrites (s : State) (n : Nat) : (s.advance n).pcieWrites = s.pcieWrites := rfl
@[simp] theorem State.advance_hostReads (s : State) (n : Nat) : (s.advance n).hostReads = s.hostReads := rfl
@[simp] theorem State.advance_cache (s : State) (n : Nat) : (s.advance n).cache = s.cache := rfl
@[simp] theorem State.advance_writeBacks (s : State) (n : Nat) : (s.advance n).writeBacks = s.writeBacks := rfl
@[simp] theorem State.advance_imsic (s : State) (n : Nat) : (s.advance n).imsic = s.imsic := rfl
@[simp] theorem State.advance_spdm (s : State) (n : Nat) : (s.advance n).spdm = s.spdm := rfl
@[simp] theorem State.jump_agenda (s : State) (a : Word) : (s.jump a).agenda = s.agenda := rfl
@[simp] theorem State.jump_turn (s : State) (a : Word) : (s.jump a).turn = s.turn := rfl
@[simp] theorem State.jump_cur (s : State) (a : Word) : (s.jump a).cur = s.cur := rfl
@[simp] theorem State.jump_powered (s : State) (a : Word) : (s.jump a).powered = s.powered := rfl
@[simp] theorem State.jump_clusters (s : State) (a : Word) : (s.jump a).clusters = s.clusters := rfl
@[simp] theorem State.jump_dies (s : State) (a : Word) : (s.jump a).dies = s.dies := rfl
@[simp] theorem State.jump_sectors (s : State) (a : Word) : (s.jump a).sectors = s.sectors := rfl
@[simp] theorem State.jump_memStacks (s : State) (a : Word) : (s.jump a).memStacks = s.memStacks := rfl
@[simp] theorem State.jump_rails (s : State) (a : Word) : (s.jump a).rails = s.rails := rfl
@[simp] theorem State.jump_hold (s : State) (a : Word) : (s.jump a).hold = s.hold := rfl
@[simp] theorem State.jump_quads (s : State) (a : Word) : (s.jump a).quads = s.quads := rfl
@[simp] theorem State.jump_shares (s : State) (a : Word) : (s.jump a).shares = s.shares := rfl
@[simp] theorem State.jump_guar (s : State) (a : Word) : (s.jump a).guar = s.guar := rfl
@[simp] theorem State.jump_parts (s : State) (a : Word) : (s.jump a).parts = s.parts := rfl
@[simp] theorem State.jump_hub (s : State) (a : Word) : (s.jump a).hub = s.hub := rfl
@[simp] theorem State.jump_page (s : State) (a : Word) : (s.jump a).page = s.page := rfl
@[simp] theorem State.jump_estuary (s : State) (a : Word) : (s.jump a).estuary = s.estuary := rfl
@[simp] theorem State.jump_mgmt (s : State) (a : Word) : (s.jump a).mgmt = s.mgmt := rfl
@[simp] theorem State.jump_links (s : State) (a : Word) : (s.jump a).links = s.links := rfl
@[simp] theorem State.jump_delta (s : State) (a : Word) : (s.jump a).delta = s.delta := rfl
@[simp] theorem State.jump_dirty (s : State) (a : Word) : (s.jump a).dirty = s.dirty := rfl
@[simp] theorem State.jump_deltaReqs (s : State) (a : Word) : (s.jump a).deltaReqs = s.deltaReqs := rfl
@[simp] theorem State.jump_mem (s : State) (a : Word) : (s.jump a).mem = s.mem := rfl
@[simp] theorem State.jump_tags (s : State) (a : Word) : (s.jump a).tags = s.tags := rfl
@[simp] theorem State.jump_written (s : State) (a : Word) : (s.jump a).written = s.written := rfl
@[simp] theorem State.jump_corr (s : State) (a : Word) : (s.jump a).corr = s.corr := rfl
@[simp] theorem State.jump_unc (s : State) (a : Word) : (s.jump a).unc = s.unc := rfl
@[simp] theorem State.jump_parked (s : State) (a : Word) : (s.jump a).parked = s.parked := rfl
@[simp] theorem State.jump_inflight (s : State) (a : Word) : (s.jump a).inflight = s.inflight := rfl
@[simp] theorem State.jump_dropped (s : State) (a : Word) : (s.jump a).dropped = s.dropped := rfl
@[simp] theorem State.jump_mesh (s : State) (a : Word) : (s.jump a).mesh = s.mesh := rfl
@[simp] theorem State.jump_stuck (s : State) (a : Word) : (s.jump a).stuck = s.stuck := rfl
@[simp] theorem State.jump_hubLaunch (s : State) (a : Word) : (s.jump a).hubLaunch = s.hubLaunch := rfl
@[simp] theorem State.jump_reports (s : State) (a : Word) : (s.jump a).reports = s.reports := rfl
@[simp] theorem State.jump_msis (s : State) (a : Word) : (s.jump a).msis = s.msis := rfl
@[simp] theorem State.jump_ports (s : State) (a : Word) : (s.jump a).ports = s.ports := rfl
@[simp] theorem State.jump_pcieWrites (s : State) (a : Word) : (s.jump a).pcieWrites = s.pcieWrites := rfl
@[simp] theorem State.jump_hostReads (s : State) (a : Word) : (s.jump a).hostReads = s.hostReads := rfl
@[simp] theorem State.jump_cache (s : State) (a : Word) : (s.jump a).cache = s.cache := rfl
@[simp] theorem State.jump_writeBacks (s : State) (a : Word) : (s.jump a).writeBacks = s.writeBacks := rfl
@[simp] theorem State.jump_imsic (s : State) (a : Word) : (s.jump a).imsic = s.imsic := rfl
@[simp] theorem State.jump_spdm (s : State) (a : Word) : (s.jump a).spdm = s.spdm := rfl
@[simp] theorem State.writeS_agenda (s : State) (n : Reg) (v : Word) : (s.writeS n v).agenda = s.agenda := rfl
@[simp] theorem State.writeS_turn (s : State) (n : Reg) (v : Word) : (s.writeS n v).turn = s.turn := rfl
@[simp] theorem State.writeS_cur (s : State) (n : Reg) (v : Word) : (s.writeS n v).cur = s.cur := rfl
@[simp] theorem State.writeS_powered (s : State) (n : Reg) (v : Word) : (s.writeS n v).powered = s.powered := rfl
@[simp] theorem State.writeS_clusters (s : State) (n : Reg) (v : Word) : (s.writeS n v).clusters = s.clusters := rfl
@[simp] theorem State.writeS_dies (s : State) (n : Reg) (v : Word) : (s.writeS n v).dies = s.dies := rfl
@[simp] theorem State.writeS_sectors (s : State) (n : Reg) (v : Word) : (s.writeS n v).sectors = s.sectors := rfl
@[simp] theorem State.writeS_memStacks (s : State) (n : Reg) (v : Word) : (s.writeS n v).memStacks = s.memStacks := rfl
@[simp] theorem State.writeS_rails (s : State) (n : Reg) (v : Word) : (s.writeS n v).rails = s.rails := rfl
@[simp] theorem State.writeS_hold (s : State) (n : Reg) (v : Word) : (s.writeS n v).hold = s.hold := rfl
@[simp] theorem State.writeS_quads (s : State) (n : Reg) (v : Word) : (s.writeS n v).quads = s.quads := rfl
@[simp] theorem State.writeS_shares (s : State) (n : Reg) (v : Word) : (s.writeS n v).shares = s.shares := rfl
@[simp] theorem State.writeS_guar (s : State) (n : Reg) (v : Word) : (s.writeS n v).guar = s.guar := rfl
@[simp] theorem State.writeS_parts (s : State) (n : Reg) (v : Word) : (s.writeS n v).parts = s.parts := rfl
@[simp] theorem State.writeS_hub (s : State) (n : Reg) (v : Word) : (s.writeS n v).hub = s.hub := rfl
@[simp] theorem State.writeS_page (s : State) (n : Reg) (v : Word) : (s.writeS n v).page = s.page := rfl
@[simp] theorem State.writeS_estuary (s : State) (n : Reg) (v : Word) : (s.writeS n v).estuary = s.estuary := rfl
@[simp] theorem State.writeS_mgmt (s : State) (n : Reg) (v : Word) : (s.writeS n v).mgmt = s.mgmt := rfl
@[simp] theorem State.writeS_links (s : State) (n : Reg) (v : Word) : (s.writeS n v).links = s.links := rfl
@[simp] theorem State.writeS_delta (s : State) (n : Reg) (v : Word) : (s.writeS n v).delta = s.delta := rfl
@[simp] theorem State.writeS_dirty (s : State) (n : Reg) (v : Word) : (s.writeS n v).dirty = s.dirty := rfl
@[simp] theorem State.writeS_deltaReqs (s : State) (n : Reg) (v : Word) : (s.writeS n v).deltaReqs = s.deltaReqs := rfl
@[simp] theorem State.writeS_mem (s : State) (n : Reg) (v : Word) : (s.writeS n v).mem = s.mem := rfl
@[simp] theorem State.writeS_tags (s : State) (n : Reg) (v : Word) : (s.writeS n v).tags = s.tags := rfl
@[simp] theorem State.writeS_written (s : State) (n : Reg) (v : Word) : (s.writeS n v).written = s.written := rfl
@[simp] theorem State.writeS_corr (s : State) (n : Reg) (v : Word) : (s.writeS n v).corr = s.corr := rfl
@[simp] theorem State.writeS_unc (s : State) (n : Reg) (v : Word) : (s.writeS n v).unc = s.unc := rfl
@[simp] theorem State.writeS_parked (s : State) (n : Reg) (v : Word) : (s.writeS n v).parked = s.parked := rfl
@[simp] theorem State.writeS_inflight (s : State) (n : Reg) (v : Word) : (s.writeS n v).inflight = s.inflight := rfl
@[simp] theorem State.writeS_dropped (s : State) (n : Reg) (v : Word) : (s.writeS n v).dropped = s.dropped := rfl
@[simp] theorem State.writeS_mesh (s : State) (n : Reg) (v : Word) : (s.writeS n v).mesh = s.mesh := rfl
@[simp] theorem State.writeS_stuck (s : State) (n : Reg) (v : Word) : (s.writeS n v).stuck = s.stuck := rfl
@[simp] theorem State.writeS_hubLaunch (s : State) (n : Reg) (v : Word) : (s.writeS n v).hubLaunch = s.hubLaunch := rfl
@[simp] theorem State.writeS_reports (s : State) (n : Reg) (v : Word) : (s.writeS n v).reports = s.reports := rfl
@[simp] theorem State.writeS_msis (s : State) (n : Reg) (v : Word) : (s.writeS n v).msis = s.msis := rfl
@[simp] theorem State.writeS_ports (s : State) (n : Reg) (v : Word) : (s.writeS n v).ports = s.ports := rfl
@[simp] theorem State.writeS_pcieWrites (s : State) (n : Reg) (v : Word) : (s.writeS n v).pcieWrites = s.pcieWrites := rfl
@[simp] theorem State.writeS_hostReads (s : State) (n : Reg) (v : Word) : (s.writeS n v).hostReads = s.hostReads := rfl
@[simp] theorem State.writeS_cache (s : State) (n : Reg) (v : Word) : (s.writeS n v).cache = s.cache := rfl
@[simp] theorem State.writeS_writeBacks (s : State) (n : Reg) (v : Word) : (s.writeS n v).writeBacks = s.writeBacks := rfl
@[simp] theorem State.writeS_imsic (s : State) (n : Reg) (v : Word) : (s.writeS n v).imsic = s.imsic := rfl
@[simp] theorem State.writeS_spdm (s : State) (n : Reg) (v : Word) : (s.writeS n v).spdm = s.spdm := rfl
@[simp] theorem State.setCluster_agenda (s : State) (n : Nat) (k : Cluster) : (s.setCluster n k).agenda = s.agenda := rfl
@[simp] theorem State.setCluster_turn (s : State) (n : Nat) (k : Cluster) : (s.setCluster n k).turn = s.turn := rfl
@[simp] theorem State.setCluster_cur (s : State) (n : Nat) (k : Cluster) : (s.setCluster n k).cur = s.cur := rfl
@[simp] theorem State.setCluster_powered (s : State) (n : Nat) (k : Cluster) : (s.setCluster n k).powered = s.powered := rfl
@[simp] theorem State.setCluster_cores (s : State) (n : Nat) (k : Cluster) : (s.setCluster n k).cores = s.cores := rfl
@[simp] theorem State.setCluster_dies (s : State) (n : Nat) (k : Cluster) : (s.setCluster n k).dies = s.dies := rfl
@[simp] theorem State.setCluster_sectors (s : State) (n : Nat) (k : Cluster) : (s.setCluster n k).sectors = s.sectors := rfl
@[simp] theorem State.setCluster_memStacks (s : State) (n : Nat) (k : Cluster) : (s.setCluster n k).memStacks = s.memStacks := rfl
@[simp] theorem State.setCluster_rails (s : State) (n : Nat) (k : Cluster) : (s.setCluster n k).rails = s.rails := rfl
@[simp] theorem State.setCluster_hold (s : State) (n : Nat) (k : Cluster) : (s.setCluster n k).hold = s.hold := rfl
@[simp] theorem State.setCluster_quads (s : State) (n : Nat) (k : Cluster) : (s.setCluster n k).quads = s.quads := rfl
@[simp] theorem State.setCluster_shares (s : State) (n : Nat) (k : Cluster) : (s.setCluster n k).shares = s.shares := rfl
@[simp] theorem State.setCluster_guar (s : State) (n : Nat) (k : Cluster) : (s.setCluster n k).guar = s.guar := rfl
@[simp] theorem State.setCluster_parts (s : State) (n : Nat) (k : Cluster) : (s.setCluster n k).parts = s.parts := rfl
@[simp] theorem State.setCluster_hub (s : State) (n : Nat) (k : Cluster) : (s.setCluster n k).hub = s.hub := rfl
@[simp] theorem State.setCluster_page (s : State) (n : Nat) (k : Cluster) : (s.setCluster n k).page = s.page := rfl
@[simp] theorem State.setCluster_estuary (s : State) (n : Nat) (k : Cluster) : (s.setCluster n k).estuary = s.estuary := rfl
@[simp] theorem State.setCluster_mgmt (s : State) (n : Nat) (k : Cluster) : (s.setCluster n k).mgmt = s.mgmt := rfl
@[simp] theorem State.setCluster_links (s : State) (n : Nat) (k : Cluster) : (s.setCluster n k).links = s.links := rfl
@[simp] theorem State.setCluster_delta (s : State) (n : Nat) (k : Cluster) : (s.setCluster n k).delta = s.delta := rfl
@[simp] theorem State.setCluster_dirty (s : State) (n : Nat) (k : Cluster) : (s.setCluster n k).dirty = s.dirty := rfl
@[simp] theorem State.setCluster_deltaReqs (s : State) (n : Nat) (k : Cluster) : (s.setCluster n k).deltaReqs = s.deltaReqs := rfl
@[simp] theorem State.setCluster_mem (s : State) (n : Nat) (k : Cluster) : (s.setCluster n k).mem = s.mem := rfl
@[simp] theorem State.setCluster_tags (s : State) (n : Nat) (k : Cluster) : (s.setCluster n k).tags = s.tags := rfl
@[simp] theorem State.setCluster_written (s : State) (n : Nat) (k : Cluster) : (s.setCluster n k).written = s.written := rfl
@[simp] theorem State.setCluster_corr (s : State) (n : Nat) (k : Cluster) : (s.setCluster n k).corr = s.corr := rfl
@[simp] theorem State.setCluster_unc (s : State) (n : Nat) (k : Cluster) : (s.setCluster n k).unc = s.unc := rfl
@[simp] theorem State.setCluster_parked (s : State) (n : Nat) (k : Cluster) : (s.setCluster n k).parked = s.parked := rfl
@[simp] theorem State.setCluster_inflight (s : State) (n : Nat) (k : Cluster) : (s.setCluster n k).inflight = s.inflight := rfl
@[simp] theorem State.setCluster_dropped (s : State) (n : Nat) (k : Cluster) : (s.setCluster n k).dropped = s.dropped := rfl
@[simp] theorem State.setCluster_mesh (s : State) (n : Nat) (k : Cluster) : (s.setCluster n k).mesh = s.mesh := rfl
@[simp] theorem State.setCluster_stuck (s : State) (n : Nat) (k : Cluster) : (s.setCluster n k).stuck = s.stuck := rfl
@[simp] theorem State.setCluster_hubLaunch (s : State) (n : Nat) (k : Cluster) : (s.setCluster n k).hubLaunch = s.hubLaunch := rfl
@[simp] theorem State.setCluster_reports (s : State) (n : Nat) (k : Cluster) : (s.setCluster n k).reports = s.reports := rfl
@[simp] theorem State.setCluster_msis (s : State) (n : Nat) (k : Cluster) : (s.setCluster n k).msis = s.msis := rfl
@[simp] theorem State.setCluster_ports (s : State) (n : Nat) (k : Cluster) : (s.setCluster n k).ports = s.ports := rfl
@[simp] theorem State.setCluster_pcieWrites (s : State) (n : Nat) (k : Cluster) : (s.setCluster n k).pcieWrites = s.pcieWrites := rfl
@[simp] theorem State.setCluster_hostReads (s : State) (n : Nat) (k : Cluster) : (s.setCluster n k).hostReads = s.hostReads := rfl
@[simp] theorem State.setCluster_cache (s : State) (n : Nat) (k : Cluster) : (s.setCluster n k).cache = s.cache := rfl
@[simp] theorem State.setCluster_writeBacks (s : State) (n : Nat) (k : Cluster) : (s.setCluster n k).writeBacks = s.writeBacks := rfl
@[simp] theorem State.setCluster_imsic (s : State) (n : Nat) (k : Cluster) : (s.setCluster n k).imsic = s.imsic := rfl
@[simp] theorem State.setCluster_spdm (s : State) (n : Nat) (k : Cluster) : (s.setCluster n k).spdm = s.spdm := rfl
@[simp] theorem State.setDie_agenda (s : State) (n : Nat) (d : Die) : (s.setDie n d).agenda = s.agenda := rfl
@[simp] theorem State.setDie_turn (s : State) (n : Nat) (d : Die) : (s.setDie n d).turn = s.turn := rfl
@[simp] theorem State.setDie_cur (s : State) (n : Nat) (d : Die) : (s.setDie n d).cur = s.cur := rfl
@[simp] theorem State.setDie_powered (s : State) (n : Nat) (d : Die) : (s.setDie n d).powered = s.powered := rfl
@[simp] theorem State.setDie_cores (s : State) (n : Nat) (d : Die) : (s.setDie n d).cores = s.cores := rfl
@[simp] theorem State.setDie_clusters (s : State) (n : Nat) (d : Die) : (s.setDie n d).clusters = s.clusters := rfl
@[simp] theorem State.setDie_sectors (s : State) (n : Nat) (d : Die) : (s.setDie n d).sectors = s.sectors := rfl
@[simp] theorem State.setDie_memStacks (s : State) (n : Nat) (d : Die) : (s.setDie n d).memStacks = s.memStacks := rfl
@[simp] theorem State.setDie_rails (s : State) (n : Nat) (d : Die) : (s.setDie n d).rails = s.rails := rfl
@[simp] theorem State.setDie_hold (s : State) (n : Nat) (d : Die) : (s.setDie n d).hold = s.hold := rfl
@[simp] theorem State.setDie_quads (s : State) (n : Nat) (d : Die) : (s.setDie n d).quads = s.quads := rfl
@[simp] theorem State.setDie_shares (s : State) (n : Nat) (d : Die) : (s.setDie n d).shares = s.shares := rfl
@[simp] theorem State.setDie_guar (s : State) (n : Nat) (d : Die) : (s.setDie n d).guar = s.guar := rfl
@[simp] theorem State.setDie_parts (s : State) (n : Nat) (d : Die) : (s.setDie n d).parts = s.parts := rfl
@[simp] theorem State.setDie_hub (s : State) (n : Nat) (d : Die) : (s.setDie n d).hub = s.hub := rfl
@[simp] theorem State.setDie_page (s : State) (n : Nat) (d : Die) : (s.setDie n d).page = s.page := rfl
@[simp] theorem State.setDie_estuary (s : State) (n : Nat) (d : Die) : (s.setDie n d).estuary = s.estuary := rfl
@[simp] theorem State.setDie_mgmt (s : State) (n : Nat) (d : Die) : (s.setDie n d).mgmt = s.mgmt := rfl
@[simp] theorem State.setDie_links (s : State) (n : Nat) (d : Die) : (s.setDie n d).links = s.links := rfl
@[simp] theorem State.setDie_delta (s : State) (n : Nat) (d : Die) : (s.setDie n d).delta = s.delta := rfl
@[simp] theorem State.setDie_dirty (s : State) (n : Nat) (d : Die) : (s.setDie n d).dirty = s.dirty := rfl
@[simp] theorem State.setDie_deltaReqs (s : State) (n : Nat) (d : Die) : (s.setDie n d).deltaReqs = s.deltaReqs := rfl
@[simp] theorem State.setDie_mem (s : State) (n : Nat) (d : Die) : (s.setDie n d).mem = s.mem := rfl
@[simp] theorem State.setDie_tags (s : State) (n : Nat) (d : Die) : (s.setDie n d).tags = s.tags := rfl
@[simp] theorem State.setDie_written (s : State) (n : Nat) (d : Die) : (s.setDie n d).written = s.written := rfl
@[simp] theorem State.setDie_corr (s : State) (n : Nat) (d : Die) : (s.setDie n d).corr = s.corr := rfl
@[simp] theorem State.setDie_unc (s : State) (n : Nat) (d : Die) : (s.setDie n d).unc = s.unc := rfl
@[simp] theorem State.setDie_parked (s : State) (n : Nat) (d : Die) : (s.setDie n d).parked = s.parked := rfl
@[simp] theorem State.setDie_inflight (s : State) (n : Nat) (d : Die) : (s.setDie n d).inflight = s.inflight := rfl
@[simp] theorem State.setDie_dropped (s : State) (n : Nat) (d : Die) : (s.setDie n d).dropped = s.dropped := rfl
@[simp] theorem State.setDie_mesh (s : State) (n : Nat) (d : Die) : (s.setDie n d).mesh = s.mesh := rfl
@[simp] theorem State.setDie_stuck (s : State) (n : Nat) (d : Die) : (s.setDie n d).stuck = s.stuck := rfl
@[simp] theorem State.setDie_hubLaunch (s : State) (n : Nat) (d : Die) : (s.setDie n d).hubLaunch = s.hubLaunch := rfl
@[simp] theorem State.setDie_reports (s : State) (n : Nat) (d : Die) : (s.setDie n d).reports = s.reports := rfl
@[simp] theorem State.setDie_msis (s : State) (n : Nat) (d : Die) : (s.setDie n d).msis = s.msis := rfl
@[simp] theorem State.setDie_ports (s : State) (n : Nat) (d : Die) : (s.setDie n d).ports = s.ports := rfl
@[simp] theorem State.setDie_pcieWrites (s : State) (n : Nat) (d : Die) : (s.setDie n d).pcieWrites = s.pcieWrites := rfl
@[simp] theorem State.setDie_hostReads (s : State) (n : Nat) (d : Die) : (s.setDie n d).hostReads = s.hostReads := rfl
@[simp] theorem State.setDie_cache (s : State) (n : Nat) (d : Die) : (s.setDie n d).cache = s.cache := rfl
@[simp] theorem State.setDie_writeBacks (s : State) (n : Nat) (d : Die) : (s.setDie n d).writeBacks = s.writeBacks := rfl
@[simp] theorem State.setDie_imsic (s : State) (n : Nat) (d : Die) : (s.setDie n d).imsic = s.imsic := rfl
@[simp] theorem State.setDie_spdm (s : State) (n : Nat) (d : Die) : (s.setDie n d).spdm = s.spdm := rfl
@[simp] theorem State.setSector_agenda (s : State) (n : Nat) (x : Sector) : (s.setSector n x).agenda = s.agenda := rfl
@[simp] theorem State.setSector_turn (s : State) (n : Nat) (x : Sector) : (s.setSector n x).turn = s.turn := rfl
@[simp] theorem State.setSector_cur (s : State) (n : Nat) (x : Sector) : (s.setSector n x).cur = s.cur := rfl
@[simp] theorem State.setSector_powered (s : State) (n : Nat) (x : Sector) : (s.setSector n x).powered = s.powered := rfl
@[simp] theorem State.setSector_cores (s : State) (n : Nat) (x : Sector) : (s.setSector n x).cores = s.cores := rfl
@[simp] theorem State.setSector_clusters (s : State) (n : Nat) (x : Sector) : (s.setSector n x).clusters = s.clusters := rfl
@[simp] theorem State.setSector_dies (s : State) (n : Nat) (x : Sector) : (s.setSector n x).dies = s.dies := rfl
@[simp] theorem State.setSector_memStacks (s : State) (n : Nat) (x : Sector) : (s.setSector n x).memStacks = s.memStacks := rfl
@[simp] theorem State.setSector_rails (s : State) (n : Nat) (x : Sector) : (s.setSector n x).rails = s.rails := rfl
@[simp] theorem State.setSector_hold (s : State) (n : Nat) (x : Sector) : (s.setSector n x).hold = s.hold := rfl
@[simp] theorem State.setSector_quads (s : State) (n : Nat) (x : Sector) : (s.setSector n x).quads = s.quads := rfl
@[simp] theorem State.setSector_shares (s : State) (n : Nat) (x : Sector) : (s.setSector n x).shares = s.shares := rfl
@[simp] theorem State.setSector_guar (s : State) (n : Nat) (x : Sector) : (s.setSector n x).guar = s.guar := rfl
@[simp] theorem State.setSector_parts (s : State) (n : Nat) (x : Sector) : (s.setSector n x).parts = s.parts := rfl
@[simp] theorem State.setSector_hub (s : State) (n : Nat) (x : Sector) : (s.setSector n x).hub = s.hub := rfl
@[simp] theorem State.setSector_page (s : State) (n : Nat) (x : Sector) : (s.setSector n x).page = s.page := rfl
@[simp] theorem State.setSector_estuary (s : State) (n : Nat) (x : Sector) : (s.setSector n x).estuary = s.estuary := rfl
@[simp] theorem State.setSector_mgmt (s : State) (n : Nat) (x : Sector) : (s.setSector n x).mgmt = s.mgmt := rfl
@[simp] theorem State.setSector_links (s : State) (n : Nat) (x : Sector) : (s.setSector n x).links = s.links := rfl
@[simp] theorem State.setSector_delta (s : State) (n : Nat) (x : Sector) : (s.setSector n x).delta = s.delta := rfl
@[simp] theorem State.setSector_dirty (s : State) (n : Nat) (x : Sector) : (s.setSector n x).dirty = s.dirty := rfl
@[simp] theorem State.setSector_deltaReqs (s : State) (n : Nat) (x : Sector) : (s.setSector n x).deltaReqs = s.deltaReqs := rfl
@[simp] theorem State.setSector_mem (s : State) (n : Nat) (x : Sector) : (s.setSector n x).mem = s.mem := rfl
@[simp] theorem State.setSector_tags (s : State) (n : Nat) (x : Sector) : (s.setSector n x).tags = s.tags := rfl
@[simp] theorem State.setSector_written (s : State) (n : Nat) (x : Sector) : (s.setSector n x).written = s.written := rfl
@[simp] theorem State.setSector_corr (s : State) (n : Nat) (x : Sector) : (s.setSector n x).corr = s.corr := rfl
@[simp] theorem State.setSector_unc (s : State) (n : Nat) (x : Sector) : (s.setSector n x).unc = s.unc := rfl
@[simp] theorem State.setSector_parked (s : State) (n : Nat) (x : Sector) : (s.setSector n x).parked = s.parked := rfl
@[simp] theorem State.setSector_inflight (s : State) (n : Nat) (x : Sector) : (s.setSector n x).inflight = s.inflight := rfl
@[simp] theorem State.setSector_dropped (s : State) (n : Nat) (x : Sector) : (s.setSector n x).dropped = s.dropped := rfl
@[simp] theorem State.setSector_mesh (s : State) (n : Nat) (x : Sector) : (s.setSector n x).mesh = s.mesh := rfl
@[simp] theorem State.setSector_stuck (s : State) (n : Nat) (x : Sector) : (s.setSector n x).stuck = s.stuck := rfl
@[simp] theorem State.setSector_hubLaunch (s : State) (n : Nat) (x : Sector) : (s.setSector n x).hubLaunch = s.hubLaunch := rfl
@[simp] theorem State.setSector_reports (s : State) (n : Nat) (x : Sector) : (s.setSector n x).reports = s.reports := rfl
@[simp] theorem State.setSector_msis (s : State) (n : Nat) (x : Sector) : (s.setSector n x).msis = s.msis := rfl
@[simp] theorem State.setSector_ports (s : State) (n : Nat) (x : Sector) : (s.setSector n x).ports = s.ports := rfl
@[simp] theorem State.setSector_pcieWrites (s : State) (n : Nat) (x : Sector) : (s.setSector n x).pcieWrites = s.pcieWrites := rfl
@[simp] theorem State.setSector_hostReads (s : State) (n : Nat) (x : Sector) : (s.setSector n x).hostReads = s.hostReads := rfl
@[simp] theorem State.setSector_cache (s : State) (n : Nat) (x : Sector) : (s.setSector n x).cache = s.cache := rfl
@[simp] theorem State.setSector_writeBacks (s : State) (n : Nat) (x : Sector) : (s.setSector n x).writeBacks = s.writeBacks := rfl
@[simp] theorem State.setSector_imsic (s : State) (n : Nat) (x : Sector) : (s.setSector n x).imsic = s.imsic := rfl
@[simp] theorem State.setSector_spdm (s : State) (n : Nat) (x : Sector) : (s.setSector n x).spdm = s.spdm := rfl
@[simp] theorem State.setPart_agenda (s : State) (p : Nat) (x : Part) : (s.setPart p x).agenda = s.agenda := rfl
@[simp] theorem State.setPart_turn (s : State) (p : Nat) (x : Part) : (s.setPart p x).turn = s.turn := rfl
@[simp] theorem State.setPart_cur (s : State) (p : Nat) (x : Part) : (s.setPart p x).cur = s.cur := rfl
@[simp] theorem State.setPart_powered (s : State) (p : Nat) (x : Part) : (s.setPart p x).powered = s.powered := rfl
@[simp] theorem State.setPart_cores (s : State) (p : Nat) (x : Part) : (s.setPart p x).cores = s.cores := rfl
@[simp] theorem State.setPart_clusters (s : State) (p : Nat) (x : Part) : (s.setPart p x).clusters = s.clusters := rfl
@[simp] theorem State.setPart_dies (s : State) (p : Nat) (x : Part) : (s.setPart p x).dies = s.dies := rfl
@[simp] theorem State.setPart_sectors (s : State) (p : Nat) (x : Part) : (s.setPart p x).sectors = s.sectors := rfl
@[simp] theorem State.setPart_memStacks (s : State) (p : Nat) (x : Part) : (s.setPart p x).memStacks = s.memStacks := rfl
@[simp] theorem State.setPart_rails (s : State) (p : Nat) (x : Part) : (s.setPart p x).rails = s.rails := rfl
@[simp] theorem State.setPart_hold (s : State) (p : Nat) (x : Part) : (s.setPart p x).hold = s.hold := rfl
@[simp] theorem State.setPart_quads (s : State) (p : Nat) (x : Part) : (s.setPart p x).quads = s.quads := rfl
@[simp] theorem State.setPart_shares (s : State) (p : Nat) (x : Part) : (s.setPart p x).shares = s.shares := rfl
@[simp] theorem State.setPart_guar (s : State) (p : Nat) (x : Part) : (s.setPart p x).guar = s.guar := rfl
@[simp] theorem State.setPart_hub (s : State) (p : Nat) (x : Part) : (s.setPart p x).hub = s.hub := rfl
@[simp] theorem State.setPart_page (s : State) (p : Nat) (x : Part) : (s.setPart p x).page = s.page := rfl
@[simp] theorem State.setPart_estuary (s : State) (p : Nat) (x : Part) : (s.setPart p x).estuary = s.estuary := rfl
@[simp] theorem State.setPart_mgmt (s : State) (p : Nat) (x : Part) : (s.setPart p x).mgmt = s.mgmt := rfl
@[simp] theorem State.setPart_links (s : State) (p : Nat) (x : Part) : (s.setPart p x).links = s.links := rfl
@[simp] theorem State.setPart_delta (s : State) (p : Nat) (x : Part) : (s.setPart p x).delta = s.delta := rfl
@[simp] theorem State.setPart_dirty (s : State) (p : Nat) (x : Part) : (s.setPart p x).dirty = s.dirty := rfl
@[simp] theorem State.setPart_deltaReqs (s : State) (p : Nat) (x : Part) : (s.setPart p x).deltaReqs = s.deltaReqs := rfl
@[simp] theorem State.setPart_mem (s : State) (p : Nat) (x : Part) : (s.setPart p x).mem = s.mem := rfl
@[simp] theorem State.setPart_tags (s : State) (p : Nat) (x : Part) : (s.setPart p x).tags = s.tags := rfl
@[simp] theorem State.setPart_written (s : State) (p : Nat) (x : Part) : (s.setPart p x).written = s.written := rfl
@[simp] theorem State.setPart_corr (s : State) (p : Nat) (x : Part) : (s.setPart p x).corr = s.corr := rfl
@[simp] theorem State.setPart_unc (s : State) (p : Nat) (x : Part) : (s.setPart p x).unc = s.unc := rfl
@[simp] theorem State.setPart_parked (s : State) (p : Nat) (x : Part) : (s.setPart p x).parked = s.parked := rfl
@[simp] theorem State.setPart_inflight (s : State) (p : Nat) (x : Part) : (s.setPart p x).inflight = s.inflight := rfl
@[simp] theorem State.setPart_dropped (s : State) (p : Nat) (x : Part) : (s.setPart p x).dropped = s.dropped := rfl
@[simp] theorem State.setPart_mesh (s : State) (p : Nat) (x : Part) : (s.setPart p x).mesh = s.mesh := rfl
@[simp] theorem State.setPart_stuck (s : State) (p : Nat) (x : Part) : (s.setPart p x).stuck = s.stuck := rfl
@[simp] theorem State.setPart_hubLaunch (s : State) (p : Nat) (x : Part) : (s.setPart p x).hubLaunch = s.hubLaunch := rfl
@[simp] theorem State.setPart_reports (s : State) (p : Nat) (x : Part) : (s.setPart p x).reports = s.reports := rfl
@[simp] theorem State.setPart_msis (s : State) (p : Nat) (x : Part) : (s.setPart p x).msis = s.msis := rfl
@[simp] theorem State.setPart_ports (s : State) (p : Nat) (x : Part) : (s.setPart p x).ports = s.ports := rfl
@[simp] theorem State.setPart_pcieWrites (s : State) (p : Nat) (x : Part) : (s.setPart p x).pcieWrites = s.pcieWrites := rfl
@[simp] theorem State.setPart_hostReads (s : State) (p : Nat) (x : Part) : (s.setPart p x).hostReads = s.hostReads := rfl
@[simp] theorem State.setPart_cache (s : State) (p : Nat) (x : Part) : (s.setPart p x).cache = s.cache := rfl
@[simp] theorem State.setPart_writeBacks (s : State) (p : Nat) (x : Part) : (s.setPart p x).writeBacks = s.writeBacks := rfl
@[simp] theorem State.setPart_imsic (s : State) (p : Nat) (x : Part) : (s.setPart p x).imsic = s.imsic := rfl
@[simp] theorem State.setPart_spdm (s : State) (p : Nat) (x : Part) : (s.setPart p x).spdm = s.spdm := rfl

/-! Cores and lanes by their index. -/

@[simp] theorem State.setCore_core_same (s : State) (c : Nat) (k : Core) : (s.setCore c k).core c = k := by
  simp [State.core, State.setCore, Table.find_put_same]

theorem State.setCore_core_ne (s : State) {c d : Nat} (k : Core) (h : d ≠ c) : (s.setCore c k).core d = s.core d := by
  simp [State.core, State.setCore, Table.find_put_ne _ _ h]

@[simp] theorem Core.setLane_lane_same (k : Core) (l : Nat) (x : Lane) : (k.setLane l x).lane l = x := by
  simp [Core.lane, Core.setLane]

theorem Core.setLane_lane_ne (k : Core) {l m : Nat} (x : Lane) (h : m % 4 ≠ l % 4) : (k.setLane l x).lane m = k.lane m := by
  simp only [Core.lane, Core.setLane]
  exact Vector.getElem_set_ne _ _ (Ne.symm h)

@[simp] theorem State.setLaneAt_laneAt_same (s : State) (r : LaneRef) (l : Lane) : (s.setLaneAt r l).laneAt r = l := by
  simp [State.laneAt, State.setLaneAt]

/-- A lane with another core or another lane number is untouched. -/
theorem State.setLaneAt_laneAt_ne (s : State) {r q : LaneRef} (l : Lane) (h : q.core ≠ r.core ∨ q.lane % 4 ≠ r.lane % 4) :
    (s.setLaneAt r l).laneAt q = s.laneAt q := by
  unfold State.laneAt State.setLaneAt
  by_cases hc : q.core = r.core
  · rw [hc, State.setCore_core_same]
    exact Core.setLane_lane_ne _ _ (h.resolve_left (fun hn => hn hc))
  · rw [State.setCore_core_ne _ _ hc]

@[simp] theorem State.setLane_lane (s : State) (l : Lane) : (s.setLane l).lane = l := by
  unfold State.lane State.setLane
  rw [State.setLaneAt_cur, State.setLaneAt_laneAt_same]

@[simp] theorem State.advance_lane (s : State) (n : Nat) : (s.advance n).lane = s.lane.advance n := State.setLane_lane _ _
@[simp] theorem State.jump_lane (s : State) (a : Word) : (s.jump a).lane = s.lane.jump a := State.setLane_lane _ _
@[simp] theorem State.setS_lane (s : State) (n : Reg) (v : Word) : (s.setS n v).lane = s.lane.setS n v := State.setLane_lane _ _
@[simp] theorem State.setV_lane (s : State) (n : VReg) (v : VWord) : (s.setV n v).lane = s.lane.setV n v := State.setLane_lane _ _
@[simp] theorem State.setM_lane (s : State) (n : MReg) (v : BitVec 32) : (s.setM n v).lane = s.lane.setM n v :=
  State.setLane_lane _ _
@[simp] theorem State.writeS_lane (s : State) (n : Reg) (v : Word) : (s.writeS n v).lane = (s.lane.setS n v).advance 32 := by
  simp [State.writeS]

@[simp] theorem State.setDie_die_same (s : State) (n : Nat) (d : Die) : (s.setDie n d).die n = d := by
  simp [State.die, State.setDie]
@[simp] theorem State.setCluster_cluster_same (s : State) (n : Nat) (k : Cluster) : (s.setCluster n k).cluster n = k := by
  simp [State.cluster, State.setCluster]
@[simp] theorem State.setPart_part_same (s : State) (p : Nat) (x : Part) : (s.setPart p x).part p = x := by
  simp [State.part, State.setPart]
@[simp] theorem State.setSector_sector_same (s : State) (n : Nat) (x : Sector) : (s.setSector n x).sector n = x := by
  simp [State.sector, State.setSector]

/-! A lane. -/

@[simp] theorem Lane.setV_sreg (l : Lane) (n : VReg) (v : VWord) : (l.setV n v).sreg = l.sreg := rfl
@[simp] theorem Lane.setV_mreg (l : Lane) (n : VReg) (v : VWord) : (l.setV n v).mreg = l.mreg := rfl
@[simp] theorem Lane.setV_hreg (l : Lane) (n : VReg) (v : VWord) : (l.setV n v).hreg = l.hreg := rfl
@[simp] theorem Lane.setV_pc (l : Lane) (n : VReg) (v : VWord) : (l.setV n v).pc = l.pc := rfl
@[simp] theorem Lane.setV_run (l : Lane) (n : VReg) (v : VWord) : (l.setV n v).run = l.run := rfl
@[simp] theorem Lane.setV_gate (l : Lane) (n : VReg) (v : VWord) : (l.setV n v).gate = l.gate := rfl
@[simp] theorem Lane.setV_dstop (l : Lane) (n : VReg) (v : VWord) : (l.setV n v).dstop = l.dstop := rfl
@[simp] theorem Lane.setV_stall (l : Lane) (n : VReg) (v : VWord) : (l.setV n v).stall = l.stall := rfl
@[simp] theorem Lane.setV_sup (l : Lane) (n : VReg) (v : VWord) : (l.setV n v).sup = l.sup := rfl
@[simp] theorem Lane.setV_intrap (l : Lane) (n : VReg) (v : VWord) : (l.setV n v).intrap = l.intrap := rfl
@[simp] theorem Lane.setV_abandon (l : Lane) (n : VReg) (v : VWord) : (l.setV n v).abandon = l.abandon := rfl
@[simp] theorem Lane.setV_spx (l : Lane) (n : VReg) (v : VWord) : (l.setV n v).spx = l.spx := rfl
@[simp] theorem Lane.setV_spv (l : Lane) (n : VReg) (v : VWord) : (l.setV n v).spv = l.spv := rfl
@[simp] theorem Lane.setV_task (l : Lane) (n : VReg) (v : VWord) : (l.setV n v).task = l.task := rfl
@[simp] theorem Lane.setV_place (l : Lane) (n : VReg) (v : VWord) : (l.setV n v).place = l.place := rfl
@[simp] theorem Lane.setV_trapcause (l : Lane) (n : VReg) (v : VWord) : (l.setV n v).trapcause = l.trapcause := rfl
@[simp] theorem Lane.setV_trappc (l : Lane) (n : VReg) (v : VWord) : (l.setV n v).trappc = l.trappc := rfl
@[simp] theorem Lane.setV_trapval (l : Lane) (n : VReg) (v : VWord) : (l.setV n v).trapval = l.trapval := rfl
@[simp] theorem Lane.setV_traptick (l : Lane) (n : VReg) (v : VWord) : (l.setV n v).traptick = l.traptick := rfl
@[simp] theorem Lane.setV_rmode (l : Lane) (n : VReg) (v : VWord) : (l.setV n v).rmode = l.rmode := rfl
@[simp] theorem Lane.setV_amaxM (l : Lane) (n : VReg) (v : VWord) : (l.setV n v).amaxM = l.amaxM := rfl
@[simp] theorem Lane.setV_amaxN (l : Lane) (n : VReg) (v : VWord) : (l.setV n v).amaxN = l.amaxN := rfl
@[simp] theorem Lane.setV_rseed (l : Lane) (n : VReg) (v : VWord) : (l.setV n v).rseed = l.rseed := rfl
@[simp] theorem Lane.setV_spillbase (l : Lane) (n : VReg) (v : VWord) : (l.setV n v).spillbase = l.spillbase := rfl
@[simp] theorem Lane.setV_spilllim (l : Lane) (n : VReg) (v : VWord) : (l.setV n v).spilllim = l.spilllim := rfl
@[simp] theorem Lane.setV_spillptr (l : Lane) (n : VReg) (v : VWord) : (l.setV n v).spillptr = l.spillptr := rfl
@[simp] theorem Lane.setV_accspill (l : Lane) (n : VReg) (v : VWord) : (l.setV n v).accspill = l.accspill := rfl
@[simp] theorem Lane.setV_ptag (l : Lane) (n : VReg) (v : VWord) : (l.setV n v).ptag = l.ptag := rfl
@[simp] theorem Lane.setV_supc (l : Lane) (n : VReg) (v : VWord) : (l.setV n v).supc = l.supc := rfl
@[simp] theorem Lane.setV_wlimit (l : Lane) (n : VReg) (v : VWord) : (l.setV n v).wlimit = l.wlimit := rfl
@[simp] theorem Lane.setV_wcount (l : Lane) (n : VReg) (v : VWord) : (l.setV n v).wcount = l.wcount := rfl
@[simp] theorem Lane.setV_wen (l : Lane) (n : VReg) (v : VWord) : (l.setV n v).wen = l.wen := rfl
@[simp] theorem Lane.setV_handlerbase (l : Lane) (n : VReg) (v : VWord) : (l.setV n v).handlerbase = l.handlerbase := rfl
@[simp] theorem Lane.setV_noticeq (l : Lane) (n : VReg) (v : VWord) : (l.setV n v).noticeq = l.noticeq := rfl
@[simp] theorem Lane.setV_region (l : Lane) (n : VReg) (v : VWord) : (l.setV n v).region = l.region := rfl
@[simp] theorem Lane.setV_streamcfg (l : Lane) (n : VReg) (v : VWord) : (l.setV n v).streamcfg = l.streamcfg := rfl
@[simp] theorem Lane.setV_ring (l : Lane) (n : VReg) (v : VWord) : (l.setV n v).ring = l.ring := rfl
@[simp] theorem Lane.setV_active (l : Lane) (n : VReg) (v : VWord) : (l.setV n v).active = l.active := rfl
@[simp] theorem Lane.setV_inl (l : Lane) (n : VReg) (v : VWord) : (l.setV n v).inl = l.inl := rfl
@[simp] theorem Lane.setV_rxcnt (l : Lane) (n : VReg) (v : VWord) : (l.setV n v).rxcnt = l.rxcnt := rfl
@[simp] theorem Lane.setV_sendq (l : Lane) (n : VReg) (v : VWord) : (l.setV n v).sendq = l.sendq := rfl
@[simp] theorem Lane.setV_waiting (l : Lane) (n : VReg) (v : VWord) : (l.setV n v).waiting = l.waiting := rfl
@[simp] theorem Lane.setV_waitJob (l : Lane) (n : VReg) (v : VWord) : (l.setV n v).waitJob = l.waitJob := rfl
@[simp] theorem Lane.setV_req (l : Lane) (n : VReg) (v : VWord) : (l.setV n v).req = l.req := rfl
@[simp] theorem Lane.setV_due (l : Lane) (n : VReg) (v : VWord) : (l.setV n v).due = l.due := rfl
@[simp] theorem Lane.setV_point (l : Lane) (n : VReg) (v : VWord) : (l.setV n v).point = l.point := rfl
@[simp] theorem Lane.setV_mlast (l : Lane) (n : VReg) (v : VWord) : (l.setV n v).mlast = l.mlast := rfl
@[simp] theorem Lane.setV_blast (l : Lane) (n : VReg) (v : VWord) : (l.setV n v).blast = l.blast := rfl
@[simp] theorem Lane.setV_bstat (l : Lane) (n : VReg) (v : VWord) : (l.setV n v).bstat = l.bstat := rfl
@[simp] theorem Lane.setV_spvEnd (l : Lane) (n : VReg) (v : VWord) : (l.setV n v).spvEnd = l.spvEnd := rfl
@[simp] theorem Lane.setV_relHold (l : Lane) (n : VReg) (v : VWord) : (l.setV n v).relHold = l.relHold := rfl
@[simp] theorem Lane.setV_kept (l : Lane) (n : VReg) (v : VWord) : (l.setV n v).kept = l.kept := rfl
@[simp] theorem Lane.setV_trapWait (l : Lane) (n : VReg) (v : VWord) : (l.setV n v).trapWait = l.trapWait := rfl
@[simp] theorem Lane.setV_ahead (l : Lane) (n : VReg) (v : VWord) : (l.setV n v).ahead = l.ahead := rfl
@[simp] theorem Lane.setV_dbgSkip (l : Lane) (n : VReg) (v : VWord) : (l.setV n v).dbgSkip = l.dbgSkip := rfl
@[simp] theorem Lane.setV_dbgStopReq (l : Lane) (n : VReg) (v : VWord) : (l.setV n v).dbgStopReq = l.dbgStopReq := rfl
@[simp] theorem Lane.setV_dbgStep (l : Lane) (n : VReg) (v : VWord) : (l.setV n v).dbgStep = l.dbgStep := rfl
@[simp] theorem Lane.setV_pool (l : Lane) (n : VReg) (v : VWord) : (l.setV n v).pool = l.pool := rfl
@[simp] theorem Lane.setV_ejbuf (l : Lane) (n : VReg) (v : VWord) : (l.setV n v).ejbuf = l.ejbuf := rfl
@[simp] theorem Lane.setV_save (l : Lane) (n : VReg) (v : VWord) : (l.setV n v).save = l.save := rfl
@[simp] theorem Lane.setV_imgSeq (l : Lane) (n : VReg) (v : VWord) : (l.setV n v).imgSeq = l.imgSeq := rfl
@[simp] theorem Lane.setV_imgBase (l : Lane) (n : VReg) (v : VWord) : (l.setV n v).imgBase = l.imgBase := rfl
@[simp] theorem Lane.setV_imgWords (l : Lane) (n : VReg) (v : VWord) : (l.setV n v).imgWords = l.imgWords := rfl
@[simp] theorem Lane.setH_sreg (l : Lane) (n : HReg) (v : Handle) : (l.setH n v).sreg = l.sreg := rfl
@[simp] theorem Lane.setH_vreg (l : Lane) (n : HReg) (v : Handle) : (l.setH n v).vreg = l.vreg := rfl
@[simp] theorem Lane.setH_mreg (l : Lane) (n : HReg) (v : Handle) : (l.setH n v).mreg = l.mreg := rfl
@[simp] theorem Lane.setH_pc (l : Lane) (n : HReg) (v : Handle) : (l.setH n v).pc = l.pc := rfl
@[simp] theorem Lane.setH_run (l : Lane) (n : HReg) (v : Handle) : (l.setH n v).run = l.run := rfl
@[simp] theorem Lane.setH_gate (l : Lane) (n : HReg) (v : Handle) : (l.setH n v).gate = l.gate := rfl
@[simp] theorem Lane.setH_dstop (l : Lane) (n : HReg) (v : Handle) : (l.setH n v).dstop = l.dstop := rfl
@[simp] theorem Lane.setH_stall (l : Lane) (n : HReg) (v : Handle) : (l.setH n v).stall = l.stall := rfl
@[simp] theorem Lane.setH_sup (l : Lane) (n : HReg) (v : Handle) : (l.setH n v).sup = l.sup := rfl
@[simp] theorem Lane.setH_intrap (l : Lane) (n : HReg) (v : Handle) : (l.setH n v).intrap = l.intrap := rfl
@[simp] theorem Lane.setH_abandon (l : Lane) (n : HReg) (v : Handle) : (l.setH n v).abandon = l.abandon := rfl
@[simp] theorem Lane.setH_spx (l : Lane) (n : HReg) (v : Handle) : (l.setH n v).spx = l.spx := rfl
@[simp] theorem Lane.setH_spv (l : Lane) (n : HReg) (v : Handle) : (l.setH n v).spv = l.spv := rfl
@[simp] theorem Lane.setH_task (l : Lane) (n : HReg) (v : Handle) : (l.setH n v).task = l.task := rfl
@[simp] theorem Lane.setH_place (l : Lane) (n : HReg) (v : Handle) : (l.setH n v).place = l.place := rfl
@[simp] theorem Lane.setH_trapcause (l : Lane) (n : HReg) (v : Handle) : (l.setH n v).trapcause = l.trapcause := rfl
@[simp] theorem Lane.setH_trappc (l : Lane) (n : HReg) (v : Handle) : (l.setH n v).trappc = l.trappc := rfl
@[simp] theorem Lane.setH_trapval (l : Lane) (n : HReg) (v : Handle) : (l.setH n v).trapval = l.trapval := rfl
@[simp] theorem Lane.setH_traptick (l : Lane) (n : HReg) (v : Handle) : (l.setH n v).traptick = l.traptick := rfl
@[simp] theorem Lane.setH_rmode (l : Lane) (n : HReg) (v : Handle) : (l.setH n v).rmode = l.rmode := rfl
@[simp] theorem Lane.setH_amaxM (l : Lane) (n : HReg) (v : Handle) : (l.setH n v).amaxM = l.amaxM := rfl
@[simp] theorem Lane.setH_amaxN (l : Lane) (n : HReg) (v : Handle) : (l.setH n v).amaxN = l.amaxN := rfl
@[simp] theorem Lane.setH_rseed (l : Lane) (n : HReg) (v : Handle) : (l.setH n v).rseed = l.rseed := rfl
@[simp] theorem Lane.setH_spillbase (l : Lane) (n : HReg) (v : Handle) : (l.setH n v).spillbase = l.spillbase := rfl
@[simp] theorem Lane.setH_spilllim (l : Lane) (n : HReg) (v : Handle) : (l.setH n v).spilllim = l.spilllim := rfl
@[simp] theorem Lane.setH_spillptr (l : Lane) (n : HReg) (v : Handle) : (l.setH n v).spillptr = l.spillptr := rfl
@[simp] theorem Lane.setH_accspill (l : Lane) (n : HReg) (v : Handle) : (l.setH n v).accspill = l.accspill := rfl
@[simp] theorem Lane.setH_ptag (l : Lane) (n : HReg) (v : Handle) : (l.setH n v).ptag = l.ptag := rfl
@[simp] theorem Lane.setH_supc (l : Lane) (n : HReg) (v : Handle) : (l.setH n v).supc = l.supc := rfl
@[simp] theorem Lane.setH_wlimit (l : Lane) (n : HReg) (v : Handle) : (l.setH n v).wlimit = l.wlimit := rfl
@[simp] theorem Lane.setH_wcount (l : Lane) (n : HReg) (v : Handle) : (l.setH n v).wcount = l.wcount := rfl
@[simp] theorem Lane.setH_wen (l : Lane) (n : HReg) (v : Handle) : (l.setH n v).wen = l.wen := rfl
@[simp] theorem Lane.setH_handlerbase (l : Lane) (n : HReg) (v : Handle) : (l.setH n v).handlerbase = l.handlerbase := rfl
@[simp] theorem Lane.setH_noticeq (l : Lane) (n : HReg) (v : Handle) : (l.setH n v).noticeq = l.noticeq := rfl
@[simp] theorem Lane.setH_region (l : Lane) (n : HReg) (v : Handle) : (l.setH n v).region = l.region := rfl
@[simp] theorem Lane.setH_streamcfg (l : Lane) (n : HReg) (v : Handle) : (l.setH n v).streamcfg = l.streamcfg := rfl
@[simp] theorem Lane.setH_ring (l : Lane) (n : HReg) (v : Handle) : (l.setH n v).ring = l.ring := rfl
@[simp] theorem Lane.setH_active (l : Lane) (n : HReg) (v : Handle) : (l.setH n v).active = l.active := rfl
@[simp] theorem Lane.setH_inl (l : Lane) (n : HReg) (v : Handle) : (l.setH n v).inl = l.inl := rfl
@[simp] theorem Lane.setH_rxcnt (l : Lane) (n : HReg) (v : Handle) : (l.setH n v).rxcnt = l.rxcnt := rfl
@[simp] theorem Lane.setH_sendq (l : Lane) (n : HReg) (v : Handle) : (l.setH n v).sendq = l.sendq := rfl
@[simp] theorem Lane.setH_waiting (l : Lane) (n : HReg) (v : Handle) : (l.setH n v).waiting = l.waiting := rfl
@[simp] theorem Lane.setH_waitJob (l : Lane) (n : HReg) (v : Handle) : (l.setH n v).waitJob = l.waitJob := rfl
@[simp] theorem Lane.setH_req (l : Lane) (n : HReg) (v : Handle) : (l.setH n v).req = l.req := rfl
@[simp] theorem Lane.setH_due (l : Lane) (n : HReg) (v : Handle) : (l.setH n v).due = l.due := rfl
@[simp] theorem Lane.setH_point (l : Lane) (n : HReg) (v : Handle) : (l.setH n v).point = l.point := rfl
@[simp] theorem Lane.setH_mlast (l : Lane) (n : HReg) (v : Handle) : (l.setH n v).mlast = l.mlast := rfl
@[simp] theorem Lane.setH_blast (l : Lane) (n : HReg) (v : Handle) : (l.setH n v).blast = l.blast := rfl
@[simp] theorem Lane.setH_bstat (l : Lane) (n : HReg) (v : Handle) : (l.setH n v).bstat = l.bstat := rfl
@[simp] theorem Lane.setH_spvEnd (l : Lane) (n : HReg) (v : Handle) : (l.setH n v).spvEnd = l.spvEnd := rfl
@[simp] theorem Lane.setH_relHold (l : Lane) (n : HReg) (v : Handle) : (l.setH n v).relHold = l.relHold := rfl
@[simp] theorem Lane.setH_kept (l : Lane) (n : HReg) (v : Handle) : (l.setH n v).kept = l.kept := rfl
@[simp] theorem Lane.setH_trapWait (l : Lane) (n : HReg) (v : Handle) : (l.setH n v).trapWait = l.trapWait := rfl
@[simp] theorem Lane.setH_ahead (l : Lane) (n : HReg) (v : Handle) : (l.setH n v).ahead = l.ahead := rfl
@[simp] theorem Lane.setH_dbgSkip (l : Lane) (n : HReg) (v : Handle) : (l.setH n v).dbgSkip = l.dbgSkip := rfl
@[simp] theorem Lane.setH_dbgStopReq (l : Lane) (n : HReg) (v : Handle) : (l.setH n v).dbgStopReq = l.dbgStopReq := rfl
@[simp] theorem Lane.setH_dbgStep (l : Lane) (n : HReg) (v : Handle) : (l.setH n v).dbgStep = l.dbgStep := rfl
@[simp] theorem Lane.setH_pool (l : Lane) (n : HReg) (v : Handle) : (l.setH n v).pool = l.pool := rfl
@[simp] theorem Lane.setH_ejbuf (l : Lane) (n : HReg) (v : Handle) : (l.setH n v).ejbuf = l.ejbuf := rfl
@[simp] theorem Lane.setH_save (l : Lane) (n : HReg) (v : Handle) : (l.setH n v).save = l.save := rfl
@[simp] theorem Lane.setH_imgSeq (l : Lane) (n : HReg) (v : Handle) : (l.setH n v).imgSeq = l.imgSeq := rfl
@[simp] theorem Lane.setH_imgBase (l : Lane) (n : HReg) (v : Handle) : (l.setH n v).imgBase = l.imgBase := rfl
@[simp] theorem Lane.setH_imgWords (l : Lane) (n : HReg) (v : Handle) : (l.setH n v).imgWords = l.imgWords := rfl
@[simp] theorem Lane.setStream_sreg (l : Lane) (n : Nat) (v : Word) : (l.setStream n v).sreg = l.sreg := rfl
@[simp] theorem Lane.setStream_vreg (l : Lane) (n : Nat) (v : Word) : (l.setStream n v).vreg = l.vreg := rfl
@[simp] theorem Lane.setStream_mreg (l : Lane) (n : Nat) (v : Word) : (l.setStream n v).mreg = l.mreg := rfl
@[simp] theorem Lane.setStream_hreg (l : Lane) (n : Nat) (v : Word) : (l.setStream n v).hreg = l.hreg := rfl
@[simp] theorem Lane.setStream_pc (l : Lane) (n : Nat) (v : Word) : (l.setStream n v).pc = l.pc := rfl
@[simp] theorem Lane.setStream_run (l : Lane) (n : Nat) (v : Word) : (l.setStream n v).run = l.run := rfl
@[simp] theorem Lane.setStream_gate (l : Lane) (n : Nat) (v : Word) : (l.setStream n v).gate = l.gate := rfl
@[simp] theorem Lane.setStream_dstop (l : Lane) (n : Nat) (v : Word) : (l.setStream n v).dstop = l.dstop := rfl
@[simp] theorem Lane.setStream_stall (l : Lane) (n : Nat) (v : Word) : (l.setStream n v).stall = l.stall := rfl
@[simp] theorem Lane.setStream_sup (l : Lane) (n : Nat) (v : Word) : (l.setStream n v).sup = l.sup := rfl
@[simp] theorem Lane.setStream_intrap (l : Lane) (n : Nat) (v : Word) : (l.setStream n v).intrap = l.intrap := rfl
@[simp] theorem Lane.setStream_abandon (l : Lane) (n : Nat) (v : Word) : (l.setStream n v).abandon = l.abandon := rfl
@[simp] theorem Lane.setStream_spx (l : Lane) (n : Nat) (v : Word) : (l.setStream n v).spx = l.spx := rfl
@[simp] theorem Lane.setStream_spv (l : Lane) (n : Nat) (v : Word) : (l.setStream n v).spv = l.spv := rfl
@[simp] theorem Lane.setStream_task (l : Lane) (n : Nat) (v : Word) : (l.setStream n v).task = l.task := rfl
@[simp] theorem Lane.setStream_place (l : Lane) (n : Nat) (v : Word) : (l.setStream n v).place = l.place := rfl
@[simp] theorem Lane.setStream_trapcause (l : Lane) (n : Nat) (v : Word) : (l.setStream n v).trapcause = l.trapcause := rfl
@[simp] theorem Lane.setStream_trappc (l : Lane) (n : Nat) (v : Word) : (l.setStream n v).trappc = l.trappc := rfl
@[simp] theorem Lane.setStream_trapval (l : Lane) (n : Nat) (v : Word) : (l.setStream n v).trapval = l.trapval := rfl
@[simp] theorem Lane.setStream_traptick (l : Lane) (n : Nat) (v : Word) : (l.setStream n v).traptick = l.traptick := rfl
@[simp] theorem Lane.setStream_rmode (l : Lane) (n : Nat) (v : Word) : (l.setStream n v).rmode = l.rmode := rfl
@[simp] theorem Lane.setStream_amaxM (l : Lane) (n : Nat) (v : Word) : (l.setStream n v).amaxM = l.amaxM := rfl
@[simp] theorem Lane.setStream_amaxN (l : Lane) (n : Nat) (v : Word) : (l.setStream n v).amaxN = l.amaxN := rfl
@[simp] theorem Lane.setStream_rseed (l : Lane) (n : Nat) (v : Word) : (l.setStream n v).rseed = l.rseed := rfl
@[simp] theorem Lane.setStream_spillbase (l : Lane) (n : Nat) (v : Word) : (l.setStream n v).spillbase = l.spillbase := rfl
@[simp] theorem Lane.setStream_spilllim (l : Lane) (n : Nat) (v : Word) : (l.setStream n v).spilllim = l.spilllim := rfl
@[simp] theorem Lane.setStream_spillptr (l : Lane) (n : Nat) (v : Word) : (l.setStream n v).spillptr = l.spillptr := rfl
@[simp] theorem Lane.setStream_accspill (l : Lane) (n : Nat) (v : Word) : (l.setStream n v).accspill = l.accspill := rfl
@[simp] theorem Lane.setStream_ptag (l : Lane) (n : Nat) (v : Word) : (l.setStream n v).ptag = l.ptag := rfl
@[simp] theorem Lane.setStream_supc (l : Lane) (n : Nat) (v : Word) : (l.setStream n v).supc = l.supc := rfl
@[simp] theorem Lane.setStream_wlimit (l : Lane) (n : Nat) (v : Word) : (l.setStream n v).wlimit = l.wlimit := rfl
@[simp] theorem Lane.setStream_wcount (l : Lane) (n : Nat) (v : Word) : (l.setStream n v).wcount = l.wcount := rfl
@[simp] theorem Lane.setStream_wen (l : Lane) (n : Nat) (v : Word) : (l.setStream n v).wen = l.wen := rfl
@[simp] theorem Lane.setStream_handlerbase (l : Lane) (n : Nat) (v : Word) : (l.setStream n v).handlerbase = l.handlerbase := rfl
@[simp] theorem Lane.setStream_noticeq (l : Lane) (n : Nat) (v : Word) : (l.setStream n v).noticeq = l.noticeq := rfl
@[simp] theorem Lane.setStream_region (l : Lane) (n : Nat) (v : Word) : (l.setStream n v).region = l.region := rfl
@[simp] theorem Lane.setStream_ring (l : Lane) (n : Nat) (v : Word) : (l.setStream n v).ring = l.ring := rfl
@[simp] theorem Lane.setStream_active (l : Lane) (n : Nat) (v : Word) : (l.setStream n v).active = l.active := rfl
@[simp] theorem Lane.setStream_inl (l : Lane) (n : Nat) (v : Word) : (l.setStream n v).inl = l.inl := rfl
@[simp] theorem Lane.setStream_rxcnt (l : Lane) (n : Nat) (v : Word) : (l.setStream n v).rxcnt = l.rxcnt := rfl
@[simp] theorem Lane.setStream_sendq (l : Lane) (n : Nat) (v : Word) : (l.setStream n v).sendq = l.sendq := rfl
@[simp] theorem Lane.setStream_waiting (l : Lane) (n : Nat) (v : Word) : (l.setStream n v).waiting = l.waiting := rfl
@[simp] theorem Lane.setStream_waitJob (l : Lane) (n : Nat) (v : Word) : (l.setStream n v).waitJob = l.waitJob := rfl
@[simp] theorem Lane.setStream_req (l : Lane) (n : Nat) (v : Word) : (l.setStream n v).req = l.req := rfl
@[simp] theorem Lane.setStream_due (l : Lane) (n : Nat) (v : Word) : (l.setStream n v).due = l.due := rfl
@[simp] theorem Lane.setStream_point (l : Lane) (n : Nat) (v : Word) : (l.setStream n v).point = l.point := rfl
@[simp] theorem Lane.setStream_mlast (l : Lane) (n : Nat) (v : Word) : (l.setStream n v).mlast = l.mlast := rfl
@[simp] theorem Lane.setStream_blast (l : Lane) (n : Nat) (v : Word) : (l.setStream n v).blast = l.blast := rfl
@[simp] theorem Lane.setStream_bstat (l : Lane) (n : Nat) (v : Word) : (l.setStream n v).bstat = l.bstat := rfl
@[simp] theorem Lane.setStream_spvEnd (l : Lane) (n : Nat) (v : Word) : (l.setStream n v).spvEnd = l.spvEnd := rfl
@[simp] theorem Lane.setStream_relHold (l : Lane) (n : Nat) (v : Word) : (l.setStream n v).relHold = l.relHold := rfl
@[simp] theorem Lane.setStream_kept (l : Lane) (n : Nat) (v : Word) : (l.setStream n v).kept = l.kept := rfl
@[simp] theorem Lane.setStream_trapWait (l : Lane) (n : Nat) (v : Word) : (l.setStream n v).trapWait = l.trapWait := rfl
@[simp] theorem Lane.setStream_ahead (l : Lane) (n : Nat) (v : Word) : (l.setStream n v).ahead = l.ahead := rfl
@[simp] theorem Lane.setStream_dbgSkip (l : Lane) (n : Nat) (v : Word) : (l.setStream n v).dbgSkip = l.dbgSkip := rfl
@[simp] theorem Lane.setStream_dbgStopReq (l : Lane) (n : Nat) (v : Word) : (l.setStream n v).dbgStopReq = l.dbgStopReq := rfl
@[simp] theorem Lane.setStream_dbgStep (l : Lane) (n : Nat) (v : Word) : (l.setStream n v).dbgStep = l.dbgStep := rfl
@[simp] theorem Lane.setStream_pool (l : Lane) (n : Nat) (v : Word) : (l.setStream n v).pool = l.pool := rfl
@[simp] theorem Lane.setStream_ejbuf (l : Lane) (n : Nat) (v : Word) : (l.setStream n v).ejbuf = l.ejbuf := rfl
@[simp] theorem Lane.setStream_save (l : Lane) (n : Nat) (v : Word) : (l.setStream n v).save = l.save := rfl
@[simp] theorem Lane.setStream_imgSeq (l : Lane) (n : Nat) (v : Word) : (l.setStream n v).imgSeq = l.imgSeq := rfl
@[simp] theorem Lane.setStream_imgBase (l : Lane) (n : Nat) (v : Word) : (l.setStream n v).imgBase = l.imgBase := rfl
@[simp] theorem Lane.setStream_imgWords (l : Lane) (n : Nat) (v : Word) : (l.setStream n v).imgWords = l.imgWords := rfl
@[simp] theorem Lane.setStream_wrote (l : Lane) (n : Nat) (v : Word) : (l.setStream n v).wrote = l.wrote := rfl
@[simp] theorem Lane.setStream_lost (l : Lane) (n : Nat) (v : Word) : (l.setStream n v).lost = l.lost := rfl
@[simp] theorem Lane.advance_sreg (l : Lane) (n : Nat) : (l.advance n).sreg = l.sreg := rfl
@[simp] theorem Lane.advance_vreg (l : Lane) (n : Nat) : (l.advance n).vreg = l.vreg := rfl
@[simp] theorem Lane.advance_mreg (l : Lane) (n : Nat) : (l.advance n).mreg = l.mreg := rfl
@[simp] theorem Lane.advance_hreg (l : Lane) (n : Nat) : (l.advance n).hreg = l.hreg := rfl
@[simp] theorem Lane.advance_gate (l : Lane) (n : Nat) : (l.advance n).gate = l.gate := rfl
@[simp] theorem Lane.advance_dstop (l : Lane) (n : Nat) : (l.advance n).dstop = l.dstop := rfl
@[simp] theorem Lane.advance_sup (l : Lane) (n : Nat) : (l.advance n).sup = l.sup := rfl
@[simp] theorem Lane.advance_intrap (l : Lane) (n : Nat) : (l.advance n).intrap = l.intrap := rfl
@[simp] theorem Lane.advance_abandon (l : Lane) (n : Nat) : (l.advance n).abandon = l.abandon := rfl
@[simp] theorem Lane.advance_spx (l : Lane) (n : Nat) : (l.advance n).spx = l.spx := rfl
@[simp] theorem Lane.advance_spv (l : Lane) (n : Nat) : (l.advance n).spv = l.spv := rfl
@[simp] theorem Lane.advance_task (l : Lane) (n : Nat) : (l.advance n).task = l.task := rfl
@[simp] theorem Lane.advance_place (l : Lane) (n : Nat) : (l.advance n).place = l.place := rfl
@[simp] theorem Lane.advance_trapcause (l : Lane) (n : Nat) : (l.advance n).trapcause = l.trapcause := rfl
@[simp] theorem Lane.advance_trappc (l : Lane) (n : Nat) : (l.advance n).trappc = l.trappc := rfl
@[simp] theorem Lane.advance_trapval (l : Lane) (n : Nat) : (l.advance n).trapval = l.trapval := rfl
@[simp] theorem Lane.advance_traptick (l : Lane) (n : Nat) : (l.advance n).traptick = l.traptick := rfl
@[simp] theorem Lane.advance_rmode (l : Lane) (n : Nat) : (l.advance n).rmode = l.rmode := rfl
@[simp] theorem Lane.advance_amaxM (l : Lane) (n : Nat) : (l.advance n).amaxM = l.amaxM := rfl
@[simp] theorem Lane.advance_amaxN (l : Lane) (n : Nat) : (l.advance n).amaxN = l.amaxN := rfl
@[simp] theorem Lane.advance_rseed (l : Lane) (n : Nat) : (l.advance n).rseed = l.rseed := rfl
@[simp] theorem Lane.advance_spillbase (l : Lane) (n : Nat) : (l.advance n).spillbase = l.spillbase := rfl
@[simp] theorem Lane.advance_spilllim (l : Lane) (n : Nat) : (l.advance n).spilllim = l.spilllim := rfl
@[simp] theorem Lane.advance_spillptr (l : Lane) (n : Nat) : (l.advance n).spillptr = l.spillptr := rfl
@[simp] theorem Lane.advance_accspill (l : Lane) (n : Nat) : (l.advance n).accspill = l.accspill := rfl
@[simp] theorem Lane.advance_ptag (l : Lane) (n : Nat) : (l.advance n).ptag = l.ptag := rfl
@[simp] theorem Lane.advance_supc (l : Lane) (n : Nat) : (l.advance n).supc = l.supc := rfl
@[simp] theorem Lane.advance_wlimit (l : Lane) (n : Nat) : (l.advance n).wlimit = l.wlimit := rfl
@[simp] theorem Lane.advance_wcount (l : Lane) (n : Nat) : (l.advance n).wcount = l.wcount := rfl
@[simp] theorem Lane.advance_wen (l : Lane) (n : Nat) : (l.advance n).wen = l.wen := rfl
@[simp] theorem Lane.advance_handlerbase (l : Lane) (n : Nat) : (l.advance n).handlerbase = l.handlerbase := rfl
@[simp] theorem Lane.advance_noticeq (l : Lane) (n : Nat) : (l.advance n).noticeq = l.noticeq := rfl
@[simp] theorem Lane.advance_region (l : Lane) (n : Nat) : (l.advance n).region = l.region := rfl
@[simp] theorem Lane.advance_streamcfg (l : Lane) (n : Nat) : (l.advance n).streamcfg = l.streamcfg := rfl
@[simp] theorem Lane.advance_ring (l : Lane) (n : Nat) : (l.advance n).ring = l.ring := rfl
@[simp] theorem Lane.advance_active (l : Lane) (n : Nat) : (l.advance n).active = l.active := rfl
@[simp] theorem Lane.advance_inl (l : Lane) (n : Nat) : (l.advance n).inl = l.inl := rfl
@[simp] theorem Lane.advance_rxcnt (l : Lane) (n : Nat) : (l.advance n).rxcnt = l.rxcnt := rfl
@[simp] theorem Lane.advance_sendq (l : Lane) (n : Nat) : (l.advance n).sendq = l.sendq := rfl
@[simp] theorem Lane.advance_req (l : Lane) (n : Nat) : (l.advance n).req = l.req := rfl
@[simp] theorem Lane.advance_due (l : Lane) (n : Nat) : (l.advance n).due = l.due := rfl
@[simp] theorem Lane.advance_point (l : Lane) (n : Nat) : (l.advance n).point = l.point := rfl
@[simp] theorem Lane.advance_mlast (l : Lane) (n : Nat) : (l.advance n).mlast = l.mlast := rfl
@[simp] theorem Lane.advance_blast (l : Lane) (n : Nat) : (l.advance n).blast = l.blast := rfl
@[simp] theorem Lane.advance_bstat (l : Lane) (n : Nat) : (l.advance n).bstat = l.bstat := rfl
@[simp] theorem Lane.advance_spvEnd (l : Lane) (n : Nat) : (l.advance n).spvEnd = l.spvEnd := rfl
@[simp] theorem Lane.advance_relHold (l : Lane) (n : Nat) : (l.advance n).relHold = l.relHold := rfl
@[simp] theorem Lane.advance_kept (l : Lane) (n : Nat) : (l.advance n).kept = l.kept := rfl
@[simp] theorem Lane.advance_trapWait (l : Lane) (n : Nat) : (l.advance n).trapWait = l.trapWait := rfl
@[simp] theorem Lane.advance_ahead (l : Lane) (n : Nat) : (l.advance n).ahead = l.ahead := rfl
@[simp] theorem Lane.advance_dbgStopReq (l : Lane) (n : Nat) : (l.advance n).dbgStopReq = l.dbgStopReq := rfl
@[simp] theorem Lane.advance_dbgStep (l : Lane) (n : Nat) : (l.advance n).dbgStep = l.dbgStep := rfl
@[simp] theorem Lane.advance_pool (l : Lane) (n : Nat) : (l.advance n).pool = l.pool := rfl
@[simp] theorem Lane.advance_ejbuf (l : Lane) (n : Nat) : (l.advance n).ejbuf = l.ejbuf := rfl
@[simp] theorem Lane.advance_save (l : Lane) (n : Nat) : (l.advance n).save = l.save := rfl
@[simp] theorem Lane.advance_imgSeq (l : Lane) (n : Nat) : (l.advance n).imgSeq = l.imgSeq := rfl
@[simp] theorem Lane.advance_imgBase (l : Lane) (n : Nat) : (l.advance n).imgBase = l.imgBase := rfl
@[simp] theorem Lane.advance_imgWords (l : Lane) (n : Nat) : (l.advance n).imgWords = l.imgWords := rfl
@[simp] theorem Lane.advance_wrote (l : Lane) (n : Nat) : (l.advance n).wrote = l.wrote := rfl
@[simp] theorem Lane.advance_lost (l : Lane) (n : Nat) : (l.advance n).lost = l.lost := rfl
@[simp] theorem Lane.jump_sreg (l : Lane) (a : Word) : (l.jump a).sreg = l.sreg := rfl
@[simp] theorem Lane.jump_vreg (l : Lane) (a : Word) : (l.jump a).vreg = l.vreg := rfl
@[simp] theorem Lane.jump_mreg (l : Lane) (a : Word) : (l.jump a).mreg = l.mreg := rfl
@[simp] theorem Lane.jump_hreg (l : Lane) (a : Word) : (l.jump a).hreg = l.hreg := rfl
@[simp] theorem Lane.jump_gate (l : Lane) (a : Word) : (l.jump a).gate = l.gate := rfl
@[simp] theorem Lane.jump_dstop (l : Lane) (a : Word) : (l.jump a).dstop = l.dstop := rfl
@[simp] theorem Lane.jump_sup (l : Lane) (a : Word) : (l.jump a).sup = l.sup := rfl
@[simp] theorem Lane.jump_intrap (l : Lane) (a : Word) : (l.jump a).intrap = l.intrap := rfl
@[simp] theorem Lane.jump_abandon (l : Lane) (a : Word) : (l.jump a).abandon = l.abandon := rfl
@[simp] theorem Lane.jump_spx (l : Lane) (a : Word) : (l.jump a).spx = l.spx := rfl
@[simp] theorem Lane.jump_spv (l : Lane) (a : Word) : (l.jump a).spv = l.spv := rfl
@[simp] theorem Lane.jump_task (l : Lane) (a : Word) : (l.jump a).task = l.task := rfl
@[simp] theorem Lane.jump_place (l : Lane) (a : Word) : (l.jump a).place = l.place := rfl
@[simp] theorem Lane.jump_trapcause (l : Lane) (a : Word) : (l.jump a).trapcause = l.trapcause := rfl
@[simp] theorem Lane.jump_trappc (l : Lane) (a : Word) : (l.jump a).trappc = l.trappc := rfl
@[simp] theorem Lane.jump_trapval (l : Lane) (a : Word) : (l.jump a).trapval = l.trapval := rfl
@[simp] theorem Lane.jump_traptick (l : Lane) (a : Word) : (l.jump a).traptick = l.traptick := rfl
@[simp] theorem Lane.jump_rmode (l : Lane) (a : Word) : (l.jump a).rmode = l.rmode := rfl
@[simp] theorem Lane.jump_amaxM (l : Lane) (a : Word) : (l.jump a).amaxM = l.amaxM := rfl
@[simp] theorem Lane.jump_amaxN (l : Lane) (a : Word) : (l.jump a).amaxN = l.amaxN := rfl
@[simp] theorem Lane.jump_rseed (l : Lane) (a : Word) : (l.jump a).rseed = l.rseed := rfl
@[simp] theorem Lane.jump_spillbase (l : Lane) (a : Word) : (l.jump a).spillbase = l.spillbase := rfl
@[simp] theorem Lane.jump_spilllim (l : Lane) (a : Word) : (l.jump a).spilllim = l.spilllim := rfl
@[simp] theorem Lane.jump_spillptr (l : Lane) (a : Word) : (l.jump a).spillptr = l.spillptr := rfl
@[simp] theorem Lane.jump_accspill (l : Lane) (a : Word) : (l.jump a).accspill = l.accspill := rfl
@[simp] theorem Lane.jump_ptag (l : Lane) (a : Word) : (l.jump a).ptag = l.ptag := rfl
@[simp] theorem Lane.jump_supc (l : Lane) (a : Word) : (l.jump a).supc = l.supc := rfl
@[simp] theorem Lane.jump_wlimit (l : Lane) (a : Word) : (l.jump a).wlimit = l.wlimit := rfl
@[simp] theorem Lane.jump_wcount (l : Lane) (a : Word) : (l.jump a).wcount = l.wcount := rfl
@[simp] theorem Lane.jump_wen (l : Lane) (a : Word) : (l.jump a).wen = l.wen := rfl
@[simp] theorem Lane.jump_handlerbase (l : Lane) (a : Word) : (l.jump a).handlerbase = l.handlerbase := rfl
@[simp] theorem Lane.jump_noticeq (l : Lane) (a : Word) : (l.jump a).noticeq = l.noticeq := rfl
@[simp] theorem Lane.jump_region (l : Lane) (a : Word) : (l.jump a).region = l.region := rfl
@[simp] theorem Lane.jump_streamcfg (l : Lane) (a : Word) : (l.jump a).streamcfg = l.streamcfg := rfl
@[simp] theorem Lane.jump_ring (l : Lane) (a : Word) : (l.jump a).ring = l.ring := rfl
@[simp] theorem Lane.jump_active (l : Lane) (a : Word) : (l.jump a).active = l.active := rfl
@[simp] theorem Lane.jump_inl (l : Lane) (a : Word) : (l.jump a).inl = l.inl := rfl
@[simp] theorem Lane.jump_rxcnt (l : Lane) (a : Word) : (l.jump a).rxcnt = l.rxcnt := rfl
@[simp] theorem Lane.jump_sendq (l : Lane) (a : Word) : (l.jump a).sendq = l.sendq := rfl
@[simp] theorem Lane.jump_req (l : Lane) (a : Word) : (l.jump a).req = l.req := rfl
@[simp] theorem Lane.jump_due (l : Lane) (a : Word) : (l.jump a).due = l.due := rfl
@[simp] theorem Lane.jump_point (l : Lane) (a : Word) : (l.jump a).point = l.point := rfl
@[simp] theorem Lane.jump_mlast (l : Lane) (a : Word) : (l.jump a).mlast = l.mlast := rfl
@[simp] theorem Lane.jump_blast (l : Lane) (a : Word) : (l.jump a).blast = l.blast := rfl
@[simp] theorem Lane.jump_bstat (l : Lane) (a : Word) : (l.jump a).bstat = l.bstat := rfl
@[simp] theorem Lane.jump_spvEnd (l : Lane) (a : Word) : (l.jump a).spvEnd = l.spvEnd := rfl
@[simp] theorem Lane.jump_relHold (l : Lane) (a : Word) : (l.jump a).relHold = l.relHold := rfl
@[simp] theorem Lane.jump_kept (l : Lane) (a : Word) : (l.jump a).kept = l.kept := rfl
@[simp] theorem Lane.jump_trapWait (l : Lane) (a : Word) : (l.jump a).trapWait = l.trapWait := rfl
@[simp] theorem Lane.jump_ahead (l : Lane) (a : Word) : (l.jump a).ahead = l.ahead := rfl
@[simp] theorem Lane.jump_dbgStopReq (l : Lane) (a : Word) : (l.jump a).dbgStopReq = l.dbgStopReq := rfl
@[simp] theorem Lane.jump_dbgStep (l : Lane) (a : Word) : (l.jump a).dbgStep = l.dbgStep := rfl
@[simp] theorem Lane.jump_pool (l : Lane) (a : Word) : (l.jump a).pool = l.pool := rfl
@[simp] theorem Lane.jump_ejbuf (l : Lane) (a : Word) : (l.jump a).ejbuf = l.ejbuf := rfl
@[simp] theorem Lane.jump_save (l : Lane) (a : Word) : (l.jump a).save = l.save := rfl
@[simp] theorem Lane.jump_imgSeq (l : Lane) (a : Word) : (l.jump a).imgSeq = l.imgSeq := rfl
@[simp] theorem Lane.jump_imgBase (l : Lane) (a : Word) : (l.jump a).imgBase = l.imgBase := rfl
@[simp] theorem Lane.jump_imgWords (l : Lane) (a : Word) : (l.jump a).imgWords = l.imgWords := rfl
@[simp] theorem Lane.jump_wrote (l : Lane) (a : Word) : (l.jump a).wrote = l.wrote := rfl
@[simp] theorem Lane.jump_lost (l : Lane) (a : Word) : (l.jump a).lost = l.lost := rfl
@[simp] theorem Lane.setS_vreg (l : Lane) (n : Reg) (v : Word) : (l.setS n v).vreg = l.vreg := by
  unfold Lane.setS; split <;> rfl
@[simp] theorem Lane.setS_mreg (l : Lane) (n : Reg) (v : Word) : (l.setS n v).mreg = l.mreg := by
  unfold Lane.setS; split <;> rfl
@[simp] theorem Lane.setS_hreg (l : Lane) (n : Reg) (v : Word) : (l.setS n v).hreg = l.hreg := by
  unfold Lane.setS; split <;> rfl
@[simp] theorem Lane.setS_pc (l : Lane) (n : Reg) (v : Word) : (l.setS n v).pc = l.pc := by unfold Lane.setS; split <;> rfl
@[simp] theorem Lane.setS_run (l : Lane) (n : Reg) (v : Word) : (l.setS n v).run = l.run := by
  unfold Lane.setS; split <;> rfl
@[simp] theorem Lane.setS_gate (l : Lane) (n : Reg) (v : Word) : (l.setS n v).gate = l.gate := by
  unfold Lane.setS; split <;> rfl
@[simp] theorem Lane.setS_dstop (l : Lane) (n : Reg) (v : Word) : (l.setS n v).dstop = l.dstop := by
  unfold Lane.setS; split <;> rfl
@[simp] theorem Lane.setS_stall (l : Lane) (n : Reg) (v : Word) : (l.setS n v).stall = l.stall := by
  unfold Lane.setS; split <;> rfl
@[simp] theorem Lane.setS_sup (l : Lane) (n : Reg) (v : Word) : (l.setS n v).sup = l.sup := by
  unfold Lane.setS; split <;> rfl
@[simp] theorem Lane.setS_intrap (l : Lane) (n : Reg) (v : Word) : (l.setS n v).intrap = l.intrap := by
  unfold Lane.setS; split <;> rfl
@[simp] theorem Lane.setS_abandon (l : Lane) (n : Reg) (v : Word) : (l.setS n v).abandon = l.abandon := by
  unfold Lane.setS; split <;> rfl
@[simp] theorem Lane.setS_spx (l : Lane) (n : Reg) (v : Word) : (l.setS n v).spx = l.spx := by
  unfold Lane.setS; split <;> rfl
@[simp] theorem Lane.setS_spv (l : Lane) (n : Reg) (v : Word) : (l.setS n v).spv = l.spv := by
  unfold Lane.setS; split <;> rfl
@[simp] theorem Lane.setS_task (l : Lane) (n : Reg) (v : Word) : (l.setS n v).task = l.task := by
  unfold Lane.setS; split <;> rfl
@[simp] theorem Lane.setS_place (l : Lane) (n : Reg) (v : Word) : (l.setS n v).place = l.place := by
  unfold Lane.setS; split <;> rfl
@[simp] theorem Lane.setS_trapcause (l : Lane) (n : Reg) (v : Word) : (l.setS n v).trapcause = l.trapcause := by
  unfold Lane.setS; split <;> rfl
@[simp] theorem Lane.setS_trappc (l : Lane) (n : Reg) (v : Word) : (l.setS n v).trappc = l.trappc := by
  unfold Lane.setS; split <;> rfl
@[simp] theorem Lane.setS_trapval (l : Lane) (n : Reg) (v : Word) : (l.setS n v).trapval = l.trapval := by
  unfold Lane.setS; split <;> rfl
@[simp] theorem Lane.setS_traptick (l : Lane) (n : Reg) (v : Word) : (l.setS n v).traptick = l.traptick := by
  unfold Lane.setS; split <;> rfl
@[simp] theorem Lane.setS_rmode (l : Lane) (n : Reg) (v : Word) : (l.setS n v).rmode = l.rmode := by
  unfold Lane.setS; split <;> rfl
@[simp] theorem Lane.setS_amaxM (l : Lane) (n : Reg) (v : Word) : (l.setS n v).amaxM = l.amaxM := by
  unfold Lane.setS; split <;> rfl
@[simp] theorem Lane.setS_amaxN (l : Lane) (n : Reg) (v : Word) : (l.setS n v).amaxN = l.amaxN := by
  unfold Lane.setS; split <;> rfl
@[simp] theorem Lane.setS_rseed (l : Lane) (n : Reg) (v : Word) : (l.setS n v).rseed = l.rseed := by
  unfold Lane.setS; split <;> rfl
@[simp] theorem Lane.setS_spillbase (l : Lane) (n : Reg) (v : Word) : (l.setS n v).spillbase = l.spillbase := by
  unfold Lane.setS; split <;> rfl
@[simp] theorem Lane.setS_spilllim (l : Lane) (n : Reg) (v : Word) : (l.setS n v).spilllim = l.spilllim := by
  unfold Lane.setS; split <;> rfl
@[simp] theorem Lane.setS_spillptr (l : Lane) (n : Reg) (v : Word) : (l.setS n v).spillptr = l.spillptr := by
  unfold Lane.setS; split <;> rfl
@[simp] theorem Lane.setS_accspill (l : Lane) (n : Reg) (v : Word) : (l.setS n v).accspill = l.accspill := by
  unfold Lane.setS; split <;> rfl
@[simp] theorem Lane.setS_ptag (l : Lane) (n : Reg) (v : Word) : (l.setS n v).ptag = l.ptag := by
  unfold Lane.setS; split <;> rfl
@[simp] theorem Lane.setS_supc (l : Lane) (n : Reg) (v : Word) : (l.setS n v).supc = l.supc := by
  unfold Lane.setS; split <;> rfl
@[simp] theorem Lane.setS_wlimit (l : Lane) (n : Reg) (v : Word) : (l.setS n v).wlimit = l.wlimit := by
  unfold Lane.setS; split <;> rfl
@[simp] theorem Lane.setS_wcount (l : Lane) (n : Reg) (v : Word) : (l.setS n v).wcount = l.wcount := by
  unfold Lane.setS; split <;> rfl
@[simp] theorem Lane.setS_wen (l : Lane) (n : Reg) (v : Word) : (l.setS n v).wen = l.wen := by
  unfold Lane.setS; split <;> rfl
@[simp] theorem Lane.setS_handlerbase (l : Lane) (n : Reg) (v : Word) : (l.setS n v).handlerbase = l.handlerbase := by
  unfold Lane.setS; split <;> rfl
@[simp] theorem Lane.setS_noticeq (l : Lane) (n : Reg) (v : Word) : (l.setS n v).noticeq = l.noticeq := by
  unfold Lane.setS; split <;> rfl
@[simp] theorem Lane.setS_region (l : Lane) (n : Reg) (v : Word) : (l.setS n v).region = l.region := by
  unfold Lane.setS; split <;> rfl
@[simp] theorem Lane.setS_streamcfg (l : Lane) (n : Reg) (v : Word) : (l.setS n v).streamcfg = l.streamcfg := by
  unfold Lane.setS; split <;> rfl
@[simp] theorem Lane.setS_ring (l : Lane) (n : Reg) (v : Word) : (l.setS n v).ring = l.ring := by
  unfold Lane.setS; split <;> rfl
@[simp] theorem Lane.setS_active (l : Lane) (n : Reg) (v : Word) : (l.setS n v).active = l.active := by
  unfold Lane.setS; split <;> rfl
@[simp] theorem Lane.setS_inl (l : Lane) (n : Reg) (v : Word) : (l.setS n v).inl = l.inl := by
  unfold Lane.setS; split <;> rfl
@[simp] theorem Lane.setS_rxcnt (l : Lane) (n : Reg) (v : Word) : (l.setS n v).rxcnt = l.rxcnt := by
  unfold Lane.setS; split <;> rfl
@[simp] theorem Lane.setS_sendq (l : Lane) (n : Reg) (v : Word) : (l.setS n v).sendq = l.sendq := by
  unfold Lane.setS; split <;> rfl
@[simp] theorem Lane.setS_waiting (l : Lane) (n : Reg) (v : Word) : (l.setS n v).waiting = l.waiting := by
  unfold Lane.setS; split <;> rfl
@[simp] theorem Lane.setS_waitJob (l : Lane) (n : Reg) (v : Word) : (l.setS n v).waitJob = l.waitJob := by
  unfold Lane.setS; split <;> rfl
@[simp] theorem Lane.setS_req (l : Lane) (n : Reg) (v : Word) : (l.setS n v).req = l.req := by
  unfold Lane.setS; split <;> rfl
@[simp] theorem Lane.setS_due (l : Lane) (n : Reg) (v : Word) : (l.setS n v).due = l.due := by
  unfold Lane.setS; split <;> rfl
@[simp] theorem Lane.setS_point (l : Lane) (n : Reg) (v : Word) : (l.setS n v).point = l.point := by
  unfold Lane.setS; split <;> rfl
@[simp] theorem Lane.setS_mlast (l : Lane) (n : Reg) (v : Word) : (l.setS n v).mlast = l.mlast := by
  unfold Lane.setS; split <;> rfl
@[simp] theorem Lane.setS_blast (l : Lane) (n : Reg) (v : Word) : (l.setS n v).blast = l.blast := by
  unfold Lane.setS; split <;> rfl
@[simp] theorem Lane.setS_bstat (l : Lane) (n : Reg) (v : Word) : (l.setS n v).bstat = l.bstat := by
  unfold Lane.setS; split <;> rfl
@[simp] theorem Lane.setS_spvEnd (l : Lane) (n : Reg) (v : Word) : (l.setS n v).spvEnd = l.spvEnd := by
  unfold Lane.setS; split <;> rfl
@[simp] theorem Lane.setS_relHold (l : Lane) (n : Reg) (v : Word) : (l.setS n v).relHold = l.relHold := by
  unfold Lane.setS; split <;> rfl
@[simp] theorem Lane.setS_kept (l : Lane) (n : Reg) (v : Word) : (l.setS n v).kept = l.kept := by
  unfold Lane.setS; split <;> rfl
@[simp] theorem Lane.setS_trapWait (l : Lane) (n : Reg) (v : Word) : (l.setS n v).trapWait = l.trapWait := by
  unfold Lane.setS; split <;> rfl
@[simp] theorem Lane.setS_ahead (l : Lane) (n : Reg) (v : Word) : (l.setS n v).ahead = l.ahead := by
  unfold Lane.setS; split <;> rfl
@[simp] theorem Lane.setS_dbgSkip (l : Lane) (n : Reg) (v : Word) : (l.setS n v).dbgSkip = l.dbgSkip := by
  unfold Lane.setS; split <;> rfl
@[simp] theorem Lane.setS_dbgStopReq (l : Lane) (n : Reg) (v : Word) : (l.setS n v).dbgStopReq = l.dbgStopReq := by
  unfold Lane.setS; split <;> rfl
@[simp] theorem Lane.setS_dbgStep (l : Lane) (n : Reg) (v : Word) : (l.setS n v).dbgStep = l.dbgStep := by
  unfold Lane.setS; split <;> rfl
@[simp] theorem Lane.setS_pool (l : Lane) (n : Reg) (v : Word) : (l.setS n v).pool = l.pool := by
  unfold Lane.setS; split <;> rfl
@[simp] theorem Lane.setS_ejbuf (l : Lane) (n : Reg) (v : Word) : (l.setS n v).ejbuf = l.ejbuf := by
  unfold Lane.setS; split <;> rfl
@[simp] theorem Lane.setS_save (l : Lane) (n : Reg) (v : Word) : (l.setS n v).save = l.save := by
  unfold Lane.setS; split <;> rfl
@[simp] theorem Lane.setS_imgSeq (l : Lane) (n : Reg) (v : Word) : (l.setS n v).imgSeq = l.imgSeq := by
  unfold Lane.setS; split <;> rfl
@[simp] theorem Lane.setS_imgBase (l : Lane) (n : Reg) (v : Word) : (l.setS n v).imgBase = l.imgBase := by
  unfold Lane.setS; split <;> rfl
@[simp] theorem Lane.setS_imgWords (l : Lane) (n : Reg) (v : Word) : (l.setS n v).imgWords = l.imgWords := by
  unfold Lane.setS; split <;> rfl
@[simp] theorem Lane.setM_sreg (l : Lane) (n : MReg) (v : BitVec 32) : (l.setM n v).sreg = l.sreg := by
  unfold Lane.setM; split <;> rfl
@[simp] theorem Lane.setM_vreg (l : Lane) (n : MReg) (v : BitVec 32) : (l.setM n v).vreg = l.vreg := by
  unfold Lane.setM; split <;> rfl
@[simp] theorem Lane.setM_hreg (l : Lane) (n : MReg) (v : BitVec 32) : (l.setM n v).hreg = l.hreg := by
  unfold Lane.setM; split <;> rfl
@[simp] theorem Lane.setM_pc (l : Lane) (n : MReg) (v : BitVec 32) : (l.setM n v).pc = l.pc := by
  unfold Lane.setM; split <;> rfl
@[simp] theorem Lane.setM_run (l : Lane) (n : MReg) (v : BitVec 32) : (l.setM n v).run = l.run := by
  unfold Lane.setM; split <;> rfl
@[simp] theorem Lane.setM_gate (l : Lane) (n : MReg) (v : BitVec 32) : (l.setM n v).gate = l.gate := by
  unfold Lane.setM; split <;> rfl
@[simp] theorem Lane.setM_dstop (l : Lane) (n : MReg) (v : BitVec 32) : (l.setM n v).dstop = l.dstop := by
  unfold Lane.setM; split <;> rfl
@[simp] theorem Lane.setM_stall (l : Lane) (n : MReg) (v : BitVec 32) : (l.setM n v).stall = l.stall := by
  unfold Lane.setM; split <;> rfl
@[simp] theorem Lane.setM_sup (l : Lane) (n : MReg) (v : BitVec 32) : (l.setM n v).sup = l.sup := by
  unfold Lane.setM; split <;> rfl
@[simp] theorem Lane.setM_intrap (l : Lane) (n : MReg) (v : BitVec 32) : (l.setM n v).intrap = l.intrap := by
  unfold Lane.setM; split <;> rfl
@[simp] theorem Lane.setM_abandon (l : Lane) (n : MReg) (v : BitVec 32) : (l.setM n v).abandon = l.abandon := by
  unfold Lane.setM; split <;> rfl
@[simp] theorem Lane.setM_spx (l : Lane) (n : MReg) (v : BitVec 32) : (l.setM n v).spx = l.spx := by
  unfold Lane.setM; split <;> rfl
@[simp] theorem Lane.setM_spv (l : Lane) (n : MReg) (v : BitVec 32) : (l.setM n v).spv = l.spv := by
  unfold Lane.setM; split <;> rfl
@[simp] theorem Lane.setM_task (l : Lane) (n : MReg) (v : BitVec 32) : (l.setM n v).task = l.task := by
  unfold Lane.setM; split <;> rfl
@[simp] theorem Lane.setM_place (l : Lane) (n : MReg) (v : BitVec 32) : (l.setM n v).place = l.place := by
  unfold Lane.setM; split <;> rfl
@[simp] theorem Lane.setM_trapcause (l : Lane) (n : MReg) (v : BitVec 32) : (l.setM n v).trapcause = l.trapcause := by
  unfold Lane.setM; split <;> rfl
@[simp] theorem Lane.setM_trappc (l : Lane) (n : MReg) (v : BitVec 32) : (l.setM n v).trappc = l.trappc := by
  unfold Lane.setM; split <;> rfl
@[simp] theorem Lane.setM_trapval (l : Lane) (n : MReg) (v : BitVec 32) : (l.setM n v).trapval = l.trapval := by
  unfold Lane.setM; split <;> rfl
@[simp] theorem Lane.setM_traptick (l : Lane) (n : MReg) (v : BitVec 32) : (l.setM n v).traptick = l.traptick := by
  unfold Lane.setM; split <;> rfl
@[simp] theorem Lane.setM_rmode (l : Lane) (n : MReg) (v : BitVec 32) : (l.setM n v).rmode = l.rmode := by
  unfold Lane.setM; split <;> rfl
@[simp] theorem Lane.setM_amaxM (l : Lane) (n : MReg) (v : BitVec 32) : (l.setM n v).amaxM = l.amaxM := by
  unfold Lane.setM; split <;> rfl
@[simp] theorem Lane.setM_amaxN (l : Lane) (n : MReg) (v : BitVec 32) : (l.setM n v).amaxN = l.amaxN := by
  unfold Lane.setM; split <;> rfl
@[simp] theorem Lane.setM_rseed (l : Lane) (n : MReg) (v : BitVec 32) : (l.setM n v).rseed = l.rseed := by
  unfold Lane.setM; split <;> rfl
@[simp] theorem Lane.setM_spillbase (l : Lane) (n : MReg) (v : BitVec 32) : (l.setM n v).spillbase = l.spillbase := by
  unfold Lane.setM; split <;> rfl
@[simp] theorem Lane.setM_spilllim (l : Lane) (n : MReg) (v : BitVec 32) : (l.setM n v).spilllim = l.spilllim := by
  unfold Lane.setM; split <;> rfl
@[simp] theorem Lane.setM_spillptr (l : Lane) (n : MReg) (v : BitVec 32) : (l.setM n v).spillptr = l.spillptr := by
  unfold Lane.setM; split <;> rfl
@[simp] theorem Lane.setM_accspill (l : Lane) (n : MReg) (v : BitVec 32) : (l.setM n v).accspill = l.accspill := by
  unfold Lane.setM; split <;> rfl
@[simp] theorem Lane.setM_ptag (l : Lane) (n : MReg) (v : BitVec 32) : (l.setM n v).ptag = l.ptag := by
  unfold Lane.setM; split <;> rfl
@[simp] theorem Lane.setM_supc (l : Lane) (n : MReg) (v : BitVec 32) : (l.setM n v).supc = l.supc := by
  unfold Lane.setM; split <;> rfl
@[simp] theorem Lane.setM_wlimit (l : Lane) (n : MReg) (v : BitVec 32) : (l.setM n v).wlimit = l.wlimit := by
  unfold Lane.setM; split <;> rfl
@[simp] theorem Lane.setM_wcount (l : Lane) (n : MReg) (v : BitVec 32) : (l.setM n v).wcount = l.wcount := by
  unfold Lane.setM; split <;> rfl
@[simp] theorem Lane.setM_wen (l : Lane) (n : MReg) (v : BitVec 32) : (l.setM n v).wen = l.wen := by
  unfold Lane.setM; split <;> rfl
@[simp] theorem Lane.setM_handlerbase (l : Lane) (n : MReg) (v : BitVec 32) : (l.setM n v).handlerbase = l.handlerbase := by
  unfold Lane.setM; split <;> rfl
@[simp] theorem Lane.setM_noticeq (l : Lane) (n : MReg) (v : BitVec 32) : (l.setM n v).noticeq = l.noticeq := by
  unfold Lane.setM; split <;> rfl
@[simp] theorem Lane.setM_region (l : Lane) (n : MReg) (v : BitVec 32) : (l.setM n v).region = l.region := by
  unfold Lane.setM; split <;> rfl
@[simp] theorem Lane.setM_streamcfg (l : Lane) (n : MReg) (v : BitVec 32) : (l.setM n v).streamcfg = l.streamcfg := by
  unfold Lane.setM; split <;> rfl
@[simp] theorem Lane.setM_ring (l : Lane) (n : MReg) (v : BitVec 32) : (l.setM n v).ring = l.ring := by
  unfold Lane.setM; split <;> rfl
@[simp] theorem Lane.setM_active (l : Lane) (n : MReg) (v : BitVec 32) : (l.setM n v).active = l.active := by
  unfold Lane.setM; split <;> rfl
@[simp] theorem Lane.setM_inl (l : Lane) (n : MReg) (v : BitVec 32) : (l.setM n v).inl = l.inl := by
  unfold Lane.setM; split <;> rfl
@[simp] theorem Lane.setM_rxcnt (l : Lane) (n : MReg) (v : BitVec 32) : (l.setM n v).rxcnt = l.rxcnt := by
  unfold Lane.setM; split <;> rfl
@[simp] theorem Lane.setM_sendq (l : Lane) (n : MReg) (v : BitVec 32) : (l.setM n v).sendq = l.sendq := by
  unfold Lane.setM; split <;> rfl
@[simp] theorem Lane.setM_waiting (l : Lane) (n : MReg) (v : BitVec 32) : (l.setM n v).waiting = l.waiting := by
  unfold Lane.setM; split <;> rfl
@[simp] theorem Lane.setM_waitJob (l : Lane) (n : MReg) (v : BitVec 32) : (l.setM n v).waitJob = l.waitJob := by
  unfold Lane.setM; split <;> rfl
@[simp] theorem Lane.setM_req (l : Lane) (n : MReg) (v : BitVec 32) : (l.setM n v).req = l.req := by
  unfold Lane.setM; split <;> rfl
@[simp] theorem Lane.setM_due (l : Lane) (n : MReg) (v : BitVec 32) : (l.setM n v).due = l.due := by
  unfold Lane.setM; split <;> rfl
@[simp] theorem Lane.setM_point (l : Lane) (n : MReg) (v : BitVec 32) : (l.setM n v).point = l.point := by
  unfold Lane.setM; split <;> rfl
@[simp] theorem Lane.setM_mlast (l : Lane) (n : MReg) (v : BitVec 32) : (l.setM n v).mlast = l.mlast := by
  unfold Lane.setM; split <;> rfl
@[simp] theorem Lane.setM_blast (l : Lane) (n : MReg) (v : BitVec 32) : (l.setM n v).blast = l.blast := by
  unfold Lane.setM; split <;> rfl
@[simp] theorem Lane.setM_bstat (l : Lane) (n : MReg) (v : BitVec 32) : (l.setM n v).bstat = l.bstat := by
  unfold Lane.setM; split <;> rfl
@[simp] theorem Lane.setM_spvEnd (l : Lane) (n : MReg) (v : BitVec 32) : (l.setM n v).spvEnd = l.spvEnd := by
  unfold Lane.setM; split <;> rfl
@[simp] theorem Lane.setM_relHold (l : Lane) (n : MReg) (v : BitVec 32) : (l.setM n v).relHold = l.relHold := by
  unfold Lane.setM; split <;> rfl
@[simp] theorem Lane.setM_kept (l : Lane) (n : MReg) (v : BitVec 32) : (l.setM n v).kept = l.kept := by
  unfold Lane.setM; split <;> rfl
@[simp] theorem Lane.setM_trapWait (l : Lane) (n : MReg) (v : BitVec 32) : (l.setM n v).trapWait = l.trapWait := by
  unfold Lane.setM; split <;> rfl
@[simp] theorem Lane.setM_ahead (l : Lane) (n : MReg) (v : BitVec 32) : (l.setM n v).ahead = l.ahead := by
  unfold Lane.setM; split <;> rfl
@[simp] theorem Lane.setM_dbgSkip (l : Lane) (n : MReg) (v : BitVec 32) : (l.setM n v).dbgSkip = l.dbgSkip := by
  unfold Lane.setM; split <;> rfl
@[simp] theorem Lane.setM_dbgStopReq (l : Lane) (n : MReg) (v : BitVec 32) : (l.setM n v).dbgStopReq = l.dbgStopReq := by
  unfold Lane.setM; split <;> rfl
@[simp] theorem Lane.setM_dbgStep (l : Lane) (n : MReg) (v : BitVec 32) : (l.setM n v).dbgStep = l.dbgStep := by
  unfold Lane.setM; split <;> rfl
@[simp] theorem Lane.setM_pool (l : Lane) (n : MReg) (v : BitVec 32) : (l.setM n v).pool = l.pool := by
  unfold Lane.setM; split <;> rfl
@[simp] theorem Lane.setM_ejbuf (l : Lane) (n : MReg) (v : BitVec 32) : (l.setM n v).ejbuf = l.ejbuf := by
  unfold Lane.setM; split <;> rfl
@[simp] theorem Lane.setM_save (l : Lane) (n : MReg) (v : BitVec 32) : (l.setM n v).save = l.save := by
  unfold Lane.setM; split <;> rfl
@[simp] theorem Lane.setM_imgSeq (l : Lane) (n : MReg) (v : BitVec 32) : (l.setM n v).imgSeq = l.imgSeq := by
  unfold Lane.setM; split <;> rfl
@[simp] theorem Lane.setM_imgBase (l : Lane) (n : MReg) (v : BitVec 32) : (l.setM n v).imgBase = l.imgBase := by
  unfold Lane.setM; split <;> rfl
@[simp] theorem Lane.setM_imgWords (l : Lane) (n : MReg) (v : BitVec 32) : (l.setM n v).imgWords = l.imgWords := by
  unfold Lane.setM; split <;> rfl

/-- Reading a scalar register after a write: s0 reads as zero and a write to it is discarded (R49). -/
theorem Lane.s_setS (l : Lane) (n m : Reg) (v : Word) : (l.setS n v).s m = if m = 0 then 0 else if m = n then v else l.s m := by
  unfold Lane.s Lane.setS
  by_cases hm : m = 0
  · rw [if_pos hm, if_pos hm]
  · rw [if_neg hm, if_neg hm, if_neg hm]
    by_cases hn : n = 0
    · subst hn; rw [if_pos rfl, if_neg hm]
    · rw [if_neg hn]
      by_cases h : m = n
      · subst h; rw [if_pos rfl]; exact Vector.getElem_set_self _
      · rw [if_neg h]
        exact Vector.getElem_set_ne n.isLt m.isLt fun e => h (BitVec.eq_of_toNat_eq e.symm)

theorem Lane.s_zero (l : Lane) : l.s 0 = 0 := rfl

/-- Reading a vector register after a write. -/
theorem Lane.v_setV (l : Lane) (n m : VReg) (v : VWord) : (l.setV n v).v m = if m = n then v else l.v m := by
  by_cases h : m = n
  · subst h; simp [Lane.setV, Lane.v]
  · have : n.toNat ≠ m.toNat := fun e => h (BitVec.eq_of_toNat_eq e.symm)
    simp [Lane.setV, Lane.v, h, this]

/-- Reading a mask register after a write: m0 reads as ones and a write to it is discarded (R49). -/
theorem Lane.m_setM (l : Lane) (n m : MReg) (v : BitVec 32) :
    (l.setM n v).m m = if m = 0 then BitVec.allOnes 32 else if m = n then v else l.m m := by
  unfold Lane.m Lane.setM
  by_cases hm : m = 0
  · rw [if_pos hm, if_pos hm]
  · rw [if_neg hm, if_neg hm, if_neg hm]
    by_cases hn : n = 0
    · subst hn; rw [if_pos rfl, if_neg hm]
    · rw [if_neg hn]
      by_cases h : m = n
      · subst h; rw [if_pos rfl]; exact Vector.getElem_set_self _
      · rw [if_neg h]
        exact Vector.getElem_set_ne n.isLt m.isLt fun e => h (BitVec.eq_of_toNat_eq e.symm)

@[simp] theorem Lane.advance_pc (l : Lane) (n : Nat) : (l.advance n).pc = l.pc + word n := rfl
@[simp] theorem Lane.advance_run (l : Lane) (n : Nat) : (l.advance n).run = .running := rfl
@[simp] theorem Lane.jump_pc (l : Lane) (a : Word) : (l.jump a).pc = a := rfl

end Sys2Proof.Machine
end

