-- ==== Sys2Proof/Laws/Ops.lean ====
section
/-! SUPPORT. What the shared operations do, said once: outcomes, traps, reads and merges at homes, drains and releases, elements. -/

namespace Sys2Proof.Machine

/-! Outcomes. -/

@[simp] theorem finish_ok (i : Instr) (s : State) : finish i (.ok s) = .next s := rfl
@[simp] theorem finish_trap (i : Instr) (s : State) (c : BitVec 8) (v : Word) :
    finish i (.error (.trap s c v)) = .next (s.takeTrap c v) := rfl
@[simp] theorem finish_wait (i : Instr) (s : State) (c : BitVec 4) : finish i (.error (.wait s c)) = .next (s.stallOn i c) := rfl

/-- Whatever an instruction's result, it ends in a next state: completed, trapped or waiting. -/
theorem finish_next (i : Instr) (x : Except Stop State) : ∃ t, finish i x = .next t := by
  match x with
  | .ok s => exact ⟨s, rfl⟩
  | .error (.trap s c v) => exact ⟨_, rfl⟩
  | .error (.wait s c) => exact ⟨_, rfl⟩

@[simp] theorem mapNext_next (f : State → State) (s : State) : mapNext f (.next s) = .next (f s) := rfl

/-! Trace. -/

/-- A core whose trace is off emits nothing (R339). -/
theorem State.trace_off {s : State} {r : LaneRef} (h : s.untraced r) (kind : Nat) (data : Word) : s.trace r kind data = s := by
  unfold State.untraced at h
  simp [State.trace, h]

/-! Traps. -/

/-- A trap of delivery P, or in a trap handler, parks the lane and sends its report (R190, R191). -/
theorem State.takeTrapAt_park {s : State} {r : LaneRef} {c : BitVec 8} (v pc : Word) (hd : delivery c ≠ .d)
    (ht : s.untraced r) (hp : delivery c = .p ∨ (s.laneAt r).intrap = true) :
    s.takeTrapAt r c v pc = ((s.withdraw r).setLaneAt r
      { ((s.withdraw r).laneAt r).trapRegs c v pc (s.die (dieOf r.core)).dtc with run := .parked }).sendReport r
        (trapReport c v (parcelAlign pc) r) := by
  have hu : (s.withdraw r).untraced r := by
    simp [State.untraced, State.withdraw, State.setLaneAt, State.core, State.setCore] at ht ⊢
    simpa [Table.find_put_same, Core.setLane] using ht
  have hi : ((s.withdraw r).laneAt r).intrap = (s.laneAt r).intrap := by
    have : (s.withdraw r).laneAt r = { s.laneAt r with req := none } :=
      State.setLaneAt_laneAt_same s r { s.laneAt r with req := none }
    rw [this]
  unfold State.takeTrapAt
  simp only [hd, decide_false, Bool.false_and, Bool.false_eq_true, if_false, State.trace_off hu]
  rw [if_pos]
  · rfl
  · simp only [Lane.trapRegs, Bool.or_eq_true, decide_eq_true_eq, hi]
    exact hp

/-! Homes. -/

/-- A list without an entry keeps all of itself when that entry is taken out. -/
theorem filter_absent {k : Nat} {xs : List Nat} (h : k ∉ xs) : xs.filter (· != k) = xs :=
  List.filter_eq_self.mpr fun x hx => by
    have : x ≠ k := fun e => h (e ▸ hx)
    simpa using this

/-- A word without error has a fresh code already. -/
theorem State.freshCode_clean {s : State} {pa : Nat} (h : s.clean pa) : s.freshCode pa = s := by
  unfold State.freshCode
  rw [filter_absent h.1, filter_absent h.2]

/-- A word without error needs no correction. -/
theorem State.correct_clean {s : State} {pa : Nat} (h : s.clean pa) : s.correct pa = s := by
  have h2 : s.corr.contains (errKey pa) = false := by simpa using h.2
  simp only [State.correct, h2, Bool.false_eq_true, if_false]

/-- A read of a word without error gives the word and its tag and changes nothing (R100). -/
theorem State.readHome_clean {s : State} {pa : Nat} (h : s.clean pa) (p : Nat) (who : Option LaneRef) :
    s.readHome pa p who = (s, s.peek pa, s.tag pa) := by
  have h1 : s.unc.contains (errKey pa) = false := by simpa using h.1
  simp only [State.readHome, h1, Bool.false_eq_true, if_false, State.correct_clean h]

/-- A merge at a word without error stores the old bits with the masked ones replaced (R26). -/
theorem State.merge_clean {s : State} {pa : Nat} (h : s.clean pa) (m v : Word) (p : Nat) :
    s.merge pa m v p = s.poke pa ((s.peek pa &&& ~~~m) ||| (v &&& m)) p := by
  have h1 : s.unc.contains (errKey pa) = false := by simpa using h.1
  unfold State.merge
  simp only [h1, Bool.false_eq_true, if_false, State.correct_clean h, State.freshCode_clean h]
  split
  · rename_i hm
    have e : (s.peek pa &&& ~~~(BitVec.allOnes 64)) ||| (v &&& BitVec.allOnes 64) = v := by
      rw [BitVec.and_allOnes, show ~~~(BitVec.allOnes 64) = 0#64 from by decide, BitVec.and_zero, BitVec.zero_or]
    rw [hm.1, e]
  · rfl

/-- Without parked requests there is nothing to re-examine (R106). -/
theorem State.examine_none {s : State} (h : s.parked = []) (pa : Nat) (ok : Park → Bool) : s.examine pa ok = s := by
  cases s
  simp only at h
  subst h
  rfl

theorem State.reexamine_none {s : State} (h : s.parked = []) (pa : Nat) (old : BitVec 4) : s.reexamine pa old = s := by
  unfold State.reexamine
  split
  · exact State.examine_none h _ _
  · rw [h]
    simp only [List.length_nil, State.settleTag, State.examine_none h, if_true]

/-- With nothing in flight, no notice owed and no link that holds anything back, a drain does nothing. -/
theorem State.drain_settled {s : State} (h : s.settled) (p : Posted → Bool) : s.drain p = s := by
  obtain ⟨h1, h2, h3⟩ := h
  unfold State.drain
  rw [h3]
  cases s
  simp only at h1 h2
  subst h1 h2
  rfl

/-- Where no link retrains or retries a flit, none holds anything back (R331). -/
theorem State.heldOn_clear {s : State} (h : s.linksClear = true) (path : List Nat) (f : Nat → Bool) : s.heldOn path f = false := by
  simp [State.heldOn, h]

/-- What crosses links that are all clear changes none of them. -/
theorem State.passLinks_clear {s : State} (h : s.linksClear = true) (path : List Nat) : s.passLinks path = s := by
  simp [State.passLinks, h]

/-- An answered access waits for no link and for no earlier store where all links are clear (R331). -/
theorem State.behind_clear {s : State} (h : s.linksClear = true) (r : LaneRef) (path : Nat) : s.behind r path = false := by
  simp [State.behind, h]

/-- An answered read at a home with nothing in flight and no error (R99, R100). -/
theorem State.homeWord_clean {s : State} (hs : s.settled) {pa : Nat} (h : s.clean pa) (r : LaneRef) :
    s.homeWord r pa = (s, s.peek pa, s.tag pa) := by
  simp only [State.homeWord, State.drainPath, State.drain_settled hs, State.readHome_clean h]

/-- With nothing in flight, no access of another party arrives before a read (R43). -/
theorem State.meanwhile_settled {s : State} (h : s.settled) (pa : Nat) : s.meanwhile pa = s := by
  have one (k : Nat) : s.arriveAt k = s := by simp only [State.arriveAt, h.1, List.getElem?_nil]
  unfold State.meanwhile
  generalize Config.landing s.turn pa = ks
  induction ks with
  | nil => rfl
  | cons k ks ih => rw [List.foldl_cons, one, ih]

/-- A word of a block read with nothing in flight and no error (R43). -/
theorem State.readPart_clean {s : State} (hs : s.settled) {pa : Nat} (h : s.clean pa) (r : LaneRef) (own : Bool) :
    s.readPart r own pa = (s, s.peek pa) := by
  simp only [State.readPart, State.meanwhile_settled hs, State.drainPath, State.drain_settled hs, ite_self, State.readHome_clean h]

/-- A release is satisfied at once where nothing of the lane's is outstanding (R102). -/
theorem State.release_released {s : State} (h : s.released) (sc : Scope) : s.release s.cur sc = .ok s := by
  obtain ⟨h1, h2, h3⟩ := h
  unfold State.release
  split
  · rfl
  · rw [State.drain_settled h1]
    simp [h2, h3, State.landed, h1.1]

/-- What an optional release does then. -/
theorem State.releaseOpt_released {s : State} (h : s.released) (sc : Option Scope) : s.releaseOpt s.cur sc = .ok s := by
  cases sc with
  | none => rfl
  | some sc => exact State.release_released h sc

/-! Stored words. -/

/-- A whole word set by the unit of a memory is the word found there. -/
theorem State.setHome_mem {s : State} {pa : Nat} (v : Word) (p : Nat)
    (h : homeOf pa = .hbm ∨ homeOf pa = .coh ∨ ∃ c, homeOf pa = .spad c) : (s.setHome pa v p).mem = Memory.setWord s.mem pa v := by
  obtain h | h | ⟨c, h⟩ := h <;> simp only [State.setHome, h]

/-- A word stored in a memory, where no bit of it is read-only, is the word found there. -/
theorem State.peek_poke_same {s : State} (hm : Memory.wf s.mem = true) {pa : Nat} (v : Word) (p : Nat)
    (h : homeOf pa = .hbm ∨ homeOf pa = .coh ∨ ∃ c, homeOf pa = .spad c) (h0 : readOnlyBits pa = 0) : (s.poke pa v p).peek pa = v := by
  have e : (s.poke pa v p).mem = Memory.setWord s.mem pa v := by
    unfold State.poke; rw [if_pos h0]; exact State.setHome_mem v p h
  obtain h | h | ⟨c, h⟩ := h <;> simp only [State.peek, h, e] <;> exact Memory.word_setWord_same hm pa v

/-- A word stored in a memory leaves every word that it does not overlap alone. -/
theorem State.peek_poke_out {s : State} {pa x : Nat} (v : Word) (p : Nat)
    (h : homeOf pa = .hbm ∨ homeOf pa = .coh ∨ ∃ c, homeOf pa = .spad c)
    (hx : homeOf x = .hbm ∨ homeOf x = .coh ∨ ∃ c, homeOf x = .spad c) (ho : x + 8 ≤ pa ∨ pa + 8 ≤ x) :
    (s.poke pa v p).peek x = s.peek x := by
  have e : ∃ w, (s.poke pa v p).mem = Memory.setWord s.mem pa w := by
    unfold State.poke
    split
    · exact ⟨_, State.setHome_mem _ p h⟩
    · exact ⟨_, State.setHome_mem _ p h⟩
  obtain ⟨w, e⟩ := e
  obtain hx | hx | ⟨c, hx⟩ := hx <;> simp only [State.peek, hx, e] <;> exact Memory.word_setWord_out s.mem pa x w ho

end Sys2Proof.Machine
end

