-- ==== Sys2Proof/Tests/Slice0.lean ====
section
/-! SUPPORT. Tests: ill-formed terms are refused, words written out from the formats of R62 and R67 decode to their instructions,
single steps give what the spec gives, and every statement with hypotheses has a state that meets them. -/

namespace Sys2Proof.Tests

open Sys2Proof Sys2Proof.Machine

/-! Well-formedness: one ill-formed term for each check of `Instr.wf` (R61, R66). -/

theorem test_wf_ldw_ver : (Instr.ldw 1 2 0 none).wf = false := by decide
theorem test_wf_stv_ver : (Instr.stv 1 2 0 none).wf = false := by decide
theorem test_wf_spillm_order : (Instr.spillm 9 8 false).wf = false ∧ (Instr.spillm 8 8 false).wf = true := by decide
theorem test_wf_fillm_order : (Instr.fillm 31 0 true).wf = false := by decide
theorem test_wf_loop_negative : (Instr.loop 3 0).wf = false ∧ (Instr.loop 3 (-1)).wf = true := by decide
theorem test_wf_vcmp_ltu_float : (Instr.vcmp 0 1 2 .ltu .f32 0).wf = false ∧ (Instr.vcmp 0 1 2 .ltu .i32 0).wf = true := by decide
theorem test_wf_vpack_codebook : (Instr.vpack 0 1 .w8 .f32 .dyn (.cb 1) false).wf = false := by decide
theorem test_wf_vpack_range : (Instr.vpack 29 1 .w8 .f32 .dyn (.cb 0) false).wf = false := by decide
theorem test_wf_vunpack_range : (Instr.vunpack 31 1 .w8 .f16 .dyn).wf = false := by decide
theorem test_wf_vcord_width : (Instr.vcord 1 2 0 .sin 2).wf = false ∧ (Instr.vcord 1 2 0 .sin 3).wf = true := by decide
theorem test_wf_scord_operand : (Instr.scord 1 2 3 .exp 31).wf = false ∧ (Instr.scord 1 2 3 .atan2 31).wf = true := by decide
theorem test_wf_hwait_count : (Instr.hwaitf 0 0).wf = false ∧ (Instr.hwaite 0 0).wf = false := by decide
theorem test_wf_hadv_count : (Instr.hadv 0 true 0).wf = false := by decide
theorem test_wf_mma_pages : (Instr.mma 1 2 3 4 0).wf = false ∧ (Instr.mmat 1 2 3 4 0).wf = false := by decide
theorem test_wf_accrow_range : (Instr.accrow 29 1 2 .dyn).wf = false ∧ (Instr.accrow 28 1 2 .dyn).wf = true := by decide
theorem test_wf_bcopy_pair : (Instr.bcopy 3 1 2 .lane).wf = false ∧ (Instr.bconv 0 1 2 .lane).wf = false := by decide
theorem test_wf_compact_branch : (Instr.beqCompact 1 0).wf = false ∧ (Instr.bneCompact 1 0).wf = false := by decide

/-! Decoding: every constructor's word, its fields written out in the order of its format. -/

/-- 2 words of 32 bits (memory). -/
theorem test_decode_memory :
    decode32 0b11111111101_11111_00110_00101_00000_1 = .ok (.ldM 5 6 31 (-3)) ∧
    decode32 0b00000001100_00111_01000_00111_00001_1 = .ok (.stM 7 8 7 12) := by decide

/-- 10 words of 32 bits (tagged). -/
theorem test_decode_tagged :
    decode32 0b0000_101_01_1_010010_00100_00011_00010_1 = .ok (.ldA 3 4 18 true (some .dev)) ∧
    decode32 0b0001_010_10_0_111111_00100_00011_00010_1 = .ok (.stA 3 4 63 (some .quad)) ∧
    decode32 0b0010_000_00_0_000000_01010_01001_00010_1 = .ok (.ldf 9 10 none) ∧
    decode32 0b0011_110_01_0_001011_01010_01001_00010_1 = .ok (.ldw 9 10 11 (some .sys)) ∧
    decode32 0b0100_100_10_0_000000_00010_00001_00010_1 = .ok (.ste 1 2 (some .die)) ∧
    decode32 0b0101_000_00_0_001111_00010_00001_00010_1 = .ok (.stv 1 2 15 none) ∧
    decode32 0b0110_000_00_0_000000_11110_11111_00010_1 = .ok (.tagrd 31 30) ∧
    decode32 0b0111_001_10_0_000000_11110_00000_00010_1 = .ok (.reclaim 30 (some .core)) ∧
    decode32 0b1000_000_00_0_000000_01111_01000_00010_1 = .ok (.spillm 8 15 false) ∧
    decode32 0b1001_000_00_0_000001_11111_00000_00010_1 = .ok (.fillm 0 31 true) := by decide

/-- 15 words of 32 bits (atomic). -/
theorem test_decode_atomic :
    decode32 0b000000_00000_00011_00010_00001_00011_1 = .ok (.amoadd 1 2 3 false .relaxed) ∧
    decode32 0b000011_00001_00100_00011_00010_00011_1 = .ok (.amoand 2 3 4 true (.acq .lane)) ∧
    decode32 0b001100_00010_00101_00100_00011_00011_1 = .ok (.amoor 3 4 5 false (.rel .core)) ∧
    decode32 0b010111_00011_00110_00101_00100_00011_1 = .ok (.amoxor 4 5 6 true (.acqRel .quad)) ∧
    decode32 0b011110_00100_00111_00110_00101_00011_1 = .ok (.amomin 5 6 7 false (.acqRel .clu)) ∧
    decode32 0b100011_00101_01000_00111_00110_00011_1 = .ok (.amomax 6 7 8 true (.acq .die)) ∧
    decode32 0b101100_00110_01001_01000_00111_00011_1 = .ok (.amominu 7 8 9 false (.rel .dev)) ∧
    decode32 0b110111_00111_01010_01001_01000_00011_1 = .ok (.amomaxu 8 9 10 true (.acqRel .sys)) ∧
    decode32 0b000000_01000_01011_01010_01001_00011_1 = .ok (.amoswap 9 10 11 false .relaxed) ∧
    decode32 0b101111_01001_01100_01011_01010_00011_1 = .ok (.amocas 10 11 12 true (.acqRel .dev)) ∧
    decode32 0b101101_01010_01101_01100_00000_00011_1 = .ok (.redadd 12 13 true (some .dev)) ∧
    decode32 0b000000_01011_01101_01100_00000_00011_1 = .ok (.redfadd 12 13 none) ∧
    decode32 0b110100_01100_01101_01100_00000_00011_1 = .ok (.redmin 12 13 false (some .sys)) ∧
    decode32 0b000001_01101_01101_01100_00000_00011_1 = .ok (.redmax 12 13 true none) ∧
    decode32 0b000000_01110_01101_01100_00000_00011_1 = .ok (.redor 12 13 false none) := by decide

/-- 28 words of 32 bits (integer). -/
theorem test_decode_integer :
    decode32 0b000000_00000_00011_00010_00001_00100_1 = .ok (.add 1 2 3) ∧
    decode32 0b000000_00001_00100_00011_00010_00100_1 = .ok (.sub 2 3 4) ∧
    decode32 0b000000_00010_00101_00100_00011_00100_1 = .ok (.and 3 4 5) ∧
    decode32 0b000000_00011_00110_00101_00100_00100_1 = .ok (.or 4 5 6) ∧
    decode32 0b000000_00100_00111_00110_00101_00100_1 = .ok (.xor 5 6 7) ∧
    decode32 0b000000_00101_01000_00111_00110_00100_1 = .ok (.shl 6 7 8) ∧
    decode32 0b000000_00110_01001_01000_00111_00100_1 = .ok (.shr 7 8 9) ∧
    decode32 0b000000_00111_01010_01001_01000_00100_1 = .ok (.sra 8 9 10) ∧
    decode32 0b000000_01000_01011_01010_01001_00100_1 = .ok (.mul 9 10 11) ∧
    decode32 0b000000_01001_01100_01011_01010_00100_1 = .ok (.mulh 10 11 12) ∧
    decode32 0b000000_01010_01101_01100_01011_00100_1 = .ok (.mulhu 11 12 13) ∧
    decode32 0b000000_01011_01110_01101_01100_00100_1 = .ok (.div 12 13 14) ∧
    decode32 0b000000_01100_01111_01110_01101_00100_1 = .ok (.divu 13 14 15) ∧
    decode32 0b000000_01101_10000_01111_01110_00100_1 = .ok (.rem 14 15 16) ∧
    decode32 0b000000_01110_10001_10000_01111_00100_1 = .ok (.remu 15 16 17) ∧
    decode32 0b000000_01111_10010_10001_10000_00100_1 = .ok (.slt 16 17 18) ∧
    decode32 0b000000_10000_10011_10010_10001_00100_1 = .ok (.sltu 17 18 19) ∧
    decode32 0b000000_10001_10100_10011_10010_00100_1 = .ok (.min 18 19 20) ∧
    decode32 0b000000_10010_10101_10100_10011_00100_1 = .ok (.max 19 20 21) ∧
    decode32 0b000000_10011_10110_10101_10100_00100_1 = .ok (.minu 20 21 22) ∧
    decode32 0b000000_10100_10111_10110_10101_00100_1 = .ok (.maxu 21 22 23) ∧
    decode32 0b000000_10101_00000_10101_10100_00100_1 = .ok (.clz 20 21) ∧
    decode32 0b000000_10110_00000_10101_10100_00100_1 = .ok (.ctz 20 21) ∧
    decode32 0b000000_10111_00000_10101_10100_00100_1 = .ok (.popc 20 21) ∧
    decode32 0b111111_11000_00011_00010_00001_00100_1 = .ok (.bext 1 2 3 63) ∧
    decode32 0b010000_11001_00011_00010_00001_00100_1 = .ok (.bins 1 2 3 16) ∧
    decode32 0b011111_11010_00000_00010_00001_00100_1 = .ok (.sext 1 2 31) ∧
    decode32 0b000111_11011_00000_00010_00001_00100_1 = .ok (.zext 1 2 7) := by decide

/-- 10 words of 32 bits (immediate). -/
theorem test_decode_immediate :
    decode32 0b111111111111_0000_00110_00101_00101_1 = .ok (.addi 5 6 (-1)) ∧
    decode32 0b111111111110_0001_00110_00101_00101_1 = .ok (.andi 5 6 (-2)) ∧
    decode32 0b111111111101_0010_00110_00101_00101_1 = .ok (.ori 5 6 (-3)) ∧
    decode32 0b111111111100_0011_00110_00101_00101_1 = .ok (.xori 5 6 (-4)) ∧
    decode32 0b000000111101_0100_00110_00101_00101_1 = .ok (.shli 5 6 61) ∧
    decode32 0b000000111110_0101_00110_00101_00101_1 = .ok (.shri 5 6 62) ∧
    decode32 0b000000111111_0110_00110_00101_00101_1 = .ok (.srai 5 6 63) ∧
    decode32 0b011111111111_0111_00110_00101_00101_1 = .ok (.slti 5 6 2047) ∧
    decode32 0b100000000000_1000_00110_00101_00101_1 = .ok (.sltiu 5 6 (-2048)) ∧
    decode32 0b1011111011101111_00110_00100_00110_1 = .ok (.lui 4 2 true 0xBEEF) := by decide

/-- 6 words of 32 bits (address). -/
theorem test_decode_address :
    decode32 0b011111_00000_00011_00010_00001_00111_1 = .ok (.eaddr 1 2 3 31) ∧
    decode32 0b111111_00001_00011_00010_00001_00111_1 = .ok (.ediff 1 2 3 63) ∧
    decode32 0b001111_00010_00000_00010_00001_00111_1 = .ok (.balign 1 2 15) ∧
    decode32 0b000000_00011_00000_00010_00001_00111_1 = .ok (.waddr 1 2) ∧
    decode32 0b000000_00100_00000_00010_00001_00111_1 = .ok (.gaddr 1 2) ∧
    decode32 0b000011_00101_00000_00000_00001_00111_1 = .ok (.coord 1 .gidx) := by decide

/-- 10 words of 32 bits (control). -/
theorem test_decode_control :
    decode32 0b1111111111111_000_10001_00011_01000_1 = .ok (.beq 3 17 (-1)) ∧
    decode32 0b1111111111110_001_10001_00011_01000_1 = .ok (.bne 3 17 (-2)) ∧
    decode32 0b1111111111101_010_10001_00011_01000_1 = .ok (.blt 3 17 (-3)) ∧
    decode32 0b1111111111100_011_10001_00011_01000_1 = .ok (.bge 3 17 (-4)) ∧
    decode32 0b1111111111011_100_10001_00011_01000_1 = .ok (.bltu 3 17 (-5)) ∧
    decode32 0b1111111111010_101_10001_00011_01000_1 = .ok (.bgeu 3 17 (-6)) ∧
    decode32 0b100000000000000000000_00001_01001_1 = .ok (.jal 1 (-1048576)) ∧
    decode32 0b111111111001_0000_00010_00001_01010_1 = .ok (.jalr 1 2 (-7)) ∧
    decode32 0b111111111100_0001_01001_00000_01010_1 = .ok (.loop 9 (-4)) ∧
    decode32 0b000000000000_0010_00000_00000_01010_1 = .ok (.endh) := by decide

/-- 28 words of 32 bits (vector). -/
theorem test_decode_vector :
    decode32 0b001000_00000_00011_00010_00001_01011_1 = .ok (.vadd 1 2 3 .i8 2) ∧
    decode32 0b001101_00001_00011_00010_00001_01011_1 = .ok (.vsub 1 2 3 .i16 3) ∧
    decode32 0b010010_00010_00011_00010_00001_01011_1 = .ok (.vmul 1 2 3 .i32 4) ∧
    decode32 0b110101_00011_00011_00010_00001_01011_1 = .ok (.vfma 1 2 3 .bf16 5) ∧
    decode32 0b111010_00100_00011_00010_00001_01011_1 = .ok (.vmin 1 2 3 .f32 6) ∧
    decode32 0b011100_00101_00011_00010_00001_01011_1 = .ok (.vmax 1 2 3 .i8 7) ∧
    decode32 0b100110_00110_00000_00010_00001_01011_1 = .ok (.vabs 1 2 .f32 1) ∧
    decode32 0b111101_00111_00000_00010_00001_01011_1 = .ok (.vneg 1 2 .bf16 7) ∧
    decode32 0b000000_01000_00110_00101_00100_01011_1 = .ok (.vand 4 5 6 .e8 0) ∧
    decode32 0b000101_01001_00110_00101_00100_01011_1 = .ok (.vor 4 5 6 .e16 1) ∧
    decode32 0b001010_01010_00110_00101_00100_01011_1 = .ok (.vxor 4 5 6 .e32 2) ∧
    decode32 0b001100_01011_00110_00101_00100_01011_1 = .ok (.vshl 4 5 6 .e8 3) ∧
    decode32 0b010001_01100_00110_00101_00100_01011_1 = .ok (.vshr 4 5 6 .e16 4) ∧
    decode32 0b010110_01101_00110_00101_00100_01011_1 = .ok (.vsra 4 5 6 .e32 5) ∧
    decode32 0b101101_01110_00111_00110_10101_01011_1 = .ok (.vcmp 5 6 7 .le .bf16 3) ∧
    decode32 0b000110_01111_00110_00101_00100_01011_1 = .ok (.vsel 4 5 6 .e32 1) ∧
    decode32 0b001001_10000_00000_00101_00100_01011_1 = .ok (.vbcast 4 5 .e16 2) ∧
    decode32 0b001100_10001_00110_00101_00100_01011_1 = .ok (.vperm 4 5 6 .e8 3) ∧
    decode32 0b010010_10010_00110_00101_00100_01011_1 = .ok (.vslide 4 5 6 .e32 4) ∧
    decode32 0b110110_10011_00000_00101_00100_01011_1 = .ok (.vredadd 4 5 .f32 5) ∧
    decode32 0b011001_10100_00000_00101_00100_01011_1 = .ok (.vredmax 4 5 .i16 6) ∧
    decode32 0b011100_10101_00000_00101_00100_01011_1 = .ok (.vredmin 4 5 .i8 7) ∧
    decode32 0b000001_10110_00000_00101_00100_01011_1 = .ok (.vmovsv 4 5 .e16 0) ∧
    decode32 0b000110_10111_00000_00101_00100_01011_1 = .ok (.vmovvs 4 5 .e32 1) ∧
    decode32 0b000000_11000_00011_00010_00001_01011_1 = .ok (.mand 1 2 3) ∧
    decode32 0b000000_11001_00110_00101_00100_01011_1 = .ok (.mor 4 5 6) ∧
    decode32 0b000000_11010_00000_00110_00111_01011_1 = .ok (.mnot 7 6) ∧
    decode32 0b000000_11011_00000_00011_11110_01011_1 = .ok (.mpop 30 3) := by decide

/-- 5 words of 32 bits (vector memory). -/
theorem test_decode_vector_memory :
    decode32 0b000100_00000_00000_01010_01001_01100_1 = .ok (.vld 9 10 .e8 1) ∧
    decode32 0b001001_00001_00000_01010_01001_01100_1 = .ok (.vst 9 10 .e16 2) ∧
    decode32 0b001110_00010_01011_01010_01001_01100_1 = .ok (.vlds 9 10 11 .e32 3) ∧
    decode32 0b010001_00011_01011_01010_01001_01100_1 = .ok (.vgather 9 10 11 .e16 4) ∧
    decode32 0b010100_00100_01011_01010_01001_01100_1 = .ok (.vscatter 9 10 11 .e8 5) := by decide

/-- 3 words of 32 bits (convert). -/
theorem test_decode_convert :
    decode32 0b010111_10100_00000_00010_00001_01101_1 = .ok (.vcvt 1 2 .bf16 .i32 .dyn) ∧
    decode32 0b110001_00101_00011_00010_01100_01101_1 = .ok (.vpack 2 3 .cw8 .f32 (.fixed .rtz) .auto true) ∧
    decode32 0b011100_10010_00000_00010_00001_01101_1 = .ok (.vunpack 1 2 .w4 .f16 (.fixed .rs)) := by decide

/-- 3 words of 32 bits (cordic). -/
theorem test_decode_cordic :
    decode32 0b000010_01111_00011_00010_00001_01110_1 = .ok (.vcord 1 2 3 .atan2 15) ∧
    decode32 0b011001_11111_00000_00010_00001_01110_1 = .ok (.scord 1 2 0 .recip 31) ∧
    decode32 0b100000_00000_00000_00000_01000_01110_1 = .ok (.rand 8) := by decide

/-- 8 words of 32 bits (handle). -/
theorem test_decode_handle :
    decode32 0b000000000000_0000_00011_00111_01111_1 = .ok (.hset 3 7) ∧
    decode32 0b111111111111_0001_01111_00000_01111_1 = .ok (.hwaitf 15 4095) ∧
    decode32 0b000000000001_0010_00010_00000_01111_1 = .ok (.hwaite 2 1) ∧
    decode32 0b000000001001_0011_00100_00001_01111_1 = .ok (.hadv 4 true 9) ∧
    decode32 0b000001100100_0100_00110_00101_01111_1 = .ok (.ldh 5 6 100) ∧
    decode32 0b000000000000_0101_00110_00101_01111_1 = .ok (.sth 5 6 0) ∧
    decode32 0b000000011111_0110_00010_01001_01111_1 = .ok (.sbind 7 2 9 true .e16) ∧
    decode32 0b000000000110_0111_00000_00000_01111_1 = .ok (.sunbind 6) := by decide

/-- 11 words of 32 bits (matrix). -/
theorem test_decode_matrix :
    decode32 0b00_1111_00100_00011_00010_00001_10000_1 = .ok (.mma 1 2 3 4 15) ∧
    decode32 0b01_0001_00100_00011_00010_00001_10000_1 = .ok (.mmat 1 2 3 4 1) ∧
    decode32 0b10_0000_00000_00000_01001_00000_10000_1 = .ok (.mzero 9) ∧
    decode32 0b000000_00000_00011_00010_00001_10001_1 = .ok (.lmap 1 2 3) ∧
    decode32 0b000010_00001_00011_00010_11100_10001_1 = .ok (.accrow 28 2 3 (.fixed .rup)) ∧
    decode32 0b001011_00010_00011_00010_00001_10001_1 = .ok (.bind 1 2 3 (.fixed .rdn) true) ∧
    decode32 0b000111_00011_00011_00010_00001_10001_1 = .ok (.accrd 1 2 3 .dyn) ∧
    decode32 0b000000_00100_00000_00010_00001_10001_1 = .ok (.accsp 1 2) ∧
    decode32 0b000000_00101_00000_00010_00001_10001_1 = .ok (.accfl 1 2) ∧
    decode32 0b000000_00110_00000_00000_00001_10001_1 = .ok (.mwait 1) ∧
    decode32 0b000000_00111_00000_00010_00001_10001_1 = .ok (.mpoll 1 2) := by decide

/-- 6 words of 32 bits (message). -/
theorem test_decode_message :
    decode32 0b0000_0000_000_00010_00001_00000_10010_1 = .ok (.send 1 2 .lane) ∧
    decode32 0b0001_0000_101_00010_00001_00000_10010_1 = .ok (.sendi 1 2 .dev) ∧
    decode32 0b0010_0011_000_00000_00100_00000_10010_1 = .ok (.cntwait 3 4) ∧
    decode32 0b0000_0000_000_00010_00001_00011_10011_1 = .ok (.mbxpost 1 2 3) ∧
    decode32 0b0001_0000_000_00000_00000_00100_10011_1 = .ok (.mbxtake 4) ∧
    decode32 0b0010_0000_000_00000_00101_00000_10011_1 = .ok (.mbxcfg 5) := by decide

/-- 6 words of 32 bits (engine). -/
theorem test_decode_engine :
    decode32 0b0000_0000_110_00011_00010_11110_10100_1 = .ok (.bcopy 30 2 3 .sys) ∧
    decode32 0b0001_0000_011_00101_00100_00010_10100_1 = .ok (.bconv 2 4 5 .clu) ∧
    decode32 0b0010_0000_000_00000_00110_00000_10100_1 = .ok (.bevict 6) ∧
    decode32 0b0011_0000_000_00000_00111_00000_10100_1 = .ok (.bwait 7) ∧
    decode32 0b0100_0001_100_00000_01000_00000_10100_1 = .ok (.engpush .brook 8 .die) ∧
    decode32 0b0101_0000_000_00000_00000_01001_10100_1 = .ok (.engpop .matrix 9) := by decide

/-- 8 words of 32 bits (task). -/
theorem test_decode_task :
    decode32 0b000000_00000_00000_00010_00001_10101_1 = .ok (.tspawn 1 2) ∧
    decode32 0b000000_00001_00011_00010_00001_10101_1 = .ok (.tspawnr 1 2 3) ∧
    decode32 0b000000_00010_00011_00010_00001_10101_1 = .ok (.tdep 1 2 3) ∧
    decode32 0b000000_00011_00000_00010_00001_10101_1 = .ok (.tdone 1 2) ∧
    decode32 0b000000_00100_00000_00010_00001_10101_1 = .ok (.ttile 1 2) ∧
    decode32 0b000000_00101_00011_00010_00001_10101_1 = .ok (.tnote 1 2 3) ∧
    decode32 0b000000_00110_00011_00010_00001_10101_1 = .ok (.tval 1 2 3) ∧
    decode32 0b000000_00111_00000_00010_00001_10101_1 = .ok (.tabort 1 2) := by decide

/-- 15 words of 32 bits (system). -/
theorem test_decode_system :
    decode32 0b000000_0000110111_00000_00000_10110_1 = .ok (.fence (.full .sys true)) ∧
    decode32 0b000000_0000000100_00000_00000_10110_1 = .ok (.fence .ionly) ∧
    decode32 0b000000_0000101010_00000_00000_10110_1 = .ok (.fence (.rel .dev false)) ∧
    decode32 0b000000_1000000001_00000_00000_10111_1 = .ok (.trap 513) ∧
    decode32 0b000001_0000000000_00000_00000_10111_1 = .ok (.tret) ∧
    decode32 0b000010_0000000000_00010_00001_10111_1 = .ok (.sleep 1 2) ∧
    decode32 0b000011_0000000000_00000_00011_10111_1 = .ok (.dtcr 3) ∧
    decode32 0b000100_0000000000_00000_00000_10111_1 = .ok (.nop) ∧
    decode32 0b000101_0000000000_00100_00000_10111_1 = .ok (.partset 4) ∧
    decode32 0b000110_0000000000_00101_00000_10111_1 = .ok (.lanegate 5) ∧
    decode32 0b000111_0000000001_00110_00000_10111_1 = .ok (.imgsave 6 true) ∧
    decode32 0b001000_0000000000_00111_00000_10111_1 = .ok (.imgload 7) ∧
    decode32 0b000000100101_0000_00000_00001_11000_1 = .ok (.crr 1 0x025) ∧
    decode32 0b000001000111_0001_00010_00000_11000_1 = .ok (.crw 2 0x047) ∧
    decode32 0b000000_1111111111_00000_00000_11001_1 = .ok (.bkpt 1023) := by decide

/-- The compact forms. -/
theorem test_decode_compact :
    decode16 0b0_00100_00011_0001_0 = .ok (.addCompactS0 3 4) ∧
    decode16 0b1_00100_00011_0001_0 = .ok (.addCompact 3 4) ∧
    decode16 0b0_00100_00011_0010_0 = .ok (.subCompact 3 4) ∧
    decode16 0b1_00100_00011_0010_0 = .ok (.andCompact 3 4) ∧
    decode16 0b0_00100_00011_0011_0 = .ok (.orCompact 3 4) ∧
    decode16 0b1_00100_00011_0011_0 = .ok (.xorCompact 3 4) ∧
    decode16 0b100000_00101_0100_0 = .ok (.addiCompactS0 5 (-32)) ∧
    decode16 0b111101_00101_0101_0 = .ok (.addiCompact 5 (-3)) ∧
    decode16 0b111111_00101_0110_0 = .ok (.shliCompact 5 63) ∧
    decode16 0b000001_00101_0111_0 = .ok (.sraiCompact 5 1) ∧
    decode16 0b11111_010_001_1000_0 = .ok (.ldCompact 1 2 31) ∧
    decode16 0b00001_000_111_1001_0 = .ok (.stCompact 7 0 1) ∧
    decode16 0b111111_00110_1010_0 = .ok (.beqCompact 6 63) ∧
    decode16 0b000001_00110_1011_0 = .ok (.bneCompact 6 1) ∧
    decode16 0b10000000000_1100_0 = .ok (.jalCompact (-1024)) ∧
    decode16 0b0_00001_00000_1101_0 = .ok (.jalrCompact 1) ∧
    decode16 0b1_00000_00000_1101_0 = .ok (.endhCompact) ∧
    decode16 0b00100_011_010_1110_0 = .ok (.ldfCompact 2 3 4) := by decide

/-- Fields outside their rules are refused (R61, R63, R64, R66, R70). -/
theorem test_decode_refused :
    decode32 0b000000_11100_00011_00010_00001_00100_1 = .error .illegal ∧
    decode32 0b000001_00000_00011_00010_00001_00100_1 = .error .illegal ∧
    decode32 0b0000_101_00_0_000000_00010_00001_00010_1 = .error .illegal ∧
    decode32 0b0010_111_01_0_000000_00010_00001_00010_1 = .error .illegal ∧
    decode32 0b000000_00000_00000_00000_00000_11010_1 = .error .reserved ∧
    decode32 0b111111_11111_11111_11111_11111_11111_1 = .error .reserved ∧
    decode32 0b000000000000_1001_00001_00001_00101_1 = .error .illegal := by decide

/-- Inline code (R69): the subset, and what lies outside it. -/
theorem test_decode_inline :
    decodeInline 0b1_00000_00000_1101_0 = .ok .endhCompact ∧ decodeInline 0b0_00001_00000_1101_0 = .error .illegal ∧
    decodeInline 0b00000000001_1100_0 = .ok (.jalCompact 1) ∧ decodeInline 0b00000000000_1100_0 = .error .illegal ∧
    decodeInline 0b10000000000_1100_0 = .error .illegal ∧ decodeInline 0b00000000000_1111_0 = .error .illegal := by decide

/-- Words as the opcode table numbers their bits. -/
theorem test_decode_table_word :
    decodeTableWord 16 0xF4AA = some (.addiCompact 5 (-3)) ∧ decodeTableWord 32 0b000000_00000_00011_00010_00001_00100_1 = some (.add 1 2 3) ∧
    decodeTableWord 16 0 = none := by decide

/-! Encodings that the text of the spec writes out as whole words. -/

/-- The examples of R63, R85 to R89, R94, R95, R101, R103, R104, R108, R110. -/
theorem test_worked_words_scalar_memory :
    decode32 0x00073149 = .ok (.add 5 6 7) ∧ decode32 0x00C24901 = .ok (.ldM 4 9 2 6) ∧
    decode32 0x0AC549C5 = .ok (.ldA 7 9 5 true (some .dev)) ∧ decode32 0x002A002D = .ok (.fence (.rel .dev false)) ∧
    decode32 0x0004002D = .ok (.fence .ionly) ∧ decode32 0x4B004805 = .ok (.ste 0 9 (some .dev)) ∧
    decode32 0x8000BC05 = .ok (.spillm 16 23 false) ∧ decode32 0x04074187 = .ok (.amoadd 6 8 7 true .relaxed) ∧
    decode32 0xC0001A4D = .ok (.lui 9 3 false 0xC000) ∧ decode32 0x8000224D = .ok (.lui 9 0 true 0x8000) ∧
    decode32 0x080A4B4F = .ok (.eaddr 13 9 10 2) ∧ decode32 0xFFD25A91 = .ok (.blt 10 11 0x1FFA) ∧
    decode32 0xFFE15815 = .ok (.loop 11 0xFFE) ∧ decode32 0x0027CEC1 = .ok (.ldM 27 25 7 1) ∧
    decode32 0x049CEF87 = .ok (.amomin 30 29 28 true .relaxed) ∧ decode32 0xBC0270C7 = .ok (.amoadd 3 14 2 true (.acqRel .dev)) ∧
    decode32 0x01D218C9 = .ok (.remu 3 3 18) ∧ decode32 0x70004005 = .ok (.reclaim 8 none) ∧
    decode32 0x2A8038C5 = .ok (.ldf 3 7 (some .dev)) ∧ decode32 0xB5518007 = .ok (.redadd 16 17 true (some .dev)) := by decide

/-- The examples of R118, R125 to R133, R136, R139, R153 to R163, R173 to R177, R186, R192 to R197, and of the programs. -/
theorem test_worked_words_rest :
    decode32 0x8804C7D7 = .ok (.vadd 31 24 4 .f32 0) ∧ decode32 0xC1A9401B = .ok (.vpack 8 9 .w4 .f32 (.fixed .rne) (.cb 0) false) ∧
    decode32 0xC28010DB = .ok (.vcvt 3 2 .bf16 .f32 (.fixed .rne)) ∧ decode32 0x0041181F = .ok (.hwaitf 3 4) ∧
    decode32 0x0206129F = .ok (.sbind 0 2 10 false .e32) ∧ decode32 0x0DE0315D = .ok (.vcord 5 6 0 .exp 15) ∧
    decode32 0x8000031D = .ok (.rand 12) ∧ decode32 0x0DCD62A1 = .ok (.mma 10 12 13 14 3) ∧
    decode32 0x0055A4A3 = .ok (.bind 18 20 21 (.fixed .rne) false) ∧ decode32 0x00764023 = .ok (.accrd 0 8 22 (.fixed .rne)) ∧
    decode32 0x00283823 = .ok (.accrow 0 7 8 (.fixed .rne)) ∧ decode32 0x204E6BE3 = .ok (.bind 15 13 14 (.fixed .rne) true) ∧
    decode32 0x10A73025 = .ok (.sendi 6 7 .dev) ∧ decode32 0x00AEC025 = .ok (.send 24 14 .dev) ∧
    decode32 0x22004825 = .ok (.cntwait 2 9) ∧ decode32 0x000B5327 = .ok (.mbxpost 10 11 12) ∧ decode32 0x10000367 = .ok (.mbxtake 13) ∧
    decode32 0x006074A9 = .ok (.bcopy 18 14 0 .clu) ∧ decode32 0x00398CEB = .ok (.tspawnr 19 17 25) ∧
    decode32 0x08009CAF = .ok (.sleep 18 19) ∧ decode32 0x0400002F = .ok .tret ∧ decode32 0x0005002F = .ok (.trap 5) ∧
    decode32 0x1000002F = .ok .nop ∧ decode32 0x00010033 = .ok (.bkpt 1) ∧ decode32 0x02414831 = .ok (.crw 9 0x024) ∧
    decode32 0x1800482F = .ok (.lanegate 9) ∧ decode32 0x0C00022F = .ok (.dtcr 8) := by decide

/-! Single steps on a small state: a running lane 0 of core 0 after reset. Expected values are the spec's own, or follow by hand from
the rule named. -/

/-- Lane 0 of core 0, running at local address 0, changed by `f`. -/
def here (f : Lane → Lane) : State := State.reset.setLane (f { State.reset.lane with run := .running, pc := 0xC000000000010000 })

/-- The same with scalar registers 1, 2 and 3 set. -/
def regs (x y z : Word) : State := here (fun l => ((l.setS 1 x).setS 2 y).setS 3 z)

/-- What a next state shows. -/
def got {α : Type} (o : Host.Outcome State Fault Refusal) (f : State → α) : Option α :=
  match o with
  | .next t => some (f t)
  | _ => none

/-- Local raw bit address of byte offset `n`. -/
def rawAt (n : Nat) : Word := BitVec.ofNat 64 (0xC000000000000000 + 8 * n)

/-- The word at byte offset `n` of the scratchpad of core 0. -/
def spad (t : State) (n : Nat) : Word := t.peek (rawByte 0 (8 * n))

/-- `s` with a word stored in that scratchpad. -/
def withSpad (s : State) (n : Nat) (x : Word) : State := s.poke (rawByte 0 (8 * n)) x 0

def s3 (t : State) : Word := t.s 3
def pcOf (t : State) : Word := t.lane.pc
def cause (t : State) : BitVec 8 × Word := (t.lane.trapcause, t.lane.trapval)

/-- R82: sums wrap modulo 2^64. -/
theorem test_add_wraps : got (exec (.add 3 1 2) (regs (-1) 2 0)) s3 = some 1 := by decide
/-- R82: a difference below 0 wraps. -/
theorem test_sub_wraps : got (exec (.sub 3 1 2) (regs 1 2 0)) s3 = some 0xFFFFFFFFFFFFFFFF := by decide
/-- R82: only six bits of a shift amount count. -/
theorem test_shl_65 : got (exec (.shl 3 1 2) (regs 3 65 0)) s3 = some 6 := by decide
/-- R82: SRA floors. -/
theorem test_sra_floors : got (exec (.sra 3 1 2) (regs (-3) 1 0)) s3 = some (-2) := by decide
/-- R82: (−1) × (−1) = 1 has high half 0; unsigned it is 2^64 − 2. -/
theorem test_mulh_signed : got (exec (.mulh 3 1 2) (regs (-1) (-1) 0)) s3 = some 0 ∧
    got (exec (.mulhu 3 1 2) (regs (-1) (-1) 0)) s3 = some (-2) := by decide
/-- The table of R83. -/
theorem test_division_table : got (exec (.div 3 1 2) (regs 7 (-2) 0)) s3 = some (-3) ∧ got (exec (.rem 3 1 2) (regs (-7) 2 0)) s3 = some (-1) ∧
    got (exec (.div 3 1 2) (regs 5 0 0)) s3 = some (-1) ∧ got (exec (.remu 3 1 2) (regs 5 0 0)) s3 = some 5 ∧
    got (exec (.div 3 1 2) (regs 0x8000000000000000 (-1) 0)) s3 = some 0x8000000000000000 := by decide
/-- R83: REM of −2^63 by −1 is 0, and DIVU by 0 is all ones. -/
theorem test_division_corners : got (exec (.rem 3 1 2) (regs 0x8000000000000000 (-1) 0)) s3 = some 0 ∧
    got (exec (.divu 3 1 2) (regs 5 0 0)) s3 = some 0xFFFFFFFFFFFFFFFF := by decide
/-- R82: signed and unsigned comparisons differ on −1 and 1. -/
theorem test_compare_sign : got (exec (.slt 3 1 2) (regs (-1) 1 0)) s3 = some 1 ∧ got (exec (.sltu 3 1 2) (regs (-1) 1 0)) s3 = some 0 ∧
    got (exec (.max 3 1 2) (regs (-1) 1 0)) s3 = some 1 ∧ got (exec (.maxu 3 1 2) (regs (-1) 1 0)) s3 = some (-1) := by decide
/-- R82: counts of zero bits at 0 and at one end. -/
theorem test_counts : got (exec (.clz 3 1) (regs 0 0 0)) s3 = some 64 ∧ got (exec (.ctz 3 1) (regs 0x8000000000000000 0 0)) s3 = some 63 ∧
    got (exec (.popc 3 1) (regs (-1) 0 0)) s3 = some 64 := by decide
/-- The example of R84. -/
theorem test_bext_example : got (exec (.bext 3 1 2 5) (regs 0x3A80 6 0)) s3 = some 0x2A := by decide
/-- R84: BINS drops field bits above bit 63 and keeps the rest of s[d]. -/
theorem test_bins_top : got (exec (.bins 3 1 2 7) (regs 0xFF 60 0x123)) s3 = some 0xF000000000000123 := by decide
/-- R84: the sign of a field. -/
theorem test_sext : got (exec (.sext 3 1 5) (regs 0x2C 0 0)) s3 = some (-20) ∧ got (exec (.zext 3 1 5) (regs 0xFC 0 0)) s3 = some 0x3C := by decide
/-- R85: the immediate is signed. -/
theorem test_addi_negative : got (exec (.addi 3 1 0xFFF) (regs 0 0 0)) s3 = some (-1) := by decide
/-- R86: `li s9, win(raw, 0x8000)` of R77. -/
theorem test_lui_pair : got (exec (.lui 3 3 false 0xC000) (regs 0 0 5)) s3 = some 0xC000000000000000 ∧
    got (exec (.lui 3 0 true 0x8000) (regs 0 0 0xC000000000000000)) s3 = some 0xC000000000008000 := by decide
/-- The table of R89. -/
theorem test_eaddr_table : got (exec (.eaddr 3 1 2 2) (regs 0xC000000000100000 50 0)) s3 = some 0xC000000000100098 ∧
    got (exec (.eaddr 3 1 2 3) (regs 0xC000000000100008 0 0)) cause = some (4, 0xC000000000100008) := by decide
/-- The table of R89. -/
theorem test_ediff_table : got (exec (.ediff 3 1 2 5) (regs 0xC000000000100000 0xC0000000001000EA 0)) s3 = some 37 ∧
    got (exec (.ediff 3 1 2 2) (regs 0xC000000000100000 0xC00000000010003F 0)) cause = some (4, 0xC00000000010003F) ∧
    got (exec (.ediff 3 1 2 5) (regs 0xC000000000100000 0xC000000000100168 0)) cause = some (4, 0xC000000000100168) := by decide
/-- R90: BALIGN rounds up, WADDR rounds down. -/
theorem test_align : got (exec (.balign 3 1 8) (regs 257 0 0)) s3 = some 512 ∧ got (exec (.waddr 3 1) (regs 127 0 0)) s3 = some 64 := by decide
/-- The example of R91, on core (5,3,0) = 10264. -/
theorem test_gaddr_example : got (exec (.gaddr 3 1) (let s : State := { State.reset with cur := ⟨10264, 0⟩ }
    s.setLane (s.lane.setS 1 0xC000000000100100))) s3 = some 0x80140D0000000100 := by decide
/-- R94: a taken branch of −6 parcels, and one not taken. -/
theorem test_branch : got (exec (.blt 1 2 0x1FFA) (regs (-1) 0 0)) pcOf = some (0xC000000000010000 - 96) ∧
    got (exec (.bltu 1 2 0x1FFA) (regs (-1) 0 0)) pcOf = some (0xC000000000010000 + 32) := by decide
/-- R94: JALR reads its base before it writes the link, and a misaligned target traps. -/
theorem test_jalr : got (exec (.jalr 1 1 0) (regs 0xC000000000020000 0 0)) (fun t => (t.s 1, pcOf t)) =
      some (0xC000000000010020, 0xC000000000020000) ∧
    got (exec (.jalr 3 1 0) (regs 0xC000000000020008 0 0)) cause = some (4, 0xC000000000020008) := by decide
/-- R95: counts 1 and 0 both fall through, and 0 stays 0. -/
theorem test_loop_ends : got (exec (.loop 1 0xFFE) (regs 1 0 0)) (fun t => (t.s 1, pcOf t)) = some (0, 0xC000000000010020) ∧
    got (exec (.loop 1 0xFFE) (regs 0 0 0)) (fun t => (t.s 1, pcOf t)) = some (0, 0xC000000000010020) ∧
    got (exec (.loop 1 0xFFE) (regs 2 0 0)) (fun t => (t.s 1, pcOf t)) = some (1, 0xC00000000000FFE0) := by decide

/-- The example of R101: bits 47:42 equal to 0b101100 load as −20. -/
theorem test_load_signed : got (exec (.ldA 3 1 5 true (some .dev)) (withSpad (regs (rawAt 0x8000 + 42) 0 0) 0x8000 (0b101100 * 2 ^ 42))) s3 =
    some (-20) := by decide
/-- R24, R101: 6 bits at bit 60 do not fit the word. -/
theorem test_load_straddles : got (exec (.ldA 3 1 5 false none) (regs (rawAt 0x8000 + 60) 0 0)) cause = some (4, rawAt 0x8000 + 60) := by decide
/-- R26, R101: a narrow store of 4 bits at bit 4 is posted with its mask, and leaves memory to the home. -/
theorem test_store_posts : got (exec (.stA 2 1 3 none) (withSpad (regs (rawAt 0x8000 + 4) 0xAB 0) 0x8000 0xFFFF))
    (fun t => (t.inflight.map (fun p => p.op), spad t 0x8000)) = some ([.store 0xF0 0xB0], 0xFFFF) := by decide
/-- R104: STE on a free word fills it, then LDF takes the word and frees it. -/
theorem test_ste_fills : got (exec (.ste 2 1 none) (regs (rawAt 0x8000) 77 0)) (fun t => (spad t 0x8000, t.tag (rawByte 0 0x40000))) =
    some (77, 1) := by decide
/-- R104, R106: LDF on an EMPTY word waits at the home with STALL 1. -/
theorem test_ldf_waits : got (exec (.ldf 3 1 none) (regs (rawAt 0x8000) 0 0)) (fun t => (t.lane.stall, t.parked)) = some (1, [⟨0, 0⟩]) := by decide
/-- R110: AMOADD at width 32 wraps within its half and answers the old value. -/
theorem test_amo32 : got (exec (.amoadd 3 1 2 false .relaxed) (withSpad (regs (rawAt 0x8000) 1 0) 0x8000 0x5FFFFFFFF))
    (fun t => (t.s 3 &&& 0xFFFFFFFF, spad t 0x8000)) = some (0xFFFFFFFF, 0x500000000) := by decide
/-- R110: AMOCAS compares with s[d]. -/
theorem test_amocas : got (exec (.amocas 3 1 2 true .relaxed) (withSpad (regs (rawAt 0x8000) 9 7) 0x8000 7))
      (fun t => (t.s 3, spad t 0x8000)) = some (7, 9) ∧
    got (exec (.amocas 3 1 2 true .relaxed) (withSpad (regs (rawAt 0x8000) 9 6) 0x8000 7)) (fun t => (t.s 3, spad t 0x8000)) = some (7, 7) := by decide

/-- Vector registers v1 and v2, and mask m1. -/
def vregs (x y : VWord) (m : BitVec 32) : State := here (fun l => ((l.setV 1 x).setV 2 y).setM 1 m)

/-- R118: sums of bytes wrap each on its own, and elements that the mask leaves out keep their value. -/
theorem test_vadd_mask : got (exec (.vadd 3 1 2 .i8 1) (vregs 0xFFFFFF 0x020202 0b101)) (fun t => vget (t.lane.v 3) 32 0) =
    some 0x010001 := by decide
/-- R29, R118: 1.5 + 2.25 = 3.75 in F32. -/
theorem test_vadd_float : got (exec (.vadd 3 1 2 .f32 0) (vregs 0x3FC00000 0x40100000 0)) (fun t => vget (t.lane.v 3) 32 0) =
    some 0x40700000 := by decide
/-- R119: −1 < 1 as signed and not as unsigned bytes. -/
theorem test_vcmp : got (exec (.vcmp 2 1 2 .lt .i8 0) (vregs 0xFF 1 0)) (fun t => t.lane.m 2 &&& 1) = some 1 ∧
    got (exec (.vcmp 2 1 2 .ltu .i8 0) (vregs 0xFF 1 0)) (fun t => t.lane.m 2 &&& 1) = some 0 := by decide
/-- The worked stochastic rounding of R125. -/
theorem test_vcvt_stochastic : got (exec (.vcvt 3 1 .bf16 .f32 (.fixed .rs)) (here (fun l => { l.setV 1 0x3F80F000 with rseed := 0x40822041 })))
    (fun t => (vget (t.lane.v 3) 16 0, vget (t.lane.v 3) 16 8)) = some (0x3F81, 0) := by decide
/-- R32 to R46: the W4 block of 12, −2, 6 and 1, as VPACK writes its header and its sign plane. -/
theorem test_vpack_block : got (exec (.vpack 4 1 .w4 .f32 (.fixed .rne) (.cb 0) false)
    (here (fun l => (l.setS 1 (rawAt 0x8000)).setV 4 (0x41400000 + 0xC0000000 * 2 ^ 32 + 0x40C00000 * 2 ^ 64 + 0x3F800000 * 2 ^ 96))))
    (fun t => t.inflight.map (fun p => match p.op with
      | .store m d => (p.pa - rawByte 0 0x40000, m, d)
      | _ => (0, 0, 0))) =
    some [(0, -1, 0x203400E02), (8, -1, 0x50000000D), (16, 0xFFFFFFFF, 3)] := by decide +kernel
/-- R138: sqrt of a number below 0 is a NaN. -/
theorem test_sqrt_negative : got (exec (.scord 3 1 0 .sqrt 31) (regs 0xBF800000 0 0)) s3 = some 0x7FC00000 := by decide
/-- R138: exp(−infinity) is +0. -/
theorem test_exp_minus_infinity : got (exec (.scord 3 1 0 .exp 31) (regs 0xFF800000 0 0)) s3 = some 0 := by decide
/-- R50: a handle of no slot width is invalid and traps at its use. -/
theorem test_hadv_invalid : got (exec (.hadv 3 false 1) (regs 0 0 0)) (fun t => t.lane.trapcause) = some 0x11 := by decide
/-- R142, R153: the first matrix job of a core has id 1. -/
theorem test_mzero_enters : got (exec (.mzero 1) (regs 9 0 0)) (fun t => ((t.core 0).mq.map (fun j => j.id), (t.core 0).mnext)) = some ([1], 2) := by decide
/-- The message of R198 and R56, from core (5,3,2) to lane 1 of core (328,16,0), with PTAG 0 in place of 3. -/
theorem test_send_header : got (exec (.send 1 2 .dev) (let s : State := { State.reset with cur := ⟨10266, 0⟩ }
    s.setLane { ((s.lane.setS 1 0x00000020025A4080).setS 2 (rawAt 0x8000)) with run := .running }))
    (fun t => t.lane.sendq.map (fun m => (m.headD 0, m.length))) = some [(0x00140D20025A4080, 12)] := by decide
/-- R176, R54: a take from an empty mailbox waits with STALL 7. -/
theorem test_mbxtake_empty : got (exec (.mbxtake 3) (regs 0 0 0)) (fun t => (t.lane.run, t.lane.stall)) = some (.stalled, 7) := by decide
/-- R192, R193: TRAP E takes SOFTWARE with E, and parks without a handler. -/
theorem test_trap : got (exec (.trap 5) (regs 0 0 0)) (fun t => (cause t, t.lane.run, t.lane.trappc)) =
    some ((0x13, 5), .parked, 0xC000000000010000) := by decide
/-- R192: TRET resumes at TRAPPC and leaves the handler. -/
theorem test_tret : got (exec .tret (here (fun l => { l with intrap := true, trappc := 0xC000000000020000 })))
    (fun t => (pcOf t, t.lane.intrap)) = some (0xC000000000020000, false) := by decide
/-- R70, R195: PARTSET without SUP raises PRIVILEGE with the instruction. -/
theorem test_privilege : got (exec (.partset 1) (regs 0 0 0)) (fun t => t.lane.trapcause) = some 3 := by decide
/-- R52: HANDLERBASE holds what CRW writes but for the bits its rule forces to 0. -/
theorem test_crw_handlerbase : got (exec (.crw 1 0x024) (here (fun l => { l.setS 1 0x8000000000001FFF with sup := true })))
    (fun t => t.lane.handlerbase) = some 0x8000000000001000 := by decide

/-- The rectangle of R288: logical core 2,058 is physical core 673,930, and lane 1 is not in LM. -/
theorem test_rectangle : (Rect.ofWord 0x8FF8080442900000).covers 2058 = true ∧ (Rect.ofWord 0x8FF8080442900000).toPhys 2058 = 673930 ∧
    (Rect.ofWord 0x8FF8080442900000).toLog 673930 = 2058 := by decide

/-- The example of R139: from RSEED = 1, the reset value of lane 0 of core 0. -/
theorem test_rand_example : got (exec (.rand 3) (here id)) (fun t => (t.s 3, t.lane.rseed)) = some (0x40822041, 0x40822041) := by decide

/-- Partitions 1 and 2 defined, with shares of 6,000 W and 2,400 W and effective shares `e1` and `e2`, that have drawn `d1` and `d2` watts
over the period of 16 µs. -/
def twoShares (e1 e2 d1 d2 : Nat) : State := { State.reset with
  parts := [(1, { Part.reset with live := { PartCfg.reset with v := true } }), (2, { Part.reset with live := { PartCfg.reset with v := true } })]
  shares := [(1, ⟨6000, 0, e1, false, true, false, 0⟩), (2, ⟨2400, 0, e2, false, true, false, 0⟩)]
  dies := [(0, { Die.reset with accj := [(1, BitVec.ofNat 64 (16 * d1)), (2, BitVec.ofNat 64 (16 * d2))] }),
    (32, { Die.reset with dtc := 1000 })] }

/-- The worked reclaim of R320. -/
theorem test_power_reclaim : got (exec (.powerPeriod 1) (twoShares 6000 2400 2000 2400)) (fun t => ((t.share 1).eff, (t.share 2).eff)) =
      some (2375, 6025) ∧
    got (exec (.powerPeriod 1) (twoShares 2375 6025 2600 5900)) (fun t => ((t.share 1).eff, (t.share 2).eff)) =
      some (6000, 2400) := by decide

/-! For every statement with hypotheses, concrete states and operands that meet them. Lane 0 of core 0 moves unless a state says
otherwise. -/

/-- The ordinary case of an access through the local raw window, as one test. -/
def State.rawPlain (s : State) (a : Word) (w off : Nat) : Bool :=
  decide (decodeWindow a = some (.raw off)) && Machine.aligned a w && s.inflight.isEmpty && s.dropped.isEmpty && s.unc.isEmpty &&
    s.corr.isEmpty && s.myCore.dbg.wpcfg == 0 && s.linksClear

theorem plain_raw {s : State} {a : Word} {w off : Nat} {read : Bool} (h : Tests.State.rawPlain s a w off = true) :
    s.plain a w (.raw off) read := by
  simp only [State.rawPlain, Bool.and_eq_true, decide_eq_true_eq, List.isEmpty_iff, beq_iff_eq] at h
  obtain ⟨⟨⟨⟨⟨⟨⟨h1, h2⟩, h3⟩, h4⟩, h5⟩, h6⟩, h7⟩, h8⟩ := h
  exact ⟨h1, rfl, h2, .inl ⟨off, rfl⟩, ⟨h3, h4, h8⟩, by simp [State.clean, h5, h6], h7⟩

theorem witness_DecodeEncode : Instr.nop.wf = true ∧ encode .nop = some (32, 0x1000002F) := by decide

theorem witness_EncodeDecode : decode32 0xFFE15815 = .ok (.loop 11 0xFFE) ∧ decode16 0xF4AA = .ok (.addiCompact 5 (-3)) := by decide

/-- A state that lists a byte of memory and a tag, with an idle lane to move. -/
def listed : State := { State.reset with mem := [(5, 1)], tags := [(8, 1)], agenda := [.lane 1 0] }

theorem witness_StepKeepsMemoryForm : listed.memoryOk ∧ ∃ t, step listed = .next t :=
  ⟨⟨by decide, by decide, by decide⟩, _, rfl⟩

/-- Lane 0 of core 0 about to fetch NOP. -/
def nopDue : State := State.reset.withFetchWord 32 0x1000002F

theorem witness_StepRunsDecoded : nopDue.powered = true ∧ laneExists ⟨0, 0⟩ = true ∧ nopDue.caughtUp.starting = false ∧
    nopDue.caughtUp.agenda = [.lane 0 0] ∧ (nopDue.caughtUp.turnOf 0 0 []).plan = .fetch ∧ ∃ t u : State,
    (((nopDue.caughtUp.turnOf 0 0 []).watchTick ⟨0, 0⟩).keepWait true).fetchInstr ⟨0, 0⟩ = .ok (t, 0x1000002F) ∧
    (((nopDue.caughtUp.turnOf 0 0 []).watchTick ⟨0, 0⟩).keepWait true).lane.decode 0x1000002F = .ok .nop ∧ (t.endSpv .nop).afterFence .nop = .ok u :=
  ⟨rfl, by decide, by decide, rfl, by decide, _, _, rfl, by decide, rfl⟩

/-! Lane events. -/

/-- The tick counter of die 0 at `n`. -/
def atTick (s : State) (n : Word) : State := { s with dies := [(0, { Die.reset with dtc := n })] }

def faulted : State := here (fun l => { l with due := [.jobFault 0x0E 1 []] })
def watched : State := here (fun l => { l with wen := true, wlimit := 1, wcount := 1 })
def slept (j : Word) : State :=
  let s : State := atTick (here (fun l => { l.setS 3 j with waiting := some (.sleep 3 1), run := .stalled })) 1
  s.setMyCore { s.myCore with bq := [⟨5, 0, 0, 0, 0, 0, .rne, false, 0, 0, 0, false⟩] }
def answered : State := here (fun l => { l with waiting := some (.ldf 3 1 none), run := .stalled, req := some ⟨rawByte 0 0x40000, .ldf 3 32, .answered 9⟩ })
def resent (t : BitVec 4) : State := (here (fun l => { l with req := some ⟨rawByte 0 0x40000, .ldf 3 32, .sent⟩ })).setTag (rawByte 0 0x40000) t

/-- A message of class 9 in the ring of idle lane 0, with a handler table whose entry of that class is `y`. -/
def ringed (y : Word) : State :=
  withSpad (State.reset.setLane { State.reset.lane with handlerbase := rawAt 0x8000, ring := [⟨0, 1, BitVec.ofNat 64 (9 * 2 ^ 22), 0, none, 0, 0, ⟨5, none⟩⟩] })
    (0x8000 + 72) y

theorem witness_LaneEventResults_traps :
    (∀ s, s = faulted ∨ s = watched ∨ s = slept 0 ∨ s = answered ∨ s = resent 0 ∨ s = ringed 0 → s.untraced ⟨0, 0⟩) ∧
    faulted.lane.due = [.jobFault 0x0E 1 []] ∧ faulted.free faulted.lane = true ∧ faulted.lane.run = .running ∧
    watched.lane.wen = true ∧ watched.free watched.lane = true ∧ watched.lane.run = .running ∧ watched.lane.answer = none ∧
    1 ≤ watched.lane.wcount.toNat := by
  refine ⟨?_, rfl, rfl, rfl, rfl, rfl, rfl, rfl, by decide⟩
  rintro s (rfl | rfl | rfl | rfl | rfl | rfl) <;> rfl

theorem witness_LaneEventResults_sleep : ∀ j : Word, j = 0 ∨ j = 5 →
    (slept j).lane.waiting = some (.sleep 3 1) ∧ (slept j).lane.run = .stalled ∧ (slept j).free (slept j).lane = true ∧ (slept j).lane.due = [] ∧
    ((slept j).lane.s 1).toNat < ((slept j).die (dieOf 0)).dtc.toNat ∧ ((slept j).lane.s 3).toNat % 2 ^ 32 = j.toNat ∧
    (j = 5 → (slept j).brookDone 5 = false) := by
  rintro j (rfl | rfl) <;> decide

theorem witness_LaneEventResults_answer : answered.lane.req = some ⟨rawByte 0 0x40000, .ldf 3 32, .answered 9⟩ ∧
    answered.lane.waiting = some (.ldf 3 1 none) ∧ answered.lane.run = .stalled ∧ answered.free answered.lane = true := by decide

theorem witness_LaneEventResults_reissue : ∀ t : BitVec 4, t = 0 ∨ t = 1 →
    (resent t).lane.req = some ⟨rawByte 0 0x40000, .ldf 3 32, .sent⟩ ∧ (resent t).settled ∧ (resent t).parked = [] ∧
    (resent t).clean (rawByte 0 0x40000) ∧ (resent t).tag (rawByte 0 0x40000) = t := by
  rintro t (rfl | rfl) <;> refine ⟨rfl, ⟨rfl, rfl, rfl⟩, rfl, ?_, ?_⟩ <;> first | decide | exact ⟨by decide, by decide⟩

theorem witness_LaneEventResults_dispatch : ∀ y : Word, y = 0 ∨ y = 0xC000000000010000 →
    (ringed y).lane.ring = [⟨0, 1, BitVec.ofNat 64 (9 * 2 ^ 22), 0, none, 0, 0, ⟨5, none⟩⟩] ∧ (ringed y).lane.run = .idle ∧
    (ringed y).free (ringed y).lane = true ∧ (ringed y).lane.due = [] ∧ (ringed y).mgmt.unrep.contains 0 = false ∧ 0 ≠ Config.mgmtCore ∧
    (ringed y).tableEntry ⟨0, 0⟩ 9 = .ok (ringed y, y) ∧ (ringed y).unc = [] ∧ (ringed y).corr = [] := by
  rintro y (rfl | rfl) <;> exact ⟨rfl, rfl, by decide, rfl, by decide, by decide, rfl, rfl, rfl⟩

theorem witness_LaneEventResults_fetch : (here (fun l => { l with pc := 0xFFFFFFFFFFFFFFF0 })).lane.ahead = none ∧
    decodeWindow 0xFFFFFFFFFFFFFFF0 = none ∧ decode32 0xFFFFFFFF = .error .reserved ∧ decode32 0x03831049 = .error .illegal ∧
    decode16 0 = .error .illegal ∧ decode16 0x1E = .error .reserved ∧ (here id).lane.inl = false := by decide

/-! Homes, device registers. -/

/-- A partition 1 with translation on, its root table at page 1. -/
def mapped : Part := { Part.reset with live := { PartCfg.reset with v := true, xv := true, sid := 7, ppn := 1 } }

/-- One leaf at level 4 for virtual address 0: readable, writable, executable, for U mode. -/
def tabled (x : Byte) : State := { State.reset with parts := [(1, mapped)], mem := if x = 0 then [] else [(0x1000, x)] }

theorem witness_HomeEventResults_read : ∀ t : BitVec 4, t = 0 ∨ t = 1 →
    let s : State := { (here (fun l => { l with req := some ⟨rawByte 0 0x40000, .ldf 3 32, .held⟩ })).setTag (rawByte 0 0x40000) t with parked := [⟨0, 0⟩] }
    s.lane.req = some ⟨rawByte 0 0x40000, .ldf 3 32, .held⟩ ∧ s.parked = [⟨0, 0⟩] ∧ s.clean (rawByte 0 0x40000) ∧ s.tag (rawByte 0 0x40000) = t := by
  rintro t (rfl | rfl) <;> exact ⟨rfl, rfl, ⟨by decide, by decide⟩, by decide⟩

theorem witness_HomeEventResults_host : (∀ w : Nat, w = 8 ∨ w = 16 ∨ w = 32 ∨ w = 64 → 8 * 8 % w = 0) ∧ homeOf (8 / 8 * 8) ≠ .none ∧
    State.reset.clean (8 / 8 * 8) ∧ hostPageOff (8 / 8 * 8) = none ∧ imsicFile (8 / 8 * 8) = none ∧ 8 < Config.mgmtSpadBase ∧
    State.reset.mgmt.safe = false ∧ hostPageOff Config.mgmtSpadBase = none ∧ imsicFile Config.mgmtSpadBase = none ∧
    ({ State.reset with mgmt := { Mgmt.reset with safe := true } } : State).mgmt.safe = true := by
  refine ⟨?_, by decide, ⟨by decide, by decide⟩, by decide⟩
  rintro w (rfl | rfl | rfl | rfl) <;> rfl

/-- A narrow access of the partition control area, and a misaligned one of the scratchpads. -/
theorem witness_HomeEventResults_refused : State.reset.linksClear = true ∧ (∃ o, homeOf ((Config.cohBase + Config.globalOff) / 8 * 8) = .control o) ∧ (32 : Nat) ≠ 64 ∧
    (Config.cohBase + Config.globalOff) * 8 % 32 = 0 ∧ hostPageOff ((Config.cohBase + Config.globalOff) / 8 * 8) = none ∧ imsicFile ((Config.cohBase + Config.globalOff) / 8 * 8) = none ∧
    (Config.spadBase + 1) * 8 % 16 ≠ 0 ∧ mainMemory (Config.spadBase + 1) 16 = false :=
  ⟨rfl, ⟨_, rfl⟩, by decide⟩

theorem tabled_walk : (tabled 0x1F).walk 0 1 1 4 = (tabled 0x1F, .leaf 0x1F 0x1000 4) := by
  have h0 : pteByte 0 1 4 = 0x1000 := by decide
  have h1 : physOk 0x1000 true = true := by decide
  have h2 : (tabled 0x1F).migratingPte 0x1000 = false := by decide
  have h3 : (tabled 0x1F).snoop 0x1000 = tabled 0x1F := by rfl
  have h4 : (tabled 0x1F).readHome 0x1000 1 none = (tabled 0x1F, 0x1F, 0) := by with_unfolding_all rfl
  have h5 : pteNext 0x1F = some true := by decide
  have h : (tabled 0x1F).readPte 0x1000 1 = (tabled 0x1F, some (some 0x1F)) := by unfold State.readPte; rw [h1, h2, h3, h4]; rfl
  rw [State.walk, h0, h]
  dsimp only
  rw [h5]

theorem witness_HomeEventResults_walk : (tabled 0x1F).memoryOk ∧ (tabled 0x1F).parts = [(1, mapped)] ∧ mapped.live.v = true ∧
    mapped.live.xv = true ∧ (tabled 0x1F).hub.mig = none ∧ (tabled 0x1F).estuary = [] ∧
    (tabled 0x1F).parked = [] ∧ (tabled 0x1F).walk 0 1 mapped.live.ppn.toNat 4 = (tabled 0x1F, .leaf 0x1F 0x1000 4) ∧ homeOf 0x1000 = .hbm ∧ leafAddr 0x1F 4 0 = some 0 ∧
    pteAllows 0x1F .load = true ∧ pteAllows 0x1F .store = true ∧ physOk 0 false = true :=
  ⟨⟨by decide, by decide, by decide⟩, rfl, rfl, rfl, rfl, rfl, rfl, tabled_walk, by decide⟩

theorem witness_HomeEventResults_no_walk : (tabled 0).parts = [(1, mapped)] ∧ (tabled 0).hub.mig = none ∧ (tabled 0).estuary = [] ∧
    ((tabled 0).walk 0 1 mapped.live.ppn.toNat 4).2 = .fail := by decide

/-- A record at raw byte 0x8000 whose words are `a`, `b`, `c`, `d`. -/
def recorded (a b c d : Word) : State := withSpad (withSpad (withSpad (withSpad (here id) 0x8000 a) 0x8008 b) 0x8010 c) 0x8018 d

theorem witness_DeviceRegisterResults_push : ∀ s : State, s = recorded 2 9 0 0 ∨ s = recorded 0 0 0 0 ∨ s = recorded (rawAt 0x8000) (rawAt 0x9000) 64 0 →
    s.released ∧ recordSpace (rawAt 0x8000) = true ∧ (rawAt 0x8000).toNat % 64 = 0 ∧ s.myCore.mq.length < 16 ∧ s.myCore.bq.length < 16 ∧
    ∀ i, i < 4 → s.plain (rawAt 0x8000 + BitVec.ofNat 64 (64 * i)) 64 (.raw (0x40000 + 64 * i)) := by
  rintro s (rfl | rfl | rfl) <;> refine ⟨⟨⟨rfl, rfl, rfl⟩, by decide, rfl⟩, by decide, by decide, by decide, by decide, ?_⟩ <;>
    intro i hi <;> apply plain_raw <;> revert i <;> decide

theorem witness_DeviceRegisterResults_checks : (recorded 2 9 0 0).matrixCommand ⟨0, 0⟩ [2, 9, 0, 0] = .ok (.mzero 9) ∧
    (recorded 0 0 0 0).matrixCommand ⟨0, 0⟩ [0, 0, 0, 0] = .error (0x01, 0) ∧
    (recorded 0 0 0 0).lane.brookCheck (rawAt 0x8000) (rawAt 0x9000) 64 0 none = .ok .rne ∧
    (recorded 0 0 0 0).lane.brookCheck 0 0 0 0 none = .error (0x01, 0) := by decide

/-- The management core moves. -/
def atMgmt (s : State) : State := { s with cur := ⟨Config.mgmtCore, 0⟩ }

theorem witness_DeviceRegisterResults_rest : (∀ y : Word, (State.reset.setMyCore { Core.reset 0 with mresq := [y], bresq := [y] }).myCore.mresq = [y] ∧
      (State.reset.setMyCore { Core.reset 0 with mresq := [y], bresq := [y] }).myCore.bresq = [y]) ∧
    State.reset.myCore.mresq = [] ∧ State.reset.myCore.bresq = [] ∧ State.reset.unwatched ∧ (atMgmt State.reset).unwatched ∧
    State.reset.lane.sup = false ∧ (here (fun l => { l with sup := true })).lane.sup = true ∧
    (atMgmt State.reset).cur.core = Config.mgmtCore ∧ State.reset.cur.core < Config.mgmtCore ∧
    (((atMgmt State.reset).shares.filter (fun y => y.1 != 0)).map (fun y => y.2.share)).sum + (8400 : Word).toNat % 2 ^ 14 ≤ Config.powerBudget ∧
    Config.powerBudget < (((atMgmt State.reset).shares.filter (fun y => y.1 != 0)).map (fun y => y.2.share)).sum + (8401 : Word).toNat % 2 ^ 14 ∧
    (65536 : Word).toNat % 2 ^ 17 ≤ 65536 ∧ 65536 < (65537 : Word).toNat % 2 ^ 17 ∧ (atMgmt State.reset).mgmt.alerts.length ≤ 16 ∧
    (1 + 2 ^ 11 : Word).getLsbD 0 = true ∧ (1 + 2 ^ 11 : Word).toNat / 2 ^ 11 % 2 ^ 11 ≠ 0 ∧
    Table.find ({ State.reset with page := ⟨0, [(0, 1 + 2 ^ 11, 0)], []⟩ } : State).page.fmsi 0 = some (1 + 2 ^ 11, 0) ∧
    Table.find State.reset.page.fmsi 0 = none := by
  refine ⟨fun y => ⟨rfl, rfl⟩, rfl, rfl, rfl, rfl, ?_⟩
  decide

/-! Messages. -/

/-- A message of class `cls` to core 0, lane 0, of partition `p`, with header bits `x` and body words `b`. -/
def msgOf (cls p : Nat) (x : Word) (b : List Word) : Msg := (BitVec.ofNat 64 (cls * 2 ^ 22 + p * 2 ^ 28) + x) :: b

/-- After reset, one message from core `src` on its way to core 0. -/
def meshed (src : Nat) (m : Msg) : State := { State.reset with mesh := [⟨src, none, 0, m⟩] }

/-- After reset, one message in the send queue of lane 0. -/
def queued (m : Msg) : State := State.reset.setLane { State.reset.lane with sendq := [m] }

/-- A mailbox of `n` places with the posts `m`, and an arriving post of key 5. -/
def posted (n : Nat) (m : List (BitVec 32 × BitVec 32)) : State :=
  let s := meshed 5 (msgOf 0 0 (2 ^ 61) [5 * 2 ^ 32 + 7, 0, 0])
  s.setMyCore { s.myCore with mbxK := n, mbx := m }

/-- A notice arriving for lane 0, whose queue register is `q`. -/
def noticed (q : Word) : State :=
  let s := meshed 5 (msgOf 58 0 0 [1, 2, 3])
  s.setLane { s.lane with noticeq := q }

theorem witness_MessageEventResults_inject : ∀ p : Nat, p = 0 ∨ p = 1 →
    let s := queued (msgOf 9 p 0 [1, 2, 3])
    s.lane.sendq = [msgOf 9 p 0 [1, 2, 3]] ∧ s.lane.save = .none ∧ s.mesh = [] ∧ (∀ i, i < 4 → i ≠ 0 → (s.myCore.lane i).sendq = []) ∧ 0 < Config.mgmtCore ∧
    s.remoteRange p 0 = none ∧ s.mapCore p 0 (some 0) = (if p = 0 then some 0 else none) := by
  rintro p (rfl | rfl) <;> exact ⟨rfl, rfl, rfl, by decide, by decide, by decide, by decide⟩

theorem meshed_receives (src : Nat) (m : Msg) : (meshed src m).receives 0 := by
  refine ⟨rfl, rfl, ?_⟩
  show ∀ i, i < 4 → ((Core.reset 0).lane i).ejbuf = none
  decide

theorem witness_MessageEventResults_eject : let s := meshed 5 (msgOf 9 0 0 [1, 2, 3])
    let h := ((msgOf 9 0 0 [1, 2, 3]).headD 0).toNat
    s.receives 0 ∧ h / 2 ^ 61 % 2 = 0 ∧ h / 2 ^ 22 % 64 = 9 ∧ h / 2 ^ 28 % 256 = 0 ∧ (s.myCore.lane 0).pool = none ∧ (s.myCore.lane 0).ring = [] ∧
    s.memoryOk ∧ s.parked = [] ∧ (msgOf 9 0 0 [1, 2, 3]).length ≤ 32 ∧ 5 < Config.mgmtCore ∧
    ((msgOf 9 3 0 []).headD 0).toNat / 2 ^ 28 % 256 = 3 ∧ ((msgOf 9 3 0 []).headD 0).toNat / 2 ^ 60 % 2 = 0 ∧
    (3 : Nat) ≠ ((meshed 5 (msgOf 9 3 0 [1, 2, 3])).myCore.lane 0).ptag.toNat :=
  ⟨meshed_receives _ _, by decide, by decide, by decide, rfl, rfl, ⟨by decide, by decide, by decide⟩, rfl, by decide, by decide, by decide,
    by decide, by decide⟩

/-- The same message from a lane of core 5, of a partition that the lane has not. -/
theorem witness_MessageEventResults_notice_back : let s : State := { State.reset with mesh := [⟨5, some 2, 0, msgOf 9 3 0 [1, 2, 3]⟩] }
    s.receives 0 ∧ 5 ≤ Config.mgmtCore ∧ ((msgOf 9 3 0 [1, 2, 3]).headD 0).toNat / 2 ^ 28 % 256 = 3 ∧ 3 ≠ (s.myCore.lane 0).ptag.toNat := by
  refine ⟨⟨rfl, rfl, ?_⟩, by decide, by decide, by decide⟩
  show ∀ i, i < 4 → ((Core.reset 0).lane i).ejbuf = none
  decide

set_option maxRecDepth 8192 in
theorem witness_MessageEventResults_mailbox : ((msgOf 0 0 (2 ^ 61) []).headD 0).toNat / 2 ^ 61 % 2 = 1 ∧ (posted 0 []).myCore.mbxK = 0 ∧
    (posted 1 []).myCore.mbx.length < (posted 1 []).myCore.mbxK ∧ (posted 1 [(5, 0)]).myCore.mbx = [] ++ [(5, 0)] ∧
    (posted 1 [(5, 0)]).myCore.mbx.length = (posted 1 [(5, 0)]).myCore.mbxK ∧ (5 : BitVec 32).toNat ≤ (5 : BitVec 32).toNat := by decide

theorem witness_MessageEventResults_notice : (noticed 0).lane.noticeq.toNat / 256 = 0 ∧
    let s := noticed (rawAt 0x8100)
    s.cur = ⟨0, 0⟩ ∧ s.memoryOk ∧ s.released ∧ s.parked = [] ∧ s.lane.noticeq.toNat / 256 ≠ 0 ∧
    (∀ i, i < 5 → s.plain (rawAt 0x8100 - 64 + BitVec.ofNat 64 (64 * i)) 64 (.raw (0x407C0 + 64 * i)) ∧
      (Place.raw (0x407C0 + 64 * i)).isSpad = true) ∧
    s.peek (s.wordAt (.raw 0x407C0)) = 0 := by
  refine ⟨by decide, rfl, ⟨by decide, by decide, by decide⟩, ⟨⟨rfl, rfl, rfl⟩, by decide, rfl⟩, rfl, by decide, ?_, by decide⟩
  intro i hi
  refine ⟨plain_raw ?_, rfl⟩
  revert i; decide

/-! The launch unit and pools. -/

/-- A die with no head of a queue has none that ages. -/
theorem ageing_none (d : Die) (h : d.heads = []) (tick : Word) : ∀ n y, d.ageing n = some y → tick.toNat < y.2.toNat := by
  intro n y e
  simp [Die.ageing, h, Table.find] at e

/-- A record of class 9 for core bit 0, EST 1 and energy `en`, with `w` as word 0 besides and word 6. -/
def recOf (w w1 en w6 : Word) : Vector Word 8 := #v[9 * 2 ^ 8 + 2 ^ 20 + w, w1, 0, 1 + en * 2 ^ 32, 0, 0, w6, 0]

/-- A queued task 1 with a curve that is worth 1 at every tick. -/
def taskOf (x : Vector Word 8) : Task :=
  ⟨1, x, 0, 0, none, 0, 0, [], [(0, 1)], .ready, 0, 0, 0, 0, 0, 0, [], [], 0, 0, none, false, true, 4, none⟩

/-- Die 0 after reset, with one task. -/
def dieOfTask (t : Task) : Die := { Die.reset with tasks := [t] }

/-- A class-56 message with a record of class 9 that waits for one dependence. -/
def recordMsg : Msg := msgOf 56 0 0 [9 * 2 ^ 8 + 2 ^ 20, 0, 0, 1, 0, 0, 1, 0, 0, 0, 0]

/-- A state with die 0 as given. -/
def onDie (d : Die) : State := { State.reset with dies := [(0, d)] }

theorem witness_LaunchUnitResults_records : 0 < Config.mgmtCore ∧ dieOf 0 ≠ Config.hubDie ∧ recordBad #v[0, 0, 0, 0, 0, 0, 0, 0] = true ∧
    recordBad (recOf 0 0 0 1) = false ∧ (recWord (recOf 0 0 0 1) 0).toNat % 8 ≠ 2 ∧ (recWord (recOf 0 0 0 1) 0).getLsbD 52 = false ∧
    0 < (recWord (recOf 0 0 0 1) 6).toNat % 2 ^ 16 ∧ Die.reset.allocRun 1 = some 1 ∧
    ((msgOf 56 0 0 []).headD 0).toNat / 2 ^ 22 % 64 = 56 ∧ ((msgOf 57 0 0 []).headD 0).toNat / 2 ^ 60 % 2 = 0 ∧
    ((msgOf 57 0 (2 ^ 60) []).headD 0).toNat / 2 ^ 60 % 2 = 1 ∧ ((msgOf 62 0 0 []).headD 0).toNat / 2 ^ 22 % 64 = 62 ∧
    stampBaseOk 0x8000000000000100 = true ∧ stampBaseOk 1 = false ∧ (5 : Nat) ≠ Config.mgmtCore ∧ recordMsg.length = 12 ∧
    recordMsg.getD 3 0 = 0 ∧ recordMsg.getD 5 0 = 0 ∧ (recordMsg.getD 7 0).toNat / 2 ^ 49 % 128 = 0 ∧ (recordMsg.getD 1 0).toNat / 2 ^ 28 % 256 = 0 ∧
    Die.reset.input = [] ∧ (Config.mgmtCore = Config.mgmtCore ∧ (0 : Word).toNat % 16 = 0 ∧ (1 : Word).toNat % 16 = 1) := by decide

theorem witness_LaunchUnitResults_release : let y : Task := { taskOf (recOf 0 0 0 0) with id := Config.releaseTask [1, 2, 3], state := .waiting, deps := 2 }
    (dieOfTask y).task? (Config.releaseTask ((msgOf 57 0 (2 ^ 60) [1, 2, 3]).drop 1)) = some y ∧ y.ptag.toNat = 0 ∧ y.state = .waiting ∧ 1 < y.deps := by
  refine ⟨?_, rfl, rfl, by decide⟩
  simp [dieOfTask, Die.task?, msgOf]

theorem witness_LaunchUnitResults_evaluate : ∀ p : BitVec 32, p = 2 ^ 20 ∨ p = 2 ^ 20 + 1 →
    let x := taskOf (recOf 0 0 1 0)
    let d : Die := { dieOfTask x with dtc := 1, evals := [0], settings := [(0, p, 4)] }
    d.tasks = [x] ∧ d.evals = [0] ∧ (0 : Word).toNat < d.dtc.toNat ∧ d.roundAt = none ∧ d.attempt = none ∧ d.orders = [] ∧ d.stealDue = [] ∧ d.heads = [] ∧ x.place = none ∧ x.state = .ready ∧ x.inGang = false ∧ x.curve ≠ [] ∧ x.succs = [] ∧ x.home = none ∧
    d.stamps = [] ∧ d.settings = [(x.ptag.toNat, p, 4)] ∧
    (decide (curveAt x.curve ((0 + BitVec.ofNat 64 (recEst x.record)) - x.arr).toNat * 2 ^ 20 < ((p.toNat * recEnergy x.record : Nat) : Int)) = decide (p = 2 ^ 20 + 1)) := by
  rintro p (rfl | rfl) <;> decide

theorem witness_LaunchUnitResults_round : let x := taskOf (recOf 0 0 1 0)
    let d : Die := { dieOfTask x with dtc := 1, roundAt := some 0 }
    d.roundAt = some 0 ∧ (0 : Word).toNat < d.dtc.toNat ∧ d.evals = [] ∧ d.attempt = none ∧ d.dieSettings = none ∧ d.stealDue = [] ∧
    (∀ o, o ∈ d.orders → o.taken = none) ∧ (∀ n y, d.ageing n = some y → (0 : Word).toNat < y.2.toNat) ∧ x.queued = true ∧ x.inGang = false ∧
    x.place = none := ⟨rfl, by decide, rfl, rfl, rfl, rfl, by decide, ageing_none _ rfl _, by decide⟩

theorem witness_LaunchUnitResults_attempt : let x := taskOf (recOf 0 0 1 0)
    let d : Die := { dieOfTask x with dtc := 1, attempt := some ⟨1, [], 0, [], none⟩ }
    d.attempt = some ⟨x.id, [], 0, [], none⟩ ∧ (0 : Word).toNat < d.dtc.toNat ∧ d.evals = [] ∧ d.roundAt = none ∧ d.stealDue = [] ∧ d.offers = [] ∧
    (∀ o, o ∈ d.orders → o.taken = none) ∧ (∀ n y, d.ageing n = some y → (0 : Word).toNat < y.2.toNat) ∧ x.queued = true ∧ x.inGang = false ∧
    x.place = none ∧ 0 < Config.hubDie ∧ x.ptag = 0 ∧ (onDie d).parts = [] ∧ (onDie d).sectors = [] ∧
    (onDie d).hold = false ∧ (onDie d).shares = [] ∧ recCols x.record = 0 ∧ recRows x.record = 0 ∧
    (onDie { d with tasks := [{ x with ptag := 3 }] }).findPlace 0 { x with ptag := 3 } [] = none :=
  ⟨rfl, by decide, rfl, rfl, rfl, rfl, by decide, ageing_none _ rfl _, by decide⟩

theorem witness_LaunchUnitResults_reserve : let x := taskOf (recOf 0 0 1 0)
    let d : Die := { dieOfTask x with heads := [(0, 1, 0)], dtc := 131074 }
    recQueue x.record = 0 ∧ d.heads = [(0, x.id, 0)] ∧ d.agelimit ≠ 0 ∧ x.queued = true ∧ x.inGang = false ∧ x.target = none ∧ x.place = none ∧
    d.attempt = none ∧ d.evals = [] ∧ d.roundAt = none ∧ d.stealDue = [] ∧ d.offers = [] ∧ (∀ o, o ∈ d.orders → o.taken = none) ∧
    (0 : Word).toNat + d.agelimit.toNat + 1 < d.dtc.toNat := by decide

/-- The task placed at cluster (0, 0), with an order at sector 0, a steal period that has ended, and die 0 as `f` changes it. -/
def ordered (kind : Word) (hot : Bool) (taken : Option Word) (f : Die → Die) : State :=
  { onDie (f { dieOfTask { taskOf (recOf kind 0 1 0) with place := some (0, 0), queued := false } with orders := [⟨1, 0, hot, taken⟩], dtc := 5 }) with
    sectors := if hot then [(0, { Sector.reset with isOver := true })] else [] }

theorem witness_LaunchUnitResults_dispense : ∀ (hot : Bool) (w : Option Word), w = none ∨ w = some 5 →
    let s := ordered 0 hot w id
    (s.die 0).orders = [⟨1, 0, hot, w⟩] ∧ sectorOf 0 = 0 ∧ s.withholds 0 0 = hot ∧ s.hot 0 = hot ∧ s.overPower 0 = false := by
  rintro hot w (rfl | rfl) <;> cases hot <;> decide

theorem witness_LaunchUnitResults_steal : let s := ordered 0 true none (fun d => { d with stealDue := [4] })
    let u := ordered 0 true none (fun d => { d with attempt := some ⟨1, [], 4, [(0, 0)], some 0⟩ })
    (∀ v, v = s ∨ v = u → (v.die 0).orders = [⟨1, 0, true, none⟩] ∧ v.hot 0 = true ∧ v.overPower 0 = false ∧ (v.die 0).roundAt = none ∧
      (v.die 0).evals = [] ∧ (v.die 0).offers = [] ∧ (v.die 0).heads = []) ∧
    (s.die 0).stealDue = [4] ∧ (4 : Word).toNat < (s.die 0).dtc.toNat ∧ (s.die 0).attempt = none ∧
    (u.die 0).stealDue = [] ∧ (u.die 0).attempt = some ⟨1, [], 4, [(0, 0)], some 0⟩ ∧ (4 : Word).toNat < (u.die 0).dtc.toNat ∧
    firstSome (fun n => (u.stealPlace 0 (taskOf (recOf 0 0 1 0)) [(0, 0)] n).map (fun c => (n, c))) (neighbours 0) = some (32, (8, 0)) := by
  refine ⟨?_, by decide⟩
  rintro v (rfl | rfl) <;> decide

/-- A pool of class 9 with one free page and one expert. -/
def poolOne (bufs : List (Nat × PoolBuf)) (free : List Nat) (tiles : List Tile) : Pool :=
  ⟨9, 1, 0, rawAt 0x9000, 0x80000, 64, 1, 0, 2, bufs, free, tiles, false⟩

/-- A row for expert `e` on its way to the pool of lane 0. -/
def rowed (e : Word) (p : Pool) : State :=
  let s := meshed 5 (msgOf 9 0 0 [e, 2, 3])
  s.setLane { s.lane with pool := some p }

/-- A committed pool task whose descriptor lies at raw byte 0x9000, with its words, a region and a handler, and its order taken or not. -/
def opening (w0 : Word) (taken : Option Word) : State :=
  let s := ordered 1 false taken id
  let s : State := s.setDie 0 { s.die 0 with tasks := [{ taskOf (recOf 1 (rawAt 0x9000) 1 0) with place := some (0, 0), queued := false }] }
  let s := s.setLane { s.lane with region := s.lane.region.set 0 (2 ^ 63 + 2 ^ 20 * 2 ^ 21), handlerbase := rawAt 0x8000 }
  withSpad (withSpad (withSpad s 0x9000 w0) 0x9008 2) (0x8000 + 72) 0xC000000000010000

/-- The task of `opening`. -/
def openTask : Task := { taskOf (recOf 1 (rawAt 0x9000) 1 0) with place := some (0, 0), queued := false }

theorem witness_PoolResults_open : ∀ (w0 : Word) (w : Option Word), w0 = 0 ∨ w0 = 0x80000 + 64 * 2 ^ 21 + 2 ^ 37 → w = none ∨ w = some 5 →
    let s := opening w0 w
    (s.die 0).tasks = [openTask] ∧ (s.die 0).orders = [⟨openTask.id, 0, false, w⟩] ∧ recKind openTask.record = 1 ∧ openTask.cores = [0] ∧
    s.withholds 0 openTask.ptag.toNat = false ∧ openTask.sent = false ∧ openTask.deq ≠ (s.die 0).dtc ∧ openTask.inGang = false ∧
    openTask.succs = [] ∧ openTask.home = none ∧ (s.die 0).stamps = [] ∧
    let v := (s.setDie 0 { s.die 0 with orders := [⟨openTask.id, 0, false, none⟩] }).untake 0 openTask
    (w0 ≠ 0 → ∃ u p, v.poolCheck ⟨0, recLane openTask.record⟩ openTask = .ok (u, some p) ∧ u.dies = v.dies) ∧
    (w0 = 0 → ∃ u, v.poolCheck ⟨0, recLane openTask.record⟩ openTask = .ok (u, none) ∧ u.dies = v.dies) := by
  rintro w0 w (rfl | rfl) (rfl | rfl) <;>
    exact ⟨rfl, rfl, rfl, rfl, rfl, rfl, by decide, rfl, rfl, rfl, rfl, fun h => by first | exact ⟨_, _, rfl, rfl⟩ | exact absurd rfl h,
      fun h => by first | exact ⟨_, rfl, rfl⟩ | exact absurd h (by decide)⟩

theorem witness_PoolResults_rows : let p := poolOne [] [0] []
    let s := rowed 1 p
    (s.laneAt ⟨0, 0⟩).pool = some p ∧ s.mesh = [⟨5, none, 0, msgOf 9 0 0 [1, 2, 3]⟩] ∧ p.cls.toNat = 9 ∧ p.closed = false ∧ p.ebase ≤ 1 ∧
    1 < p.ebase + p.nexp ∧ 128 + p.roww ≤ 64 * 4 ∧ p.bufs = [] ∧ p.free = [0] ∧ p.roww % 64 = 0 ∧ p.pbase % 64 = 0 ∧
    p.pageAt 0 + p.psz ≤ 2097152 ∧ s.memoryOk ∧ s.parked = [] ∧ (∀ i, i < p.psz / 64 → s.clean (rawByte 0 (p.pageAt 0 + 64 * i))) ∧
    ¬(2 < p.ebase + p.nexp) ∧ (poolOne [(0, ⟨0, 1⟩)] [] []).bufs = [(0, ⟨0, 1⟩)] ∧ ((0 : Nat) ≠ 1) ∧ (poolOne [(0, ⟨0, 1⟩)] [] []).free = [] ∧
    (poolOne [] [] [⟨0, 1, 0, 2⟩]).tiles = [⟨0, 1, 0, 2⟩] ∧ ((rowed 1 p).laneAt ⟨0, 0⟩).ring = [] ∧ (s.laneAt ⟨0, 0⟩).save = .none ∧ s.receives 0 :=
  ⟨rfl, rfl, rfl, rfl, by decide, by decide, by decide, rfl, rfl, rfl, rfl, by decide, ⟨by decide, by decide, by decide⟩, rfl,
    fun _ _ => ⟨List.not_mem_nil, List.not_mem_nil⟩, by decide, rfl, by decide, rfl, rfl, rfl, rfl,
    rfl, rfl, fun i h => by
      have : i = 0 ∨ i = 1 ∨ i = 2 ∨ i = 3 := by omega
      rcases this with rfl | rfl | rfl | rfl <;> rfl⟩

/-- A row that found no page, held in the ejection buffer of lane 0. -/
theorem witness_PoolResults_forced : let p := poolOne [(0, ⟨0, 1⟩)] [] []
    let s := rowed 1 p
    let s := s.setLane { s.lane with ejbuf := some ⟨⟨5, none, 0, msgOf 9 0 0 [1, 2, 3]⟩, .page⟩ }
    (s.laneAt ⟨0, 0⟩).ejbuf = some ⟨⟨5, none, 0, msgOf 9 0 0 [1, 2, 3]⟩, .page⟩ ∧ (s.laneAt ⟨0, 0⟩).save = .none ∧ (s.laneAt ⟨0, 0⟩).pool = some p ∧
    p.closed = false ∧ p.tiles = [] ∧ (s.laneAt ⟨0, 0⟩).ring = [] := ⟨rfl, rfl, rfl, rfl, rfl, rfl⟩

/-! Debug. -/

/-- A debug request of operation `op` with its index fields, for lane 0 of core 0, of partition `p`. -/
def asked (p : Nat) (w : Word) (f : Lane → Lane) : State :=
  let s := meshed 5 (msgOf 60 p 0 [w, 0, 0x8000000000000100])
  s.setLane (f s.lane)

theorem witness_DebugResults_request : ((msgOf 60 0 0 []).headD 0).toNat / 2 ^ 61 % 2 = 0 ∧ ((msgOf 60 0 0 []).headD 0).toNat / 2 ^ 22 % 64 = 60 ∧
    ((msgOf 60 3 0 []).headD 0).toNat / 2 ^ 28 % 256 = 3 ∧ (asked 3 0 id).lane.part ≠ 3 ∧ (asked 3 0 (fun l => { l with ptag := 3 })).lane.part = 3 ∧
    (asked 0 0 id).linksClear = true ∧ (asked 0 0 id).stuck = [] ∧ (∀ l, l < 4 → ((asked 0 0 id).myCore.lane l).ejbuf = none) ∧ (1 : Word).getLsbD 0 = true ∧ (asked 0 0 id).lane.dstop = false ∧ (asked 0 0 (fun l => { l with dstop := true })).lane.dstop = true ∧ (asked 0 0 id).myCore.dbg.replies = [] ∧
    (asked 0 0 id).myCore.dbg.ten = false ∧ (asked 0 0 id).lane.run = .idle ∧ (asked 0 0 id).myCore.dbg.dpc[0] = 0 ∧
    ((0x0000000000030F18 : Word).toNat % 16 = 8 ∧ (0x00000FFF0001 : Word).toNat / 2 ^ 16 % 2 ^ 12 = 0xFFF) := by decide

theorem witness_DebugResults_registers : ((asked 0 0 id).crRead ⟨0, 0⟩ 0x024).isSome = true ∧ (asked 0 0 id).crRead ⟨0, 0⟩ 0xFFF = none ∧
    crRefuses 0x024 0 = false := by decide

/-- A lane that a debug module has asked to stop. -/
def stopping : State := here (fun l => { l with dbgStopReq := true })

theorem witness_DebugResults_stop : stopping.untraced ⟨0, 0⟩ ∧ stopping.lane.dbgStopReq = true ∧ stopping.lane.run = .running ∧
    stopping.lane.dstop = false ∧ stopping.lane.dbgStep = false ∧ stopping.myCore.dbg.replies = [] ∧
    (stopping.setMyCore { stopping.myCore with dbg := { Debug.reset with syncDue := [7, 8] } }).myCore.dbg.syncDue = [7, 8] :=
  ⟨rfl, rfl, rfl, rfl, rfl, rfl, rfl⟩

theorem witness_DebugResults_reply : State.reset.memoryOk ∧ State.reset.parked = [] ∧ (0x8000000000000100 : Word).toNat % 64 = 0 ∧
    decodeWindow 0x8000000000000100 = some (.global 0 256) ∧ decodeWindow (0x8000000000000100 + 64) = some (.global 0 (256 + 64)) ∧
    0 < Config.mgmtCore := ⟨⟨by decide, by decide, by decide⟩, rfl, by decide, by decide, by decide, by decide⟩

/-- Core 0 traces, with one packet in its encoder, into a ring of one packet whose control word is `x`. -/
def tracing (x : Word) : State :=
  let s : State := State.reset.setMyCore { Core.reset 0 with dbg := { Debug.reset with ten := true, tlm := 1, tkind := 4, trcbase := 0x8000000000040080, packets := [(1, 2)] } }
  s.poke (Config.spadBase + 0x8008) x 0

theorem witness_DebugResults_trace : ∀ x : Word, x = 0 ∨ x = 0x100000000 →
    let s := tracing x
    s.memoryOk ∧ s.parked = [] ∧ s.myCore.dbg.ten = true ∧ s.myCore.dbg.syncDue = [] ∧ s.myCore.dbg.packets = [(1, 2)] ∧ s.myCore.dbg.stored = 0 ∧
    64 ≤ 0x40080 ∧ 0x40080 % 64 = 0 ∧ s.myCore.dbg.tlm.getLsbD 0 = true ∧ s.myCore.dbg.tkind.getLsbD (3 - 1) = true ∧
    decodeWindow s.myCore.dbg.trcbase = some (.global 0 0x40080) ∧ decodeWindow (s.myCore.dbg.trcbase - 64) = some (.global 0 0x40040) ∧
    s.peek (Config.spadBase + 0x40040 / 8) = x ∧ 0x40080 + 128 ≤ 524288 ∧ s.unc = [] ∧ s.corr = [] ∧
    (decide ((x.toNat / 2 ^ 32 + 2 ^ 32 - x.toNat % 2 ^ 32) % 2 ^ 32 = 2 ^ s.myCore.dbg.nsz.toNat) = decide (x = 0x100000000)) := by
  rintro x (rfl | rfl) <;> exact ⟨⟨by decide, by decide, by decide⟩, by decide⟩

/-! Power, the hub. -/

theorem witness_PowerResults_period : (((twoShares 6000 2400 1 2).parts.filter (fun p => p.1 != 0 && p.2.live.v)).map (·.1)).Nodup ∧
    1000 * ((twoShares 6000 2400 1 2).hub.periods + 1) ≤ ((twoShares 6000 2400 1 2).die Config.hubDie).dtc.toNat ∧
    Table.sorted (twoShares 6000 2400 1 2).quads = true ∧ linkExists 0 0 = true ∧ linkExists (63 * 256 + 1) 0 = false ∧
    (Table.get Rail.reset State.reset.rails 0).since = none ∧ (Table.get Rail.reset State.reset.rails 0).raised = false := by decide

/-- Sector 0 at the edges of R318. -/
theorem witness_PowerResults_samples : (State.reset.sector 0).talert.toNat ≤ 704 ∧ (State.reset.sector 0).arm = true ∧ 703 < (State.reset.sector 0).talert.toNat ∧
    ((State.reset.setSector 0 { Sector.reset with arm := false }).sector 0).arm = false ∧ (State.reset.memStack 0).armed = true ∧
    ((ordered 0 true none id).sector 0).isOver = true ∧
    (State.reset.mgmt.alerts.length < 16 ∧ 16 ≤ (List.replicate 16 (⟨0x20, 0, 0⟩ : Alert)).length) := by decide

/-- Lane 0 of the management core runs, with a handler for its traps and one alert waiting. -/
def alerted (y : Word) : State :=
  let s := atMgmt { State.reset with mgmt := { Mgmt.reset with alerts := [⟨0x20, 0, 0⟩] } }
  let s := s.setLane { s.lane with run := .running, handlerbase := rawAt 0x8000 }
  s.poke (rawByte Config.mgmtCore 0x40000) y 0

theorem witness_PowerResults_alert : (alerted 0xC000000000010000).mgmt.alerts = [⟨0x20, 0, 0⟩] ∧ (alerted 0xC000000000010000).alertReady ⟨0x20, 0, 0⟩ = true ∧
    (alerted 0xC000000000010000).trapHandler ⟨Config.mgmtCore, 0⟩ = (alerted 0xC000000000010000, some 0xC000000000010000) ∧
    (alerted 0xC000000000010000).lane.intrap = false ∧
    ((({ alerted 0xC000000000010000 with mgmt := { (alerted 0xC000000000010000).mgmt with alerts := [] } } : State).withdraw ⟨Config.mgmtCore, 0⟩).trapHandler
      ⟨Config.mgmtCore, 0⟩).2 = some 0xC000000000010000 ∧
    (alerted 0xC000000000010000).untraced ⟨Config.mgmtCore, 0⟩ ∧ (alerted 0).alertReady ⟨0x20, 0, 0⟩ = true ∧
    (alerted 0).trapHandler ⟨Config.mgmtCore, 0⟩ = (alerted 0, none) := ⟨rfl, by decide, rfl, rfl, by decide, rfl, by decide, rfl⟩

theorem witness_HubResults_launch : State.reset.mgmt.safe = false ∧ (State.reset.part 1).live.v = false ∧ ((tabled 0).part 1).live.v = true ∧
    ∀ k, k < 8 → State.reset.clean (Config.cohBase + 64 * 0 + 8 * k) :=
  ⟨rfl, by decide, by decide, fun _ _ => ⟨List.not_mem_nil, List.not_mem_nil⟩⟩

/-- A report of partition 1 waits for an MSI; its queue has one place at coherent byte offset 64, and its control word is `x`. -/
def reported (a x : Word) : State :=
  ({ State.reset with reports := [(1, [1, 2, 3, 4])], page := ⟨0, [(1, a, 2)], []⟩ } : State).poke (Config.cohBase + 56) x 0

theorem witness_HubResults_report : ∀ x : Word, x = 0 ∨ x = 0x100000000 →
    let s := reported 0x801 x
    s.reports = [(1, [1, 2, 3, 4])] ∧ Table.find s.page.fmsi 1 = some (0x801, 2) ∧ s.peek (Config.cohBase + 32 * 2 - 8) = x ∧
    (0x801 : Word).getLsbD 0 = true ∧ (0x801 : Word).toNat / 2 ^ 11 % 2 ^ 11 ≠ 0 ∧ (2 : Word).toNat % 2 ^ 21 ≠ 0 ∧ s.memoryOk ∧ s.parked = [] ∧
    Config.cohBase + 32 * 2 + 32 ≤ Config.cohBase + Config.mboxOff ∧ s.unc = [] ∧ s.corr = [] ∧
    (decide ((x.toNat / 2 ^ 32 + 2 ^ 32 - x.toNat % 2 ^ 32) % 2 ^ 32 = 2 ^ ((0x801 : Word).toNat / 2 ^ 24 % 16)) = decide (x = 0x100000000)) ∧
    Table.find State.reset.page.fmsi 1 = none ∧ (0x800 : Word).getLsbD 0 = false := by
  rintro x (rfl | rfl) <;> exact ⟨by decide, by decide, by decide, by decide, by decide, by decide, ⟨by decide, by decide, by decide⟩, by decide⟩

theorem witness_HubResults_commit : ∀ (v : Bool) (c : Option (BitVec 8)),
    let s : State := { State.reset with parts := [(1, { Part.reset with cfg := { PartCfg.reset with v := v }, checked := c, pgWait := true })]
                                        hub := { Hub.reset with gos := [1] } }
    s.hub.gos.head? = some 1 ∧ (c = none → ∀ q, q ∈ s.parts → q.2.checked = none) ∧ (s.part 1).cfg.v = v ∧ (s.part 1).checked = c ∧
    (s.part 1).pgWait = true ∧ s.hub.gos.head? ≠ some 2 :=
  fun _ _ => ⟨rfl, fun h q hq => by simp at hq; simp [hq, h], rfl, rfl, rfl, by simp⟩

/-- An invalidation of space 7 over one page, and one translation. -/
def invalidating (run : Bool) (sid : Nat) : State := { State.reset with
  hub := { Hub.reset with reqs := [false], xsid := 7, xlen := 1, xrun := if run then some ⟨7, false, 0, 1⟩ else none }
  estuary := [⟨0, 0, sid, 0, 0, 0x1F⟩] }

theorem witness_HubResults_invalidate : (invalidating false 7).hub.reqs.head? = some false ∧ (invalidating false 7).hub.xrun = none ∧
    (invalidating false 7).hub.mig = none ∧ (invalidating true 7).hub.xrun = some ⟨7, false, 0, 1⟩ ∧
    (∀ q, q ∈ (invalidating true 8).inflight → isTrans q.addr = false) ∧
    (0 < 0 / 32768 * 32768 + (1 + 32767) / 32768 * 32768 ∧ 0 / 32768 * 32768 < 0 + 32768) ∧
    ({ State.reset with hub := { Hub.reset with reqs := [true] } } : State).hub.reqs.head? = some true ∧ Hub.reset.xrun = none ∧ Hub.reset.mig = none := by decide

/-- A translated store of partition 1 in flight while the invalidation of its page runs. -/
theorem witness_HubResults_invalidate_waits :
    let q : Posted := ⟨0, .store 1 1, ⟨0, 0⟩, 1, .lane, 0, 0, 7, false, false⟩
    let s : State := { invalidating true 7 with inflight := [q], parts := [(1, mapped)] }
    s.hub.xrun = some ⟨7, false, 0, 1⟩ ∧ q ∈ s.inflight ∧ isTrans q.addr = true ∧ q.sid = 7 ∧
    (q.addr.toNat / 32768 % 2 ^ 44 * 32768 < 0 / 32768 * 32768 + (1 + 32767) / 32768 * 32768) := by decide

/-- A migration of the page at 0x5000 to page `n`, whose PTE lies at 0x1000. -/
def migrating (n x : Word) : State :=
  ({ State.reset with hub := { Hub.reset with reqs := [true], mig := some ⟨7, 0, 0x1000, 5 * 2 ^ 10 + 0x1F, n * 2 ^ 10 + 0x1F⟩ } } : State).poke 0x1000 x 0

/-- A write to host memory that was translated for the page of an invalidation or a migration which runs. -/
theorem witness_HubResults_writes_wait :
    let w : PcieWrite := ⟨⟨0, 0⟩, Config.pcieBase, 1, 1, 0, 7⟩
    let s : State := { invalidating true 7 with pcieWrites := [w] }
    let u : State := { migrating 6 0 with pcieWrites := [w] }
    s.hub.xrun = some ⟨7, false, 0, 1⟩ ∧ w ∈ s.pcieWrites ∧ isTrans w.addr = true ∧ w.sid = 7 ∧
    ((0 : Word).toNat / 32768 % 2 ^ 44 * 32768 < 0 / 32768 * 32768 + (1 + 32767) / 32768 * 32768) ∧
    u.hub.mig = some ⟨7, 0, 0x1000, 5 * 2 ^ 10 + 0x1F, 6 * 2 ^ 10 + 0x1F⟩ ∧ w ∈ u.pcieWrites ∧
    (∀ x, x ∈ (migrating 6 0).pcieWrites → isTrans x.addr = false) ∧ (∀ x, x ∈ (invalidating true 8).pcieWrites → isTrans x.addr = false) :=
  ⟨rfl, List.mem_singleton.mpr rfl, by decide, rfl, by decide, rfl, List.mem_singleton.mpr rfl, by decide, by decide⟩

theorem witness_HubResults_migrate : ∀ x : Word, x = 5 * 2 ^ 10 + 0x1F ∨ x = 0 →
    let s := migrating 6 x
    s.hub.mig = some ⟨7, 0, 0x1000, 5 * 2 ^ 10 + 0x1F, 6 * 2 ^ 10 + 0x1F⟩ ∧ (∀ q, q ∈ s.inflight → isTrans q.addr = false) ∧
    (5 * 2 ^ 10 + 0x1F : Word).toNat / 2 ^ 10 % 2 ^ 44 = 5 ∧ (6 * 2 ^ 10 + 0x1F : Word).toNat / 2 ^ 10 % 2 ^ 44 = 6 ∧ 6 * 4096 < Config.hbmEnd ∧ 5 * 4096 < Config.hbmEnd ∧
    (∀ k, k ∈ s.unc → k / 4096 ≠ 5) ∧ s.memoryOk ∧ s.parked = [] ∧ 0x1000 / 4096 ≠ 6 ∧ s.clean 0x1000 ∧ s.peek 0x1000 = x ∧
    s.cache = [] ∧ s.writeBacks = [] ∧ (migrating (2 ^ 43) x).hub.mig = some ⟨7, 0, 0x1000, 5 * 2 ^ 10 + 0x1F, 2 ^ 53 + 0x1F⟩ ∧
    physOk ((2 ^ 53 + 0x1F : Word).toNat / 2 ^ 10 % 2 ^ 44 * 4096) true = false := by
  rintro x (rfl | rfl) <;> exact ⟨rfl, by decide, by decide, by decide, by decide, by decide, by decide, ⟨by decide, by decide, by decide⟩, by decide,
    by decide, ⟨by decide, by decide⟩, by decide, rfl, rfl, by decide, by decide⟩

/-- A frame for core 0 of partition 0 from a peer that remote range 0 names. -/
def framed (w : Word) : State := { State.reset with page := ⟨0, [], if w = 0 then [] else [(0, w), (1, 5)]⟩ }
def frame (ty : BitVec 16) (seq : BitVec 16) (rp : BitVec 8) : EthFrame := ⟨5, 2, 0, rp, seq, ty, msgOf 9 0 0 [1, 2, 3]⟩

set_option maxRecDepth 8192 in
theorem witness_HubResults_ethernet : (frame 0 0 0).ethType ≠ 0x88B5 ∧ (frame 0x88B5 1 0).seq ≠ ((framed 0).port 2 |>.peer 5).expect ∧
    (frame 0x88B5 0 0).seq = ((framed 0).port 2 |>.peer 5).expect ∧ ((framed 0).part (frame 0x88B5 0 1).rpart.toNat).live.v = false ∧
    (∀ k, k < 8 → (Table.get (0 : Word) (framed 0).page.range (0 * 16 + 2 * k)).getLsbD 63 = false) ∧
    (Table.get (0 : Word) (framed (2 ^ 63)).page.range 0).getLsbD 63 = true ∧
    (Table.get (0 : Word) (framed (2 ^ 63)).page.range 1).toNat % 2 ^ 48 = (frame 0x88B5 0 0).mac.toNat ∧
    (Table.get (0 : Word) (framed (2 ^ 63)).page.range 1).toNat / 2 ^ 52 % 256 = (frame 0x88B5 0 0).srcPart.toNat ∧
    (frame 0x88B5 0 0).msg.length = 4 * (((frame 0x88B5 0 0).msg.headD 0).toNat / 2 ^ 36 % 8 + 1) ∧
    (2 ^ 63 : Word).toNat / 2 ^ 20 % 2 ^ 20 ≤ ((frame 0x88B5 0 0).msg.headD 0).toNat / 2 ^ 39 % 2 ^ 20 ∧
    ((frame 0x88B5 0 0).msg.headD 0).toNat / 2 ^ 39 % 2 ^ 20 ≤ (2 ^ 63 : Word).toNat / 2 ^ 20 % 2 ^ 20 + (2 ^ 63 : Word).toNat / 2 ^ 40 % 2 ^ 20 ∧
    (framed (2 ^ 63)).mapCore 0 0 (some 0) = some 0 := by decide

theorem witness_HubResults_peer : let s : State := { State.reset with ports := [(2, ⟨[⟨5, 1, [frame 0x88B5 0 0], 256, false, 0⟩], 0⟩)] }
    (s.port 2).peers = [⟨5, 1, [frame 0x88B5 0 0], 256, false, 0⟩] ∧ (256 : Nat) ≤ 256 := ⟨rfl, Nat.le_refl _⟩

/-- A digest request of partition 1 whose log has one place at HBM byte 128, with control word `x`. -/
def logged (en : Bool) (m : Bool) (x : Word) : State :=
  ({ State.reset with delta := [(1, { Delta.reset with en := en, base := 1 })], deltaReqs := [⟨0, 1, 1, 0, 0, 1, m⟩] } : State).poke 120 x 0

theorem witness_HubResults_delta : ∀ (m : Bool) (x : Word), x = 0 ∨ x = 0x100000000 →
    let s := logged true m x
    s.deltaReqs = [⟨0, 1, 1, 0, 0, 1, m⟩] ∧ (s.deltaOf 1).en = true ∧ (s.deltaOf 1).base.toNat * 128 = 128 ∧ s.peek (128 - 8) = x ∧
    128 + 128 * 0 + 128 ≤ Config.hbmEnd ∧ s.memoryOk ∧ s.parked = [] ∧ s.unc = [] ∧ s.corr = [] ∧
    (decide ((x.toNat / 2 ^ 32 + 2 ^ 32 - x.toNat % 2 ^ 32) % 2 ^ 32 = 2 ^ (s.deltaOf 1).nsz.toNat) = decide (x = 0x100000000)) ∧
    ((logged false m x).deltaOf 1).en = false := by
  rintro (rfl | rfl) x (rfl | rfl) <;>
    exact ⟨rfl, by decide, by decide, by decide, by decide, ⟨by decide, by decide, by decide⟩, by decide⟩

/-! Start and management. `Config.romKey`, `Config.firmware` and `Config.ports` are free values: the clauses that ask for a valid signature
or an endpoint port are met by the same states where those values are so. -/

/-- A start at step `n`, cold or warm, with bank A staged or not. -/
def restarted (n : BitVec 4) (warm a : Bool) (fails : Nat) : State :=
  { State.reset with mgmt := { Mgmt.reset with step := n, warm := warm, valA := a, fails := fails }, agenda := [.lane 0 0] }

theorem witness_StartAndManagementResults_start : State.reset.memoryOk ∧ ({ State.reset with powered := false } : State).powered = false ∧
    State.reset.powered = true ∧ State.reset.starting = false ∧ (∀ w a f, (restarted 1 w a f).powered = true ∧ (restarted 1 w a f).caughtUp.starting = true ∧
      (restarted 1 w a f).starting = true ∧ (restarted 1 w a f).caughtUp.agenda = [.lane 0 0]) ∧ startEvent (.lane 0 0) = false ∧
    (restarted 0 false true 0).mgmt.fails + 1 < 6 ∧ (restarted 0 false true 0).mgmt.valA = true ∧
    (restarted 0 false true 0).mgmt.floor.toNat ≤ (restarted 0 false true 0).mgmt.verA.toNat ∧ (restarted 0 false false 4).mgmt.fails + 1 < 6 ∧
    (restarted 0 false false 4).mgmt.valA = false ∧ (restarted 0 false false 4).mgmt.valB = false ∧ 6 ≤ (restarted 0 false false 5).mgmt.fails + 1 ∧
    (∀ n w, (restarted n w true 0).mgmt.step = n ∧ (restarted n w true 0).mgmt.warm = w ∧ (restarted n w true 0).mgmt.log.length + 0 ≤ 4096) :=
  ⟨⟨by decide, by decide, by decide⟩, rfl, rfl, rfl, fun _ _ _ => ⟨rfl, rfl, rfl, rfl⟩, rfl, by decide, rfl, by decide, by decide, rfl, rfl, by decide,
    fun _ _ => ⟨rfl, rfl, by show Mgmt.reset.log.length + 0 ≤ 4096; decide⟩⟩

/-- A warm and a cold start that have missed their bounds. -/
theorem witness_StartAndManagementResults_late : ∀ w : Bool,
    let s : State := { restarted 1 w true 0 with dies := [(Config.hubDie, { Die.reset with dtc := 20000000001 })] }
    s.powered = true ∧ s.starting = true ∧ (if s.mgmt.warm then 2000000000 else 20000000000) < (s.die Config.hubDie).dtc.toNat ∧
    ¬((if s.mgmt.warm then 2000000000 else 20000000000) < ((restarted 1 w true 0).die Config.hubDie).dtc.toNat) := by
  rintro (_ | _) <;> exact ⟨rfl, rfl, by decide, by decide⟩

/-- One request with the words `w`, `a`, `b` in slot 0 of the mailbox. -/
def mboxed (w a b : Word) : State :=
  (((State.reset.poke (mboxByte 0) 1 0).poke (slotByte 0 0) w 0).poke (slotByte 0 1) a 0).poke (slotByte 0 2) b 0

theorem witness_StartAndManagementResults_mailbox : ∀ op : Word, op = 0 ∨ op = 1 ∨ op = 2 ∨ op = 3 ∨ op = 4 ∨ op = 5 ∨ op = 6 ∨ op = 7 →
    let s := mboxed (1 + op * 2 ^ 8) 0 260
    s.memoryOk ∧ s.parked = [] ∧ s.starting = false ∧ s.mgmt.safe = false ∧ s.unc = [] ∧ s.corr = [] ∧ s.peek (mboxByte 0) ≠ s.peek (mboxByte 8) ∧
    (s.peek (mboxByte 8)).toNat % 16 = 0 ∧ s.peek (slotByte 0 0) = 1 + op * 2 ^ 8 ∧ (1 + op * 2 ^ 8).toNat % 4 = 1 ∧
    (1 + op * 2 ^ 8).toNat / 2 ^ 8 % 16 = op.toNat ∧ s.peek (slotByte 0 1) = 0 ∧ s.peek (slotByte 0 2) = 260 := by
  rintro op (rfl | rfl | rfl | rfl | rfl | rfl | rfl | rfl) <;> exact ⟨⟨by decide, by decide, by decide⟩, rfl, rfl, by decide⟩

/-- An image of an empty body at HBM address 0, with version 1. -/
def staged : State := (State.reset.poke 0 (0x504C5448 + 2 ^ 32) 0)

theorem witness_StartAndManagementResults_stage : let byte (i : Nat) : Nat := (((List.range 260).map (fun j => Memory.byte staged.mem (0 + j))).getD i 0).toNat
    byte 0 + byte 1 * 2 ^ 8 + byte 2 * 2 ^ 16 + byte 3 * 2 ^ 24 = 0x504C5448 ∧ byte 4 + byte 5 * 2 ^ 8 = 1 ∧
    260 = byte 8 + byte 9 * 2 ^ 8 + byte 10 * 2 ^ 16 + byte 11 * 2 ^ 24 + 260 ∧ 12 ≤ 260 ∧ 0 + 260 ≤ Config.hbmEnd ∧ staged.mgmt.staging = false ∧
    staged.unc = [] ∧ staged.corr = [] ∧ staged.mgmt.floor.toNat ≤ 1 ∧ (1 : Nat) < (2 : BitVec 16).toNat ∧ Config.hbmEnd < (BitVec.ofNat 64 Config.hbmEnd).toNat + 1 := by decide

theorem witness_StartAndManagementResults_requests : (∃ d, mboxReg 0x1040 = some d ∧ d.isWO = false ∧ d.isFifo = false) ∧ mboxReg 1 = none ∧
    (∃ d, mboxReg 0x40 = some d ∧ d.isRO = true ∧ d.isFifo = true) ∧ (∃ d, mboxReg 0 = some d ∧ d.isWO = true ∧ d.isRO = false) ∧
    Mgmt.reset.valA = true ∧ Mgmt.reset.valB = false ∧ Mgmt.reset.log.length ≤ (0 : Word).toNat ∧
    ([(0, 0, 0, 0)] : List (Word × Word × Word × Word))[(0 : Word).toNat]? = some (0, 0, 0, 0) ∧ (1920 : Word).toNat ≤ 1920 ∧ 1920 < (1921 : Word).toNat ∧
    ([0x10, 0x84] : List Byte).getD 1 0 = 0x84 ∧ ([0x10, 0xE0] : List Byte).getD 1 0 = 0xE0 := by
  exact ⟨⟨_, rfl, by decide⟩, by decide, ⟨_, rfl, by decide⟩, ⟨_, rfl, by decide⟩, by decide⟩

/-! Scalar instructions: the premises name operands only. -/

theorem witness_IntegerResults : (0 : Word) = (regs 0 1 0).s 1 ∧ (1 : Word) = (regs 0 1 0).s 2 ∧ (1 : Word) ≠ 0 := by decide

theorem witness_DivisionResults : (0x8000000000000000 : Word) = (regs 0x8000000000000000 (-1) 0).s 1 ∧ (-1 : Word) = (regs 0x8000000000000000 (-1) 0).s 2 ∧
    (0x8000000000000000 : Word).toInt = -(2 ^ 63) ∧ (-1 : Word).toInt = -1 ∧ (0 : Word) = (regs 5 0 0).s 2 ∧ (-2 : Word) ≠ 0 := by decide

theorem witness_BitFieldResults : (0x3A80 : Word) = (regs 0x3A80 63 0).s 1 ∧ 63 = ((regs 0x3A80 63 0).s 2).toNat % 64 := by decide

theorem witness_ImmediateResults : (5 : Word) = (regs 5 0 0).s 1 := by decide

/-- Element 20 of width 3 is the last of a word; bit 63 is a pad bit. -/
theorem witness_AddressResults : (64 : Word) = (regs 64 124 0).s 1 ∧ (124 : Word) = (regs 64 124 0).s 2 ∧ (3 : Nat) = (2 : BitVec 6).toNat + 1 ∧ 21 = 64 / 3 ∧
    60 = ((124 : Word) - 64).toNat % 64 ∧ (64 : Word).toNat % 64 = 0 ∧ 60 % 3 = 0 ∧ 60 / 3 < 21 ∧ ((127 : Word) - 64).toNat % 64 = 63 ∧ ¬(63 / 3 < 21) ∧
    (65 : Word).toNat % 64 ≠ 0 ∧ (0xC0000000001FFFFF : Word).toNat / 2 ^ 59 = 0b11000 ∧ (0xC0000000001FFFFF : Word).toNat / 2 ^ 21 % 2 ^ 38 = 0 ∧
    (0x800000000007FFFF : Word).toNat / 2 ^ 59 = 0b10000 ∧ (0x800000000007FFFF : Word).toNat / 2 ^ 19 % 2 ^ 20 = 0 ∧
    ¬((0xC000000000200000 : Word).toNat / 2 ^ 21 % 2 ^ 38 = 0) ∧ ¬((0xC000000000200000 : Word).toNat / 2 ^ 59 = 0b10000) := by decide

theorem witness_CoordResults : (here id).lane.task = 0 ∧ (here (fun l => { l with task := 1 })).lane.task ≠ 0 := by decide

theorem witness_BranchAndJumpResults : (1 : Word) = (regs 1 2 0).s 1 ∧ (2 : Word) = (regs 1 2 0).s 2 ∧ (0xC000000000010000 : Word) = (regs 1 2 0).lane.pc ∧
    (0xC000000000010000 + (0x7FF : BitVec 12).signExtend 64 * 16 : Word).toNat % 16 = 0 ∧ (1 + (0 : BitVec 12).signExtend 64 * 16 : Word).toNat % 16 ≠ 0 ∧
    (2 : Word) ≠ 0 ∧ (2 : Word) ≠ 1 ∧ (regs 1 2 0).myCore.dbg.ten = false := by decide

/-! Memory. -/

/-- The last byte of a word of memory, and lane 0 with its address in s1. -/
def byteAt : State := withSpad (regs (rawAt 0x8000 + 56) 7 0) 0x8000 0xAB00000000000000

theorem witness_LoadResults : byteAt.LoadForm (.ldA 3 1 7 true none) 3 (rawAt 0x8000 + 56) 8 true 32 ∧
    byteAt.LoadForm (.ldM 3 1 0 0) 3 (mAddr (rawAt 0x8000 + 56) 0 (mWidth 0)) (mWidth 0) false 32 ∧
    byteAt.LoadForm (.ldCompact 0 0 0) (cReg 0) (cAddr (byteAt.s (cReg 0)) 0) 64 false 16 ∧
    (∃ t g, byteAt.checkAccess byteAt.cur (rawAt 0x8000 + 56) 8 .load = .ok (t, g) ∧ g.place.inMemory = true) ∧
    (∃ t g, byteAt.checkAccess byteAt.cur 0xE000000000040000 32 .load = .ok (t, g) ∧ g.place = .fmt 12 0x40000) ∧
    (∃ t g, byteAt.checkAccess byteAt.cur 0x88000000000001C0 64 .load = .ok (t, g) ∧ g.place = .dev 0x1C0) ∧
    (∃ t, byteAt.checkAccess byteAt.cur (rawAt 0x8000 + 60) 8 .load = .error (.trap t 0x04 (rawAt 0x8000 + 60))) :=
  ⟨.inr (.inl ⟨1, 7, none, rfl, rfl, by decide, rfl⟩), .inl ⟨1, 0, 0, rfl, rfl, rfl, by decide, rfl⟩,
    .inr (.inr ⟨0, 0, 0, rfl, rfl, rfl, rfl, rfl, rfl⟩), ⟨_, _, rfl, rfl⟩, ⟨_, _, rfl, rfl⟩, ⟨_, _, rfl, rfl⟩, ⟨_, rfl⟩⟩

theorem witness_PlainLoadValue : byteAt.plain (byteAt.s 1) ((7 : BitVec 6).toNat + 1) (.raw (0x40000 + 56)) ∧
    0xAB = fieldOf (byteAt.peek (byteAt.wordAt (.raw (0x40000 + 56)))) ((byteAt.s 1).toNat % 64) ((7 : BitVec 6).toNat + 1) :=
  ⟨plain_raw (by decide), by decide⟩

theorem witness_StoreResults : byteAt.StoreForm (.stA 2 1 7 none) 2 (rawAt 0x8000 + 56) 8 none 32 ∧
    (∃ t g u, byteAt.checkAccess byteAt.cur (rawAt 0x8000 + 56) 8 .store = .ok (t, g) ∧ t.releaseOpt t.cur none = .ok u ∧ g.place.inMemory = true ∧
      homeOf g.pa ≠ .pcie) ∧
    (∃ t g, byteAt.checkAccess byteAt.cur 0x88000000000001C0 64 .store = .ok (t, g) ∧ g.place = .dev 0x1C0 ∧
      ∃ v, t.devStore t.cur 0x1C0 64 7 .dev = .ok v) ∧
    (∃ t, byteAt.checkAccess byteAt.cur (rawAt 0x8000 + 60) 8 .store = .error (.trap t 0x04 (rawAt 0x8000 + 60))) :=
  ⟨.inr (.inl ⟨1, 7, rfl, rfl, by decide, rfl⟩), ⟨_, _, _, rfl, rfl, rfl, by decide⟩, ⟨_, _, rfl, rfl, _, rfl⟩, ⟨_, rfl⟩⟩

/-- One posted access in flight to a word of HBM at address 0 or of a scratchpad, from partition `p`. -/
def flying (op : WriteOp) (pa : Nat) (p : BitVec 8) (ck : Bool) : State :=
  { State.reset with inflight := [⟨pa, op, ⟨0, 0⟩, p, .lane, 0, 0, 0, ck, false⟩] }

theorem witness_HomeMergeResults : (∀ op, op = .store 1 1 ∨ op = .stv 5 3 ∨ op = .reclaim →
      let s := flying op Config.spadBase 0 true
      s.memoryOk ∧ s.inflight = [⟨Config.spadBase, op, ⟨0, 0⟩, 0, .lane, 0, 0, 0, true, false⟩] ∧ s.parked = [] ∧ s.dropped = [] ∧ s.linksClear = true ∧ s.clean Config.spadBase ∧
      Config.spadBase % 8 = 0 ∧ (∃ c, homeOf Config.spadBase = .spad c) ∧ readOnlyBits Config.spadBase = 0 ∧ s.mgmt.safe = false ∧ Config.spadBase < Config.mgmtSpadBase ∧ s.foreign 0 false false Config.spadBase = false) ∧
    (flying (.store 1 1) Config.spadBase 3 true).foreign 3 false false Config.spadBase = true ∧ hostPageOff 0 = none ∧ homeOf 0 = .hbm ∧
    homeOf Config.cohBase = .coh := by
  refine ⟨?_, by decide, by decide, by decide, by decide⟩
  rintro op (rfl | rfl | rfl) <;>
    exact ⟨⟨by decide, by decide, by decide⟩, rfl, rfl, rfl, rfl, ⟨by decide, by decide⟩, by decide, ⟨0, by decide⟩, by decide, rfl, by decide, by decide⟩

/-- The upper half of a word, and a whole word. -/
theorem witness_AtomicResults : ∀ w64 : Bool, let s := regs (rawAt 0x8000 + (if w64 then 0 else 32)) 7 5
    let p : Place := .raw (0x40000 + (if w64 then 0 else 32))
    s.plain (s.s 1) (if w64 then 64 else 32) p ∧ (∀ off, homeOf (s.wordAt p) ≠ .control off) ∧ s.jobMayStore s.cur = false ∧ s.pcieWrites = [] ∧ s.parked = [] := by
  rintro (_ | _) <;> refine ⟨plain_raw (by decide), ?_, by decide, rfl, rfl⟩ <;> intro off h <;> exact absurd (show Home.spad 0 = .control off from h) (by simp)

theorem witness_ReductionResults : (∃ t g u, byteAt.checkAccess byteAt.cur (rawAt 0x8000) 64 .red = .ok (t, g) ∧ t.releaseOpt t.cur (some .dev) = .ok u ∧
      homeOf g.pa ≠ .pcie) ∧
    (∀ fn w, w = 32 ∨ w = 64 → let s := flying (.red fn (64 - w) w 1) Config.spadBase 0 true
      s.memoryOk ∧ s.parked = [] ∧ s.dropped = [] ∧ s.linksClear = true ∧ s.clean Config.spadBase ∧ s.foreign 0 false false Config.spadBase = false ∧ 64 - w + w ≤ 64) := by
  refine ⟨⟨_, _, _, rfl, rfl, by decide⟩, ?_⟩
  rintro fn w (rfl | rfl) <;> cases fn <;> exact ⟨⟨by decide, by decide, by decide⟩, rfl, rfl, rfl, ⟨List.not_mem_nil, List.not_mem_nil⟩, by decide, by decide⟩

theorem witness_TagResults : ∀ t : BitVec 4, t = 0 ∨ t = 1 →
    let s := (here (fun l => (l.setS 1 (rawAt 0x8000)).setS 8 (rawAt 0x8000))).setTag (rawByte 0 0x40000) t
    s.plain (s.s 1) 64 (.raw 0x40000) ∧ (Place.raw 0x40000).isSpad = true ∧ s.wordAt (.raw 0x40000) = rawByte 0 0x40000 ∧ s.parked = [] ∧
    s.lane.req = none ∧ s.jobMayStore s.cur = false ∧ s.pcieWrites = [] ∧ s.tag (rawByte 0 0x40000) = t ∧
    s.s 1 = cAddr (s.s (cReg 0)) 0 := by
  rintro t (rfl | rfl) <;> exact ⟨plain_raw (by decide), rfl, by decide, rfl, rfl, by decide, rfl, by decide, by decide⟩

/-- A BIND of lane 0 that may still store. -/
def storing : State := State.reset.setMyCore { Core.reset 0 with mq := [⟨1, 0, .bind 0 0 .rne false, none, 0, 0, 0, 0, 0⟩] }

/-- A store of lane 0 on its way to core 64, and one to host memory. -/
def far : Posted := ⟨Config.spadBase + 64 * 65536, .store 1 1, ⟨0, 0⟩, 0, .lane, 0, 0, 0, true, false⟩
def toHost : PcieWrite := ⟨⟨0, 0⟩, Config.pcieBase, 1, 1, 0, 0⟩

/-- That store, a link of its path down. -/
def cutOff : State := { here id with inflight := [far], links := [(far.path.headD 0, { Link.reset with down := true })] }

theorem witness_FenceResults : (here id).release (here id).cur .dev = .ok (here id) ∧
    storing.release ⟨0, 0⟩ .dev = .error (.wait storing 6) ∧ storing.settled ∧ storing.jobMayStore storing.cur = true ∧
    cutOff.inflight = [far] ∧ cutOff.dropped = [] ∧ far.who = cutOff.cur ∧ far.writer = .lane ∧
    (∃ n, n ∈ far.path ∧ (cutOff.link n).down = true) ∧ Scope.dev ≠ .lane ∧
    (let s : State := { here id with pcieWrites := [toHost] }; s.settled ∧ ∃ w, w ∈ s.pcieWrites ∧ w.who = s.cur) :=
  ⟨rfl, rfl, ⟨rfl, rfl, rfl⟩, by decide, rfl, rfl, rfl, rfl, by decide, by decide, ⟨rfl, rfl, rfl⟩, _, List.mem_singleton.mpr rfl, rfl⟩

/-- A spill area of `n` bits in the local raw window, with the pointer at `p` past its base. -/
def spilling (n p : Word) : State :=
  here (fun l => { l with spillbase := rawAt 0x8000, spilllim := rawAt 0x8000 + n, spillptr := rawAt 0x8000 + p })

theorem witness_SpillFillResults : ∀ p : Word, p = 0 ∨ p = 512 →
    let s := spilling 512 p
    s.lane.spv = false ∧ s.lane.spvEnd = false ∧ s.lane.spillptr.toNat % 64 = 0 ∧ s.settled ∧ s.unc = [] ∧ s.corr = [] ∧ s.unwatched ∧
    (8 : Reg).toNat ≤ (15 : Reg).toNat ∧ ((15 : Reg).toNat - (8 : Reg).toNat + 1) * (64 * 1) = 512 ∧ ((5 : Reg).toNat - (4 : Reg).toNat + 1) * (64 * 4) = 512 ∧
    0xC000000000000000 ≤ s.lane.spillptr.toNat ∧ s.lane.spillptr.toNat ≤ 0xC000000000200000 - 512 ∧
    (p = 0 → s.lane.spillbase.toNat ≤ s.lane.spillptr.toNat ∧ s.lane.spillptr.toNat + 512 ≤ s.lane.spilllim.toNat ∧
      ¬(s.lane.spillbase.toNat + 512 ≤ s.lane.spillptr.toNat)) ∧
    (p = 512 → s.lane.spillbase.toNat + 512 ≤ s.lane.spillptr.toNat ∧ s.lane.spillptr.toNat ≤ s.lane.spilllim.toNat ∧
      ¬(s.lane.spillptr.toNat + 512 ≤ s.lane.spilllim.toNat)) := by
  rintro p (rfl | rfl) <;> exact ⟨rfl, rfl, by decide, ⟨rfl, rfl, rfl⟩, rfl, rfl, rfl, by decide⟩

/-! Control and system instructions. -/

/-- A lane with a trap handler in entry 0 of its table. -/
def handled (arm : BitVec 4) (inTrap : Bool) : State :=
  let s := withSpad (here (fun l => { l with handlerbase := rawAt 0x8000, intrap := inTrap })) 0x8000 0xC000000000020000
  s.setMyCore { s.myCore with dbg := { Debug.reset with arm := arm } }

theorem witness_TrapEntryResults : (∀ a i, (handled a i).untraced (handled a i).cur) ∧ (handled 0 false).myCore.dbg.arm.toNat.testBit 0 = false ∧
    (handled 0 false).lane.intrap = false ∧ (∃ u, ((handled 0 false).withdraw (handled 0 false).cur).trapHandler (handled 0 false).cur = (u, some 0xC000000000020000)) ∧
    (handled 0 true).lane.intrap = true ∧ (Instr.bkpt 1 == .bkpt 1 && (handled 1 false).myCore.dbg.arm.toNat.testBit (handled 1 false).cur.lane) = true :=
  ⟨fun _ _ => rfl, by decide, rfl, ⟨_, rfl⟩, rfl, by decide⟩

theorem witness_TrapReturnResults : (here (fun l => { l with intrap := true, spvEnd := true })).lane.intrap = true ∧ (here id).lane.intrap = false ∧
    (here (fun l => { l with intrap := true, spvEnd := true })).lane.spvEnd = true ∧ (∀ d a f, Instr.nop ≠ .spillm d a f ∧ Instr.nop ≠ .fillm d a f) :=
  ⟨rfl, rfl, rfl, by simp⟩

set_option maxRecDepth 8192 in
theorem witness_ControlRegisterResults : (here id).lane.sup = false ∧ (here (fun l => { l with sup := true })).lane.sup = true ∧
    (∀ n, n < 8 ∨ n = 0x010 ∨ n = 0x013 ∨ n = 0x020 ∨ n = 0x025 ∨ n = 0x030 ∨ n = 0x037 ∨ n = 0x040 ∨ n = 0x047 → ((here id).crRead ⟨0, 0⟩ n).isSome = true) ∧
    (∀ n, n = 8 ∨ n = 0x014 ∨ n = 0x026 ∨ n = 0x038 ∨ n = 0x048 → (here id).crRead ⟨0, 0⟩ n = none) ∧ 5 ≤ (5 : Word).toNat % 8 ∧
    (2 ^ 63 + 2 ^ 27 * 32769 : Word).getLsbD 63 = true ∧ 2097152 < (2 ^ 63 + 2 ^ 27 * 32769 : Word).toNat % 2 ^ 21 / 64 * 64 + (2 ^ 63 + 2 ^ 27 * 32769 : Word).toNat / 2 ^ 27 % 2 ^ 16 * 64 ∧
    (13 : Word).getLsbD 0 = true ∧ (13 : Word).toNat / 4 % 4 = 3 := by
  refine ⟨rfl, rfl, ?_, ?_, by decide⟩
  · rintro n (h | rfl | rfl | rfl | rfl | rfl | rfl | rfl | rfl)
    · revert n; decide
    all_goals decide
  · rintro n (rfl | rfl | rfl | rfl | rfl) <;> decide

theorem witness_SystemResults : let s := here (fun l => { l with sup := true })
    s.lane.sup = true ∧ (here id).lane.sup = false ∧ (2 ^ 52 : Word).toNat / 2 ^ 52 ≠ 0 ∧
    s.namedLane ⟨0, 0⟩ ((2 ^ 23 + 2 ^ 20 : Word).toNat % 2 ^ 20) ((2 ^ 23 + 2 ^ 20 : Word).toNat / 2 ^ 20 % 4) = some ⟨0, 1⟩ ∧ (2 ^ 23 + 2 ^ 20 : Word).getLsbD 23 = true ∧
    (2 ^ 22 : Word).getLsbD 23 = false ∧ s.lane.ptag = 0 ∧ s.tagSettable ⟨0, 1⟩ = true ∧
    (here (fun l => { l with sup := true, ptag := 3 })).namedLane ⟨0, 0⟩ 0 0 = none ∧
    (here (fun l => { l with sup := true, ptag := 3 })).maskLanes ⟨0, 0⟩ 0 1 = none ∧ (here (fun l => { l with sup := true, ptag := 3 })).lane.ptag ≠ 0 ∧
    s.tagSettable ⟨0, 0⟩ = false ∧ 3 < (4 * 2 ^ 24 + 2 ^ 20 : Word).toNat / 2 ^ 24 % 8 ∧ (3 * 2 ^ 24 : Word).toNat / 2 ^ 20 % 16 = 0 ∧
    (3 * 2 ^ 24 + 2 ^ 21 : Word).toNat / 2 ^ 27 = 0 ∧ (3 * 2 ^ 24 + 2 ^ 21 : Word).toNat / 2 ^ 24 % 8 ≤ 3 ∧ (3 * 2 ^ 24 + 2 ^ 21 : Word).toNat / 2 ^ 20 % 16 ≠ 0 ∧
    s.maskLanes ⟨0, 0⟩ 0 2 = some [⟨0, 1⟩] ∧ (here (fun l => { l with run := .parked })).lane.run = .parked ∧ s.lane.ring = [] := by decide

theorem witness_EndhAndCompactControlResults : let s := here (fun l => { l with active := true, ring := [⟨0, 1, BitVec.ofNat 64 (9 * 2 ^ 22), 0, none, 0, 0, ⟨5, none⟩⟩] })
    s.untraced s.cur ∧ s.lane.active = true ∧ s.lane.ring = [⟨0, 1, BitVec.ofNat 64 (9 * 2 ^ 22), 0, none, 0, 0, ⟨5, none⟩⟩] ∧ s.settled ∧ s.s 1 = 0 ∧
    (regs 8 0 0).s 1 ≠ 0 ∧ (s.s 1).toNat % 16 = 0 ∧ ((regs 8 0 0).s 1).toNat % 16 ≠ 0 ∧ cutOff.untraced cutOff.cur ∧
    (∃ t, s.endh s.cur = .ok t) ∧ (∃ n, n ∈ far.path ∧ (cutOff.link n).down = true) :=
  ⟨rfl, rfl, rfl, ⟨rfl, rfl, rfl⟩, by decide, by decide, by decide, by decide, rfl, ⟨_, rfl⟩, by decide⟩

/-! Vectors, conversions, blocks. -/

theorem noStreams_of {l : Lane} (h : l.streamcfg = Vector.replicate 8 0) : l.noStreams := by
  intro n
  simp [Lane.streamOf, h, bit]

/-- Lane 0 with v1 and v2, mask m1 and the rounding mode. -/
def vecs (m : BitVec 32) (r : RoundMode) : State :=
  here (fun l => { (((l.setV 1 0x3FC00000).setV 2 0x02).setM 1 m).setS 1 (rawAt 0x8000) with rmode := r })

theorem vecs_noStreams (m : BitVec 32) (r : RoundMode) : (vecs m r).lane.noStreams := noStreams_of rfl

theorem witness_VectorElementResults : (vecs 5 .rs).lane.noStreams ∧ tyFloat .i16 = none ∧ tyFloat .bf16 = some .bf16 ∧ tyFloat .f32 = some .f32 ∧
    (vecs 5 .rne).lane.rmode ≠ .rs := ⟨vecs_noStreams _ _, rfl, rfl, rfl, by decide⟩

theorem witness_VectorMoveResults : (vecs 0x80 .rne).lane.noStreams ∧ 32 = viewBits .e32 ∧ 8 = 256 / 32 ∧
    (((vecs 0x80 .rne).lane.m 1).getLsbD 7 = true ∧ ∀ j, j < 7 → ((vecs 0x80 .rne).lane.m 1).getLsbD j = false) ∧
    (∀ i, i < 8 → ((vecs 0 .rne).lane.m 1).getLsbD i = false) := ⟨vecs_noStreams _ _, by decide⟩

theorem witness_VectorReductionResults : (vecs 0 .rne).lane.noStreams ∧ 8 = viewBits (tyView .i8) ∧ 32 = 256 / 8 ∧ tyFloat .i8 = none ∧
    tyFloat .f32 = some .f32 ∧ (vecs 0 .rne).lane.rmode ≠ .rs := ⟨vecs_noStreams _ _, by decide⟩

theorem witness_VectorMemoryResults : let s := vecs 0x81 .rne
    s.lane.noStreams ∧ 32 = viewBits .e32 ∧ (∃ u, s.checkElems 32 .load (fun j => s.s 1 + word (vstep (s.s 1) 32 * j)) (activeElems (s.lane.m 1) (256 / 32)) = .ok u) ∧
    (∃ u, s.checkElems 32 .store (fun j => s.s 0 + s.s 1 * word j) (activeElems (s.lane.m 0) (256 / 32)) = .error (.trap u 0x07 0)) ∧ s.settled ∧
    (∀ j ∈ activeElems (s.lane.m 1) (256 / 32), s.plain (s.s 1 + word (vstep (s.s 1) 32 * j)) 32 (.raw (0x40000 + 32 * j))) := by
  refine ⟨vecs_noStreams _ _, rfl, ⟨_, rfl⟩, ⟨_, rfl⟩, ⟨rfl, rfl, rfl⟩, fun j hj => plain_raw ?_⟩
  revert j; decide

/-- The words of a block are read where their accesses are in order, nothing is in flight and no word has an error. -/
theorem readHalves_ok {s : State} (hs : s.settled) (h1 : s.unc = []) (h2 : s.corr = []) (r : LaneRef) (own : Bool) (k : Access) :
    ∀ (n : Nat) (a : Word) (prev : Option Word), (∀ j, j < n → ∃ t, s.checkAccess r (a + 32 * word j) 32 k = .ok (s, t)) →
      ∃ xs, s.readHalves r own k a prev n = .ok (s, xs) := by
  have one (a : Word) (h : ∃ t, s.checkAccess r a 32 k = .ok (s, t)) : ∃ x, s.readHalf r own a k = .ok (s, x) := by
    obtain ⟨t, ht⟩ := h
    exact ⟨_, by simp only [State.readHalf, ht]; rw [State.readPart_clean hs (by simp [State.clean, h1, h2])]⟩
  intro n
  induction n with
  | zero => intros; exact ⟨[], rfl⟩
  | succ n ih =>
    intro a prev h
    have h0 : ∃ t, s.checkAccess r a 32 k = .ok (s, t) := by simpa [word] using h 0 (by omega)
    have first : ∃ x, s.readHalfAfter r own k a prev = .ok (s, x) := by
      obtain ⟨x, hx⟩ := one a h0
      obtain ⟨t, ht⟩ := h0
      unfold State.readHalfAfter
      cases prev with
      | none => exact ⟨x, hx⟩
      | some y => by_cases hb : bits a 5 5 = 1 <;> simp [hb, ht, hx]
    obtain ⟨x, hx⟩ := first
    obtain ⟨xs, hxs⟩ := ih (a + 32) (some x) (fun j hj => by
      have := h (j + 1) (by omega)
      rwa [show a + 32 * word (j + 1) = a + 32 + 32 * word j by simp [word]; bv_omega] at this)
    exact ⟨_, by simp only [State.readHalves, hx, hxs]; rfl⟩

/-- Memory with the header of a block of value zero in format W6 (S = 0) at raw byte 0x8000. -/
def zeroBlock : State :=
  { vecs 0 .rs with mem := [(rawByte 0 0x40000 + 1, 8), (rawByte 0 0x40000 + 2, 0xB0), (rawByte 0 0x40000 + 3, 2)] }

/-- A block, and what is no block. -/
theorem witness_ConversionResults_blocks : let s := vecs 0 .rs
    (∃ c v, s.blockAt s.cur true (s.s 1) (· == .w4) false .load = .error (.trap s c v)) ∧
    (∃ b n, zeroBlock.blockAt zeroBlock.cur true (zeroBlock.s 1) (· == .w6) false .load = .ok (zeroBlock, b, n)) := by
  constructor
  · have h : (vecs 0 .rs).readHalf (vecs 0 .rs).cur true ((vecs 0 .rs).s 1) .load = .ok (vecs 0 .rs, 0) := by
      rw [State.readHalf, show (vecs 0 .rs).checkAccess (vecs 0 .rs).cur ((vecs 0 .rs).s 1) 32 .load = .ok (vecs 0 .rs, _) from rfl]
      dsimp only
      rw [State.readPart_clean ⟨rfl, rfl, rfl⟩ ⟨List.not_mem_nil, List.not_mem_nil⟩]
      rfl
    exact ⟨_, _, by rw [State.blockAt, h]; rfl⟩
  · have h : zeroBlock.readHalf zeroBlock.cur true (zeroBlock.s 1) .load = .ok (zeroBlock, 0x02B00800) := by
      rw [State.readHalf, show zeroBlock.checkAccess zeroBlock.cur (zeroBlock.s 1) 32 .load = .ok (zeroBlock, _) from rfl]
      dsimp only
      rw [State.readPart_clean ⟨rfl, rfl, rfl⟩ ⟨List.not_mem_nil, List.not_mem_nil⟩]
      rfl
    obtain ⟨xs, hx⟩ := readHalves_ok (s := zeroBlock) ⟨rfl, rfl, rfl⟩ rfl rfl zeroBlock.cur true .load 6 (zeroBlock.s 1 + 32) (some 0x02B00800)
      (fun j hj => by
        have : j = 0 ∨ j = 1 ∨ j = 2 ∨ j = 3 ∨ j = 4 ∨ j = 5 := by omega
        rcases this with rfl | rfl | rfl | rfl | rfl | rfl <;> exact ⟨_, rfl⟩)
    refine ⟨⟨.w6, 0, .zero⟩, 224, ?_⟩
    rw [State.blockAt, h]
    dsimp only
    rw [show (if bits (zeroBlock.s 1) 5 5 = 1 then bits (0x02B00800 : Word) 63 32 else bits (0x02B00800 : Word) 31 0) = 0x02B00800 from by decide,
      show blockWords 0x02B00800 (· == .w6) false - 1 = 6 from by decide, hx]
    simp [decodeBlock, BlkHdr.ofNat, checkHeader, blkChk, blkFmtOf, blkBits, b2n]
    rfl

theorem witness_ConversionResults : let s := vecs 0 .rs
    s.lane.noStreams ∧ (s.s 1).toNat % 32 = 0 ∧ recordSpace (s.s 1) = true ∧ (33 : Word).toNat % 32 ≠ 0 ∧ recordSpace 0xC800000000000000 = false ∧
    (0xC800000000000000 : Word).toNat % 32 = 0 ∧ (s.checkWords [(rawAt 0x8000, -1, 5)] matches .ok _) = true ∧
    s.plain (rawAt 0x8000) 64 (.raw 0x40000) false ∧ (s.checkWords [(0, -1, 5)] matches .error (.trap ..)) = true :=
  ⟨vecs_noStreams _ _, by decide, by decide, by decide, by decide, by decide, by decide, plain_raw (by decide), by decide⟩

theorem witness_PackedBlockDecodes : (List.replicate 32 (FVal.fin false 3 2)).length = 32 ∧ (CbSel.cb 0 = .cb 0 ∨ BlkFmt.w4 = .cw8) ∧
    (CbSel.auto = .cb 0 ∨ BlkFmt.cw8 = .cw8) := by decide

theorem witness_FloatRoundingExact : (FFmt.f32 = .f32 ∨ FFmt.f32 = .f16 ∨ FFmt.f32 = .bf16) ∧ 0x7F800001 < 2 ^ FFmt.f32.width ∧ 0xFFFF < 2 ^ 16 ∧
    FFmt.f32.decode 0x7F800001 = .nan ∧ FFmt.f32.decode 0x00000001 ≠ .nan ∧ (FFmt.f16.decode (FFmt.f16.infCode - 1)).lt (.fin false 65505 0) = true ∧
    (FFmt.bf16.decode (FFmt.bf16.infCode - 1)).lt (.fin false 1 128) = true ∧ (FFmt.f32.decode (FFmt.f32.infCode - 1)).lt (.fin false 1 128) = true := by decide

theorem witness_CordicAndRandomResults : cordicSpecial .exp 0xFF800000 0 = some 0 ∧ cordicSpecial .exp 0x3F800000 0 = none ∧ CordicFn.exp ≠ .atan2 ∧
    (vecs 0 .rne).lane.noStreams := ⟨by decide, by decide, by decide, vecs_noStreams _ _⟩

/-- R31: 65,519.99… rounds to the largest F16 value and 65,520 to infinity, to nearest; toward zero neither does. -/
theorem test_f16_overflow : FFmt.f16.round .rne 0 (.fin false 65519 0) = 0x7BFF ∧ FFmt.f16.round .rne 0 (.fin true 65520 0) = 0xFC00 ∧
    FFmt.f16.round .rtz 0 (.fin false 70000 0) = 0x7BFF := by decide

/-! Handles. -/

/-- Handle h3 of four 64-bit slots in the local raw window, with role `r`, whose control word is `x`. -/
def handle (r : BitVec 2) (x : Word) : State :=
  withSpad (here (fun l => (l.setH 3 ⟨rawAt 0x8008, 4, 64, r⟩).setS 1 (rawAt 0x9000))) 0x8000 x

theorem witness_HandleResults_faults : (handle 0 0).lane.h 0 = Handle.invalid ∧ Handle.invalid.valid = false ∧ ((handle 1 0).lane.h 3).valid = true ∧
    ((handle 1 0).lane.h 3).role.toNat.testBit 0 = true ∧ ((handle 1 0).lane.h 3).role.toNat.testBit 1 = false ∧
    ((handle 1 0).lane.h 3).slots.toNat < (5 : BitVec 12).toNat ∧ ((handle 1 0).lane.h 3).slots.toNat < (4 : BitVec 12).toNat + 1 := by decide

/-- Empty, full and once around. -/
theorem witness_HandleResults_ring : ∀ x : Word, x = 0 ∨ x = 0x400000000 ∨ x = 0x2FFFFFFFE →
    let s := handle 3 x
    let y := s.lane.h 3
    y.valid = true ∧ s.plain y.ctl 64 (.raw 0x40000) ∧ s.parked = [] ∧ s.lane.req = none ∧ s.released ∧
    s.peek (s.wordAt (.raw 0x40000)) = x ∧ y.role.getLsbD 0 = true ∧ y.role.getLsbD 1 = true ∧ (4 : BitVec 12).toNat ≤ y.slots.toNat ∧
    (x.toNat / 2 ^ 32 + 2 ^ 32 - x.toNat % 2 ^ 32) % 2 ^ 32 = (if x = 0 then 0 else 4) ∧ min y.slotw.toNat 64 = 64 ∧
    s.plain (y.base + BitVec.ofNat 64 (y.slotw.toNat * 3)) 64 (.raw 0x40100) true ∧
    s.plain (y.base + BitVec.ofNat 64 (y.slotw.toNat * 3)) 64 (.raw 0x40100) := by
  rintro x (rfl | rfl | rfl) <;> exact ⟨by decide, plain_raw (by decide), rfl, rfl, ⟨⟨rfl, rfl, rfl⟩, by decide, rfl⟩, by decide, by decide, by decide,
    by decide, by decide, by decide, plain_raw (by decide), plain_raw (by decide)⟩

/-- A descriptor of a valid handle, and of one that starts too low for its control word. -/
theorem witness_HandleResults_set : ∀ b : Word, b = rawAt 0x8008 ∨ b = rawAt 0 →
    let s := withSpad (withSpad (handle 0 0) 0x9000 b) 0x9008 (4 + 64 * 2 ^ 16 + 3 * 2 ^ 32)
    s.plain (s.s 1) 64 (.raw 0x48000) true ∧ s.plain (s.s 1 + 64) 64 (.raw 0x48040) true ∧ recordSpace (s.s 1) = true ∧ (s.s 1).toNat % 64 = 0 ∧
    s.peek (s.wordAt (.raw 0x48000)) = b ∧ s.peek (s.wordAt (.raw 0x48040)) = 4 + 64 * 2 ^ 16 + 3 * 2 ^ 32 ∧
    spanOk ⟨b, 4, 64, 3⟩ = decide (b = rawAt 0x8008) ∧ (⟨b, 4, 64, 3⟩ : Handle).valid = true := by
  rintro b (rfl | rfl) <;> exact ⟨plain_raw (by decide), plain_raw (by decide), by decide⟩

theorem witness_HandleResults_bind : let y : Handle := ⟨rawAt 0x8008, 4, 32, 1⟩
    y.valid = true ∧ y.role.toNat.testBit 0 = true ∧ y.slotw.toNat = viewBits .e32 ∧ (0xFFFFFFFF : Word).toNat < 2 ^ 32 ∧
    2 ^ 32 ≤ (0x100000000 : Word).toNat ∧ ¬(y.slotw.toNat = viewBits .e16) ∧ ((handle 0 0).lane.streamOf 2).getLsbD 0 = false ∧
    ((here (fun l => l.setStream 2 1)).lane.streamOf 2).getLsbD 0 = true := by decide

/-! Matrix. -/

/-- Lane 0 with a queue of `n` matrix jobs of lane 1. -/
def jobs (n : Nat) (f : Lane → Lane) : State :=
  let s := here f
  s.setMyCore { s.myCore with mq := List.replicate n ⟨1, 1, .mzero 1, none, 0, 0, 0, 0, 0⟩ }

theorem witness_MatrixIssueResults : (∀ n, (jobs n id).settled ∧ (jobs n id).pcieWrites = []) ∧ (jobs 15 id).jobMayStore (jobs 15 id).cur = false ∧ (jobs 15 id).myCore.mq.length < 16 ∧
    16 ≤ (jobs 16 id).myCore.mq.length ∧ (2 ^ 56 : Word).toNat / 2 ^ 56 ≠ 0 ∧
    ((1 * 2 ^ 16 + 2 ^ 24 : Word).toNat / 2 ^ 16 % 256 ≠ 0 ∧ (1 * 2 ^ 16 + 2 ^ 24 : Word).toNat / 2 ^ 24 % 16 ≠ 0 ∧ (1 * 2 ^ 16 + 2 ^ 24 : Word).toNat / 2 ^ 42 = 0) ∧
    decodeWindow 0xC800000000000000 = some (.fmt 9 0) ∧ (0xC800000000000000 : Word).toNat % 32 = 0 ∧ (0xC800000000000001 : Word).toNat % 32 ≠ 0 ∧
    (1023 * 2 ^ 32 + 1 * 2 ^ 16 + 2 ^ 24 : Word).toNat / 2 ^ 32 % 1024 = 1023 ∧
    (0xFFFF : Word).toNat < 2 ^ 16 ∧ 2 ^ 16 ≤ (0x10000 : Word).toNat ∧ (here (fun l => { l with rmode := .rs })).lane.rm .dyn = .rs ∧
    (here id).lane.rm .dyn ≠ .rs ∧ inScratch (rawAt 0x8000) = true ∧ (rawAt 0x8000).toNat % 64 = 0 ∧ inScratch 0 = false ∧ (rawAt 0x8000 + 1).toNat % 64 ≠ 0 := by
  refine ⟨fun n => ⟨⟨rfl, rfl, rfl⟩, rfl⟩, ?_⟩
  decide

/-- A started lane of a gang, whose descriptor obeys the team rules. -/
theorem witness_MatrixIssueResults_team : let s := onDie (dieOfTask (taskOf (recOf 0 0 1 0)))
    (s.setLane { s.lane with task := 1 }).teamBad s.cur (1023 * 2 ^ 32 + 1 * 2 ^ 16 + 2 ^ 24) = false ∧ s.lane.gxy = (0, 0) ∧ s.released :=
  ⟨by decide, by decide, ⟨rfl, rfl, rfl⟩, by decide, rfl⟩

theorem witness_JobWaitResults : (jobs 15 id).released ∧ (jobs 15 id).myCore.mq.length < 16 ∧ (jobs 15 id).lane.noStreams ∧ (jobs 15 id).lane.waitJob = none ∧
    (8 : Word).toNat ≤ 8 ∧ ¬((9 : Word).toNat ≤ 8 ∨ (9 : Word) = 15) ∧ accrdBad 29 (31 + 2 ^ 8) = false ∧ (0xFFFF : Word).toNat < 2 ^ 16 ∧ 2 ^ 16 ≤ (0x10000 : Word).toNat ∧
    (∀ f, (jobs 15 (fun l => { l with waitJob := some (.reply (List.replicate 32 0) 5 f) })).lane.waitJob = some (.reply (List.replicate 32 0) 5 f)) ∧
    (List.replicate 32 (0 : BitVec 32)).length = 32 ∧ (31 : Word).toNat < 32 ∧ (∀ x ∈ (jobs 15 id).myCore.mq, x.lane % 4 ≠ 0) ∧
    (5 : BitVec 32) ≠ 0 ∧ ((4 : BitVec 32) - 5).toNat = 2 ^ 32 - 1 ∧ ((5 : BitVec 32) - 5).toNat < 2 ^ 31 := by
  refine ⟨⟨⟨rfl, rfl, rfl⟩, by decide, rfl⟩, by decide, noStreams_of rfl, rfl, by decide, by decide, by decide, by decide, by decide, fun _ => rfl, ?_⟩
  decide

/-- One matrix job in core 1 of cluster 0, from lane 2, with the slots `a` of its set, and at bit 0x40000 of the quad the header of a block
of value zero in format W6. -/
def engine (op : MOp) (a : AccSet) (m : Option MRun) : State :=
  let s : State := { State.reset with mem := [(rawByte 1 0x40000 + 1, 8), (rawByte 1 0x40000 + 2, 0xB0), (rawByte 1 0x40000 + 3, 2)] }
  let s := s.setCore 1 { Core.reset 1 with mq := [⟨5, 2, op, none, 0, 0, 0, 0, 0⟩] }
  s.setCluster 0 { Cluster.reset with sets := Cluster.reset.sets.set 2 a, mrun := m }

theorem witness_MatrixJobResults : ∀ op a,
    let s := engine op a none
    (s.core 1).mq = [⟨5, 2, op, none, 0, 0, 0, 0, 0⟩] ∧ (∀ i, i < 8 → i ≠ 1 → (s.core (0 * 8 + i)).mq = []) ∧ (s.cluster 0).mcore < 8 ∧
    (s.cluster 0).started = [] ∧ (s.laneAt ⟨1, 2⟩).accspill = 0 ∧ (s.cluster 0).mrun = none ∧ s.settled ∧ s.accSet 0 2 = a ∧
    (∀ i, s.clean (quadByte 1 i)) ∧ (s.laneAt ⟨1, 2⟩).run ≠ .parked ∧ (s.laneAt ⟨1, 2⟩).due = [] := by
  intro op a
  refine ⟨rfl, ?_, by show 0 < 8; decide, rfl, rfl, rfl, ⟨rfl, rfl, rfl⟩, rfl, fun _ => ⟨List.not_mem_nil, List.not_mem_nil⟩,
    by show (Lane.reset 1 2).run ≠ .parked; decide, rfl⟩
  intro i hi h
  have : i = 0 ∨ i = 2 ∨ i = 3 ∨ i = 4 ∨ i = 5 ∨ i = 6 ∨ i = 7 := by omega
  rcases this with rfl | rfl | rfl | rfl | rfl | rfl | rfl <;> rfl

/-- The header of a block of value zero in format W6, and what is no header. -/
theorem decode_zeroBlock (f : Nat → Nat) (h : f 0 = 0x02B00800) : decodeBlock f (windowAccepts 12) false (2 ^ 21 - 0x40000) = .ok (⟨.w6, 0, .zero⟩, 224) := by
  simp [decodeBlock, h, BlkHdr.ofNat, checkHeader, blkChk, blkFmtOf, blkBits, b2n, windowAccepts]
  rfl
theorem decode_noBlock (f : Nat → Nat) (h : f 0 = 0) : decodeBlock f (windowAccepts 12) false (2 ^ 21 - 0x80000) = .error .check := by
  simp [decodeBlock, h, BlkHdr.ofNat, checkHeader, blkChk]
  rfl

/-- A descriptor of label 7, one row, one column and one k-block, and its streams: the block of zero, and what is no block. -/
theorem witness_MatrixJobResults_stream : let desc : Word := 7 + 2 ^ 16 + 2 ^ 24
    let s := engine (.mma false 1 0xE000000000040000 0xE000000000040000 desc) ⟨[], 0⟩ none
    dLabel desc = 7 ∧ (dNr desc + 1) * dKb desc = 1 ∧ (dNc desc + 1) * dKb desc = 1 ∧ (0xE000000000040000 : Word).toNat % 2 ^ 21 = 0x40000 ∧
    streamWin 0xE000000000040000 = 12 ∧ dLa desc = false ∧
    s.quadBlocks 1 (windowAccepts 12) false 0x40000 [⟨.w6, 0, .zero⟩] (0x40000 + 224) ∧
    s.quadFails 1 (windowAccepts 12) false 0x80000 0x0B ∧ s.quadFails 1 (windowAccepts 12) false (2 ^ 21 - 31) 0x05 :=
  ⟨by decide, by decide, by decide, by decide, by decide, by decide, ⟨by decide, 224, decode_zeroBlock _ (by decide), rfl⟩,
    .inr ⟨by decide, .check, decode_noBlock _ (by decide), rfl⟩, .inl ⟨by decide, rfl⟩⟩

theorem witness_MatrixJobResults_slots : (⟨[], 0⟩ : AccSet).find 7 = none ∧ (⟨[], 0⟩ : AccSet).free = some 0 ∧
    (⟨[(3, ⟨7, [(5, 1)], 2, []⟩)], 2⟩ : AccSet).find 7 = some (3, ⟨7, [(5, 1)], 2, []⟩) ∧ Table.sorted [(5, (1 : BitVec 32))] = true := by decide

theorem witness_MatrixJobResults_ends : ∀ e : MEnd, let m : MRun := ⟨1, ⟨5, 2, .mzero 7, none, 0, 0, 0, 0, 0⟩, [], some e⟩
    let s := engine (.mzero 7) ⟨[], 0⟩ (some m)
    (s.cluster 0).mrun = some m ∧ m.done = some e ∧ (s.core 1).mq = [m.job] ∧ s.settled ∧ m.job.key = none ∧ m.job.fifo = none ∧
    (s.core 1).mresq.length < 16 ∧ (s.laneAt ⟨1, 2⟩).run ≠ .parked ∧ (s.laneAt ⟨1, 2⟩).due = [] :=
  fun _ => ⟨rfl, rfl, rfl, ⟨rfl, rfl, rfl⟩, rfl, rfl, by show (Core.reset 1).mresq.length < 16; decide,
    by show (Lane.reset 1 2).run ≠ .parked; decide, rfl⟩

/-- Two copies of a tile that differ, and two that agree. -/
theorem witness_MatrixJobResults_copies : let o (cells : List (Nat × BitVec 32)) : MOut :=
      { MOut.ofEdits 2 [(3, some (7, [(5, 1)]))] with copy := some ⟨3, cells⟩ }
    Table.find (o []).edits 3 = some (some (7, [(5, 1)])) ∧ cellAt [(5, 1)] 0 5 ≠ cellAt [] 0 5 ∧ (MOut.ofEdits 2 []).copy = none ∧
    (∀ x ∈ (o []).edits, x.1 ≠ 4) ∧ (∀ p c, p < 32 → c < 32 → cellAt [(5, 1)] p c = cellAt [(5, 1)] p c) :=
  ⟨by decide, by decide, rfl, by decide, fun _ _ _ _ => rfl⟩

/-- A team job of cluster 0, core 0, and its partner of cluster 256, both from lane 0. -/
def team (desc : Word) : State :=
  let j (at_ : Nat × Nat) : MJob := ⟨1, 0, .mma true 1 0 0 desc, none, 0, 1, 0, at_⟩
  (State.reset.setCore 0 { Core.reset 0 with mq := [j (0, 0)] }).setCore (256 * 8) { Core.reset (256 * 8) with mq := [j (1, 0)] }

theorem witness_TeamReservationResults : ∀ desc : Word, desc = 0 ∨ desc = 1 * 2 ^ 42 → ∃ j j2,
    ((team desc).teamJob 0 (0, 0, BitVec.ofNat 8 (desc.toNat / 2 ^ 48)) = some (0, j) ∧ j.op = .mma true 1 0 0 desc ∧ ((team desc).core 0).oldestOfLane j = true ∧
    ((team desc).cluster 0).granted = none ∧ ((team desc).cluster 0).reserved = [] ∧
    ((team desc).cluster 0).hasTeam (0, 0, BitVec.ofNat 8 (desc.toNat / 2 ^ 48)) = false ∧ (team desc).teamJob (0 + 256) (0, 0, 0) = some (256 * 8, j2) ∧
    j2.op = .mma true 1 0 0 desc ∧ ((team desc).core (256 * 8)).oldestOfLane j2 = true) := by
  rintro desc (rfl | rfl) <;> exact ⟨_, _, rfl, rfl, by decide, rfl, rfl, rfl, rfl, rfl, by decide⟩

/-! Messages and engines as instructions. -/

/-- Lane 0 with `n` messages in its queue, header `h` in s1 and a body address in s2. -/
def sender (n : Nat) (h : Word) (sup : Bool) : State :=
  here (fun l => { (l.setS 1 h).setS 2 (rawAt 0x8000) with sendq := List.replicate n [0, 0, 0, 0], sup := sup })

theorem witness_MessageResults : (sender 7 (9 * 2 ^ 22) false).released ∧ (sender 7 (9 * 2 ^ 22) false).lane.sendq.length < 8 ∧
    8 ≤ (sender 8 (9 * 2 ^ 22) false).lane.sendq.length ∧ ((sender 7 (9 * 2 ^ 22) false).s 1).toNat / 2 ^ 22 % 64 = 9 ∧
    ((sender 7 (9 * 2 ^ 22) false).s 1).toNat / 2 ^ 36 % 8 + 1 = 1 ∧ (62 * 2 ^ 22 : Word).toNat / 2 ^ 22 % 64 = 62 ∧ (sender 0 0 true).lane.sup = true ∧
    (2 ^ 36 : Word).toNat / 2 ^ 36 % 8 + 1 ≠ 1 ∧ spanInWindow ((sender 7 0 false).s 2) 3 = true ∧ ((sender 7 0 false).s 2).toNat % 64 = 0 ∧
    spanInWindow 0 3 = false ∧ spanInWindow (rawAt 0x8000 + 1) 3 = true ∧ (rawAt 0x8000 + 1).toNat % 64 ≠ 0 ∧
    (∀ i, i < 3 → (sender 7 0 false).plain ((sender 7 0 false).s 2 + BitVec.ofNat 64 (64 * i)) 64 (.raw (0x40000 + 64 * i))) ∧
    (0 : Word).toNat ≤ ((sender 0 0 false).myCore.lane 0).rxcnt.toNat ∧ ((sender 0 0 false).myCore.lane 0).rxcnt.toNat < (1 : Word).toNat ∧
    (2 ^ 20 : Word).toNat / 2 ^ 20 ≠ 0 ∧ (sender 0 0 false).myCore.mbx = [] ∧ (posted 1 [(5, 0)]).myCore.mbx = [(5, 0)] ∧ (1 : Word).toNat ≤ 8 ∧ 8 < (9 : Word).toNat := by
  refine ⟨⟨⟨rfl, rfl, rfl⟩, by decide, rfl⟩, by decide, by decide, by decide, by decide, by decide, by decide, by decide, by decide, by decide, by decide, by decide,
    by decide, ?_, by decide, by decide, by decide, rfl, rfl, by decide, by decide⟩
  intro i hi
  apply plain_raw
  revert i; decide

/-- A lane that waits in MBXTAKE, and one entry. -/
def takers (m : List (BitVec 32 × BitVec 32)) (w : List Nat) : State :=
  let s := here id
  s.setMyCore { (s.myCore.setLane 1 { s.myCore.lane 1 with run := .stalled, waiting := some (.mbxtake 3) }) with mbx := m, mbxWait := w }

theorem witness_MessageResults_takes : (∀ row v f, (takers [] []).lane.waitJob ≠ some (.reply row v f)) ∧
    (∀ i ∈ (takers [] [0]).myCore.mbxWait, ((takers [] [0]).myCore.lane i).takes = true → i = (takers [] [0]).cur.lane % 4) ∧
    (takers [] [0]).myCore.mbx = [] ∧ (takers [(5, 7)] [0]).myCore.mbx = [(5, 7)] ∧ (takers [(5, 7)] [1]).myCore.mbxWait = [1] ∧
    ((takers [(5, 7)] [1]).myCore.lane 1).takes = true ∧ 1 ≠ (takers [(5, 7)] [1]).cur.lane % 4 ∧
    (here (fun l => { l with waitJob := some (.reply [] 5 false) })).lane.waitJob = some (.reply [] 5 false) :=
  ⟨fun _ _ _ h => (by simpa using (show (none : Option JobWait) = _ from h)), by decide, rfl, rfl, rfl, by decide, by decide, rfl⟩

/-- The records of `witness_DeviceRegisterResults_push`, with the address in s1 and a barrier in s2. -/
def brook (n : Nat) (a b c d : Word) : State :=
  let s := recorded a b c d
  let s := s.setLane ((s.lane.setS 1 (rawAt 0x8000)).setS 2 d)
  s.setMyCore { s.myCore with bq := List.replicate n ⟨1, 1, 0, 0, 0, 0, .rne, false, 0, 0, 0, false⟩ }

theorem witness_BrookIssueResults : ∀ s, s = brook 15 (rawAt 0x9000) (rawAt 0xA000) 64 0 ∨ s = brook 16 0 0 0 0 →
    s.released ∧ recordSpace (s.s 1) = true ∧ (s.s 1).toNat % 64 = 0 ∧
    ∀ i, i < 4 → s.plain (s.s 1 + BitVec.ofNat 64 (64 * i)) 64 (.raw (0x40000 + 64 * i)) := by
  rintro s (rfl | rfl) <;> refine ⟨⟨⟨rfl, rfl, rfl⟩, by decide, rfl⟩, by decide, by decide, ?_⟩ <;> intro i hi <;> apply plain_raw <;> revert i <;> decide

theorem witness_BrookIssueResults_checks : (brook 15 0 0 0 0).lane.brookCheck (rawAt 0x9000) (rawAt 0xA000) 64 0 (some false) = .ok .rne ∧
    (brook 15 0 0 0 0).lane.brookCheck (rawAt 0x9000) (rawAt 0xA000) (1 + 2 ^ 37) 0 (some true) = .ok .rne ∧
    (brook 15 0 0 0 0).lane.brookCheck (rawAt 0x9000) (rawAt 0xA000) 63 0 (some false) = .error (0x01, 63) ∧
    (brook 15 0 0 0 0).lane.brookCheck (rawAt 0x9000) (rawAt 0xA000) 64 0 none = .ok .rne ∧
    (brook 15 0 0 0 0).myCore.bq.length < 16 ∧ 16 ≤ (brook 16 0 0 0 0).myCore.bq.length ∧
    (brook 15 0 0 0 0).matrixCommand (brook 15 0 0 0 0).cur [2, 9, 0, 0] = .ok (.mzero 9) ∧
    (brook 15 0 0 0 0).matrixCommand (brook 15 0 0 0 0).cur [6, 0, 0, 0] = .error (0x01, 6) ∧ (15 : Word).toNat < 16 ∧ 16 ≤ (16 : Word).toNat := by decide

/-- A lane that has waited for a queue entry with the descriptor that it read. -/
theorem witness_BrookIssueResults_resumed : let s := brook 15 (rawAt 0x9000) (rawAt 0xA000) 64 0
    let s := s.setLane { s.lane with waiting := some (.bcopy 2 1 3 .dev), kept := ⟨true, none, some ([rawAt 0x9000, rawAt 0xA000, 64, 0], .rne), []⟩ }
    s.lane.waiting ≠ none ∧ s.lane.kept.desc = some ([rawAt 0x9000, rawAt 0xA000, 64, 0], .rne) ∧ s.myCore.bq.length < 16 ∧
    (brook 15 0 0 0 0).lane.waiting = none := ⟨by show some _ ≠ none; simp, rfl, by decide, rfl⟩

theorem witness_BrookWaitResults : (∀ x ∈ (brook 1 0 0 0 0).myCore.bq, x.lane % 4 ≠ (brook 1 0 0 0 0).cur.lane % 4) ∧ ¬(∀ x ∈ (slept 5).myCore.bq, x.lane % 4 ≠ (slept 5).cur.lane % 4) ∧
    (slept 5).lane.blast = 0 ∧ ((slept 5).s 1).toNat < (slept 5).dtc.toNat ∧ ¬(((slept 5).s 1).toNat < (here id).dtc.toNat) ∧ ((slept 5).s 3).truncate 32 = (5 : BitVec 32) ∧
    Table.find [(5, 0)] (5 : BitVec 32).toNat = some 0 ∧ Table.find ([] : List (Nat × Nat)) (5 : BitVec 32).toNat = none := by decide

/-- One Brook job in core 1 of cluster 0, from lane 2, whose turn it is; `w` is its word 2, `bar` its barrier. -/
def brookJob (w bar : Word) : BJob := ⟨5, 2, rawAt 0x8000, rawAt 0x9000, w, bar, .rne, false, 0, 0, 0, false⟩
def brookRun (w bar : Word) (f : Cluster → Cluster) : State :=
  let s : State := { State.reset.setCore 1 { Core.reset 1 with bq := [brookJob w bar] } with cur := ⟨1, 2⟩ }
  s.setCluster 0 (f Cluster.reset)

theorem witness_BrookJobResults : ∀ w bar f, (f = id ∨ f = fun c => { c with brun := some ⟨1, brookJob w bar, 1, 0, (0, false), false, false, none⟩ }) →
    let s := brookRun w bar f
    (s.core 1).bq = [brookJob w bar] ∧ (∀ i, i < 8 → i ≠ 1 → (s.core (0 * 8 + i)).bq = []) ∧ (s.cluster 0).bcore < 8 ∧ s.cur = ⟨0 * 8 + 1, 2⟩ ∧
    s.memoryOk ∧ s.settled ∧ s.parked = [] ∧ (brookJob w bar).fifo = false ∧ s.plain (rawAt 0x8000) 64 (.raw 0x40000) ∧
    s.plain (rawAt 0x9000) 64 (.raw 0x48000) ∧ (Place.raw 0x48000).isSpad = true ∧ (s.cluster 0).evicts = [] := by
  have other : ∀ (t : State) i, t.cores = [(1, { Core.reset 1 with bq := t.core 1 |>.bq })] → i < 8 → i ≠ 1 → (t.core (0 * 8 + i)).bq = [] := by
    intro t i h hi hn
    have : i = 0 ∨ i = 2 ∨ i = 3 ∨ i = 4 ∨ i = 5 ∨ i = 6 ∨ i = 7 := by omega
    rcases this with rfl | rfl | rfl | rfl | rfl | rfl | rfl <;> unfold State.core <;> rw [h] <;> rfl
  have raw : ∀ (t : State) a off, t.unc = [] → t.corr = [] → t.inflight = [] → t.dropped = [] → t.linksClear = true → t.myCore.dbg.wpcfg = 0 → decodeWindow a = some (.raw off) →
      aligned a 64 = true → t.plain a 64 (.raw off) :=
    fun t a off h1 h2 h3 h4 h8 h5 h6 h7 => ⟨h6, rfl, h7, .inl ⟨off, rfl⟩, ⟨h3, h4, h8⟩, by simp [State.clean, h1, h2], h5⟩
  rintro w bar f (rfl | rfl) <;>
    exact ⟨rfl, fun i => other _ i rfl, Nat.zero_lt_succ _, rfl, ⟨rfl, rfl, rfl⟩, ⟨rfl, rfl, rfl⟩, rfl, rfl, raw _ _ _ rfl rfl rfl rfl rfl rfl (by decide) (by decide),
      raw _ _ _ rfl rfl rfl rfl rfl rfl (by decide) (by decide), rfl, rfl⟩

/-- The run, the barrier's word and an eviction behind the job. -/
theorem witness_BrookJobResults_barrier : let w : Word := 64 + 2 ^ 39 + 2 ^ 40
    let b : BRun := ⟨1, brookJob w (rawAt 0x9000), 1, 0, (0, false), false, false, none⟩
    let s := brookRun w (rawAt 0x9000) (fun c => { c with brun := some b })
    (s.cluster 0).brun = some b ∧ w.getLsbD 39 = true ∧ b.job.pieces ≤ b.moved ∧ b.arrived = false ∧ b.fault = none ∧ b.superseded = false ∧
    s.plain b.job.bar 64 (.raw 0x48000) ∧ s.tag (s.wordAt (.raw 0x48000)) ≠ BitVec.ofNat 4 (w.toNat / 2 ^ 40) ∧
    (s.setTag (s.wordAt (.raw 0x48000)) 1).tag (s.wordAt (.raw 0x48000)) = BitVec.ofNat 4 (w.toNat / 2 ^ 40) ∧ s.lane.part = 0 :=
  ⟨rfl, by decide, by decide, rfl, rfl, rfl, plain_raw (by decide), by decide, by decide, rfl⟩

theorem witness_BrookJobResults_evict : let w : Word := 64 + 2 ^ 36 + 3 * 2 ^ 32
    let s := brookRun w 0 (fun c => { c with evicts := [⟨3, 1, some (1, 5)⟩], resid := c.resid.set 3 (.filling 1 5) })
    (s.cluster 0).evicts = [⟨3, 1, some (1, 5)⟩] ∧ (s.cluster 0).brun = none ∧ w.getLsbD 36 = true ∧ w.getLsbD 39 = false ∧ w.toNat / 2 ^ 32 % 16 = 3 ∧
    (brookJob w 0).order < 1 ∧ (s.cluster 0).residAt 3 = .filling 1 5 ∧ (64 : Word).getLsbD 36 = false ∧
    ((brookRun 64 0 (fun c => { c with resid := c.resid.set 3 .resident })).cluster 0).residAt 3 = .resident := by decide

/-! Tasks and images. -/

/-- Tasks 1 and 2 at die 0: `x` with state `st`, and a waiting one with two dependences; lane 0 runs task 1, with s1 and s2. -/
def tasked (st : TaskState) (a b : Word) (f : Task → Task) : State :=
  let s := onDie { Die.reset with tasks := [f { taskOf (recOf 0 0 1 0) with state := st, place := some (0, 0) },
    { taskOf (recOf 0 0 1 0) with id := 2, state := .waiting, deps := 2 }] }
  s.setLane { ((s.lane.setS 1 a).setS 2 b) with run := .running, task := 1 }

/-- The record at raw byte 0x8000 whose words 0, 3 and 6 are given. -/
def spawner (w0 w3 w6 : Word) (f : Lane → Lane) : State :=
  withSpad (withSpad (withSpad (here (fun l => f (((l.setS 1 (rawAt 0x8000)).setS 2 1).setS 4 (rawAt 0x9000)))) 0x8000 w0) 0x8018 w3) 0x8030 w6

theorem witness_TaskSpawnResults : ∀ s, s = spawner (9 * 2 ^ 8 + 2 ^ 20) 1 1 id ∨ s = spawner 0 0 0 id ∨ s = spawner (9 * 2 ^ 8 + 2 ^ 20 + 2) 1 0 (fun l => { l with ptag := 3 }) →
    s.released ∧ s.lane.waiting = none ∧ s.lane.waitJob = none ∧ (s.die s.myDie).input = [] ∧ recordSpace (s.s 1) = true ∧ (s.s 1).toNat % 64 = 0 ∧ s.myDie ≠ Config.hubDie ∧
    ∀ i, i < 7 → s.plain (s.s 1 + BitVec.ofNat 64 (64 * i)) 64 (.raw (0x40000 + 64 * i)) := by
  rintro s (rfl | rfl | rfl) <;> refine ⟨⟨⟨rfl, rfl, rfl⟩, by decide, rfl⟩, rfl, rfl, rfl, by decide, by decide, by decide, ?_⟩ <;> intro i hi <;> apply plain_raw <;> revert i <;> decide

/-- A checked record of a lane whose TSPAWN waits first in the launch unit's input, and the answer that it is handed. -/
theorem witness_TaskSpawnResults_waits : let x : Checked := ⟨⟨⟨0, 0⟩, 0, 0, none, 7, false⟩, recOf 0 0 1 1, [], []⟩
    let s := spawner 0 0 0 (fun l => { l with waiting := some (.tspawn 3 1), run := .stalled })
    let s := s.setDie 0 { s.die 0 with input := [.spawn ⟨0, 0⟩ x none] }
    (∀ row v f, s.lane.waitJob ≠ some (.reply row v f)) ∧ s.lane.waiting ≠ none ∧ (∃ e ∈ (s.die s.myDie).input, e.isSpawn s.cur = true) ∧
    (s.die 0).input = .spawn ⟨0, 0⟩ x none :: [] ∧ (s.die 0).allocRun (idsOf none) = some 1 ∧ recGid x.record = 0 ∧ 0 < recDeps x.record ∧
    (here (fun l => { l with waitJob := some (.reply [] 5 false) })).lane.waitJob = some (.reply [] 5 false) ∧
    (64 : Nat) ≤ (List.replicate 64 (Intake.record x)).length :=
  ⟨fun _ _ _ h => (by simpa using (show (none : Option JobWait) = _ from h)), by decide, ⟨_, List.mem_singleton.mpr rfl, rfl⟩, rfl, by decide, by decide, by decide, rfl, by decide⟩

theorem witness_TaskSpawnResults_records : recordBad #v[9 * 2 ^ 8 + 2 ^ 20, 0, 0, 1, 0, 0, 1, 0] = false ∧ recordBad #v[0, 0, 0, 0, 0, 0, 0, 0] = true ∧
    recordBad #v[9 * 2 ^ 8 + 2 ^ 20 + 2, 0, 0, 1, 0, 0, 0, 0] = false ∧ (spawner 0 0 0 id).lane.ptag = 0 ∧ (spawner 0 0 0 (fun l => { l with ptag := 3 })).lane.ptag ≠ 0 ∧
    (spawner 0 0 0 (fun l => { l with sup := true })).lane.sup = true ∧ ((spawner 0 0 0 id).die 0).allocRun 1 = some 1 ∧ (atMgmt (here id)).myDie = Config.hubDie ∧
    (spawner 0 0 0 id).s 2 = BitVec.ofNat 64 1 ∧ recordSpace ((spawner 0 0 0 id).s 4) = true ∧ ((spawner 0 0 0 id).s 4).toNat % 64 = 0 ∧
    (withSpad (spawner 0 0 0 id) 0x9000 (32 * 2 ^ 16)).peek (rawByte 0 0x48000) = 32 * 2 ^ 16 ∧ (32 * 2 ^ 16 : Word).toNat / 2 ^ 16 % 64 = 32 ∧
    recordSpace 0xC800000000000000 = false ∧ (rawAt 0x8000 + 8).toNat % 64 ≠ 0 := by decide

theorem witness_TaskSpawnResults_rows : (spawner 0 0 0 id).plain ((spawner 0 0 0 id).s 4 + BitVec.ofNat 64 (64 * 0)) 64 (.raw 0x48000) := plain_raw (by decide)

theorem witness_TaskRequestResults : ∀ st, let s := tasked st 1 2 id
    s.released ∧ s.myDie ≠ Config.hubDie ∧ s.untraced s.cur ∧ ((s.die 0).task? 1).map (·.state) = some st ∧ ((s.die 0).task? 2).map (·.state) = some .waiting ∧
    ((s.die 0).task? 2).map (·.deps) = some 2 ∧ ((s.die 0).task? 1).map (·.ptag) = some s.lane.ptag ∧ s.s 1 ≠ s.s 2 ∧ s.s 1 ≠ 0 ∧ (1 : Word).toNat < 2 ^ 16 ∧
    (tasked st 0 2 id).s 1 = 0 ∧ s.lane.task ≠ 0 ∧ (here id).lane.task = 0 ∧ s.lane.inTile = false := by
  intro st
  cases st <;> exact ⟨⟨⟨rfl, rfl, rfl⟩, by decide, rfl⟩, by decide, rfl, by decide⟩

theorem witness_TaskRequestResults_ends : ∀ t, ((tasked .running 1 2 id).die 0).task? 1 = some t →
    t.state = .running ∧ (∀ c ∈ ({ t with done := 0 :: t.done } : Task).cores, c ∈ 0 :: t.done) ∧ t.home = none ∧ t.succs = [] ∧
    Table.find ((tasked .running 1 2 id).die 0).stamps t.ptag.toNat = none ∧ t.inGang = false ∧ 0 ∉ t.tiles ∧ (∀ e ∈ t.succs, e.tile ≠ some 0) := by
  intro t h
  obtain rfl : { taskOf (recOf 0 0 1 0) with state := .running, place := some (0, 0) } = t := Option.some.inj (by rw [← h]; decide)
  decide

theorem witness_TaskRequestResults_tiles : (∃ t y : Task, ((tasked .running 1023 2 (fun t => { t with succs := [⟨2, some 1023, false⟩], tiles := [5] })).die 0).task? 1 = some t ∧
      ((tasked .running 1023 2 (fun t => { t with succs := [⟨2, some 1023, false⟩] })).die 0).task? 2 = some y ∧ t.succs = [⟨y.id, some 1023, false⟩] ∧ 1023 ∉ t.tiles ∧ 5 ∈ t.tiles ∧
      y.ptag = t.ptag ∧ y.id ≠ t.id ∧ y.state = .waiting ∧ 1 < y.deps) ∧ (1023 : Word).toNat ≤ 1023 ∧ 1023 < (1024 : Word).toNat ∧
    ((onDie Die.reset).die 0).task? 1 = none := ⟨⟨_, _, rfl, rfl, rfl, by decide, by decide, rfl, by decide, rfl, by decide⟩, by decide⟩

theorem witness_TaskRequestResults_more : (∃ t, ((tasked .running 1 2 (fun t => { t with record := recOf (2 ^ 14) 0 1 0 })).die 0).task? 1 = some t ∧
      ∃ c ∈ t.cores, c ∉ 0 :: t.done) ∧ (2 : Word).toNat ≤ 2 ∧ 2 < (3 : Word).toNat ∧ (255 : Word).toNat < 256 ∧ 256 ≤ (256 : Word).toNat ∧ (here id).lane.part = 0 ∧
    (here (fun l => { l with ptag := 3 })).lane.part = 3 := by
  refine ⟨⟨_, rfl, 2048, ?_⟩, by decide⟩
  decide

/-- Lane 0, privileged, with an image block at raw byte 0x8000 that names lane 1 and an image address with room for `limit` bits. -/
def imager (limit : Word) : State :=
  withSpad (withSpad (withSpad (here (fun l => { l.setS 1 (rawAt 0x8000) with sup := true })) 0x8000 (2 ^ 20)) 0x8008 (rawAt 0x9000)) 0x8010 limit

/-- The full image of lane 1. -/
def imageOf : List Word := ((((imager 0).saveBegin ⟨0, 1⟩).withdraw ⟨0, 1⟩).imageWords ⟨0, 1⟩ false).2.1

/-- The same with that image in its place. -/
def imaged : State := { imager 0x100000 with mem := (imager 0x100000).mem ++ imageOf.zipIdx.flatMap (fun x => (List.range 8).filterMap (fun j =>
  let b : Byte := BitVec.ofNat 8 (x.1.toNat / 2 ^ (8 * j))
  if b = 0 then none else some (rawByte 0 (8 * (0x9000 + 8 * x.2 + j)), b))) }

theorem witness_ImageResults : ∀ n : Word, n = 0 ∨ n = 255 ∨ n = 0x100000 →
    let s := imager n
    s.lane.sup = true ∧ (here id).lane.sup = false ∧ s.memoryOk ∧ s.released ∧ s.parked = [] ∧ recordSpace (s.s 1) = true ∧ (s.s 1).toNat % 64 = 0 ∧
    (∀ i, i < 4 → s.plain (s.s 1 + BitVec.ofNat 64 (64 * i)) 64 (.raw (0x40000 + 64 * i)) ∧ (Place.raw (0x40000 + 64 * i)).isSpad = true) ∧
    s.namedLane s.cur 0 1 = some ⟨0, 1⟩ ∧ s.peek (s.wordAt (.raw 0x40000)) = 2 ^ 20 ∧ s.peek (s.wordAt (.raw 0x40080)) = n ∧
    (here (fun l => { l with ptag := 3 })).namedLane ⟨0, 0⟩ 0 1 = none ∧ (s.laneAt ⟨0, 1⟩).run = .idle ∧ (s.laneAt ⟨0, 1⟩).req = none ∧ (s.laneAt ⟨0, 1⟩).savedLater = false ∧
    ((s.saveBegin ⟨0, 1⟩).withdraw ⟨0, 1⟩).quiet ⟨0, 1⟩ = true ∧
    s.gated (s.laneAt ⟨0, 1⟩) = false ∧ (s.laneAt ⟨0, 1⟩).dstop = false ∧ s.peek (s.wordAt (.raw 0x48040)) ≠ s.mgmt.key := by
  rintro n (rfl | rfl | rfl) <;> refine ⟨rfl, rfl, ⟨by decide, by decide, by decide⟩, ⟨⟨rfl, rfl, rfl⟩, by decide, rfl⟩, rfl, by decide, by decide, ?_, by decide⟩ <;> intro i hi <;>
    refine ⟨plain_raw ?_, rfl⟩ <;> revert i <;> decide

theorem witness_ImageResults_save : (∃ ws full, (((imager 0x100000).saveBegin ⟨0, 1⟩).withdraw ⟨0, 1⟩).imageWords ⟨0, 1⟩ false =
      (((imager 0x100000).saveBegin ⟨0, 1⟩).withdraw ⟨0, 1⟩, ws, full)) ∧
    imageOf.length < 2 ^ 32 ∧ 255 < 64 * imageOf.length ∧ 64 * imageOf.length ≤ 0x100000 := ⟨⟨_, _, rfl⟩, by decide +kernel⟩

theorem witness_ImageResults_good : ∀ i, i < imageOf.length → imaged.plain (rawAt 0x9000 + BitVec.ofNat 64 (64 * i)) 64 (.raw (0x48000 + 64 * i)) ∧
    (Place.raw (0x48000 + 64 * i)).isSpad = true := by
  have h : ∀ i, i < imageOf.length → Tests.State.rawPlain imaged (rawAt 0x9000 + BitVec.ofNat 64 (64 * i)) 64 (0x48000 + 64 * i) = true := by decide +kernel
  exact fun i hi => ⟨plain_raw (h i hi), rfl⟩

theorem witness_ImageResults_load : Memory.wf imaged.mem = true ∧ (imaged.peek (imaged.wordAt (.raw 0x48000))).toNat / 2 ^ 32 = imageOf.length ∧ 4 ≤ imageOf.length ∧
    imaged.peek (imaged.wordAt (.raw 0x48040)) = imaged.mgmt.key ∧ (imaged.peek (imaged.wordAt (.raw 0x48000))).getLsbD 8 = false ∧
    (match ImageBody.ofFull ((List.range (imageOf.length - 4)).map (fun i => imaged.peek (imaged.wordAt (.raw (0x48000 + 64 * (i + 4)))))) with
      | some b => (imaged.applyImage ⟨0, 1⟩ (imaged.peek (imaged.wordAt (.raw 0x48000))) b).isSome
      | none => false) = true := by decide +kernel

theorem witness_ImageResults_delta : (⟨[1], [[2], []]⟩ : ImageBody).always.length < 2 ^ 64 ∧ (⟨[1], [[2], []]⟩ : ImageBody).parts.length < 2 ^ 64 ∧
    (∀ p ∈ (⟨[1], [[2], []]⟩ : ImageBody).parts, p.length < 2 ^ 64) ∧
    (let b : ImageBody := ⟨[1], [[2], []]⟩
     let base : ImageBody := ⟨[1], [[3], []]⟩
     (∀ n ∈ [0], n < b.parts.length) ∧ ∀ n, n < b.parts.length → n ∉ [0] → base.parts.getD n [] = b.parts.getD n []) := by decide

/-- The digest that the reset state holds for an empty repair map is that of FIPS 180-4 for no bytes (R345, R352). -/
theorem test_empty_digest : sha512 [] = Config.emptyDigest := by decide +kernel

end Sys2Proof.Tests
end

/-! Ordinary accesses of the issuing lane (R27): an access that `State.plain` describes passes every check and changes nothing on its
way, and a load then answers the field of the word at its home. -/

namespace Sys2Proof.Machine

/-! Fields of a word, and their extension to 64 bits. -/

/-- The bits of a word that an access of `w` bits from bit `sh` up names are its field there. -/
theorem bits_eq_fieldOf (x : Word) (sh : Nat) {w : Nat} (hw : 0 < w) : bits x (sh + w - 1) sh = fieldOf x sh w := by
  have e : sh + w - 1 + 1 - sh = w := by omega
  unfold bits fieldOf
  rw [e]

theorem fieldOf_lt (x : Word) (sh w : Nat) : fieldOf x sh w < 2 ^ w := Nat.mod_lt _ (Nat.two_pow_pos w)

/-- A number of `n` bits is its own zero-extension. -/
theorem zextN_of_lt {x n : Nat} (h : x < 2 ^ n) : zextN x n = BitVec.ofNat 64 x := by
  unfold zextN word
  rw [Nat.mod_eq_of_lt h]

/-- The sign-extension of `n` bits is the balanced residue modulo `2 ^ n` (R28). -/
theorem sextN_eq_ofInt_bmod (x : Nat) {n : Nat} (hn : 0 < n) (hn64 : n ≤ 64) :
    sextN x n = BitVec.ofInt 64 ((x : Int).bmod (2 ^ n)) := by
  obtain ⟨k, rfl⟩ := Nat.exists_eq_add_of_lt hn
  simp only [Nat.zero_add] at hn64 ⊢
  have hle : 2 ^ (k + 1) ≤ 2 ^ 64 := Nat.pow_le_pow_right (by omega) hn64
  have hhalf : 2 ^ (k + 1) = 2 * 2 ^ k := by rw [Nat.pow_succ, Nat.mul_comm]
  have hv : x % 2 ^ (k + 1) < 2 ^ (k + 1) := Nat.mod_lt _ (Nat.two_pow_pos _)
  have hmod : ((x % 2 ^ (k + 1) : Nat) : Int) = (x : Int) % ((2 ^ (k + 1) : Nat) : Int) := Int.natCast_emod _ _
  unfold sextN word Int.bmod
  simp only [Nat.add_sub_cancel, Nat.succ_ne_zero, if_false, ← hmod]
  generalize x % 2 ^ (k + 1) = v at hv ⊢
  generalize 2 ^ (k + 1) = m at hle hhalf hv ⊢
  generalize 2 ^ k = h at hhalf ⊢
  subst hhalf
  have hiff : ((v : Int) < (((2 * h : Nat) : Int) + 1) / 2) ↔ v < h := by omega
  simp only [hiff]
  split
  · exact (BitVec.ofInt_natCast 64 v).symm
  · apply BitVec.eq_of_toNat_eq
    rw [BitVec.toNat_ofNat, BitVec.toNat_ofInt]
    omega

/-! The checks of R27. -/

/-- Does the home of a place named directly check its owner (R27 order 7)? The local raw window is the lane's own core's. -/
def Place.homeChecks : Place → Bool
  | .raw _ => false
  | _ => true

/-- Where an access of the issuing lane to a place named directly goes. -/
def State.targetOf (s : State) (p : Place) (a : Word) : Target := ⟨p, s.wordAt p, a.toNat % 64, p.homeChecks⟩

/-- Order 3 of R27 stops no untagged access to a memory named directly. -/
theorem order3_direct {p : Place} (hp : p.direct = true) (mgmt : Bool) {k : Access} (hk : accTagged k = false) :
    order3 mgmt p k = false := by
  cases p with
  | raw off | global c off => rfl
  | coh off => exact hk
  | trans | fmt win off | dev off => cases hp

/-- Order 4 of R27 asks of a load from a memory named directly that it be aligned (R23). -/
theorem order4_direct_load {p : Place} (hp : p.direct = true) (mgmt : Bool) (a : Word) (w : Nat) :
    order4 mgmt p a w .load = !aligned a w := by
  cases p with
  | raw off | global c off | coh off => rfl
  | trans | fmt win off | dev off => cases hp

/-- Past orders 3 and 4, an access to a memory named directly reaches its target (R27 orders 1 to 6). -/
theorem State.resolve_direct {s : State} {a : Word} {w : Nat} {k : Access} {p : Place} (ha : decodeWindow a = some p)
    (hp : p.direct = true) (h3 : order3 (decide (Config.mgmtCore ≤ s.cur.core)) p k = false)
    (h4 : order4 (decide (Config.mgmtCore ≤ s.cur.core)) p a w k = false) :
    s.resolve s.cur a w k = .ok (s, s.targetOf p a) := by
  unfold State.resolve
  simp only [ha, h3, h4, Bool.false_eq_true, if_false]
  cases p with
  | raw off | global c off | coh off => rfl
  | trans | fmt win off | dev off => cases hp

/-- Without watchpoints, nothing is watched (R334). -/
theorem State.watched_unwatched {s : State} (h : s.unwatched) (a : Word) (w : Nat) (k : Access) : s.watched s.cur a w k = none := by
  have hoff : (s.core s.cur.core).dbg.wpcfg = 0 := h
  simp [State.watched, Debug.watch, hoff, bit]

/-- A lane may reach its own place: where the home checks owners, it is not foreign (R27 order 7). -/
theorem State.own_not_foreign {s : State} {p : Place} {ordinary : Bool} (h : s.own p ordinary) :
    (p.homeChecks && s.foreign s.lane.part ordinary s.lane.sup (s.wordAt p)) = false := by
  obtain ⟨off, rfl⟩ | h := h
  · rfl
  · rw [h, Bool.and_false]

/-- Past orders 3 and 4, an ordinary access passes the other checks, and neither a link nor a watchpoint holds it (R27, R331, R334). -/
theorem State.checkAccess_plain {s : State} {a : Word} {w : Nat} {k : Access} {p : Place}
    (h : s.plain a w p (k == .load && w == 64)) (h3 : order3 (decide (Config.mgmtCore ≤ s.cur.core)) p k = false)
    (h4 : order4 (decide (Config.mgmtCore ≤ s.cur.core)) p a w k = false) :
    s.checkAccess s.cur a w k = .ok (s, s.targetOf p a) := by
  obtain ⟨ha, hp, -, hown, ⟨-, -, hlinks⟩, -, hunwatched⟩ := h
  have hforeign : ((s.targetOf p a).checked && s.foreign (s.laneAt s.cur).part (k == .load && w == 64) (s.laneAt s.cur).sup
      (s.targetOf p a).pa) = false := State.own_not_foreign hown
  have hfates : s.fates s.cur a w k = .ok (s, s.targetOf p a) := by
    unfold State.fates
    simp only [State.resolve_direct ha hp h3 h4, Bool.and_assoc, hforeign, Bool.and_false, State.accessWait,
      State.heldOn_clear hlinks, State.behind_clear hlinks, State.passLinks_clear hlinks, Bool.or_self, Bool.false_eq_true,
      if_false, ite_self]
  unfold State.checkAccess
  simp only [hfates, State.watched_unwatched hunwatched]

/-- An ordinary load passes R27. -/
theorem State.checkAccess_plain_load {s : State} {a : Word} {w : Nat} {p : Place} (h : s.plain a w p (w == 64)) :
    s.checkAccess s.cur a w .load = .ok (s, s.targetOf p a) := by
  have ⟨_, hp, haligned, _⟩ := h
  refine State.checkAccess_plain h (order3_direct hp _ rfl) ?_
  rw [order4_direct_load hp, haligned]
  rfl

/-! Loads (R99, R101). -/

/-- An ordinary load answers the field of the word at its home, and the state is as before. -/
theorem State.loadBits_plain {s : State} {a : Word} {w : Nat} {p : Place} (hw : 0 < w) (h : s.plain a w p (w == 64)) :
    s.loadBits s.cur a w = .ok (s, fieldOf (s.peek (s.wordAt p)) (a.toNat % 64) w) := by
  have hcheck := State.checkAccess_plain_load h
  obtain ⟨-, hp, -, -, hsettled, hclean, -⟩ := h
  have hhome := State.homeWord_clean hsettled hclean s.cur
  have hbits := bits_eq_fieldOf (s.peek (s.wordAt p)) (a.toNat % 64) hw
  unfold State.loadBits
  cases p with
  | raw off | global c off | coh off => simp only [hcheck, State.targetOf, hhome, hbits]
  | trans | fmt win off | dev off => cases hp

/-- A 32-bit load completes in a write of what was read, extended (R101). -/
theorem State.loadTo_of_loadBits {s t : State} {a : Word} {w x : Nat} (h : s.loadBits s.cur a w = .ok (t, x)) (d : Reg) (sx : Bool) :
    s.loadTo d a w sx 32 = .ok (t.writeS d (if sx then sextN x w else zextN x w)) := by
  simp only [State.loadTo, h, State.writeS]

/-- The A form of LD is a load at the address in its register (R65, R101). -/
theorem exec_ldA_eq (s : State) (d a : Reg) (w : BitVec 6) (sx : Bool) (acq : Option Scope) :
    exec (.ldA d a w sx acq) s = finish (.ldA d a w sx acq) (s.loadTo d (s.s a) (w.toNat + 1) sx 32) := rfl

/-- Settles O28: the load answers the field (`State.loadBits_plain`), and the model's extensions of it are the arithmetic ones. -/
theorem plainLoadValue : Obligations.PlainLoadValue := by
  unfold Obligations.PlainLoadValue
  intro s d a w sx acq p x h hx
  have hordinary : (w.toNat == 63) = (w.toNat + 1 == 64) := by rw [Bool.eq_iff_iff]; simp
  rw [hordinary] at h
  have hlt : x < 2 ^ (w.toNat + 1) := hx ▸ fieldOf_lt _ _ _
  have hload : s.loadBits s.cur (s.s a) (w.toNat + 1) = .ok (s, x) := hx ▸ State.loadBits_plain (Nat.succ_pos _) h
  rw [exec_ldA_eq, State.loadTo_of_loadBits hload, finish_ok, zextN_of_lt hlt, sextN_eq_ofInt_bmod x (Nat.succ_pos _) w.isLt]

end Sys2Proof.Machine

/-! The state after reset (R350): every part is at the reset value of its kind. -/

namespace Sys2Proof.Machine

/-- At reset every core is at its own reset value. -/
theorem reset_core (c : Nat) : State.reset.core c = Core.reset c := rfl

theorem Core.reset_lane (c : Nat) {l : Nat} (h : l < 4) : (Core.reset c).lane l = Lane.reset c l := by
  obtain rfl | rfl | rfl | rfl : l = 0 ∨ l = 1 ∨ l = 2 ∨ l = 3 := by omega
  all_goals rfl

theorem laneAt_reset (c : Nat) {l : Nat} (h : l < 4) : State.reset.laneAt ⟨c, l⟩ = Lane.reset c l := Core.reset_lane c h

/-- What the control registers of R52 with a reset value read as. -/
theorem crRead_reset (c : Nat) {l : Nat} (h : l < 4) :
    State.reset.crRead ⟨c, l⟩ 0x000 = some (word (l * 2 ^ 24)) ∧ State.reset.crRead ⟨c, l⟩ 0x005 = some 0 ∧
    State.reset.crRead ⟨c, l⟩ 0x007 = some (word (c % 2 ^ 20 * 4 + l + 1)) ∧ State.reset.crRead ⟨c, l⟩ 0x020 = some 0x88 ∧
    State.reset.crRead ⟨c, l⟩ 0x022 = some 0 ∧ State.reset.crRead ⟨c, l⟩ 0x023 = some 0 ∧
    State.reset.crRead ⟨c, l⟩ 0x024 = some 0 ∧ State.reset.crRead ⟨c, l⟩ 0x025 = some 0 := by
  simp only [State.crRead, State.laneStat, laneAt_reset c h, reset_core]
  have : l % 4 = l := Nat.mod_eq_of_lt h
  refine ⟨?_, rfl, rfl, rfl, ?_, ?_, rfl, rfl⟩
  · simp [Lane.reset, State.stateCode, State.gated, b2n, this]
  · simp [Lane.reset, word]
  · simp [Lane.reset, Lane.wdog, b2n, word]

/-- Settles O7: every core, die, sector, cluster and partition of the reset state is the reset value of its kind, and the registers
read as `crRead_reset` says. -/
theorem resetValues : Obligations.ResetValues := by
  unfold Obligations.ResetValues
  refine ⟨fun c l h => ⟨?_, ?_, crRead_reset c h⟩, fun c => ⟨rfl, rfl, rfl, rfl, rfl, rfl, rfl⟩, fun n => ⟨rfl, rfl, rfl, rfl⟩,
    fun n => ⟨rfl, rfl, rfl, rfl, rfl⟩, fun n k h => ?_, fun n k h => ?_, rfl, rfl, rfl, rfl, fun p => rfl, fun pa => rfl⟩
  · rw [reset_core, Core.reset_lane c h]; rfl
  · rw [reset_core, Core.reset_lane c h]; rfl
  · exact Vector.getElem_replicate h
  · simp [State.cluster, State.reset, Table.get, Table.find, Cluster.reset]

end Sys2Proof.Machine

/-! The turn of a lane that fetches (R13, R59; log entry 1): from the agenda to `exec` of what decodes at its pc. -/

namespace Sys2Proof.Machine

theorem mapNext_mapNext (f g : State → State) (x : Host.Outcome State Fault Refusal) :
    mapNext f (mapNext g x) = mapNext (fun s => f (g s)) x := by
  cases x <;> rfl

theorem State.watchTick_cur (s : State) (r : LaneRef) : (s.watchTick r).cur = s.cur := by
  unfold State.watchTick
  split <;> rfl

theorem State.choose_agenda {s : State} {x : Choice} {rest : List Choice} (h : s.agenda = x :: rest) :
    s.choose = ({ s with agenda := rest }, x) := by
  simp only [State.choose, h]

/-- An instruction that no FENCE.rel holds back is issued as `exec` of it, after its register reads (R103, R330). -/
theorem State.issue_of_afterFence {s u : State} {i : Instr} (h : (s.endSpv i).afterFence i = .ok u) :
    s.issue i = exec i (u.meetReads i) := by
  simp only [State.issue, h]

theorem State.fetchIssue_of_fetch {s t : State} {x : Nat} {i : Instr} (hf : s.fetchInstr s.cur = .ok (t, x))
    (hd : s.lane.decode x = .ok i) : s.fetchIssue = t.issue i := by
  simp only [State.fetchIssue, hf, hd]

theorem State.laneTurn_fetch {s : State} (h : s.plan = .fetch) :
    s.laneTurn = mapNext (·.afterStep s.cur) ((s.watchTick s.cur).keepWait true).fetchIssue := by
  simp only [State.laneTurn, h]

theorem State.act_lane (s : State) {c l : Nat} (rest : List Choice) (h : laneExists ⟨c, l⟩ = true) :
    ({ s with agenda := rest } : State).act (.lane c l) =
      mapNext (·.prefetch ⟨c, l⟩ (Config.fetchAhead s.turn)) (s.turnOf c l rest).laneTurn := by
  simp only [State.act, h, if_true]
  rfl

/-- A lane that fetches issues an instruction, whose energy its partition is charged (R319). -/
theorem State.issuer_fetch {s : State} {c l : Nat} {rest : List Choice} (h : laneExists ⟨c, l⟩ = true)
    (hp : (s.turnOf c l rest).plan = .fetch) (t : State) :
    ({ s with agenda := rest } : State).issuer t (.lane c l) = some (dieOf c, (s.laneAt ⟨c, l⟩).part) := by
  unfold State.turnOf at hp
  simp only [State.issuer, h, hp, Bool.and_self, if_true]
  rfl

/-- In a powered machine that is not in a start, a step is the move of the chosen agent and the time that passes with it. -/
theorem step_choose {s t : State} {x : Choice} (hp : s.powered = true) (hc : s.caughtUp.choose = (t, x)) (hs : t.starting = false) :
    step s = mapNext (fun u => u.drainInputs.pass (t.issuer u x)) (t.act x) := by
  simp [step, State.cycle, hp, hc, hs]

/-- Settles O5: the agenda gives the lane its turn (`step_choose`), the turn fetches and issues (`State.laneTurn_fetch`), and what is
issued is `exec` of the decoded instruction (`State.issue_of_afterFence`). -/
theorem stepRunsDecoded : Obligations.StepRunsDecoded := by
  unfold Obligations.StepRunsDecoded
  intro s t u c l x rest i r s₁ v hpow hlane hstart hagenda hplan hfetch hdecode hfence
  have hcur : v.cur = r := State.watchTick_cur _ _
  have hissue : v.fetchIssue = exec i (u.meetReads i) := by
    rw [State.fetchIssue_of_fetch (hcur ▸ hfetch) hdecode, State.issue_of_afterFence hfence]
  have hturn : (s₁.turnOf c l rest).laneTurn = mapNext (·.afterStep r) (exec i (u.meetReads i)) := by
    rw [State.laneTurn_fetch hplan]
    exact congrArg _ hissue
  rw [step_choose hpow (State.choose_agenda hagenda) hstart, State.act_lane s₁ rest hlane, hturn, mapNext_mapNext, mapNext_mapNext]
  simp only [State.issuer_fetch hlane hplan, r, s₁]

end Sys2Proof.Machine

/-! Writes at homes (R26, R99, R104, R216): what a posted access, or the store of an application core, does to its word and to
nothing else. -/

namespace Sys2Proof.Machine

/-- A home that holds bytes: HBM, the coherent window below the control area, or a scratchpad (R25, R306). -/
abbrev MemoryHome (pa : Nat) : Prop := homeOf pa = .hbm ∨ homeOf pa = .coh ∨ ∃ c, homeOf pa = .spad c

theorem Memory.byte_setWord_out (m : List Host.Cell) {pa x : Nat} (v : Word) (h : x < pa ∨ pa + 8 ≤ x) :
    Memory.byte (Memory.setWord m pa v) x = Memory.byte m x := Memory.byte_setBytes_out m pa v.toNat 8 x h

theorem Table.get_setD_same {α : Type} [DecidableEq α] (d : α) {t : List (Nat × α)} (h : Table.sorted t) (n : Nat) (v : α) :
    Table.get d (Table.setD d t n v) n = v := by
  unfold Table.setD
  split
  · next hv => rw [Table.get, Table.find_del_same n h, hv]; rfl
  · exact Table.get_put_same d t n v

theorem State.tag_setTag_same {s : State} (h : s.memoryOk) (pa : Nat) (t : BitVec 4) : (s.setTag pa t).tag pa = t := by
  obtain ⟨-, hsorted, -⟩ := h
  exact Table.get_setD_same 0 hsorted pa t

theorem State.peek_memory (s : State) {pa : Nat} (h : MemoryHome pa) : s.peek pa = Memory.word s.mem pa := by
  obtain h | h | ⟨c, h⟩ := h <;> simp only [State.peek, h]

/-- `t` is `s` but for what a write at a home sets: memory, tags, errors, and the marks of what was written (R297, R341). The cores are
the same, though their table may list more of them. -/
def State.SameButMemory (t s : State) : Prop :=
  t = { s with cores := t.cores, mem := t.mem, tags := t.tags, dirty := t.dirty, written := t.written, corr := t.corr, unc := t.unc } ∧
  ∀ c, t.core c = s.core c

namespace State.SameButMemory
variable {s t u : State}

theorem refl (s : State) : s.SameButMemory s := ⟨rfl, fun _ => rfl⟩

theorem trans (h : u.SameButMemory t) (h' : t.SameButMemory s) : u.SameButMemory s := by
  refine ⟨?_, fun c => (h.2 c).trans (h'.2 c)⟩
  rw [h.1, h'.1]

theorem parked (h : t.SameButMemory s) : t.parked = s.parked := by rw [h.1]
theorem inflight (h : t.SameButMemory s) : t.inflight = s.inflight := by rw [h.1]
theorem dropped (h : t.SameButMemory s) : t.dropped = s.dropped := by rw [h.1]
theorem mesh (h : t.SameButMemory s) : t.mesh = s.mesh := by rw [h.1]
theorem parts (h : t.SameButMemory s) : t.parts = s.parts := by rw [h.1]
theorem cur (h : t.SameButMemory s) : t.cur = s.cur := by rw [h.1]

end State.SameButMemory

theorem State.markDirty_same (s : State) (pa p : Nat) : (s.markDirty pa p).SameButMemory s := by
  unfold State.markDirty
  split
  · split <;> exact ⟨rfl, fun _ => rfl⟩
  · exact .refl s

theorem State.markWritten_same (s : State) (pa : Nat) : (s.markWritten pa).SameButMemory s := by
  unfold State.markWritten
  split
  · exact ⟨rfl, fun _ => rfl⟩
  · exact .refl s

theorem State.markDirty_tags (s : State) (pa p : Nat) : (s.markDirty pa p).tags = s.tags := by
  unfold State.markDirty
  split
  · split <;> rfl
  · rfl

theorem State.markWritten_tags (s : State) (pa : Nat) : (s.markWritten pa).tags = s.tags := by
  unfold State.markWritten
  split <;> rfl

/-- A store at a memory that has no read-only bit there is a write of the word, with its marks (R26, R297, R341). -/
theorem State.poke_memory (s : State) {pa : Nat} (v : Word) (p : Nat) (h : MemoryHome pa) (h0 : readOnlyBits pa = 0) :
    s.poke pa v p = { (s.markDirty pa p).markWritten pa with mem := Memory.setWord s.mem pa v } := by
  unfold State.poke
  rw [if_pos h0]
  obtain h | h | ⟨c, h⟩ := h <;> simp only [State.setHome, h]

section Poke
variable {s : State} {pa : Nat} (v : Word) (p : Nat) (h : MemoryHome pa) (h0 : readOnlyBits pa = 0)
include h h0

theorem State.poke_mem : (s.poke pa v p).mem = Memory.setWord s.mem pa v := by
  rw [State.poke_memory s v p h h0]

theorem State.poke_tags : (s.poke pa v p).tags = s.tags := by
  rw [State.poke_memory s v p h h0]
  exact (State.markWritten_tags _ _).trans (State.markDirty_tags _ _ _)

theorem State.poke_same : (s.poke pa v p).SameButMemory s := by
  rw [State.poke_memory s v p h h0]
  exact State.SameButMemory.trans (t := (s.markDirty pa p).markWritten pa) ⟨rfl, fun _ => rfl⟩
    ((State.markWritten_same _ _).trans (State.markDirty_same _ _ _))

theorem State.poke_parked (hp : s.parked = []) : (s.poke pa v p).parked = [] :=
  (State.poke_same v p h h0).parked.trans hp

end Poke

/-! What a posted access does at its home. -/

section Land
variable {s : State} {q : Posted} (hparked : s.parked = []) (hclean : s.clean q.pa) (hhome : MemoryHome q.pa)
  (hro : readOnlyBits q.pa = 0)
include hparked hclean hhome hro

theorem State.land_store {m v : Word} (hop : q.op = .store m v) :
    s.land q = s.poke q.pa ((s.peek q.pa &&& ~~~m) ||| (v &&& m)) q.ptag.toNat := by
  simp only [State.land, hop, State.merge_clean hclean]
  exact State.reexamine_none (State.poke_parked _ _ hhome hro hparked) _ _

theorem State.land_stv {v : Word} {ver : BitVec 4} (hop : q.op = .stv v ver) :
    s.land q = (s.poke q.pa v q.ptag.toNat).setTag q.pa ver := by
  have hall : (s.peek q.pa &&& ~~~(BitVec.allOnes 64)) ||| (v &&& BitVec.allOnes 64) = v := by
    rw [BitVec.and_allOnes, BitVec.not_allOnes, BitVec.and_zero, BitVec.zero_or]
  simp only [State.land, hop, State.merge_clean hclean, hall]
  exact State.reexamine_none (s := (s.poke q.pa v q.ptag.toNat).setTag q.pa ver) (State.poke_parked _ _ hhome hro hparked) _ _

omit hclean hhome hro in
theorem State.land_reclaim (hop : q.op = .reclaim) : s.land q = s.setTag q.pa 0 := by
  simp only [State.land, hop]
  exact State.reexamine_none (s := s.setTag q.pa 0) hparked _ _

theorem State.land_red {fn : RedFn} {off w : Nat} {y : Word} (hop : q.op = .red fn off w y) :
    s.land q = s.poke q.pa ((s.peek q.pa &&& ~~~maskAt off w) |||
      (placeAt off w (redOp fn (bits (s.peek q.pa) (off + w - 1) off) (bits y (w - 1) 0) w) &&& maskAt off w)) q.ptag.toNat := by
  simp only [State.land, hop, State.rmwAt, State.rmw, State.readHome_clean hclean, State.merge_clean hclean]
  exact State.reexamine_none (State.poke_parked _ _ hhome hro hparked) _ _

/-- A posted access changes nothing but memory, and there no byte outside its word. -/
theorem State.land_frame : (s.land q).SameButMemory s ∧
    ∀ a, a < q.pa ∨ q.pa + 8 ≤ a → Memory.byte (s.land q).mem a = Memory.byte s.mem a := by
  have hpoke (v : Word) (p : Nat) : (s.poke q.pa v p).SameButMemory s ∧
      ∀ a, a < q.pa ∨ q.pa + 8 ≤ a → Memory.byte (s.poke q.pa v p).mem a = Memory.byte s.mem a :=
    ⟨State.poke_same v p hhome hro, fun a ha => by rw [State.poke_mem v p hhome hro]; exact Memory.byte_setWord_out _ _ ha⟩
  cases hop : q.op with
  | store m v => rw [State.land_store hparked hclean hhome hro hop]; exact hpoke _ _
  | stv v ver =>
    rw [State.land_stv hparked hclean hhome hro hop]
    obtain ⟨hsame, hbytes⟩ := hpoke v q.ptag.toNat
    exact ⟨State.SameButMemory.trans ⟨rfl, fun _ => rfl⟩ hsame, hbytes⟩
  | reclaim => rw [State.land_reclaim hparked hop]; exact ⟨⟨rfl, fun _ => rfl⟩, fun _ _ => rfl⟩
  | red fn off w y => rw [State.land_red hparked hclean hhome hro hop]; exact hpoke _ _

/-- A store replaces the bits of its mask and keeps the tag (R26). -/
theorem State.land_store_word (hok : s.memoryOk) {m v : Word} (hop : q.op = .store m v) :
    (s.land q).peek q.pa = (s.peek q.pa &&& ~~~m) ||| (v &&& m) ∧ (s.land q).tag q.pa = s.tag q.pa := by
  rw [State.land_store hparked hclean hhome hro hop]
  refine ⟨State.peek_poke_same hok.1 _ _ hhome hro, ?_⟩
  unfold State.tag
  rw [State.poke_tags _ _ hhome hro]

/-- STV writes the word and sets its version (R104). -/
theorem State.land_stv_word (hok : s.memoryOk) {v : Word} {ver : BitVec 4} (hop : q.op = .stv v ver) :
    (s.land q).peek q.pa = v ∧ (s.land q).tag q.pa = ver := by
  obtain ⟨hmem, hsorted, -⟩ := hok
  rw [State.land_stv hparked hclean hhome hro hop]
  refine ⟨?_, Table.get_setD_same 0 ?_ _ _⟩
  · have hpoke := State.peek_poke_same hmem v q.ptag.toNat hhome hro
    rw [State.peek_memory _ hhome] at hpoke ⊢
    exact hpoke
  · rw [State.poke_tags _ _ hhome hro]
    exact hsorted

omit hclean hro in
/-- RECLAIM clears the tag alone (R104). -/
theorem State.land_reclaim_word (hok : s.memoryOk) (hop : q.op = .reclaim) :
    (s.land q).peek q.pa = s.peek q.pa ∧ (s.land q).tag q.pa = 0 := by
  rw [State.land_reclaim hparked hop]
  refine ⟨?_, State.tag_setTag_same hok _ _⟩
  rw [State.peek_memory _ hhome, State.peek_memory _ hhome]
  rfl

end Land

/-! Arrival. -/

/-- The state with other posted accesses in flight. -/
def State.withInflight (s : State) (qs : List Posted) : State := { s with inflight := qs }

theorem State.withInflight_peek (s : State) (qs : List Posted) {pa : Nat} (h : MemoryHome pa) :
    (s.withInflight qs).peek pa = s.peek pa := by
  rw [State.peek_memory _ h, State.peek_memory _ h]
  rfl

theorem State.dropNotice_same (s : State) (r : LaneRef) (x : Word) : ∃ m, s.dropNotice r x = { s with mesh := m } := ⟨_, rfl⟩

/-- The notices of drops that are due touch the mesh and their own list alone. -/
theorem State.settleDropped_same (s : State) : ∃ m d, s.settleDropped = { s with mesh := m, dropped := d } := by
  have fold (ds : List Dropped) (t : State) : ∃ m, ds.foldl (fun s d => s.dropNotice d.who d.addr) t = { t with mesh := m } := by
    induction ds generalizing t with
    | nil => exact ⟨t.mesh, rfl⟩
    | cons d ds ih =>
      obtain ⟨m, hm⟩ := State.dropNotice_same t d.who d.addr
      obtain ⟨m', hm'⟩ := ih { t with mesh := m }
      exact ⟨m', by rw [List.foldl_cons, hm, hm']⟩
  unfold State.settleDropped
  obtain ⟨m, hm⟩ := fold _ _
  exact ⟨m, _, hm⟩

theorem State.settleDropped_none {s : State} (h : s.dropped = []) : s.settleDropped = s := by
  cases s
  simp only at h
  subst h
  rfl

/-- The first access in flight arrives where no link holds anything back (R13, R331). -/
theorem State.arriveAt_zero {s : State} {q : Posted} {rest : List Posted} (hq : s.inflight = q :: rest) (hl : s.linksClear = true) :
    s.arriveAt 0 = ((s.withInflight rest).arrive q).settleDropped := by
  simp [State.arriveAt, hq, State.postWait, State.heldOn_clear hl, State.passLinks_clear hl, dropAt, State.withInflight]

/-- An access that no home checks, or that its home is not foreign to, takes effect (R27 order 7). -/
theorem State.arrive_lands {s : State} {q : Posted} (h : q.checked = false ∨ s.foreign q.ptag.toNat q.ordinary false q.pa = false) :
    s.arrive q = s.land q := by
  obtain h | h := h <;> simp [State.arrive, h]

theorem State.arrive_drops {s : State} {q : Posted} (hc : q.checked = true)
    (hf : s.foreign q.ptag.toNat q.ordinary false q.pa = true) :
    s.arrive q = s.dropAccess ⟨q.who, q.ptag, q.writer, q.grp, q.addr⟩ := by
  simp [State.arrive, hc, hf]

theorem State.dropAccess_counts (s : State) (d : Dropped) : (s.dropAccess d).mem = s.mem ∧
    ((s.dropAccess d).core d.who.core).dropcnt = (s.core d.who.core).dropcnt + 1 ∧
    ((s.dropAccess d).part d.ptag.toNat).drop = (s.part d.ptag.toNat).drop + 1 := by
  refine ⟨rfl, ?_, ?_⟩
  · exact congrArg Core.dropcnt (State.setCore_core_same s d.who.core _)
  · exact congrArg Part.drop (State.setPart_part_same _ d.ptag.toNat _)

/-! Stores of application cores. -/

theorem MemoryHome.lt_pcieBase {pa : Nat} (h : MemoryHome pa) (hlt : pa < Config.mgmtSpadBase) : pa < Config.pcieBase := by
  unfold MemoryHome homeOf at h
  simp only [Config.hbmEnd, Config.cohBase, Config.globalOff, Config.cohBytes, Config.spadBase, Config.pcieBase, Config.pcieEnd,
    Config.mgmtSpadBase] at h hlt ⊢
  by_contra hge
  have h1 : ¬ pa < 0x20000000000 := by omega
  have h2 : ¬ pa < 0x20000000000 + 0x3FBFF80 := by omega
  have h3 : ¬ pa < 0x20000000000 + 0x4000000 := by omega
  have h4 : ¬ (0x30000000000 ≤ pa ∧ pa < 0x30000000000 + 2 ^ 36) := by omega
  have h5 : ¬ (0xE0000000000 ≤ pa ∧ pa < 0xE0000000000 + 262144) := by omega
  simp only [h1, h2, h3, h4, h5, if_false] at h
  split at h <;> simp at h

theorem hostPageOff_memory {pa : Nat} (h : pa < Config.pcieBase) : hostPageOff pa = none := by
  simp only [hostPageOff, hostPageBase, Config.pcieBase] at h ⊢
  exact if_neg (by omega)

theorem imsicFile_memory {pa : Nat} (h : pa < Config.pcieBase) : imsicFile pa = none := by
  simp only [imsicFile, Config.pcieBase] at h ⊢
  exact if_neg (by omega)

/-- The low bits of a value, placed and masked, are the value masked. -/
theorem placeAt_and_maskAt (x : Word) {w : Nat} (hw : w ≤ 64) :
    placeAt 0 w (x.toNat % 2 ^ w) &&& maskAt 0 w = x &&& maskAt 0 w := by
  have hp : 2 ^ w ≤ 2 ^ 64 := Nat.pow_le_pow_right (by decide) hw
  have hpos : 0 < 2 ^ w := Nat.two_pow_pos w
  have hplace : (placeAt 0 w (x.toNat % 2 ^ w)).toNat = x.toNat % 2 ^ w := by
    simp only [placeAt, word, BitVec.toNat_ofNat, Nat.mod_mod, Nat.pow_zero, Nat.mul_one]
    exact Nat.mod_eq_of_lt (lt_of_lt_of_le (Nat.mod_lt _ hpos) hp)
  have hmask : (maskAt 0 w).toNat = 2 ^ w - 1 := by
    simp only [maskAt, ones, word, BitVec.toNat_ofNat, Nat.pow_zero, Nat.mul_one]
    exact Nat.mod_eq_of_lt (by omega)
  apply BitVec.eq_of_toNat_eq
  rw [BitVec.toNat_and, BitVec.toNat_and, hplace, hmask, Nat.and_two_pow_sub_one_eq_mod, Nat.and_two_pow_sub_one_eq_mod, Nat.mod_mod]

/-- A masked store at a word without error, on which no request is parked (R26). -/
theorem State.storeAt_clean {s : State} {pa : Nat} (hparked : s.parked = []) (hclean : s.clean pa) (hhome : MemoryHome pa)
    (hro : readOnlyBits pa = 0) (m v : Word) (p : Nat) :
    s.storeAt pa m v p = s.poke pa ((s.peek pa &&& ~~~m) ||| (v &&& m)) p := by
  simp only [State.storeAt, State.merge_clean hclean]
  exact State.reexamine_none (State.poke_parked _ _ hhome hro hparked) _ _

/-- An aligned store of an application core to a memory is one masked store at its word (R216; log entries 64 and 92). -/
theorem State.hostMerge_store {s : State} {pa w : Nat} (x : Word) (hpa : pa % 8 = 0) (hhome : MemoryHome pa)
    (hlt : pa < Config.mgmtSpadBase) (hw : w = 8 ∨ w = 16 ∨ w = 32 ∨ w = 64) :
    s.hostMerge .store pa w x = s.storeAt pa (maskAt 0 w) (placeAt 0 w (x.toNat % 2 ^ w)) 0 := by
  have hbase := MemoryHome.lt_pcieBase hhome hlt
  have hword : pa / 8 * 8 = pa := by omega
  have hwidth : hostWidth w = true := by obtain rfl | rfl | rfl | rfl := hw <;> rfl
  have haligned : hostAligned pa w = true := by
    have hmod : pa * 8 % w = 0 := by obtain rfl | rfl | rfl | rfl := hw <;> omega
    simp [hostAligned, hwidth, hmod]
  have hbelow : ¬ Config.mgmtSpadBase ≤ pa := by omega
  have hone : s.mergeOne .store pa w x = s.storeAt pa (maskAt 0 w) (placeAt 0 w (x.toNat % 2 ^ w)) 0 := by
    unfold State.mergeOne
    obtain h | h | ⟨c, h⟩ := hhome <;>
      simp [hword, hpa, hostPageOff_memory hbase, imsicFile_memory hbase, h, hbelow]
  simp [State.hostMerge, hwidth, haligned, hone]

theorem State.hostWait_clear {s : State} (hl : s.linksClear = true) (hsafe : s.mgmt.safe = false) (pa w : Nat) :
    s.hostWait pa w = false := by
  simp [State.hostWait, State.hubWait, State.accessWait, State.heldOn_clear hl, hsafe]

theorem exec_homeMerge_posted (k : Nat) (s : State) : exec (.homeMerge (.posted k)) s = .next (s.arriveAt k) := rfl

theorem exec_homeMerge_host (op : HostOp) (a w : Nat) (x : Word) (s : State) :
    exec (.homeMerge (.host op a w x)) s = .next (if s.hostWait a w then s else s.hostMerge op a w x) := rfl

/-- A posted access that may reach its home takes effect there. -/
theorem State.arriveAt_zero_lands {s : State} {q : Posted} {rest : List Posted} (hq : s.inflight = q :: rest)
    (hl : s.linksClear = true) (hparked : s.parked = []) (hdropped : s.dropped = []) (hclean : s.clean q.pa)
    (hhome : MemoryHome q.pa) (hro : readOnlyBits q.pa = 0)
    (hown : q.checked = false ∨ s.foreign q.ptag.toNat q.ordinary false q.pa = false) :
    s.arriveAt 0 = (s.withInflight rest).land q := by
  rw [State.arriveAt_zero hq hl, State.arrive_lands (s := s.withInflight rest) hown]
  obtain ⟨hsame, -⟩ := State.land_frame (s := s.withInflight rest) hparked hclean hhome hro
  exact State.settleDropped_none (hsame.dropped.trans hdropped)

/-- One that finds a foreign home is dropped and counted (R27 order 7, R292). -/
theorem State.arriveAt_zero_drops {s : State} {q : Posted} {rest : List Posted} (hq : s.inflight = q :: rest)
    (hl : s.linksClear = true) (hc : q.checked = true) (hf : s.foreign q.ptag.toNat q.ordinary false q.pa = true) :
    (s.arriveAt 0).mem = s.mem ∧ ((s.arriveAt 0).core q.who.core).dropcnt = (s.core q.who.core).dropcnt + 1 ∧
    ((s.arriveAt 0).part q.ptag.toNat).drop = (s.part q.ptag.toNat).drop + 1 := by
  rw [State.arriveAt_zero hq hl, State.arrive_drops (s := s.withInflight rest) hc hf]
  obtain ⟨m, d, hsettle⟩ := State.settleDropped_same
    ((s.withInflight rest).dropAccess ⟨q.who, q.ptag, q.writer, q.grp, q.addr⟩)
  rw [hsettle]
  exact State.dropAccess_counts (s.withInflight rest) ⟨q.who, q.ptag, q.writer, q.grp, q.addr⟩

/-- Settles O30: the first posted access in flight lands (`State.arriveAt_zero_lands`) or is dropped (`State.arriveAt_zero_drops`), a
landed one acts on its own word only (`State.land_frame`), and an aligned store of an application core is one such merge. -/
theorem homeMergeResults : Obligations.HomeMergeResults := by
  unfold Obligations.HomeMergeResults
  refine ⟨fun s q rest hok hq hparked hdropped hlinks hclean _ hhome hro => ⟨fun hown => ?_, fun hchecked hforeign => ?_⟩,
    fun s pa w x hok hparked hlinks hsafe hclean hpa hhome hlt hro hw => ?_⟩
  · obtain ⟨hsame, hbytes⟩ := State.land_frame (s := s.withInflight rest) hparked hclean hhome hro
    refine ⟨_, exec_homeMerge_posted 0 s, ?_⟩
    rw [State.arriveAt_zero_lands hq hlinks hparked hdropped hclean hhome hro hown, ← State.withInflight_peek s rest hhome]
    exact ⟨hsame.inflight, hbytes,
      fun m v hop => State.land_store_word (s := s.withInflight rest) hparked hclean hhome hro hok hop,
      fun v ver hop => State.land_stv_word (s := s.withInflight rest) hparked hclean hhome hro hok hop,
      fun hop => State.land_reclaim_word (s := s.withInflight rest) hparked hhome hok hop⟩
  · obtain ⟨hmem, hcore, hpart⟩ := State.arriveAt_zero_drops hq hlinks hchecked hforeign
    exact ⟨_, exec_homeMerge_posted 0 s, fun a => congrArg (Memory.byte · a) hmem, hcore, hpart⟩
  · have hw64 : w ≤ 64 := by omega
    refine ⟨_, exec_homeMerge_host .store pa w x s, ?_⟩
    rw [State.hostWait_clear hlinks hsafe, if_neg Bool.false_ne_true, State.hostMerge_store x hpa hhome hlt hw,
      State.storeAt_clean hparked hclean hhome hro, placeAt_and_maskAt x hw64]
    refine ⟨State.peek_poke_same hok.1 _ _ hhome hro, fun a ha => ?_⟩
    rw [State.poke_mem _ _ hhome hro]
    exact Memory.byte_setWord_out _ _ ha

end Sys2Proof.Machine

/-! Words of scratchpads (R17, R18, R26): stores of whole words, and what a lane reads and stores at addresses of its own. -/

namespace Sys2Proof.Machine

/-! Whole words stored in scratchpads (R26): nothing is read, so no error matters. -/

theorem homeOf_spad {pa : Nat} (h : Config.spadBase ≤ pa) (h' : pa < Config.spadBase + 2 ^ 36) :
    homeOf pa = .spad ((pa - Config.spadBase) / 65536) := by
  have hhbm : Config.hbmEnd ≤ Config.spadBase := by decide
  have hcoh : Config.cohBase + Config.globalOff ≤ Config.spadBase := by decide
  have hctl : Config.cohBase + Config.cohBytes ≤ Config.spadBase := by decide
  unfold homeOf
  rw [if_neg (by omega), if_neg (by omega), if_neg (by omega), if_pos ⟨h, h'⟩]

/-- Is a physical byte address one of the compute cores' scratchpads (R306)? -/
def InSpad (pa : Nat) : Prop := Config.spadBase ≤ pa ∧ pa < Config.spadBase + 2 ^ 36

theorem InSpad.home {pa : Nat} (h : InSpad pa) : homeOf pa = .spad ((pa - Config.spadBase) / 65536) := homeOf_spad h.1 h.2

theorem InSpad.memory {pa : Nat} (h : InSpad pa) : MemoryHome pa := .inr (.inr ⟨_, h.home⟩)

theorem InSpad.writable {pa : Nat} (h : InSpad pa) : readOnlyBits pa = 0 := by
  have hcoh : Config.cohBase + Config.globalOff ≤ Config.spadBase := by decide
  exact if_pos (.inr (hcoh.trans h.1))

theorem State.freshCode_same (s : State) (pa : Nat) : (s.freshCode pa).SameButMemory s := ⟨rfl, fun _ => rfl⟩

/-- A whole word stored in a scratchpad. -/
theorem State.storeAt_spad {s : State} (hparked : s.parked = []) {pa : Nat} (h : InSpad pa) (v : Word) (p : Nat) :
    (s.storeAt pa (BitVec.allOnes 64) v p).SameButMemory s ∧
    (s.storeAt pa (BitVec.allOnes 64) v p).mem = Memory.setWord s.mem pa v := by
  have hhbm : homeOf pa ≠ .hbm := by rw [h.home]; simp
  have hmerge : s.merge pa (BitVec.allOnes 64) v p = (s.freshCode pa).poke pa v p := by
    unfold State.merge
    exact if_pos ⟨rfl, hhbm⟩
  have hsame : ((s.freshCode pa).poke pa v p).SameButMemory s :=
    (State.poke_same v p h.memory h.writable).trans (State.freshCode_same s pa)
  unfold State.storeAt
  rw [hmerge, State.reexamine_none (hsame.parked.trans hparked)]
  exact ⟨hsame, State.poke_mem v p h.memory h.writable⟩

/-- The memory with words written one after the other from an address up. -/
def Memory.setWords (m : List Host.Cell) (a : Nat) : List Word → List Host.Cell
  | [] => m
  | w :: ws => Memory.setWords (Memory.setWord m a w) (a + 8) ws

theorem Memory.wf_setWords {m : List Host.Cell} (h : Memory.wf m = true) (a : Nat) (ws : List Word) :
    Memory.wf (Memory.setWords m a ws) = true := by
  induction ws generalizing m a with
  | nil => exact h
  | cons w ws ih => exact ih (Memory.wf_setWord h a w) (a + 8)

theorem Memory.word_setWords_below (m : List Host.Cell) {a x : Nat} (ws : List Word) (h : x + 8 ≤ a) :
    Memory.word (Memory.setWords m a ws) x = Memory.word m x := by
  induction ws generalizing m a with
  | nil => rfl
  | cons w ws ih =>
    rw [Memory.setWords, ih _ (by omega)]
    exact Memory.word_setWord_out m a x w (.inl h)

theorem Memory.word_setWords {m : List Host.Cell} (hm : Memory.wf m = true) (a : Nat) (ws : List Word) {i : Nat} {x : Word}
    (hx : ws[i]? = some x) : Memory.word (Memory.setWords m a ws) (a + 8 * i) = x := by
  induction ws generalizing m a i with
  | nil => simp at hx
  | cons w ws ih =>
    cases i with
    | zero =>
      obtain rfl : w = x := by simpa using hx
      rw [Memory.setWords, Memory.word_setWords_below _ _ (by omega)]
      exact Memory.word_setWord_same hm a w
    | succ i =>
      rw [Memory.setWords, show a + 8 * (i + 1) = a + 8 + 8 * i by omega]
      exact ih (Memory.wf_setWord hm a w) (a + 8) (by simpa using hx)

/-- Words that a core stores in a scratchpad. -/
theorem State.coreStores_spad {s : State} (hparked : s.parked = []) (base p : Nat) (ws : List Word)
    (h : ∀ i, i < ws.length → InSpad (base + 8 * i)) :
    (s.coreStores base ws p).SameButMemory s ∧ (s.coreStores base ws p).mem = Memory.setWords s.mem base ws := by
  have fold (ws : List Word) : ∀ (n : Nat) (s : State), s.parked = [] → (∀ i, i < ws.length → InSpad (base + 8 * (n + i))) →
      let t := (ws.zipIdx n).foldl (fun s w => s.storeAt (base + 8 * w.2) (BitVec.allOnes 64) w.1 p) s
      t.SameButMemory s ∧ t.mem = Memory.setWords s.mem (base + 8 * n) ws := by
    induction ws with
    | nil => exact fun n s _ _ => ⟨.refl s, rfl⟩
    | cons w ws ih =>
      intro n s hparked h
      obtain ⟨hsame, hmem⟩ := State.storeAt_spad hparked (h 0 (by simp)) w p
      obtain ⟨hsame', hmem'⟩ := ih (n + 1) (s.storeAt (base + 8 * n) (BitVec.allOnes 64) w p) (hsame.parked.trans hparked)
        fun i hi => by
          have := h (i + 1) (by simpa using hi)
          rwa [show n + (i + 1) = n + 1 + i by omega] at this
      refine ⟨hsame'.trans hsame, ?_⟩
      rw [List.zipIdx_cons, List.foldl_cons, hmem']
      exact congrArg (Memory.setWords · (base + 8 * (n + 1)) ws) hmem
  have := fold ws 0 s hparked (by simpa using h)
  simpa [State.coreStores] using this

/-! Scratchpad addresses (R17, R18): consecutive 64-bit words of one window lie one after the other. -/

theorem decodeWindow_raw {a : Word} {off : Nat} (h : decodeWindow a = some (.raw off)) :
    a.toNat = 0xC000000000000000 + off ∧ off < 2 ^ 21 := by
  unfold decodeWindow at h
  simp only at h
  split_ifs at h with h63 h0 h0' hc h1 hd h2 hco hlow hhi h8 <;> simp at h
  simp [bit, bits, Nat.testBit_eq_decide_div_mod_eq] at h63 hhi h8 h
  omega

theorem decodeWindow_global {a : Word} {c off : Nat} (h : decodeWindow a = some (.global c off)) :
    a.toNat = 0x8000000000000000 + c * 2 ^ 39 + off ∧ c < Config.mgmtCore ∧ off < 2 ^ 19 := by
  unfold decodeWindow at h
  simp only at h
  split_ifs at h with h63 h0 h0' hc h1 hd h2 hco hlow hhi h8 <;> simp at h
  simp [bit, bits, Nat.testBit_eq_decide_div_mod_eq] at h63 h0' hc h
  simp only [Config.mgmtCore]
  omega

/-- The physical byte address of a scratchpad word, by its place. -/
theorem State.wordAt_raw {s : State} (hc : s.cur.core < Config.mgmtCore) (off : Nat) :
    s.wordAt (.raw off) = Config.spadBase + s.cur.core / 4 * 4 * 65536 + off / 64 * 8 := by
  have hlt : ¬ Config.mgmtCore ≤ s.cur.core := by omega
  simp only [State.wordAt, Place.byteAddr, rawByte, ge_iff_le, hlt, if_false, Config.spadBase]
  omega

theorem State.wordAt_global (s : State) (c off : Nat) :
    s.wordAt (.global c off) = Config.spadBase + c * 65536 + off / 64 * 8 := by
  simp only [State.wordAt, Place.byteAddr, Config.spadBase]
  omega

theorem State.wordAt_inSpad {s : State} (hc : s.cur.core < Config.mgmtCore) {a : Word} {p : Place} (ha : decodeWindow a = some p)
    (hp : p.isSpad = true) : InSpad (s.wordAt p) := by
  cases p with
  | raw off =>
    obtain ⟨-, hoff⟩ := decodeWindow_raw ha
    rw [State.wordAt_raw hc]
    simp only [InSpad, Config.spadBase, Config.mgmtCore] at hc ⊢
    omega
  | global c off =>
    obtain ⟨-, hcore, hoff⟩ := decodeWindow_global ha
    rw [State.wordAt_global]
    simp only [InSpad, Config.spadBase, Config.mgmtCore] at hcore ⊢
    omega
  | trans | fmt win off | dev off | coh off => cases hp

theorem State.wordAt_next {s : State} (hc : s.cur.core < Config.mgmtCore) {a b : Word} {p q : Place} (ha : decodeWindow a = some p)
    (hb : decodeWindow b = some q) (hp : p.isSpad = true) (hq : q.isSpad = true) {k : Nat} (hk : k < 2 ^ 20)
    (hab : b.toNat = a.toNat + 64 * k) : s.wordAt q = s.wordAt p + 8 * k := by
  cases p with
  | raw off =>
    obtain ⟨haw, hoff⟩ := decodeWindow_raw ha
    cases q with
    | raw off' =>
      obtain ⟨hbw, hoff'⟩ := decodeWindow_raw hb
      rw [State.wordAt_raw hc, State.wordAt_raw hc]
      omega
    | global c' off' =>
      obtain ⟨hbw, hcore', hoff'⟩ := decodeWindow_global hb
      simp only [Config.mgmtCore] at hcore'
      omega
    | trans | fmt win off | dev off | coh off => cases hq
  | global c off =>
    obtain ⟨haw, hcore, hoff⟩ := decodeWindow_global ha
    simp only [Config.mgmtCore] at hcore
    cases q with
    | raw off' =>
      obtain ⟨hbw, hoff'⟩ := decodeWindow_raw hb
      omega
    | global c' off' =>
      obtain ⟨hbw, hcore', hoff'⟩ := decodeWindow_global hb
      obtain rfl : c' = c := by omega
      rw [State.wordAt_global, State.wordAt_global]
      omega
    | trans | fmt win off | dev off | coh off => cases hq
  | trans | fmt win off | dev off | coh off => cases hp

/-! Words that a lane reads and stores at its own scratchpad addresses (R213, R247). -/

/-- Order 4 of R27 asks of an ordinary access to a memory named directly that it be aligned (R23). -/
theorem order4_direct {p : Place} (hp : p.direct = true) (mgmt : Bool) (a : Word) (w : Nat) {k : Access}
    (hk : (k == .amo || k == .red) = false) (ht : accTagged k = false) : order4 mgmt p a w k = !aligned a w := by
  cases p with
  | raw off | global c off | coh off => simp only [order4, hk, ht, Bool.false_eq_true, if_false]
  | trans | fmt win off | dev off => cases hp

theorem Place.direct_of_isSpad {p : Place} (h : p.isSpad = true) : p.direct = true := by
  cases p with
  | raw off | global c off => rfl
  | trans | fmt win off | dev off | coh off => cases h

/-- Whether a lane of a partition finds a scratchpad foreign does not depend on the kind of its access (R285). -/
theorem State.foreign_inSpad (s : State) {pa : Nat} (h : InSpad pa) (p : Nat) (o o' sup sup' : Bool) :
    s.foreign p o sup pa = s.foreign p o' sup' pa := by
  simp only [State.foreign, h.home]

theorem State.foreign_parts {s t : State} (h : t.parts = s.parts) {pa : Nat} (hpa : InSpad pa) (p : Nat) (o sup : Bool) :
    t.foreign p o sup pa = s.foreign p o sup pa := by
  simp only [State.foreign, hpa.home, State.qtag, State.holds, State.part, h]

/-- The address `a` of the issuing lane names the scratchpad word at `pa`, which it may reach. -/
def State.OwnWord (s : State) (a : Word) (pa : Nat) : Prop :=
  ∃ p, decodeWindow a = some p ∧ p.isSpad = true ∧ aligned a 64 = true ∧ s.own p false ∧ s.wordAt p = pa

theorem State.setLaneAt_self_core (s : State) (r : LaneRef) (c : Nat) : (s.setLaneAt r (s.laneAt r)).core c = s.core c := by
  by_cases hc : c = r.core
  · subst hc
    have hself : (s.core r.core).setLane r.lane (s.laneAt r) = s.core r.core := by
      simp [Core.setLane, State.laneAt, Core.lane]
    exact (State.setCore_core_same _ _ _).trans hself
  · exact State.setCore_core_ne _ _ hc

/-- A lane put back as it was changes nothing. -/
theorem State.setLaneAt_self_same (s : State) (r : LaneRef) : (s.setLaneAt r (s.laneAt r)).SameButMemory s :=
  ⟨rfl, State.setLaneAt_self_core s r⟩

theorem State.SameButMemory.laneAt {s t : State} (h : t.SameButMemory s) (r : LaneRef) : t.laneAt r = s.laneAt r :=
  congrArg (Core.lane · r.lane) (h.2 r.core)

theorem State.SameButMemory.lane {s t : State} (h : t.SameButMemory s) : t.lane = s.lane := by
  unfold State.lane
  rw [h.cur, h.laneAt]

theorem State.SameButMemory.wordAt {s t : State} (h : t.SameButMemory s) (p : Place) : t.wordAt p = s.wordAt p := by
  unfold State.wordAt
  rw [h.cur]

theorem State.SameButMemory.own {s t : State} (h : t.SameButMemory s) (hc : s.cur.core < Config.mgmtCore) {a : Word} {p : Place}
    (ha : decodeWindow a = some p) (hp : p.isSpad = true) {o : Bool} (hown : s.own p o) : t.own p o := by
  refine hown.imp id fun hf => ?_
  rw [h.wordAt, h.lane, State.foreign_parts h.parts (State.wordAt_inSpad hc ha hp)]
  exact hf

theorem State.SameButMemory.ownWord {s t : State} (h : t.SameButMemory s) (hc : s.cur.core < Config.mgmtCore) {a : Word} {pa : Nat}
    (hown : s.OwnWord a pa) : t.OwnWord a pa := by
  obtain ⟨p, ha, hp, hal, ho, hw⟩ := hown
  exact ⟨p, ha, hp, hal, h.own hc ha hp ho, (h.wordAt p).trans hw⟩

/-- The state in which lane `r` makes a store under a partition: no migration in progress goes before it (R247). -/
def State.acting (s : State) (r : LaneRef) (p : BitVec 8) : State :=
  { s.setLaneAt r { s.laneAt r with ptag := p } with hub := { s.hub with mig := none } }

/-- The state `w` after such a store, with the tag of lane `r` and the migration of `s` as they were. -/
def State.acted (s : State) (r : LaneRef) (w : State) : State :=
  { w.setLaneAt r { w.laneAt r with ptag := (s.laneAt r).ptag } with hub := { w.hub with mig := s.hub.mig } }

theorem State.storeAs_spad {s u : State} {r : LaneRef} {p : BitVec 8} {a : Word} {g : Target}
    (hresolve : (s.acting r p).resolve r a 64 .store = .ok (u, g)) (hown : (g.checked && u.foreign p.toNat false false g.pa) = false)
    (hplace : g.place.isSpad = true) (hpa : InSpad g.pa) (v : Word) :
    s.storeAs r p a v = some (s.acted r (u.storeAt g.pa (BitVec.allOnes 64) v p.toNat)) := by
  obtain ⟨place, pa, sh, checked⟩ := g
  unfold State.acting at hresolve
  simp only [State.storeAs, hresolve, hown, Bool.false_eq_true, if_false, InSpad.home hpa]
  cases place with
  | raw off | global c off => rfl
  | trans | fmt win off | dev off | coh off => cases hplace

theorem State.acting_core (s : State) (r : LaneRef) (c : Nat) : (s.acting r (s.laneAt r).ptag).core c = s.core c :=
  State.setLaneAt_self_core s r c

/-- A store under the lane's own tag leaves everything else as it was. -/
theorem State.acted_same {s w : State} (r : LaneRef) (h : w.SameButMemory (s.acting r (s.laneAt r).ptag)) :
    (s.acted r w).SameButMemory s := by
  obtain ⟨hw, hcore⟩ := h
  have hall (c : Nat) : w.core c = s.core c := (hcore c).trans (State.acting_core s r c)
  have hlane : w.laneAt r = s.laneAt r := congrArg (Core.lane · r.lane) (hall r.core)
  refine ⟨?_, fun c => ?_⟩
  · unfold State.acted
    rw [hw]
    rfl
  · refine Eq.trans ?_ (hall c)
    have hput : ({ w.laneAt r with ptag := (s.laneAt r).ptag } : Lane) = w.laneAt r := by rw [← hlane]
    unfold State.acted
    rw [hput]
    exact State.setLaneAt_self_core w r c

/-- A launch unit's or a notice's store at a scratchpad word of the issuing lane. -/
theorem State.storeAs_own {s : State} (hc : s.cur.core < Config.mgmtCore) (hparked : s.parked = []) {a : Word} {pa : Nat}
    (h : s.OwnWord a pa) (v : Word) : ∃ t, s.storeAs s.cur s.lane.ptag a v = some t ∧ t.SameButMemory s ∧
      t.mem = Memory.setWord s.mem pa v := by
  obtain ⟨p, ha, hp, hal, hown, rfl⟩ := h
  have hspad := State.wordAt_inSpad hc ha hp
  have hdirect := Place.direct_of_isSpad hp
  have h4 : order4 (decide (Config.mgmtCore ≤ s.cur.core)) p a 64 .store = false := by
    rw [order4_direct hdirect _ _ _ rfl rfl, hal]
    rfl
  have hresolve : (s.acting s.cur s.lane.ptag).resolve s.cur a 64 .store =
      .ok (s.acting s.cur s.lane.ptag, (s.acting s.cur s.lane.ptag).targetOf p a) :=
    State.resolve_direct (s := s.acting s.cur s.lane.ptag) ha hdirect (order3_direct hdirect _ rfl) h4
  have hforeign : (p.homeChecks && (s.acting s.cur s.lane.ptag).foreign s.lane.ptag.toNat false false (s.wordAt p)) = false := by
    rw [State.foreign_parts (t := s.acting s.cur s.lane.ptag) (s := s) rfl hspad,
      State.foreign_inSpad s hspad _ false false false s.lane.sup]
    exact State.own_not_foreign hown
  obtain ⟨hsame, hmem⟩ := State.storeAt_spad (s := s.acting s.cur s.lane.ptag) hparked hspad v s.lane.ptag.toNat
  exact ⟨_, State.storeAs_spad hresolve hforeign hp hspad v, State.acted_same s.cur hsame, hmem⟩

/-- Words stored one after the other. -/
theorem State.storeWordsAs_own {s : State} (hc : s.cur.core < Config.mgmtCore) (hparked : s.parked = []) {a : Word} {pa : Nat}
    (ws : List Word) (h : ∀ i, i < ws.length → s.OwnWord (a + BitVec.ofNat 64 (64 * i)) (pa + 8 * i)) :
    ∃ t, s.storeWordsAs s.cur s.lane.ptag a ws = some t ∧ t.SameButMemory s ∧ t.mem = Memory.setWords s.mem pa ws := by
  induction ws generalizing s a pa with
  | nil => exact ⟨s, rfl, .refl s, rfl⟩
  | cons w ws ih =>
    obtain ⟨t, ht, hsame, hmem⟩ := State.storeAs_own hc hparked (by simpa using h 0 (by simp)) w
    have hnext (i : Nat) (hi : i < ws.length) : t.OwnWord (a + 64 + BitVec.ofNat 64 (64 * i)) (pa + 8 + 8 * i) := by
      have := hsame.ownWord hc (h (i + 1) (by simpa using hi))
      rw [show pa + 8 * (i + 1) = pa + 8 + 8 * i by omega] at this
      rwa [show a + BitVec.ofNat 64 (64 * (i + 1)) = a + 64 + BitVec.ofNat 64 (64 * i) by
        rw [Nat.mul_add, Nat.add_comm, BitVec.ofNat_add, BitVec.add_assoc]; rfl] at this
    obtain ⟨u, hu, hsame', hmem'⟩ := ih (s := t) (by rw [hsame.cur]; exact hc) (hsame.parked.trans hparked) hnext
    rw [hsame.cur, hsame.lane] at hu
    exact ⟨u, by simp only [State.storeWordsAs, ht, hu], hsame'.trans hsame, by rw [hmem', hmem]; rfl⟩

theorem State.SameButMemory.plain {s t : State} (h : t.SameButMemory s) (hc : s.cur.core < Config.mgmtCore) {a : Word} {w : Nat}
    {p : Place} (hp : p.isSpad = true) (hlinks : t.links = s.links) (herr : t.unc = s.unc ∧ t.corr = s.corr)
    (hplain : s.plain a w p) : t.plain a w p := by
  obtain ⟨ha, hdirect, hal, hown, ⟨hfl, hdr, hcl⟩, ⟨hu, hco⟩, hwatch⟩ := hplain
  refine ⟨ha, hdirect, hal, h.own hc ha hp hown, ⟨h.inflight.trans hfl, h.dropped.trans hdr, ?_⟩, ?_, ?_⟩
  · simpa only [State.linksClear, hlinks] using hcl
  · rw [h.wordAt]
    exact ⟨herr.1 ▸ hu, herr.2 ▸ hco⟩
  · have hcore : t.myCore = s.myCore := by
      unfold State.myCore
      rw [h.cur, h.2]
    simpa only [State.unwatched, hcore] using hwatch

/-- A word that the issuing lane reads for itself at an ordinary scratchpad address. -/
theorem State.readWords_plain {s : State} {a : Word} {p : Place} (hp : p.isSpad = true) (h : s.plain a 64 p) :
    s.readWords s.cur a .table 1 = .ok (s, [word (bits (s.peek (s.wordAt p)) (a.toNat % 64 + 64 - 1) (a.toNat % 64))]) := by
  have ⟨_, hdirect, hal, _, hsettled, hclean, _⟩ := h
  have h4 : order4 (decide (Config.mgmtCore ≤ s.cur.core)) p a 64 .table = false := by
    rw [order4_direct hdirect _ _ _ rfl rfl, hal]
    rfl
  have hcheck : s.checkAccess s.cur a 64 .table = .ok (s, s.targetOf p a) :=
    State.checkAccess_plain h (order3_direct hdirect _ rfl) h4
  have hread : s.readBits s.cur a 64 .table = .ok (s, bits (s.peek (s.wordAt p)) (a.toNat % 64 + 64 - 1) (a.toNat % 64)) := by
    have hhome := State.homeWord_clean hsettled hclean s.cur
    unfold State.readBits
    cases p with
    | raw off | global c off => simp only [hcheck, State.targetOf, hhome]
    | trans | fmt win off | dev off | coh off => cases hp
  simp only [State.readWords, hread]

theorem State.loadAs_of_readWords {s t : State} {r : LaneRef} {p : BitVec 8} {a : Word} {n : Nat} {ws : List Word}
    (h : (s.setLaneAt r { s.laneAt r with ptag := p }).readWords r a .table n = .ok (t, ws)) :
    s.loadAs r p a n = .ok (t.setLaneAt r { t.laneAt r with ptag := (s.laneAt r).ptag }, ws) := by
  simp only [State.loadAs, h]

/-- The control word of an empty queue is read as it stands. -/
theorem State.loadAs_zero {s : State} (hc : s.cur.core < Config.mgmtCore) {a : Word} {p : Place} (hp : p.isSpad = true)
    (h : s.plain a 64 p) (hzero : s.peek (s.wordAt p) = 0) :
    ∃ t, s.loadAs s.cur s.lane.ptag a 1 = .ok (t, [0]) ∧ t.SameButMemory s ∧ t.mem = s.mem := by
  have hself := State.setLaneAt_self_same s s.cur
  have hin := State.wordAt_inSpad hc h.1 hp
  have hread := State.readWords_plain hp (hself.plain hc hp rfl ⟨rfl, rfl⟩ h)
  have hpeek : (s.setLaneAt s.cur (s.laneAt s.cur)).peek (s.wordAt p) = 0 := by
    rw [← hzero, State.peek_memory _ hin.memory, State.peek_memory _ hin.memory]
    rfl
  have hword : word (bits (0 : Word) (a.toNat % 64 + 64 - 1) (a.toNat % 64)) = 0 := by simp [bits, word]
  rw [hself.wordAt, hpeek, hword, hself.cur] at hread
  have hback := State.setLaneAt_self_same (s.setLaneAt s.cur (s.laneAt s.cur)) s.cur
  have hload := State.loadAs_of_readWords (p := s.lane.ptag) hread
  rw [State.setLaneAt_laneAt_same] at hback hload
  exact ⟨_, hload, hback.trans hself, rfl⟩

end Sys2Proof.Machine

/-! Messages on their way (R173 to R176, R200 to R204, R213): injection, the partition check, rings, mailboxes and notice queues. -/

namespace Sys2Proof.Machine

/-! Headers (R198), as the arithmetic of their numbers, and the messages in flight. -/

/-- The state with other messages in flight. -/
def State.withMesh (s : State) (ms : List Flight) : State := { s with mesh := ms }

theorem State.withMesh_peek (s : State) (ms : List Flight) {pa : Nat} (h : MemoryHome pa) : (s.withMesh ms).peek pa = s.peek pa := by
  rw [State.peek_memory _ h, State.peek_memory _ h]
  rfl

theorem hdrMb_eq (h : Word) : hdrMb h = decide (h.toNat / 2 ^ 61 % 2 = 1) := Nat.testBit_eq_decide_div_mod_eq
theorem hdrHw_eq (h : Word) : hdrHw h = decide (h.toNat / 2 ^ 60 % 2 = 1) := Nat.testBit_eq_decide_div_mod_eq
theorem hdrPtag_eq (h : Word) : hdrPtag h = h.toNat / 2 ^ 28 % 256 := rfl
theorem hdrCtx_eq (h : Word) : hdrCtx h = h.toNat / 2 ^ 20 % 4 := rfl
theorem hdrDest_eq (h : Word) : hdrDest h = h.toNat % 2 ^ 20 := by
  simp [hdrDest, bits]

/-! Drops (R173, R292). -/

theorem State.dropHere_core (s : State) (c : Nat) (h : Word) :
    (s.dropHere c h).core c = { s.core c with dropcnt := (s.core c).dropcnt + 1 } :=
  State.setCore_core_same s c { s.core c with dropcnt := (s.core c).dropcnt + word 1 }

theorem State.dropHere_part (s : State) (c : Nat) (h : Word) :
    (s.dropHere c h).part (hdrPtag h) = { s.part (hdrPtag h) with drop := (s.part (hdrPtag h)).drop + 1 } :=
  State.setPart_part_same (s.countDropcnt c 1) (hdrPtag h) { s.part (hdrPtag h) with drop := (s.part (hdrPtag h)).drop + word 1 }

theorem State.dropMessage_hw (s : State) {src : Nat} (hsrc : src ≤ Config.mgmtCore) (h : Word) :
    s.dropMessage src none h = s.dropHere src h := by
  have : src < hubSource := Nat.lt_succ_of_le hsrc
  simp [State.dropMessage, State.dropHere, this]

theorem State.dropMessage_lane (s : State) {src : Nat} (hsrc : src ≤ Config.mgmtCore) (l : Nat) (h : Word) :
    s.dropMessage src (some l) h = (s.dropHere src h).dropNotice ⟨src, l⟩ h := by
  have : src < hubSource := Nat.lt_succ_of_le hsrc
  simp [State.dropMessage, State.dropHere, this]

/-- The DROP notice that a lane gets of a dropped message (R173, R257). -/
def State.dropFlight (s : State) (src l : Nat) (h : Word) : Flight :=
  let x := s.laneAt ⟨src, l⟩
  ⟨src, none, src, mkHeader src l 58 x.ptag.toNat 1 src false true false ::
    noticeWords 0x08 x.ptag.toNat x.task.toNat 0 0 (s.die (dieOf src)).dtc 0 h ++ [0, 0, 0]⟩

theorem State.dropNotice_eq (s : State) (src l : Nat) (h : Word) :
    s.dropNotice ⟨src, l⟩ h = { s with mesh := s.mesh ++ [s.dropFlight src l h] } := by
  simp [State.dropNotice, State.postNotice, State.sendHw, State.dropFlight, noticeWords, mkMsg, ceilDiv, List.replicate_succ]

theorem State.dropHere_dropFlight (s : State) (src l : Nat) (h h' : Word) :
    (s.dropHere src h).dropFlight src l h' = s.dropFlight src l h' := by
  have hlane : (s.dropHere src h).laneAt ⟨src, l⟩ = s.laneAt ⟨src, l⟩ := by
    unfold State.laneAt
    rw [State.dropHere_core]
    rfl
  have hdie (n : Nat) : (s.dropHere src h).die n = s.die n := rfl
  simp only [State.dropFlight, hlane, hdie]

theorem State.dropMessage_mem (s : State) {src : Nat} (hsrc : src ≤ Config.mgmtCore) (lane : Option Nat) (h : Word) :
    (s.dropMessage src lane h).mem = s.mem := by
  cases lane with
  | none => rw [State.dropMessage_hw s hsrc]; rfl
  | some l => rw [State.dropMessage_lane s hsrc]; rfl

theorem State.dropMessage_core (s : State) {src : Nat} (hsrc : src ≤ Config.mgmtCore) (lane : Option Nat) (h : Word) :
    (s.dropMessage src lane h).core src = { s.core src with dropcnt := (s.core src).dropcnt + 1 } := by
  cases lane with
  | none => rw [State.dropMessage_hw s hsrc]; exact State.dropHere_core s src h
  | some l => rw [State.dropMessage_lane s hsrc, State.dropNotice_eq]; exact State.dropHere_core s src h

theorem State.dropMessage_part (s : State) {src : Nat} (hsrc : src ≤ Config.mgmtCore) (lane : Option Nat) (h : Word) :
    ((s.dropMessage src lane h).part (hdrPtag h)).drop = (s.part (hdrPtag h)).drop + 1 := by
  cases lane with
  | none => rw [State.dropMessage_hw s hsrc]; exact congrArg Part.drop (State.dropHere_part s src h)
  | some l => rw [State.dropMessage_lane s hsrc, State.dropNotice_eq]; exact congrArg Part.drop (State.dropHere_part s src h)

theorem State.dropMessage_hw_mesh (s : State) {src : Nat} (hsrc : src ≤ Config.mgmtCore) (h : Word) :
    (s.dropMessage src none h).mesh = s.mesh := by
  rw [State.dropMessage_hw s hsrc]; rfl

theorem State.dropMessage_lane_mesh (s : State) {src : Nat} (hsrc : src ≤ Config.mgmtCore) (l : Nat) (h : Word) :
    (s.dropMessage src (some l) h).mesh = s.mesh ++ [s.dropFlight src l h] := by
  rw [State.dropMessage_lane s hsrc, State.dropNotice_eq, State.dropHere_dropFlight]
  rfl

/-! Injection (R202, R289). -/

theorem find?_eq_some_of_unique {α : Type} {p : α → Bool} {xs : List α} {a : α} (ha : a ∈ xs) (hp : p a = true)
    (hu : ∀ x ∈ xs, p x = true → x = a) : xs.find? p = some a := by
  obtain ⟨b, hb⟩ := Option.isSome_iff_exists.mp (List.find?_isSome.mpr ⟨a, ha, hp⟩)
  rw [hb, hu b (List.mem_of_find?_eq_some hb) (List.find?_some hb)]

/-- The only lane with a waiting message, which no image save holds, is the next to send (R202, R296). -/
theorem State.nextSender_only {s : State} {c l : Nat} (hl : l < 4) (hq : ((s.core c).lane l).sendq ≠ [])
    (hsave : ((s.core c).lane l).save = .none) (hothers : ∀ i, i < 4 → i ≠ l → ((s.core c).lane i).sendq = []) :
    s.nextSender c = some l := by
  apply find?_eq_some_of_unique
  · refine List.mem_map.mpr ⟨(l + 4 - ((s.core c).lastInject + 1) % 4) % 4, List.mem_range.mpr (Nat.mod_lt _ (by omega)), by omega⟩
  · simp [State.saveHolds, hsave, hq]
  · intro i hi hsends
    obtain ⟨j, -, rfl⟩ := List.mem_map.mp hi
    by_contra hne
    rw [hothers _ (Nat.mod_lt _ (by omega)) hne] at hsends
    simp at hsends

/-- The state after a core has taken the first message from the send queue of a lane (R202). -/
def State.unqueued (s : State) (c l : Nat) (rest : List Msg) : State :=
  s.setCore c ({ s.core c with lastInject := l }.setLane l { (s.core c).lane l with sendq := rest })

theorem State.unqueued_core (s : State) (c l : Nat) (rest : List Msg) :
    (s.unqueued c l rest).core c = { s.core c with lastInject := l }.setLane l { (s.core c).lane l with sendq := rest } :=
  State.setCore_core_same _ _ _

/-- A header's map at its core (R289): a mailbox post names no lane. -/
def State.mapHeader (s : State) (h : Word) : Option Nat :=
  s.mapCore (hdrPtag h) (hdrDest h) (if hdrMb h then none else some (hdrCtx h))

section InjectFrom
variable {s : State} {c l : Nat} {ws : Msg} {rest : List Msg} (hq : ((s.core c).lane l).sendq = ws :: rest)
  (hlocal : s.remoteRange (hdrPtag (ws.headD 0)) (hdrDest (ws.headD 0)) = none)
include hq hlocal

theorem State.injectFrom_mapped {d : Nat} (hmap : s.mapHeader (ws.headD 0) = some d)
    (htakes : s.meshTakes ⟨c, some l, d, ws⟩ = true) :
    s.injectFrom c l = some ((s.unqueued c l rest).withMesh (s.mesh ++ [⟨c, some l, d, ws⟩])) := by
  have hrange : (s.unqueued c l rest).remoteRange (hdrPtag (ws.headD 0)) (hdrDest (ws.headD 0)) = none := hlocal
  have hmap' : (s.unqueued c l rest).mapHeader (ws.headD 0) = some d := hmap
  unfold State.unqueued State.mapHeader at hmap'
  unfold State.unqueued at hrange
  simp only [State.injectFrom, hq, hrange, hmap', htakes, if_true]
  rfl

theorem State.injectFrom_unmapped (hmap : s.mapHeader (ws.headD 0) = none) :
    s.injectFrom c l = some ((s.unqueued c l rest).dropMessage c (some l) (ws.headD 0)) := by
  have hrange : (s.unqueued c l rest).remoteRange (hdrPtag (ws.headD 0)) (hdrDest (ws.headD 0)) = none := hlocal
  have hmap' : (s.unqueued c l rest).mapHeader (ws.headD 0) = none := hmap
  unfold State.unqueued State.mapHeader at hmap'
  unfold State.unqueued at hrange
  simp only [State.injectFrom, hq, hrange, hmap']
  rfl

end InjectFrom

/-- The mesh takes a message where none is under way to its core (R201). -/
theorem State.meshTakes_none {s : State} {f : Flight} (h : ∀ g ∈ s.mesh, g.dest ≠ f.dest) : s.meshTakes f = true := by
  have hnone : s.mesh.filter (fun g => !g.isDebug && g.sameInput f) = [] := by
    refine List.filter_eq_nil_iff.mpr fun g hg => ?_
    simp [Flight.sameInput, h g hg]
  simp [State.meshTakes, hnone]

theorem State.inject_of {s t : State} {c l : Nat} (hnext : s.nextSender c = some l) (hfrom : s.injectFrom c l = some t) :
    s.inject c = t := by
  simp [State.inject, hnext, hfrom]

theorem exec_messageInject (c : Nat) (s : State) : exec (.messageInject c) s = .next (s.inject c) := rfl

/-! The only message in flight, at a core that receives (R200, R201). -/

theorem Core.lane_mod (k : Core) (l : Nat) : k.lane (l % 4) = k.lane l := by
  simp [Core.lane]

/-- No ejection buffer of a core that receives holds a message. -/
theorem State.receives_ejbuf {s : State} {c : Nat} (h : s.receives c) (l : Nat) : ((s.core c).lane l).ejbuf = none := by
  rw [← Core.lane_mod]
  exact h.2.2 _ (Nat.mod_lt _ (by decide))

theorem Core.lanes_all {k : Core} {P : Lane → Prop} (h : ∀ l, P (k.lane l)) : ∀ x ∈ k.lanes.toList, P x := by
  intro x hx
  obtain ⟨i, hi, rfl⟩ := Vector.mem_iff_getElem.mp (Vector.mem_toList_iff.mp hx)
  have := h i
  simpa only [Core.lane, Nat.mod_eq_of_lt hi] using this

section Only
variable {s : State} {c : Nat} {f : Flight} (hmesh : s.mesh = [f]) (hdest : f.dest = c) (hr : s.receives c)
include hmesh hr

theorem State.unflight_only : s.unflight 0 = s.withMesh [] := by
  obtain ⟨hl, hstuck, -⟩ := hr
  cases s
  simp only at hmesh hstuck
  subst hmesh hstuck
  simp [State.unflight, State.passLinks_clear hl, dropAt, State.withMesh]

include hdest in
theorem State.arriving_only : s.arriving c 0 = some (0, f) := by
  have hbuf := Core.lanes_all (P := fun l => l.ejbuf = none) (State.receives_ejbuf hr)
  obtain ⟨hl, hstuck, -⟩ := hr
  have hheld : s.inputHeld f = false := by simp [State.inputHeld, hstuck]
  have hwait : s.linkWait 0 f = false := by simp [State.linkWait, State.heldOn_clear hl]
  unfold State.arriving
  simp only [hmesh, List.zipIdx_cons, List.zipIdx_nil, List.filter_cons, hdest, beq_self_eq_true, if_true, List.filter_nil,
    List.getElem?_cons_zero, List.take_zero, List.any_nil, hheld, hwait, Bool.or_false, Bool.false_or]
  refine if_neg ?_
  rw [Bool.not_eq_true]
  refine List.any_eq_false.mpr fun x hx => ?_
  rw [hbuf x hx]
  exact Bool.false_ne_true

include hdest in
/-- What takes the message decides its fate where the partition check lets it pass (R173). -/
theorem State.take_passed {ok : MsgKind → Bool} {take : State → Flight → Option State} {t : State}
    (hkind : ok (s.msgKind c f.words) = true) (htag : s.tagMismatch c (f.words.headD 0) = false)
    (htake : take (s.withMesh []) f = some t) : s.take_ c 0 ok take = t := by
  simp only [State.take_, State.arriving_only hmesh hdest hr, State.unflight_only hmesh hr, hkind, htag, htake, Bool.not_true,
    Bool.false_eq_true, if_false, Option.getD_some]

include hdest in
/-- The partition check drops the message otherwise. -/
theorem State.take_dropped {ok : MsgKind → Bool} {take : State → Flight → Option State}
    (hkind : ok (s.msgKind c f.words) = true) (htag : s.tagMismatch c (f.words.headD 0) = true) :
    s.take_ c 0 ok take = (s.withMesh []).dropMessage f.src f.lane (f.words.headD 0) := by
  simp only [State.take_, State.arriving_only hmesh hdest hr, State.unflight_only hmesh hr, hkind, htag, Bool.not_true,
    Bool.false_eq_true, if_false, if_true]

end Only

/-- Nothing waits in the ejection buffers, so nothing is tried again. -/
theorem State.retryCore_none {s : State} {c : Nat} (h : s.receives c) : s.retryCore c = s := by
  have hone (l : Nat) : s.retryBuffer ⟨c, l⟩ = s := by
    have hbuf : (s.laneAt ⟨c, l⟩).ejbuf = none := State.receives_ejbuf h l
    simp only [State.retryBuffer, hbuf]
  exact List.foldl_fixed' hone _

/-! The partition check and the kind of a message (R173, R176, R204). -/

/-- Does the partition check refuse a header where the receiver has tag `t` (R173)? -/
def tagRefused (h : Word) (t : Nat) : Bool := hdrPtag h != 0 && !hdrHw h && hdrPtag h != t

theorem State.tagMismatch_lane {s : State} {c : Nat} {h : Word} (hmb : hdrMb h = false) :
    s.tagMismatch c h = tagRefused h ((s.core c).lane (hdrCtx h)).ptag.toNat := by
  simp only [State.tagMismatch, hmb, Bool.false_eq_true, if_false, Lane.part, tagRefused]

theorem State.tagMismatch_mailbox {s : State} {c : Nat} {h : Word} (hmb : hdrMb h = true) :
    s.tagMismatch c h = tagRefused h ((s.core c).lane (s.core c).mbxOwner).ptag.toNat := by
  simp only [State.tagMismatch, hmb, if_true, Lane.part, tagRefused]

theorem State.msgKind_mailbox {s : State} {c : Nat} {ws : Msg} (hmb : hdrMb (ws.headD 0) = true) : s.msgKind c ws = .mailbox := by
  simp only [State.msgKind, hmb, if_true]

theorem State.msgKind_notice {s : State} {c : Nat} {ws : Msg} (hmb : hdrMb (ws.headD 0) = false)
    (hcls : hdrClass (ws.headD 0) = 58) : s.msgKind c ws = .notice := by
  simp only [State.msgKind, hmb, Bool.false_eq_true, if_false, hcls]

/-- A message of no class that hardware takes, at a lane without an open pool, is for the ring. -/
theorem State.msgKind_ring {s : State} {c : Nat} {ws : Msg} (hmb : hdrMb (ws.headD 0) = false)
    (hcls : let n := hdrClass (ws.headD 0); n ≠ 56 ∧ n ≠ 57 ∧ n ≠ 58 ∧ n ≠ 60 ∧ n ≠ 62)
    (hpool : ((s.core c).lane (hdrCtx (ws.headD 0))).pool = none) : s.msgKind c ws = .ring := by
  obtain ⟨h56, h57, h58, h60, h62⟩ := hcls
  simp only [State.msgKind, hmb, Bool.false_eq_true, if_false, hpool]

/-! The mailbox (R176). -/

/-- A post goes behind the entries of at least its priority (R176). -/
theorem mailboxInsert_eq (x : BitVec 32 × BitVec 32) (m : List (BitVec 32 × BitVec 32)) :
    mailboxInsert x m = m.takeWhile (fun z => decide (x.1.toNat ≤ z.1.toNat)) ++
      x :: m.dropWhile (fun z => decide (x.1.toNat ≤ z.1.toNat)) := by
  induction m with
  | nil => rfl
  | cons y m ih =>
    by_cases h : x.1.toNat ≤ y.1.toNat
    · simp [mailboxInsert, h, ih]
    · simp [mailboxInsert, h]

theorem mailboxPost_room {k : Nat} {m : List (BitVec 32 × BitVec 32)} (h : m.length < k) (x : BitVec 32 × BitVec 32) :
    mailboxPost k m x = mailboxInsert x m := by
  have : k ≠ 0 := by omega
  simp only [mailboxPost, this, if_false, h, if_true]

/-- A full mailbox discards a post of no higher priority than its last entry (R176). -/
theorem mailboxPost_lower {k : Nat} {m n : List (BitVec 32 × BitVec 32)} {x z : BitVec 32 × BitVec 32} (hm : m = n ++ [z])
    (hlen : m.length = k) (hle : x.1.toNat ≤ z.1.toNat) : mailboxPost k m x = m := by
  have hk : k ≠ 0 := by rw [← hlen, hm]; simp
  have hfull : ¬ m.length < k := by omega
  have hlast : m.getLast? = some z := by rw [hm, List.getLast?_concat]
  have hnot : ¬ z.1.toNat < x.1.toNat := by omega
  simp only [mailboxPost, hk, if_false, hfull, hlast, hnot]

/-- The priority and the payload of a post (log entry 67). -/
def postEntry (x : Word) : BitVec 32 × BitVec 32 := (BitVec.ofNat 32 (x.toNat / 2 ^ 32), x.truncate 32)

theorem postEntry_eq (x : Word) : (BitVec.ofNat 32 (bits x 63 32), BitVec.ofNat 32 (bits x 31 0)) = postEntry x := by
  simp only [postEntry, bits, Prod.mk.injEq]
  constructor <;> apply BitVec.eq_of_toNat_eq <;> simp

/-- MAILBOX_POST_ARRIVAL of the only message in flight (R176). -/
theorem State.mailboxPost_arrives {s : State} {c : Nat} {f : Flight} (hmesh : s.mesh = [f]) (hdest : f.dest = c) (hr : s.receives c)
    (hmb : hdrMb (f.words.headD 0) = true) (htag : s.tagMismatch c (f.words.headD 0) = false) :
    exec (.mailboxPostArrival c 0) s = .next ((s.withMesh []).setCore c { s.core c with
      mbx := mailboxPost (s.core c).mbxK (s.core c).mbx (postEntry (f.words.getD 1 0)) }) := by
  refine congrArg Host.Outcome.next (State.take_passed hmesh hdest hr (by rw [State.msgKind_mailbox hmb]; decide) htag ?_)
  dsimp only
  rw [postEntry_eq]
  rfl

/-! Rings (R199, R200). -/

/-- Slot 0 of the ring of a lane of a compute core. -/
theorem rawByte_ring {c l : Nat} (hc : c < Config.mgmtCore) :
    rawByte c (ringOff ⟨c, l⟩ 0) = Config.spadBase + c * 65536 + l % 4 * 2048 := by
  have hlt : ¬ Config.mgmtCore ≤ c := by omega
  simp only [rawByte, ringOff, ge_iff_le, hlt, if_false]
  omega

theorem InSpad.ring {c l i : Nat} (hc : c < Config.mgmtCore) (hi : i < 32) : InSpad (rawByte c (ringOff ⟨c, l⟩ 0) + 8 * i) := by
  rw [rawByte_ring hc]
  simp only [InSpad, Config.spadBase, Config.mgmtCore] at hc ⊢
  omega

/-- A message enters the empty ring of a lane at slot 0 (R199, R200). -/
theorem State.ringMessage_empty {s : State} {m : Flight} (hc : m.dest < Config.mgmtCore)
    (hring : (s.laneAt m.lane_).ring = []) (hpool : (s.laneAt m.lane_).pool = none) (hbuf : (s.laneAt m.lane_).ejbuf = none)
    (hparked : s.parked = []) (hlen : m.words.length ≤ 32) : ∃ t : State, s.ringMessage m = some (t.setLaneAt m.lane_ { s.laneAt m.lane_ with
        ring := [⟨0, m.words.length / 4, m.words.headD 0, m.words.getD 2 0, none, 0, 0, m.sender⟩]
        rxcnt := (s.laneAt m.lane_).rxcnt + 1 }) ∧
      t.SameButMemory s ∧ t.mem = Memory.setWords s.mem (rawByte m.dest (ringOff m.lane_ 0)) m.words := by
  obtain ⟨hsame, hmem⟩ := State.coreStores_spad hparked (rawByte m.dest (ringOff m.lane_ 0)) 0 m.words
    fun i hi => InSpad.ring hc (by omega)
  refine ⟨_, ?_, hsame, hmem⟩
  have hlane := hsame.laneAt m.lane_
  have hheld : (s.laneAt m.lane_).ringHeld = false := by simp only [Lane.ringHeld, hbuf]
  have hcore : m.lane_.core = m.dest := rfl
  have haccept : s.acceptRing m.lane_ m.words none none m.sender =
      some ((s.coreStores (rawByte m.dest (ringOff m.lane_ 0)) m.words 0).setLaneAt m.lane_ { s.laneAt m.lane_ with
        ring := [⟨0, m.words.length / 4, m.words.headD 0, m.words.getD 2 0, none, 0, 0, m.sender⟩]
        rxcnt := (s.laneAt m.lane_).rxcnt + 1 }) := by
    simp only [State.acceptRing, hring, ringStart, List.head?_nil, hcore, hlane, List.nil_append, Option.map_none, Option.getD_none]
  simp only [State.ringMessage, hheld, Bool.false_eq_true, if_false, State.enterRing, hpool, Option.map_none, Option.getD_none,
    haccept]

/-! Notices (R213). -/

theorem State.noticeAt_unset {s : State} {r : LaneRef} (h : clearLow (s.laneAt r).noticeq 8 = 0) (ws : List Word) :
    s.noticeAt r ws = some (s.countDropcnt r.core 1) := by
  simp only [State.noticeAt, h, if_true]

/-- A word is its bits outside a mask and those inside it together. -/
theorem and_not_add_and (x m : Word) : (x &&& ~~~m) + (x &&& m) = x := by
  have hdisjoint : (x &&& ~~~m) &&& (x &&& m) = 0#64 := by
    ext i hi
    simp only [BitVec.getElem_and, BitVec.getElem_not, BitVec.getElem_zero]
    cases x[i] <;> cases m[i] <;> rfl
  rw [BitVec.add_eq_or_of_and_eq_zero _ _ hdisjoint]
  ext i hi
  simp only [BitVec.getElem_or, BitVec.getElem_and, BitVec.getElem_not]
  cases x[i] <;> cases m[i] <;> rfl

theorem clearLow_toNat (x : Word) : (clearLow x 8).toNat = x.toNat / 256 * 256 := by
  have hlow : (x &&& word (ones 8)).toNat = x.toNat % 256 := by
    rw [BitVec.toNat_and]
    exact Nat.and_two_pow_sub_one_eq_mod x.toNat 8
  have hle : (clearLow x 8).toNat ≤ x.toNat := by
    rw [clearLow, BitVec.toNat_and]
    exact Nat.and_le_left
  have hsum := congrArg BitVec.toNat (and_not_add_and x (word (ones 8)))
  rw [BitVec.toNat_add, hlow] at hsum
  change ((clearLow x 8).toNat + x.toNat % 256) % 2 ^ 64 = x.toNat at hsum
  have hlt := x.isLt
  omega

/-- The first notice of an empty queue: its words from the base on, and TAIL 1 (R213). -/
theorem State.noticeAt_first {s : State} (hc : s.cur.core < Config.mgmtCore) (hparked : s.parked = []) {base : Word} {p : Place}
    (hbase : clearLow s.lane.noticeq 8 = base) (hne : base ≠ 0) (hp : p.isSpad = true) (hplain : s.plain (base - 64) 64 p)
    (hzero : s.peek (s.wordAt p) = 0) (ws : List Word)
    (hown : ∀ i, i < ws.length → s.OwnWord (base + BitVec.ofNat 64 (64 * i)) (s.wordAt p + 8 + 8 * i)) :
    ∃ t, s.noticeAt s.cur ws = some t ∧ t.SameButMemory s ∧
      t.mem = Memory.setWord (Memory.setWords s.mem (s.wordAt p + 8) ws) (s.wordAt p) 0x100000000 := by
  obtain ⟨t, ht, hsame, hmem⟩ := State.loadAs_zero hc hp hplain hzero
  obtain ⟨u, hu, hsame', hmem'⟩ := State.storeWordsAs_own (s := t) (by rw [hsame.cur]; exact hc) (hsame.parked.trans hparked) ws
    fun i hi => hsame.ownWord hc (hown i hi)
  have hctl : s.OwnWord (base - 64) (s.wordAt p) := ⟨p, hplain.1, hp, hplain.2.2.1, hplain.2.2.2.1, rfl⟩
  have hu_s := hsame'.trans hsame
  obtain ⟨v, hv, hsame'', hmem''⟩ := State.storeAs_own (s := u) (by rw [hu_s.cur]; exact hc) (hu_s.parked.trans hparked)
    (hu_s.ownWord hc hctl) 0x100000000
  rw [hsame.cur, hsame.lane] at hu
  rw [hu_s.cur, hu_s.lane] at hv
  refine ⟨v, ?_, hsame''.trans hu_s, by rw [hmem'', hmem', hmem]⟩
  have hn (n : Nat) : ctlFilled 0 ≠ 2 ^ n := (Nat.two_pow_pos n).ne
  have htail (n : Nat) : base + word (256 * (ctlTail 0 % 2 ^ n)) = base := by
    have : ctlTail 0 % 2 ^ n = 0 := Nat.zero_mod _
    rw [this]
    exact BitVec.add_zero base
  have hput : putBits 0 32 32 (ctlTail 0 + 1) = 0x100000000 := rfl
  have hlane : s.laneAt s.cur = s.lane := rfl
  simp only [State.noticeAt, hlane, hbase, hne, if_false, ht, List.getD_cons_zero, hn, htail, hu, hput, hv]

/-! The clauses of MessageEventResults, each for its event. -/

theorem hdrMb_true {h : Word} (hm : h.toNat / 2 ^ 61 % 2 = 1) : hdrMb h = true := by
  rw [hdrMb_eq, hm]; rfl

theorem hdrMb_false {h : Word} (hm : h.toNat / 2 ^ 61 % 2 = 0) : hdrMb h = false := by
  rw [hdrMb_eq, hm]; rfl

/-- The partition check passes tag 0, a message of hardware, and a message of the receiver's tag (R173). -/
theorem tagCheck_passes {h : Word} {t : Nat}
    (hp : h.toNat / 2 ^ 28 % 256 = 0 ∨ h.toNat / 2 ^ 60 % 2 = 1 ∨ h.toNat / 2 ^ 28 % 256 = t) :
    tagRefused h t = false := by
  rw [tagRefused, hdrPtag_eq, hdrHw_eq]
  obtain hp | hp | hp := hp <;> (rw [hp]; simp)

/-- It drops any other. -/
theorem tagCheck_drops {h : Word} {t : Nat} (h0 : h.toNat / 2 ^ 28 % 256 ≠ 0) (hhw : h.toNat / 2 ^ 60 % 2 = 0)
    (ht : h.toNat / 2 ^ 28 % 256 ≠ t) : tagRefused h t = true := by
  rw [tagRefused, hdrPtag_eq, hdrHw_eq, hhw]
  simpa using ⟨h0, ht⟩

theorem State.mapHeader_eq (s : State) (h : Word) : s.mapHeader h = s.mapCore (h.toNat / 2 ^ 28 % 256) (h.toNat % 2 ^ 20)
    (if h.toNat / 2 ^ 61 % 2 = 1 then none else some (h.toNat / 2 ^ 20 % 4)) := by
  simp only [State.mapHeader, hdrPtag_eq, hdrDest_eq, hdrMb_eq, hdrCtx_eq, decide_eq_true_eq]

section Inject
variable {s : State} {c l : Nat} {ws : Msg} (hl : l < 4) (hq : ((s.core c).lane l).sendq = [ws])
  (hsave : ((s.core c).lane l).save = .none) (hothers : ∀ i, i < 4 → i ≠ l → ((s.core c).lane i).sendq = [])
  (hlocal : s.remoteRange (hdrPtag (ws.headD 0)) (hdrDest (ws.headD 0)) = none)
include hl hq hsave hothers hlocal

/-- A core injects its one waiting message to the core that its partition's map gives (R202, R289). -/
theorem State.inject_mapped {d : Nat} (hmap : s.mapHeader (ws.headD 0) = some d) (hroom : ∀ f ∈ s.mesh, f.dest ≠ d) :
    s.inject c = (s.unqueued c l []).withMesh (s.mesh ++ [⟨c, some l, d, ws⟩]) :=
  State.inject_of (State.nextSender_only hl (by simp [hq]) hsave hothers)
    (State.injectFrom_mapped hq hlocal hmap (State.meshTakes_none hroom))

/-- Without a mapping it drops the message (R202). -/
theorem State.inject_unmapped (hmap : s.mapHeader (ws.headD 0) = none) :
    s.inject c = (s.unqueued c l []).dropMessage c (some l) (ws.headD 0) :=
  State.inject_of (State.nextSender_only hl (by simp [hq]) hsave hothers) (State.injectFrom_unmapped hq hlocal hmap)

/-- What MESSAGE_INJECT leaves where the map gives a core that no message is under way to, and where it gives none. -/
theorem State.inject_results (hc : c < Config.mgmtCore) (hroom : ∀ f ∈ s.mesh, s.mapHeader (ws.headD 0) ≠ some f.dest) :
    (((s.inject c).core c).lane l).sendq = [] ∧ ((s.inject c).core c).lastInject = l ∧ (s.inject c).mem = s.mem ∧
    (∀ d, s.mapHeader (ws.headD 0) = some d → (s.inject c).mesh = s.mesh ++ [⟨c, some l, d, ws⟩]) ∧
    (s.mapHeader (ws.headD 0) = none → (s.inject c).mesh.length = s.mesh.length + 1 ∧
      ((s.inject c).core c).dropcnt = (s.core c).dropcnt + 1 ∧
      ((s.inject c).part (hdrPtag (ws.headD 0))).drop = (s.part (hdrPtag (ws.headD 0))).drop + 1) := by
  have hle := Nat.le_of_lt hc
  have hcore := State.unqueued_core s c l []
  have hsendq : (((s.unqueued c l []).core c).lane l).sendq = [] := by
    rw [hcore]
    exact congrArg Lane.sendq (Core.setLane_lane_same _ _ _)
  cases hmap : s.mapHeader (ws.headD 0) with
  | none =>
    rw [State.inject_unmapped hl hq hsave hothers hlocal hmap, State.dropMessage_core _ hle]
    refine ⟨hsendq, ?_, State.dropMessage_mem _ hle _ _, fun d hd => (nomatch hd), fun _ => ⟨?_, ?_, State.dropMessage_part _ hle _ _⟩⟩
    · rw [hcore]; rfl
    · rw [State.dropMessage_lane_mesh _ hle, List.length_append]; rfl
    · rw [hcore]; rfl
  | some d =>
    rw [State.inject_mapped hl hq hsave hothers hlocal hmap fun f hf hd => hroom f hf (hd ▸ hmap)]
    refine ⟨hsendq, ?_, rfl, fun d' hd => ?_, fun hd => (nomatch hd)⟩
    · exact (congrArg Core.lastInject hcore).trans rfl
    · obtain rfl := Option.some.inj hd
      rfl

end Inject

section Arrive
variable {s : State} {c : Nat} {f : Flight} (hmesh : s.mesh = [f]) (hdest : f.dest = c) (hr : s.receives c)
include hmesh hdest hr

omit hmesh hdest in
theorem State.exec_messageEjection_eq :
    exec (.messageEjection c 0) s = .next (s.take_ c 0 (· == .ring) State.ringMessage) := by
  have : exec (.messageEjection c 0) s = .next ((s.retryCore c).take_ c 0 (· == .ring) State.ringMessage) := rfl
  rw [this, State.retryCore_none hr]

/-- A message that the partition check passes enters the empty ring of its lane (R175, R200). -/
theorem State.ejection_enters (hc : c < Config.mgmtCore) (hkind : s.msgKind c f.words = .ring)
    (htag : s.tagMismatch c (f.words.headD 0) = false) {l : Nat} (hl : hdrCtx (f.words.headD 0) = l)
    (hpool : ((s.core c).lane l).pool = none) (hring : ((s.core c).lane l).ring = []) (hok : s.memoryOk) (hparked : s.parked = [])
    (hlen : f.words.length ≤ 32) : ∃ t, exec (.messageEjection c 0) s = .next t ∧ t.mesh = [] ∧
      ((t.core c).lane l).ring = [⟨0, f.words.length / 4, f.words.headD 0, f.words.getD 2 0, none, 0, 0, f.sender⟩] ∧
      ((t.core c).lane l).rxcnt = ((s.core c).lane l).rxcnt + 1 ∧
      ∀ i x, f.words[i]? = some x → t.peek (rawByte c (ringOff ⟨c, l⟩ 0) + 8 * i) = x := by
  have hlane : f.lane_ = ⟨c, l⟩ := by rw [Flight.lane_, hdest, hl]
  have hat : (s.withMesh []).laneAt f.lane_ = (s.core c).lane l := by rw [hlane]; rfl
  obtain ⟨t, ht, hsame, hmem⟩ := State.ringMessage_empty (s := s.withMesh []) (m := f) (hdest ▸ hc) (by rw [hat]; exact hring)
    (by rw [hat]; exact hpool) (by rw [hat]; exact State.receives_ejbuf hr l) hparked hlen
  rw [hat, hlane] at ht
  rw [hlane, hdest] at hmem
  have hexec := (State.exec_messageEjection_eq hr).trans (congrArg Host.Outcome.next
    (State.take_passed hmesh hdest hr (by rw [hkind]; rfl) htag ht))
  refine ⟨_, hexec, hsame.mesh, ?_, ?_, fun i x hx => ?_⟩
  · exact congrArg Lane.ring (State.setLaneAt_laneAt_same t ⟨c, l⟩ _)
  · exact congrArg Lane.rxcnt (State.setLaneAt_laneAt_same t ⟨c, l⟩ _)
  · have hi : i < f.words.length := (List.getElem?_eq_some_iff.mp hx).1
    rw [State.peek_memory _ (InSpad.ring hc (by omega)).memory, State.setLaneAt_mem, hmem]
    exact Memory.word_setWords hok.1 _ _ hx

/-- The partition check drops a message at its core, with a DROP notice to the lane that sent it (R173). -/
theorem State.ejection_drops (hkind : s.msgKind c f.words = .ring) (htag : s.tagMismatch c (f.words.headD 0) = true)
    (hsrc : f.src ≤ Config.mgmtCore) : ∃ t, exec (.messageEjection c 0) s = .next t ∧
      (t.core f.src).dropcnt = (s.core f.src).dropcnt + 1 ∧
      (t.part (hdrPtag (f.words.headD 0))).drop = (s.part (hdrPtag (f.words.headD 0))).drop + 1 ∧ t.mem = s.mem ∧
      (f.lane = none → t.mesh = []) ∧ ∀ m, f.lane = some m → t.mesh = [s.dropFlight f.src m (f.words.headD 0)] := by
  refine ⟨_, (State.exec_messageEjection_eq hr).trans (congrArg Host.Outcome.next
    (State.take_dropped hmesh hdest hr (by rw [hkind]; rfl) htag)), ?_, State.dropMessage_part _ hsrc _ _,
    State.dropMessage_mem _ hsrc _ _, fun hn => ?_, fun m hm => ?_⟩
  · rw [State.dropMessage_core _ hsrc]; rfl
  · rw [hn, State.dropMessage_hw_mesh _ hsrc]; rfl
  · rw [hm, State.dropMessage_lane_mesh _ hsrc]; rfl

/-- A post takes its place by priority, within the depth of the mailbox (R176). -/
theorem State.post_enters (hmb : hdrMb (f.words.headD 0) = true) (htag : s.tagMismatch c (f.words.headD 0) = false) :
    ∃ t, exec (.mailboxPostArrival c 0) s = .next t ∧ t.mesh = [] ∧ t.mem = s.mem ∧
      (t.core c).mbx = mailboxPost (s.core c).mbxK (s.core c).mbx (postEntry (f.words.getD 1 0)) :=
  ⟨_, State.mailboxPost_arrives hmesh hdest hr hmb htag, rfl, rfl, congrArg Core.mbx (State.setCore_core_same _ _ _)⟩

theorem State.exec_noticeArrival_of {t : State} (hkind : s.msgKind c f.words = .notice)
    (htag : s.tagMismatch c (f.words.headD 0) = false)
    (ht : (s.withMesh []).noticeAt f.lane_ ((List.range 4).map (fun i => f.words.getD (i + 1) 0)) = some t) :
    exec (.noticeArrival c 0) s = .next t :=
  congrArg Host.Outcome.next (State.take_passed hmesh hdest hr (by rw [hkind]; rfl) htag ht)

end Arrive

/-- The queue of notices that a lane's words `pl` name: the control word and the first entry (R213). -/
theorem State.ownWord_notice {s : State} (hc : s.cur.core < Config.mgmtCore) {base : Word} (hbase : base.toNat % 256 = 0)
    (hne : base ≠ 0) {pl : Nat → Place}
    (hpl : ∀ i, i < 5 → s.plain (base - 64 + BitVec.ofNat 64 (64 * i)) 64 (pl i) ∧ (pl i).isSpad = true) :
    s.plain (base - 64) 64 (pl 0) ∧ (∀ i, i < 5 → s.wordAt (pl i) = s.wordAt (pl 0) + 8 * i) ∧
    ∀ i, i < 4 → s.OwnWord (base + BitVec.ofNat 64 (64 * i)) (s.wordAt (pl 0) + 8 + 8 * i) := by
  have hzero : base - 64 + BitVec.ofNat 64 (64 * 0) = base - 64 := BitVec.add_zero _
  have hctl := (hpl 0 (by decide)).1
  rw [hzero] at hctl
  have hpos : base.toNat ≠ 0 := fun h => hne (BitVec.eq_of_toNat_eq h)
  have hlt := base.isLt
  have haddr (i : Nat) (hi : i < 5) : (base - 64 + BitVec.ofNat 64 (64 * i)).toNat = (base - 64).toNat + 64 * i := by
    have hsub : (base - 64).toNat = base.toNat - 64 := BitVec.toNat_sub_of_le (by
      rw [BitVec.le_def]; show 64 ≤ base.toNat; omega)
    rw [BitVec.toNat_add, hsub, BitVec.toNat_ofNat]
    omega
  have hword (i : Nat) (hi : i < 5) : s.wordAt (pl i) = s.wordAt (pl 0) + 8 * i :=
    State.wordAt_next hc hctl.1 (hpl i hi).1.1 (hpl 0 (by decide)).2 (hpl i hi).2 (by omega) (haddr i hi)
  refine ⟨hctl, hword, fun i hi => ?_⟩
  obtain ⟨⟨ha, -, hal, hown, -⟩, hp⟩ := hpl (i + 1) (by omega)
  have hshift : base - 64 + BitVec.ofNat 64 (64 * (i + 1)) = base + BitVec.ofNat 64 (64 * i) := by
    rw [Nat.mul_succ, BitVec.ofNat_add]
    show base - 64 + (BitVec.ofNat 64 (64 * i) + 64) = _
    rw [BitVec.add_comm (BitVec.ofNat 64 (64 * i)), ← BitVec.add_assoc, BitVec.sub_add_cancel]
  rw [hshift] at ha hal
  exact ⟨pl (i + 1), ha, hp, hal, hown, by rw [hword (i + 1) (by omega)]; omega⟩

section Notice
variable {s : State} {c : Nat} {f : Flight} (hmesh : s.mesh = [f]) (hdest : f.dest = c) (hr : s.receives c)
  (hmb : hdrMb (f.words.headD 0) = false) (hcls : hdrClass (f.words.headD 0) = 58)
  (htag : s.tagMismatch c (f.words.headD 0) = false) {l : Nat} (hl : hdrCtx (f.words.headD 0) = l)
include hmesh hdest hr hmb hcls htag hl

/-- A notice to a lane without a queue is discarded and counted (R213). -/
theorem State.notice_discarded (hq : ((s.core c).lane l).noticeq.toNat / 256 = 0) :
    ∃ t, exec (.noticeArrival c 0) s = .next t ∧ t.mesh = [] ∧ t.mem = s.mem ∧ (t.core c).dropcnt = (s.core c).dropcnt + 1 := by
  have hlane : f.lane_ = ⟨c, l⟩ := by rw [Flight.lane_, hdest, hl]
  have hbase : clearLow ((s.core c).lane l).noticeq 8 = 0 :=
    BitVec.eq_of_toNat_eq (by rw [clearLow_toNat, hq]; rfl)
  have hnotice := State.noticeAt_unset (s := s.withMesh []) (r := f.lane_) (by rw [hlane]; exact hbase)
    ((List.range 4).map (fun i => f.words.getD (i + 1) 0))
  have hexec := State.exec_noticeArrival_of hmesh hdest hr (State.msgKind_notice hmb hcls) htag hnotice
  rw [hlane] at hexec
  exact ⟨_, hexec, rfl, rfl, congrArg Core.dropcnt (State.setCore_core_same _ c _)⟩

/-- The first notice of an empty queue at ordinary scratchpad words (R213). -/
theorem State.notice_stored (hc : c < Config.mgmtCore) {pl : Nat → Place} (hcur : s.cur = ⟨c, l⟩) (hok : s.memoryOk)
    (hparked : s.parked = []) (hq : ((s.core c).lane l).noticeq.toNat / 256 ≠ 0)
    (hpl : ∀ i, i < 5 → s.plain ((((s.core c).lane l).noticeq &&& ~~~(255 : Word)) - 64 + BitVec.ofNat 64 (64 * i)) 64 (pl i) ∧
      (pl i).isSpad = true)
    (hzero : s.peek (s.wordAt (pl 0)) = 0) : ∃ t, exec (.noticeArrival c 0) s = .next t ∧ t.mesh = [] ∧
      t.peek (s.wordAt (pl 0)) = 0x100000000 ∧ ∀ i, i < 4 → t.peek (s.wordAt (pl (i + 1))) = f.words.getD (i + 1) 0 := by
  have hlane : f.lane_ = s.cur := by rw [Flight.lane_, hdest, hl, hcur]
  have hcore : s.cur.core < Config.mgmtCore := by rw [hcur]; exact hc
  have hmine : s.lane = (s.core c).lane l := by rw [State.lane, hcur]; rfl
  let base : Word := ((s.core c).lane l).noticeq &&& ~~~(255 : Word)
  have hbase : base.toNat = ((s.core c).lane l).noticeq.toNat / 256 * 256 := clearLow_toNat _
  have hne : base ≠ 0 := fun h => by
    have h0 : base.toNat = 0 := by rw [h]; rfl
    omega
  obtain ⟨hctl, hword, hown⟩ := State.ownWord_notice hcore (base := base) (by omega) hne hpl
  have hin (i : Nat) (hi : i < 5) : InSpad (s.wordAt (pl i)) := State.wordAt_inSpad hcore (hpl i hi).1.1 (hpl i hi).2
  have hpeek := s.withMesh_peek [] (hin 0 (by decide)).memory
  let ws := (List.range 4).map (fun i => f.words.getD (i + 1) 0)
  obtain ⟨t, ht, hsame, hmem⟩ := State.noticeAt_first (s := s.withMesh []) hcore hparked (base := base)
    (congrArg (fun k : Lane => clearLow k.noticeq 8) hmine) hne (hpl 0 (by decide)).2 hctl (by rw [← hzero]; exact hpeek) ws
    (fun i hi => hown i (by simpa [ws] using hi))
  have hwf := Memory.wf_setWords hok.1 (s.wordAt (pl 0) + 8) ws
  refine ⟨t, State.exec_noticeArrival_of hmesh hdest hr (State.msgKind_notice hmb hcls) htag (by rw [hlane]; exact ht),
    hsame.mesh, ?_, fun i hi => ?_⟩
  · rw [State.peek_memory _ (hin 0 (by decide)).memory, hmem]
    exact Memory.word_setWord_same hwf _ _
  · have hat : s.wordAt (pl (i + 1)) = s.wordAt (pl 0) + 8 + 8 * i := by rw [hword (i + 1) (by omega)]; omega
    have hget : ws[i]? = some (f.words.getD (i + 1) 0) := by simp [ws, hi]
    rw [State.peek_memory _ (hin (i + 1) (by omega)).memory, hmem, hat]
    exact (Memory.word_setWord_out _ _ _ _ (.inr (by show s.wordAt (pl 0) + 8 ≤ _; omega))).trans
      (Memory.word_setWords hok.1 _ _ hget)

end Notice

/-- Settles O11: injection by `State.inject_results`; at the destination the partition check passes or drops (`State.take_passed`,
`State.take_dropped`), and a ring, a mailbox or a notice queue takes what it passes. -/
theorem messageEventResults : Obligations.MessageEventResults := by
  unfold Obligations.MessageEventResults
  intro s c k
  refine ⟨?_, ?_⟩
  · intro l ws hl hq hsave hothers hc h p hlocal target hroom
    have hmap : s.mapHeader (ws.headD 0) = target := s.mapHeader_eq _
    obtain ⟨hsendq, hlast, hmem, hsent, hdropped⟩ := State.inject_results hl hq hsave hothers (by rw [hdrDest_eq]; exact hlocal) hc
      (by rw [hmap]; exact hroom)
    rw [hmap] at hsent hdropped
    exact ⟨_, exec_messageInject c s, hsendq, hlast, hmem, hsent, hdropped⟩
  · intro src lane ws hmesh hc hr h cls p l f plainClass
    refine ⟨?_, ?_, ?_, ?_⟩
    · intro ⟨hmb, hcls⟩ hpool hring htag hok hparked hlen
      have hmb' := hdrMb_false hmb
      have hkind : s.msgKind c ws = .ring := State.msgKind_ring hmb' hcls hpool
      have hpass : s.tagMismatch c (ws.headD 0) = false := (State.tagMismatch_lane hmb').trans (tagCheck_passes htag)
      exact State.ejection_enters hmesh rfl hr hc hkind hpass rfl hpool hring hok hparked hlen
    · intro ⟨hmb, hcls⟩ hpool hp hhw htag hsrc
      have hmb' := hdrMb_false hmb
      have hkind : s.msgKind c ws = .ring := State.msgKind_ring hmb' hcls hpool
      have hdrop : s.tagMismatch c (ws.headD 0) = true := (State.tagMismatch_lane hmb').trans (tagCheck_drops hp hhw htag)
      exact State.ejection_drops hmesh rfl hr hkind hdrop hsrc
    · intro hmb htag
      have hmb' := hdrMb_true hmb
      obtain ⟨t, ht, htmesh, hmem, hmbx⟩ := State.post_enters hmesh rfl hr hmb'
        ((State.tagMismatch_mailbox hmb').trans (tagCheck_passes htag))
      refine ⟨t, ht, htmesh, hmem, fun h0 => ?_, fun hroom => ?_, fun z m _ hm hfull hle => ?_⟩
      · rw [hmbx]
        exact if_pos h0
      · rw [hmbx, mailboxPost_room hroom, mailboxInsert_eq]
        rfl
      · rw [hmbx]
        exact mailboxPost_lower hm hfull hle
    · intro hmb hcls htag
      have hmb' := hdrMb_false hmb
      have hpass : s.tagMismatch c (ws.headD 0) = false := (State.tagMismatch_lane hmb').trans (tagCheck_passes htag)
      refine ⟨State.notice_discarded hmesh rfl hr hmb' hcls hpass rfl, ?_⟩
      intro pl hcur hok _ hparked hq base hpl hzero
      exact State.notice_stored hmesh rfl hr hmb' hcls hpass rfl hc hcur hok hparked hq hpl hzero

end Sys2Proof.Machine

namespace Sys2Proof.Machine

/-! LD and ST of every form (R65, R68, R99 to R102): each form is one shared operation, which is its checks and then its access. -/

/-- The width that an M-form field names is at least one bit (R65). -/
theorem mWidth_pos (w : BitVec 5) : 0 < mWidth w := by
  revert w
  decide

/-- The low `n` bits of a word. -/
theorem bits_low (x : Word) {n : Nat} (hn : 0 < n) : bits x (n - 1) 0 = x.toNat % 2 ^ n := by
  have e : n - 1 + 1 - 0 = n := by omega
  unfold bits
  rw [e, Nat.pow_zero, Nat.div_one]

/-- Every form of LD is one load (R101). -/
theorem State.LoadForm.exec_eq {s : State} {i : Instr} {d : Reg} {a : Word} {n : Nat} {sx : Bool} {len : Nat}
    (h : s.LoadForm i d a n sx len) : 0 < n ∧ exec i s = finish i (s.loadTo d a n sx len) := by
  obtain ⟨b, w, off, rfl, rfl, rfl, rfl, rfl⟩ | ⟨b, w, acq, rfl, rfl, rfl, rfl⟩ | ⟨c, b, off, rfl, rfl, rfl, rfl, rfl, rfl⟩ := h
  · exact ⟨mWidth_pos w, rfl⟩
  · exact ⟨Nat.succ_pos _, rfl⟩
  · exact ⟨by decide, rfl⟩

/-- Every form of ST is one store (R101). -/
theorem State.StoreForm.exec_eq {s : State} {i : Instr} {d : Reg} {a : Word} {n : Nat} {rel : Option Scope} {len : Nat}
    (h : s.StoreForm i d a n rel len) : 0 < n ∧ exec i s = finish i (s.storeFrom (s.s d) a n rel len) := by
  obtain ⟨b, w, off, rfl, rfl, rfl, rfl, rfl⟩ | ⟨b, w, rfl, rfl, rfl, rfl⟩ | ⟨c, b, off, rfl, rfl, rfl, rfl, rfl, rfl⟩ := h
  · exact ⟨mWidth_pos w, rfl⟩
  · exact ⟨Nat.succ_pos _, rfl⟩
  · exact ⟨by decide, rfl⟩

/-- What a load ends in is what its bits end in, completed (R101). -/
theorem State.loadTo_eq (s : State) (d : Reg) (a : Word) (n : Nat) (sx : Bool) (len : Nat) :
    s.loadTo d a n sx len =
      (s.loadBits s.cur a n).map fun u => (u.1.setS d (if sx then sextN u.2 n else zextN u.2 n)).advance len := by
  unfold State.loadTo
  cases s.loadBits s.cur a n <;> rfl

section Checked

variable {s t : State} {r : LaneRef} {a : Word} {n : Nat} {g : Target}

/-- A load whose checks fail ends as they do (R27). -/
theorem State.loadBits_stop {e : Stop} (h : s.checkAccess r a n .load = .error e) : s.loadBits r a n = .error e := by
  simp only [State.loadBits, h]

/-- A load from a memory gives the bits that the answered read finds at the home (R99, R101). -/
theorem State.loadBits_memory (hn : 0 < n) (h : s.checkAccess r a n .load = .ok (t, g)) (hg : g.place.inMemory = true) :
    s.loadBits r a n = .ok ((t.homeWord r g.pa).1, fieldOf (t.homeWord r g.pa).2.1 g.sh n) := by
  rw [← bits_eq_fieldOf _ _ hn]
  unfold State.loadBits
  simp only [h]
  cases hp : g.place with
  | trans | raw off | global c off | coh off => rfl
  | fmt win off | dev off => rw [hp] at hg; cases hg

/-- A load from a format window gives what the decoder delivers (R39). -/
theorem State.loadBits_window (h : s.checkAccess r a n .load = .ok (t, g)) {win off : Nat} (hg : g.place = .fmt win off) :
    s.loadBits r a n = t.windowRead r a win off n := by
  simp only [State.loadBits, h, hg]

/-- A load from a device register gives its value or pops its FIFO (R58). -/
theorem State.loadBits_device (h : s.checkAccess r a n .load = .ok (t, g)) {off : Nat} (hg : g.place = .dev off) :
    s.loadBits r a n = t.devLoad r off n := by
  simp only [State.loadBits, h, hg]

end Checked

/-- Settles O27: every form of LD is one load (`State.LoadForm.exec_eq`), whose bits are those of the space that its checks give. -/
theorem loadResults : Obligations.LoadResults := by
  unfold Obligations.LoadResults
  intro s i d a n sx len hform done
  obtain ⟨hn, hexec⟩ := hform.exec_eq
  rw [State.loadTo_eq] at hexec
  refine ⟨fun t g hcheck => ⟨fun hmem u v tag hword => ?_, fun win off hg => ⟨fun u x hread => ?_, fun u c v hread => ?_⟩,
    fun off hg => ⟨fun u x hread => ?_, fun u c hread => ?_⟩⟩, fun t c v hcheck => ?_⟩
  · rw [hexec, State.loadBits_memory hn hcheck hmem, hword]
    rfl
  · rw [hexec, State.loadBits_window hcheck hg, hread]
    rfl
  · rw [hexec, State.loadBits_window hcheck hg, hread]
    rfl
  · rw [hexec, State.loadBits_device hcheck hg, hread]
    rfl
  · rw [hexec, State.loadBits_device hcheck hg, hread]
    rfl
  · rw [hexec, State.loadBits_stop hcheck]
    rfl

/-- A posted access to a home in the package joins those in flight, at the target and the address given (R99). -/
theorem State.post_inflight (s : State) (r : LaneRef) (w : Writer) (grp : Nat) (a : Word) {g : Target} (op : WriteOp) (o : Bool)
    (hg : homeOf g.pa ≠ .pcie) : ∃ q : Posted, s.post r w grp a g op o = { s with inflight := s.inflight ++ [q] } ∧
      q.pa = g.pa ∧ q.op = op ∧ q.who = r ∧ q.addr = a ∧ q.checked = g.checked := by
  refine ⟨⟨g.pa, op, r, (s.laneAt r).ptag, w, grp, a, (s.part (s.laneAt r).part).live.sid.toNat, g.checked, o⟩, ?_, rfl, rfl, rfl, rfl, rfl⟩
  unfold State.post
  cases hh : homeOf g.pa with
  | pcie => exact absurd hh hg
  | spad c | hbm | coh | control off | none => rfl

section Stored

variable {s t u : State} {v a : Word} {n : Nat} {rel : Option Scope} {g : Target}

/-- A store to a memory posts its merge, once its checks and its release have passed (R26, R101, R102). -/
theorem State.storeFrom_memory (hn : 0 < n) (hcheck : s.checkAccess s.cur a n .store = .ok (t, g))
    (hrel : t.releaseOpt t.cur rel = .ok u) (hg : g.place.inMemory = true) (len : Nat) :
    s.storeFrom v a n rel len = .ok ((u.postStore u.cur .lane u.turn a g n (v.toNat % 2 ^ n)).advance len) := by
  rw [← bits_low v hn]
  unfold State.storeFrom
  simp only [hcheck, hrel]
  cases hp : g.place with
  | trans | raw off | global c off | coh off | fmt win off => rfl
  | dev off => rw [hp] at hg; cases hg

/-- A store to a device register is its write or push (R58). -/
theorem State.storeFrom_device (hn : 0 < n) (hcheck : s.checkAccess s.cur a n .store = .ok (t, g))
    (hrel : t.releaseOpt t.cur rel = .ok u) {off : Nat} (hg : g.place = .dev off) (len : Nat) :
    s.storeFrom v a n rel len = (u.devStore u.cur off n (v.toNat % 2 ^ n) (rel.getD .dev)).map (·.advance len) := by
  rw [← bits_low v hn]
  simp only [State.storeFrom, hcheck, hrel, hg]
  cases u.devStore u.cur off n (bits v (n - 1) 0) (rel.getD .dev) <;> rfl

end Stored

/-- Settles O29: every form of ST is one store (`State.StoreForm.exec_eq`), which posts its merge at the target of its own address. -/
theorem storeResults : Obligations.StoreResults := by
  unfold Obligations.StoreResults
  intro s i d a n rel len hform
  obtain ⟨hn, hexec⟩ := hform.exec_eq
  refine ⟨fun t g u hcheck hrel => ⟨fun hmem hhome => ?_, fun off hg v hstore => ?_⟩, fun t c v hcheck => ?_⟩
  · obtain ⟨q, hpost, hq⟩ := u.post_inflight u.cur .lane u.turn a (.store (maskAt g.sh n) (placeAt g.sh n ((s.s d).toNat % 2 ^ n)))
      false hhome
    refine ⟨q, ?_, hq⟩
    rw [hexec, State.storeFrom_memory hn hcheck hrel hmem, State.postStore, hpost, finish_ok]
  · rw [hexec, State.storeFrom_device hn hcheck hrel hg, hstore]
    rfl
  · rw [hexec, State.storeFrom, hcheck]
    rfl

end Sys2Proof.Machine

namespace Sys2Proof.Machine

/-! Address arithmetic (R24, R89 to R91): the sums and the alignment of its instructions as numbers. -/

/-- `addr(i)` of R24 as one sum. -/
theorem fitAddr_eq (x y : Word) (w : Nat) :
    fitAddr x y w = BitVec.ofNat 64 (x.toNat + 64 * (y.toNat / (64 / w)) + w * (y.toNat % (64 / w))) := by
  unfold fitAddr word
  rw [BitVec.ofNat_add, BitVec.ofNat_add, BitVec.ofNat_toNat, BitVec.setWidth_eq]

/-- EDIFF's index of an address that starts an element (R89). -/
theorem fitIndex_some {x y : Word} {w : Nat} (hw : (y - x).toNat % 64 % w = 0) (hn : (y - x).toNat % 64 / w < 64 / w) :
    fitIndex x y w = some (BitVec.ofNat 64 ((y - x).toNat / 64 * (64 / w) + (y - x).toNat % 64 / w)) := by
  have h : ¬((y - x).toNat % 64 % w ≠ 0 ∨ 64 / w ≤ (y - x).toNat % 64 / w) := by omega
  exact if_neg h

/-- An address that starts no element has no index (R89). -/
theorem fitIndex_none {x y : Word} {w : Nat} (h : ¬((y - x).toNat % 64 % w = 0 ∧ (y - x).toNat % 64 / w < 64 / w)) :
    fitIndex x y w = none := by
  have h : (y - x).toNat % 64 % w ≠ 0 ∨ 64 / w ≤ (y - x).toNat % 64 / w := by omega
  exact if_pos h

/-- The mask of the low `g` bits leaves the multiple of `2 ^ g` below. -/
theorem toNat_and_not_ones (v : Word) {g : Nat} (hg : g < 64) : (v &&& ~~~word (ones g)).toNat = v.toNat / 2 ^ g * 2 ^ g := by
  have hpow : 2 ^ g < 2 ^ 64 := Nat.pow_lt_pow_right (by omega) hg
  have hlow : (v &&& word (ones g)).toNat = v.toNat % 2 ^ g := by
    rw [BitVec.toNat_and, word, BitVec.toNat_ofNat, ones, Nat.mod_eq_of_lt (by omega), Nat.and_two_pow_sub_one_eq_mod]
  have hsum := congrArg BitVec.toNat (and_not_add_and v (word (ones g)))
  have hle : (v &&& ~~~word (ones g)).toNat ≤ v.toNat := by rw [BitVec.toNat_and]; exact Nat.and_le_left
  have hdiv := Nat.div_add_mod' v.toNat (2 ^ g)
  have hmod := Nat.mod_lt v.toNat (Nat.two_pow_pos g)
  have hv := v.isLt
  rw [BitVec.toNat_add, hlow] at hsum
  omega

/-- The three ways of GADDR (R91): a local raw-window bit, a global one, and neither. -/
theorem gaddrValue_local {core : Nat} {x : Word} (hs : x.toNat / 2 ^ 59 = 0b11000) (h0 : x.toNat / 2 ^ 21 % 2 ^ 38 = 0) :
    gaddrValue core x = some (BitVec.ofNat 64 (2 ^ 63 + coreX core * 2 ^ 50 + coreY core * 2 ^ 42 +
      (core % 8 / 4 * 4 + x.toNat / 2 ^ 19 % 4) * 2 ^ 39 + x.toNat % 2 ^ 19)) := by
  have hspace : bits x 63 59 = 0b11000 := by unfold bits; omega
  have hzero : bits x 58 21 = 0 := h0
  have hq : bits x 20 19 = x.toNat / 2 ^ 19 % 4 := rfl
  have hoff : bits x 18 0 = x.toNat % 2 ^ 19 := bits_low x (by decide : 0 < 19)
  have hlt : x.toNat / 2 ^ 19 % 4 < 4 := Nat.mod_lt _ (by decide)
  unfold gaddrValue
  rw [if_pos hspace, if_neg (not_not.mpr hzero), hq, hoff]
  generalize x.toNat / 2 ^ 19 % 4 = q at hlt
  have hx : coreX (core / 4 * 4 + q) = coreX core := by unfold coreX; omega
  have hy : coreY (core / 4 * 4 + q) = coreY core := by unfold coreY; omega
  have hc : (core / 4 * 4 + q) % 8 = core % 8 / 4 * 4 + q := by omega
  rw [globalAddr, hx, hy, hc, word]

theorem gaddrValue_global {core : Nat} {x : Word} (hs : x.toNat / 2 ^ 59 = 0b10000) (h0 : x.toNat / 2 ^ 19 % 2 ^ 20 = 0) :
    gaddrValue core x = some x := by
  have hspace : bits x 63 59 = 0b10000 := by unfold bits; omega
  unfold gaddrValue
  rw [if_neg (by rw [hspace]; decide), if_pos ⟨hspace, h0⟩]

theorem gaddrValue_none {core : Nat} {x : Word} (hl : ¬(x.toNat / 2 ^ 59 = 0b11000 ∧ x.toNat / 2 ^ 21 % 2 ^ 38 = 0))
    (hg : ¬(x.toNat / 2 ^ 59 = 0b10000 ∧ x.toNat / 2 ^ 19 % 2 ^ 20 = 0)) : gaddrValue core x = none := by
  have hspace : bits x 63 59 = x.toNat / 2 ^ 59 := by have := x.isLt; unfold bits; omega
  unfold gaddrValue
  rw [hspace]
  by_cases hs : x.toNat / 2 ^ 59 = 0b11000
  · have hne : bits x 58 21 ≠ 0 := fun h => hl ⟨hs, h⟩
    rw [if_pos hs, if_pos hne]
  · rw [if_neg hs]
    exact if_neg hg

section Exec

variable (s : State) (d a b : Reg) (g : BitVec 6)

/-- Is the base of a fitted array the start of a word (R24)? -/
theorem base_low (x : Word) : bits x 5 0 = x.toNat % 64 := bits_low x (by decide : 0 < 6)

theorem exec_eaddr_aligned (h : (s.s a).toNat % 64 = 0) :
    exec (.eaddr d a b g) s = .next (s.writeS d (fitAddr (s.s a) (s.s b) (g.toNat + 1))) :=
  if_neg (by rw [base_low, h]; decide)

theorem exec_eaddr_misaligned (h : (s.s a).toNat % 64 ≠ 0) : exec (.eaddr d a b g) s = .next (s.takeTrap Cause.alignment (s.s a)) :=
  if_pos (by rwa [base_low])

theorem exec_ediff_misaligned (h : (s.s a).toNat % 64 ≠ 0) : exec (.ediff d a b g) s = .next (s.takeTrap Cause.alignment (s.s a)) :=
  if_pos (by rwa [base_low])

variable {s d a b g} in
theorem exec_ediff_some (h : (s.s a).toNat % 64 = 0) {k : Word} (hk : fitIndex (s.s a) (s.s b) (g.toNat + 1) = some k) :
    exec (.ediff d a b g) s = .next (s.writeS d k) := by
  have h0 : ¬bits (s.s a) 5 0 ≠ 0 := by rw [base_low, h]; decide
  show execEdiff d a b g s = _
  simp only [execEdiff, if_neg h0, hk]
  rfl

variable {s d a b g} in
theorem exec_ediff_none (h : (s.s a).toNat % 64 = 0) (hk : fitIndex (s.s a) (s.s b) (g.toNat + 1) = none) :
    exec (.ediff d a b g) s = .next (s.takeTrap Cause.alignment (s.s b)) := by
  have h0 : ¬bits (s.s a) 5 0 ≠ 0 := by rw [base_low, h]; decide
  show execEdiff d a b g s = _
  simp only [execEdiff, if_neg h0, hk]

variable {s d a} in
theorem exec_gaddr_some {x : Word} (h : gaddrValue s.cur.core (s.s a) = some x) : exec (.gaddr d a) s = .next (s.writeS d x) := by
  show execGaddr d a s = _
  simp only [execGaddr, h]
  rfl

variable {s d a} in
theorem exec_gaddr_none (h : gaddrValue s.cur.core (s.s a) = none) :
    exec (.gaddr d a) s = .next (s.takeTrap Cause.address (s.s a)) := by
  show execGaddr d a s = _
  simp only [execGaddr, h]

end Exec

/-- Settles O23: the sums of R24 and R90, the index of R89 and the three ways of R91, each by its lemma above. -/
theorem addressResults : Obligations.AddressResults := by
  unfold Obligations.AddressResults
  rintro s d a b g x y w n k rfl rfl rfl rfl rfl
  refine ⟨fun h => ?_, fun h => ⟨exec_eaddr_misaligned s d a b g h, exec_ediff_misaligned s d a b g h⟩, fun h hw hn => ?_, fun h hk => ?_,
    ⟨_, rfl, ?_⟩, ⟨_, rfl, ?_⟩, fun hs h0 => ?_, fun hs h0 => ?_, fun hl hg => ?_⟩
  · rw [exec_eaddr_aligned s d a b g h, fitAddr_eq]
  · exact exec_ediff_some h (fitIndex_some hw hn)
  · exact exec_ediff_none h (fitIndex_none hk)
  · have hpow : 2 ^ g.toNat < 2 ^ 64 := Nat.pow_lt_pow_right (by decide) g.isLt
    have hpos := Nat.two_pow_pos g.toNat
    rw [toNat_and_not_ones _ g.isLt, BitVec.toNat_add, word, BitVec.toNat_ofNat, ones, Nat.mod_eq_of_lt (a := 2 ^ g.toNat - 1) (by omega),
      Nat.add_sub_assoc hpos]
  · have hmask : (0x3F : Word) = word (ones 6) := by decide
    rw [hmask]
    exact toNat_and_not_ones (s.s a) (by decide : 6 < 64)
  · exact exec_gaddr_some (gaddrValue_local hs h0)
  · exact exec_gaddr_some (gaddrValue_global hs h0)
  · exact exec_gaddr_none (gaddrValue_none hl hg)

end Sys2Proof.Machine

namespace Sys2Proof.Machine

/-! AMOs on ordinary words (R110). -/

/-- A code of `n` bits read as two's complement is its balanced residue (R28). -/
theorem sgN_eq_bmod (x : Nat) {n : Nat} (hn : 0 < n) : sgN x n = (x : Int).bmod (2 ^ n) := by
  obtain ⟨k, rfl⟩ := Nat.exists_eq_add_of_lt hn
  have hhalf : 2 ^ (k + 1) = 2 * 2 ^ k := by rw [Nat.pow_succ, Nat.mul_comm]
  have hmod : ((x % 2 ^ (k + 1) : Nat) : Int) = (x : Int) % ((2 ^ (k + 1) : Nat) : Int) := Int.natCast_emod _ _
  have hcast : ((2 : Int) ^ (k + 1)) = ((2 ^ (k + 1) : Nat) : Int) := by push_cast; rfl
  unfold sgN Int.bmod
  simp only [Nat.zero_add, Nat.add_sub_cancel, ← hmod, hcast]
  generalize x % 2 ^ (k + 1) = v
  generalize 2 ^ (k + 1) = m at hhalf ⊢
  generalize 2 ^ k = h at hhalf ⊢
  subst hhalf
  have hiff : ((v : Int) < (((2 * h : Nat) : Int) + 1) / 2) ↔ v < h := by omega
  simp only [hiff]

/-- Bits placed at their field lie inside its mask. -/
theorem placeAt_and_maskAt_same (off w x : Nat) : placeAt off w x &&& maskAt off w = placeAt off w x := by
  have hnat : x % 2 ^ w * 2 ^ off &&& ones w * 2 ^ off = x % 2 ^ w * 2 ^ off := by
    rw [← Nat.shiftLeft_eq, ← Nat.shiftLeft_eq, ← Nat.shiftLeft_and_distrib, ones, Nat.and_two_pow_sub_one_eq_mod, Nat.mod_mod]
  unfold placeAt maskAt word
  rw [← BitVec.ofNat_and, hnat]

theorem placeAt_mod (off w x : Nat) : placeAt off w (x % 2 ^ w) = placeAt off w x := by
  unfold placeAt
  rw [Nat.mod_mod]

/-- A store at a home outside the control area moves no parked request. -/
theorem State.poke_parked_eq (s : State) {pa : Nat} (v : Word) (p : Nat) (h : ∀ off, homeOf pa ≠ .control off) :
    (s.poke pa v p).parked = s.parked := by
  have hset (v : Word) : (s.setHome pa v p).parked = s.parked := by
    have hsame := ((State.markWritten_same (s.markDirty pa p) pa).trans (State.markDirty_same s pa p)).parked
    unfold State.setHome
    cases hh : homeOf pa with
    | control off => exact absurd hh (h off)
    | pcie | none => rfl
    | spad c | hbm | coh => exact hsame
  unfold State.poke
  split <;> exact hset _

/-- A read-modify-write at a word without error, on which no request is parked, puts what the function gives in the place of the bits,
and answers the old ones (R26, R110). -/
theorem State.rmwAt_clean {s : State} {pa : Nat} (hparked : s.parked = []) (hclean : s.clean pa) (hc : ∀ off, homeOf pa ≠ .control off)
    (off : Nat) {w : Nat} (hw : 0 < w) (p : Nat) (who : Option LaneRef) (f : Nat → Nat) :
    s.rmwAt pa off w p who f =
      (s.poke pa ((s.peek pa &&& ~~~maskAt off w) ||| placeAt off w (f (fieldOf (s.peek pa) off w))) p, fieldOf (s.peek pa) off w) := by
  simp only [State.rmwAt, State.rmw, State.readHome_clean hclean, State.merge_clean hclean, bits_eq_fieldOf _ _ hw,
    placeAt_and_maskAt_same]
  rw [State.reexamine_none ((State.poke_parked_eq s _ p hc).trans hparked)]

/-- An aligned access of a power of two bits starts at a multiple of its width (R23). -/
theorem aligned_mod {a : Word} {w : Nat} (h : aligned a w = true) (hw : isPow2 w = true) : a.toNat % w = 0 := by
  simp only [aligned, hw, Bool.not_true, Bool.false_or, Bool.and_eq_true, beq_iff_eq] at h
  exact h.1

/-- Order 4 of R27 asks of an AMO that it be of 32 or 64 bits and naturally aligned. -/
theorem order4_direct_amo {p : Place} (hp : p.direct = true) (mgmt : Bool) {a : Word} (w64 : Bool) (h : aligned a (amoWidth w64) = true) :
    order4 mgmt p a (amoWidth w64) .amo = false := by
  have hwidth : (amoWidth w64 == 32 || amoWidth w64 == 64) = true := by cases w64 <;> rfl
  have hmod : a.toNat % amoWidth w64 = 0 := aligned_mod h (by cases w64 <;> rfl)
  have horder : (!((amoWidth w64 == 32 || amoWidth w64 == 64) && a.toNat % amoWidth w64 == 0)) = false := by rw [hwidth, hmod]; rfl
  cases p with
  | raw off | global c off | coh off => exact horder
  | trans | fmt win off | dev off => cases hp

section Amo

variable {s : State} {a : Reg} {w64 : Bool} {p : Place} (hplain : s.plain (s.s a) (amoWidth w64) p)
  (hc : ∀ off, homeOf (s.wordAt p) ≠ .control off) (hjobs : s.jobMayStore s.cur = false) (hpcie : s.pcieWrites = [])
  (hparked : s.parked = [])
include hplain hc hjobs hpcie hparked

/-- An AMO on an ordinary word is one step there: `f` of the old bits and of the operand's takes their place (R110). -/
theorem State.amo_plain (d : Reg) (ord : AmoOrd) (f : Nat → Nat → Nat) (y : Word) :
    let w := amoWidth w64
    let sh := (s.s a).toNat % 64
    let pa := s.wordAt p
    let old := fieldOf (s.peek pa) sh w
    s.amo d a w64 ord f y = .ok ((s.poke pa ((s.peek pa &&& ~~~maskAt sh w) ||| placeAt sh w (f old (y.toNat % 2 ^ w))) s.lane.part).writeS d
      (BitVec.ofInt 64 ((old : Int).bmod (2 ^ w)))) := by
  have ⟨_, hp, haligned, _, hsettled, hclean, _⟩ := hplain
  have hw : 0 < amoWidth w64 := by cases w64 <;> decide
  have hw64 : amoWidth w64 ≤ 64 := by cases w64 <;> decide
  have hcheck : s.checkAccess s.cur (s.s a) (amoWidth w64) .amo = .ok (s, s.targetOf p (s.s a)) :=
    State.checkAccess_plain hplain (order3_direct hp _ rfl) (order4_direct_amo hp _ w64 haligned)
  have hrel : s.releaseOpt s.cur (amoRel ord) = .ok s := State.releaseOpt_released ⟨hsettled, hjobs, hpcie⟩ _
  simp only [State.amo, hcheck, hrel, State.targetOf, State.drainPath, State.drain_settled hsettled,
    State.rmwAt_clean hparked hclean hc _ hw, bits_low _ hw, sextN_eq_ofInt_bmod _ hw hw64]

end Amo

/-- Settles O31: each AMO is one step at its word (`State.amo_plain`), with the function of R110. -/
theorem atomicResults : Obligations.AtomicResults := by
  unfold Obligations.AtomicResults
  intro s d a b w64 ord p w sh pa old y hw hplain hpa hc hjobs hpcie hparked hsh hold hy lo done
  have hwidth : w = amoWidth w64 := hw
  subst hwidth hpa hsh hold hy
  have hpos : 0 < amoWidth w64 := by cases w64 <;> decide
  have hamo := State.amo_plain hplain hc hjobs hpcie hparked d ord
  have hdone {i : Instr} (f : Nat → Nat → Nat) (h : exec i s = finish i (s.amo d a w64 ord f (s.s b))) :
      done i (f (fieldOf (s.peek (s.wordAt p)) ((s.s a).toNat % 64) (amoWidth w64)) ((s.s b).toNat % 2 ^ amoWidth w64)) := by
    show exec i s = _
    rw [h, hamo f (s.s b), finish_ok]
  have hadd := hdone (i := .amoadd d a b w64 ord) (fun o y => (o + y) % 2 ^ amoWidth w64) rfl
  have hmin := hdone (i := .amomin d a b w64 ord) (minS (amoWidth w64)) rfl
  have hmax := hdone (i := .amomax d a b w64 ord) (maxS (amoWidth w64)) rfl
  have hcas := hdone (i := .amocas d a b w64 ord) (fun o y => if o = bits (s.s d) (amoWidth w64 - 1) 0 then y else o) rfl
  simp only [done, placeAt_mod] at hadd
  simp only [minS, sgN_eq_bmod _ hpos] at hmin
  simp only [maxS, sgN_eq_bmod _ hpos] at hmax
  simp only [bits_low _ hpos] at hcas
  exact ⟨hadd, hdone (fun o y => o &&& y) rfl, hdone (fun o y => o ||| y) rfl, hdone (fun o y => o ^^^ y) rfl, hmin, hmax,
    hdone (fun o y => Nat.min o y) rfl, hdone (fun o y => Nat.max o y) rfl, hdone (fun _ y => y) rfl, hcas⟩

end Sys2Proof.Machine

namespace Sys2Proof.Machine

/-! Tagged requests on ordinary scratchpad words (R104, R106). -/

theorem Table.put_put {α : Type} (t : List (Nat × α)) (n : Nat) (v w : α) : Table.put (Table.put t n v) n w = Table.put t n w := by
  induction t with
  | nil => simp [Table.put]
  | cons x t ih =>
    obtain ⟨k, u⟩ := x
    simp only [Table.put]
    split
    · simp [Table.put]
    · split
      · simp [Table.put]
      · next hlt hne => simp [Table.put, hlt, hne, ih]

/-- Of two writes of one lane the second stands. -/
theorem State.setLaneAt_setLaneAt (s : State) (r : LaneRef) (l k : Lane) : (s.setLaneAt r l).setLaneAt r k = s.setLaneAt r k := by
  have hlane : ((s.core r.core).setLane r.lane l).setLane r.lane k = (s.core r.core).setLane r.lane k := by
    simp only [Core.setLane, Vector.set_set]
  unfold State.setLaneAt
  rw [State.setCore_core_same, hlane]
  simp only [State.setCore, Table.put_put]

/-- The management core's own scratchpad is a scratchpad, and holds no read-only bits (R306, R346; log entry 4). -/
theorem homeOf_mgmtSpad {pa : Nat} (h : Config.mgmtSpadBase ≤ pa) (h' : pa < Config.mgmtSpadBase + 262144) :
    homeOf pa = .spad Config.mgmtCore ∧ readOnlyBits pa = 0 := by
  have hhbm : Config.hbmEnd ≤ Config.mgmtSpadBase := by decide
  have hcoh : Config.cohBase + Config.globalOff ≤ Config.mgmtSpadBase := by decide
  have hctl : Config.cohBase + Config.cohBytes ≤ Config.mgmtSpadBase := by decide
  have hspad : Config.spadBase + 2 ^ 36 ≤ Config.mgmtSpadBase := by decide
  have hpcie : Config.pcieEnd ≤ Config.mgmtSpadBase := by decide
  refine ⟨?_, if_pos (.inr (hcoh.trans h))⟩
  unfold homeOf
  rw [if_neg (by omega), if_neg (by omega), if_neg (by omega), if_neg (by omega), if_neg (by omega), if_pos ⟨h, h'⟩]

/-- The word that a scratchpad address names lies in a scratchpad, the management core's own included, and no bit of it is read-only
(R18, R306, R346). -/
theorem State.wordAt_spad {s : State} {a : Word} {p : Place} (ha : decodeWindow a = some p) (hp : p.isSpad = true) :
    (∃ c, homeOf (s.wordAt p) = .spad c) ∧ readOnlyBits (s.wordAt p) = 0 := by
  have hin (h : InSpad (s.wordAt p)) : (∃ c, homeOf (s.wordAt p) = .spad c) ∧ readOnlyBits (s.wordAt p) = 0 :=
    ⟨⟨_, h.home⟩, h.writable⟩
  cases p with
  | raw off =>
    by_cases hc : s.cur.core < Config.mgmtCore
    · exact hin (State.wordAt_inSpad hc ha rfl)
    · obtain ⟨-, hoff⟩ := decodeWindow_raw ha
      have hword : s.wordAt (.raw off) = Config.mgmtSpadBase + off / 64 * 8 := by
        simp only [State.wordAt, Place.byteAddr, rawByte, ge_iff_le, Nat.le_of_not_lt hc, if_true, Config.mgmtSpadBase]
        omega
      obtain ⟨hhome, hro⟩ := homeOf_mgmtSpad (pa := s.wordAt (.raw off)) (by omega) (by omega)
      exact ⟨⟨_, hhome⟩, hro⟩
  | global c off =>
    obtain ⟨-, hcore, hoff⟩ := decodeWindow_global ha
    refine hin ?_
    rw [State.wordAt_global]
    simp only [InSpad, Config.spadBase, Config.mgmtCore] at hcore ⊢
    omega
  | trans | fmt win off | dev off | coh off => cases hp

/-- A store in a scratchpad sets the word and its mark (R26, R297). -/
theorem State.poke_spad (s : State) {pa : Nat} (v : Word) (p : Nat) (h : ∃ c, homeOf pa = .spad c) (h0 : readOnlyBits pa = 0) :
    s.poke pa v p = { s with written := Table.put s.written pa (BitVec.allOnes 16), mem := Memory.setWord s.mem pa v } := by
  rw [State.poke_memory s v p (.inr (.inr h)) h0]
  obtain ⟨c, h⟩ := h
  simp only [State.markDirty, State.markWritten, h]

/-- A tagged access is neither an ordinary load nor an AMO or a reduction. -/
theorem accTagged_kinds {k : Access} (hk : accTagged k = true) : (k == .load) = false ∧ (k == .amo || k == .red) = false := by
  cases k with
  | tload | tstore | tagStep => exact ⟨rfl, rfl⟩
  | load | store | amo | red | fetch | table => cases hk

/-- A tagged access to an ordinary scratchpad word passes R27. -/
theorem State.checkAccess_plain_tagged {s : State} {a : Word} {k : Access} {p : Place} (h : s.plain a 64 p) (hp : p.isSpad = true)
    (hk : accTagged k = true) : s.checkAccess s.cur a 64 k = .ok (s, s.targetOf p a) := by
  obtain ⟨hload, hamo⟩ := accTagged_kinds hk
  have hplain : s.plain a 64 p (k == .load && 64 == 64) := by rw [hload]; exact h
  have hmod : a.toNat % 64 = 0 := aligned_mod h.2.2.1 rfl
  refine State.checkAccess_plain hplain ?_ ?_
  · cases p with
    | raw off | global c off => rfl
    | trans | fmt win off | dev off | coh off => cases hp
  · cases p with
    | raw off | global c off => simp only [order4, hamo, hk, hmod, Bool.false_eq_true, if_false, if_true, bne_self_eq_false]
    | trans | fmt win off | dev off | coh off => cases hp

/-- The lane with a request outstanding. -/
def Lane.asking (l : Lane) (q : Request) : Lane := { l with req := some q }

section Try

variable {s : State} {r : LaneRef} {pa : Nat} {k : Park} (hreq : (s.laneAt r).req = some ⟨pa, k, .held⟩) (hclean : s.clean pa)
include hreq hclean

/-- The home leaves a request whose condition does not hold (R104). -/
theorem State.tryRequest_held (h : k.holds (s.laneAt r) (s.peek pa) (s.tag pa) = false) : s.tryRequest pa (fun _ => true) r = s := by
  simp only [State.tryRequest, hreq, State.readHome_clean hclean, h, and_self, if_true, Bool.false_eq_true, if_false]

/-- The home answers a tagged load whose condition holds (R104). -/
theorem State.tryRequest_load (hk : ∀ d, k ≠ .ste d) (h : k.holds (s.laneAt r) (s.peek pa) (s.tag pa) = true) :
    s.tryRequest pa (fun _ => true) r = s.setLaneAt r ((s.laneAt r).asking ⟨pa, k, .answered (s.peek pa)⟩) := by
  simp only [State.tryRequest, hreq, State.readHome_clean hclean, h, and_self, if_true]
  cases k with
  | ste d => exact absurd rfl (hk d)
  | _ => rfl

/-- The home fills a word whose tag is 0 for an STE (R104). -/
theorem State.tryRequest_ste {d : Word} (hk : k = .ste d) (h : s.tag pa = 0) :
    let t := (s.poke pa d (s.laneAt r).ptag.toNat).setTag pa 1
    s.tryRequest pa (fun _ => true) r = t.setLaneAt r ((t.laneAt r).asking ⟨pa, k, .answered (s.peek pa)⟩) := by
  subst hk
  have hholds : (Park.ste d).holds (s.laneAt r) (s.peek pa) (s.tag pa) = true := by rw [h]; rfl
  simp only [State.tryRequest, hreq, State.readHome_clean hclean, hholds, and_self, if_true]
  rfl

end Try

/-- The issuing lane has sent a request. -/
def State.asked (s : State) (pa : Nat) (k : Park) : State := s.setLaneAt s.cur (s.lane.asking ⟨pa, k, .held⟩)

theorem State.asked_lane (s : State) (pa : Nat) (k : Park) : (s.asked pa k).laneAt s.cur = s.lane.asking ⟨pa, k, .held⟩ :=
  State.setLaneAt_laneAt_same _ _ _

theorem State.asked_setLaneAt (s : State) (pa : Nat) (k : Park) (l : Lane) : (s.asked pa k).setLaneAt s.cur l = s.setLane l :=
  State.setLaneAt_setLaneAt _ _ _ _

theorem State.asked_peek (s : State) {pa : Nat} (k : Park) (h : MemoryHome pa) : (s.asked pa k).peek pa = s.peek pa := by
  rw [State.peek_memory _ h, State.peek_memory _ h]
  rfl

theorem State.asked_tag (s : State) (pa : Nat) (k : Park) : (s.asked pa k).tag pa = s.tag pa := rfl

section Arrive

variable {s t : State} {pa : Nat} {k : Park} {q : Request} (hsettled : s.settled) (hparked : s.parked = [])
  (htry : (s.asked pa k).tryRequest pa (fun _ => true) s.cur = t) (hq : (t.laneAt s.cur).req = some q)
include hsettled hparked htry hq

/-- With nothing in flight and nothing parked, a request that its home leaves is parked there (R106). -/
theorem State.arriveRequest_parks (hphase : q.phase = .held) : s.arriveRequest s.cur pa k = { t with parked := t.parked ++ [s.cur] } := by
  have hroom : s.parkRoom pa = true := by rw [State.parkRoom, hparked]; rfl
  have hasked : s.setLaneAt s.cur { s.laneAt s.cur with req := some ⟨pa, k, .held⟩ } = s.asked pa k := rfl
  simp only [State.arriveRequest, State.drainPath, State.drain_settled hsettled, hroom, hasked, htry, hq, hphase, if_true]

omit hparked in
/-- One that its home completes has its answer; a completed STE has the requests on the word re-examined (R104, R106). -/
theorem State.arriveRequest_answered (hphase : q.phase ≠ .held) :
    (∀ d, k = .ste d → s.arriveRequest s.cur pa k = t.reexamine pa (s.tag pa)) ∧
    ((∀ d, k ≠ .ste d) → s.arriveRequest s.cur pa k = t) := by
  have hasked : s.setLaneAt s.cur { s.laneAt s.cur with req := some ⟨pa, k, .held⟩ } = s.asked pa k := rfl
  simp only [State.arriveRequest, State.drainPath, State.drain_settled hsettled, hasked, htry, hq, hphase, if_false]
  refine ⟨fun d hd => by rw [hd], fun hk => ?_⟩
  cases k with
  | ste d => exact absurd rfl (hk d)
  | _ => rfl

end Arrive

/-- Once its request is answered, a lane that had none before goes on as if it had asked nothing. -/
theorem Lane.resume_asking {l : Lane} (h : l.req = none) (q : Request) (d : Reg) (v : Word) (len : Nat) :
    ({ ((l.asking q).setS d v).advance len with req := none } : Lane) = (l.setS d v).advance len ∧
    ({ (l.asking q).advance len with req := none } : Lane) = l.advance len := by
  cases l
  subst h
  refine ⟨?_, rfl⟩
  unfold Lane.setS
  split <;> rfl

theorem State.setLane_setLaneAt (s : State) (l k : Lane) : (s.setLane l).setLaneAt s.cur k = s.setLane k := State.setLaneAt_setLaneAt _ _ _ _

theorem State.setLane_resumeAt (s : State) (l : Lane) (len : Nat) :
    (s.setLane l).resumeAt s.cur len = s.setLane { l.advance len with req := none } := by
  have hlane : (s.setLane l).laneAt s.cur = l := State.setLaneAt_laneAt_same _ _ _
  rw [State.resumeAt, hlane, State.setLane_setLaneAt]

theorem State.setS_advance (s : State) (d : Reg) (v : Word) (len : Nat) :
    (s.setS d v).advance len = s.setLane ((s.lane.setS d v).advance len) := by
  rw [State.advance, State.setS_lane]
  exact State.setLane_setLaneAt _ _ _

/-- What a home answered to a tagged load is written as any result is, once the lane takes it (R104). -/
theorem State.completeTag_load {s : State} (hreq : s.lane.req = none) (q : Request) (d : Reg) (v : Word) :
    (∀ len, (s.setLane (s.lane.asking q)).completeTag s.cur (.ldf d len) v = (s.setS d v).advance len) ∧
    ∀ ver, (s.setLane (s.lane.asking q)).completeTag s.cur (.ldw d ver) v = s.writeS d v := by
  have hlane : (s.setLane (s.lane.asking q)).laneAt s.cur = s.lane.asking q := State.setLaneAt_laneAt_same _ _ _
  have hwrite (len : Nat) : ((s.setLane (s.lane.asking q)).setLaneAt s.cur (((s.setLane (s.lane.asking q)).laneAt s.cur).setS d v)).resumeAt
      s.cur len = (s.setS d v).advance len := by
    rw [hlane, State.setLane_setLaneAt, State.setLane_resumeAt, (Lane.resume_asking hreq q d v len).1, State.setS_advance]
  exact ⟨hwrite, fun _ => hwrite 32⟩

section Request

variable {s : State} {a : Word} {p : Place} {acc : Access} {k : Park} {rel : Option Scope} (hplain : s.plain a 64 p)
  (hp : p.isSpad = true) (hparked : s.parked = []) (hreq : s.lane.req = none) (hjobs : s.jobMayStore s.cur = false)
  (hpcie : s.pcieWrites = []) (hacc : accTagged acc = true)

section
include hplain hp hjobs hpcie hacc

/-- A tagged request to an ordinary word passes its checks and its release and arrives; with its answer it completes (R104). -/
theorem State.tagRequest_answered {t : State} {k' : Park} {v : Word} (ht : s.arriveRequest s.cur (s.wordAt p) k = t)
    (hans : t.lane.answer = some (k', v)) : s.tagRequest a acc k rel = .ok (t.completeTag t.cur k' v) := by
  have hrel : s.releaseOpt s.cur rel = .ok s := State.releaseOpt_released ⟨hplain.2.2.2.2.1, hjobs, hpcie⟩ rel
  simp only [State.tagRequest, State.checkAccess_plain_tagged hplain hp hacc, hrel, State.targetOf, ht, hans]

/-- Without an answer the lane waits (R104, R106). -/
theorem State.tagRequest_waits {t : State} (ht : s.arriveRequest s.cur (s.wordAt p) k = t) (hans : t.lane.answer = none) :
    s.tagRequest a acc k rel = .error (.wait t 1) := by
  have hrel : s.releaseOpt s.cur rel = .ok s := State.releaseOpt_released ⟨hplain.2.2.2.2.1, hjobs, hpcie⟩ rel
  simp only [State.tagRequest, State.checkAccess_plain_tagged hplain hp hacc, hrel, State.targetOf, ht, hans]

/-- A tagged load whose condition holds comes back to the lane with the word (R104). -/
theorem State.tagRequest_load (hk : ∀ d, k ≠ .ste d) (h : ∀ l, k.holds l (s.peek (s.wordAt p)) (s.tag (s.wordAt p)) = true) :
    s.tagRequest a acc k rel =
      .ok ((s.setLane (s.lane.asking ⟨s.wordAt p, k, .answered (s.peek (s.wordAt p))⟩)).completeTag s.cur k (s.peek (s.wordAt p))) := by
  have ⟨hwindow, _, _, _, hsettled, hclean, _⟩ := hplain
  have hhome : MemoryHome (s.wordAt p) := .inr (.inr (State.wordAt_spad hwindow hp).1)
  have htry := State.tryRequest_load (congrArg Lane.req (s.asked_lane (s.wordAt p) k)) hclean hk
    (by rw [State.asked_peek s k hhome, State.asked_tag]; exact h _)
  rw [State.asked_lane, State.asked_setLaneAt, State.asked_peek s k hhome] at htry
  have hlane := State.setLane_lane s (s.lane.asking ⟨s.wordAt p, k, .answered (s.peek (s.wordAt p))⟩)
  have harrive := (State.arriveRequest_answered hsettled htry (congrArg Lane.req hlane) (by simp)).2 hk
  exact State.tagRequest_answered hplain hp hjobs hpcie hacc harrive (by rw [hlane]; rfl)

include hparked in
/-- A request whose condition does not hold is parked at the word (R106). -/
theorem State.tagRequest_parks (h : ∀ l, k.holds l (s.peek (s.wordAt p)) (s.tag (s.wordAt p)) = false) :
    s.tagRequest a acc k rel = .error (.wait { s.asked (s.wordAt p) k with parked := [s.cur] } 1) := by
  have ⟨hwindow, _, _, _, hsettled, hclean, _⟩ := hplain
  have hhome : MemoryHome (s.wordAt p) := .inr (.inr (State.wordAt_spad hwindow hp).1)
  have hlane := s.asked_lane (s.wordAt p) k
  have htry := State.tryRequest_held (congrArg Lane.req hlane) hclean
    (by rw [State.asked_peek s k hhome, State.asked_tag]; exact h _)
  have harrive := State.arriveRequest_parks hsettled hparked htry (congrArg Lane.req hlane) rfl
  have hnone : (s.asked (s.wordAt p) k).parked = [] := hparked
  rw [hnone, List.nil_append] at harrive
  refine State.tagRequest_waits hplain hp hjobs hpcie hacc harrive ?_
  show ((s.asked (s.wordAt p) k).laneAt s.cur).answer = none
  rw [hlane]
  rfl

end

section
include hplain hp hreq hjobs hpcie

/-- LDF, in both forms, completes with a word whose tag is not 0 (R104). -/
theorem State.tagRequest_ldf (htag : s.tag (s.wordAt p) ≠ 0) (d : Reg) (len : Nat) :
    s.tagRequest a .tload (.ldf d len) none = .ok ((s.setS d (s.peek (s.wordAt p))).advance len) := by
  have hholds : ∀ l, (Park.ldf d len).holds l (s.peek (s.wordAt p)) (s.tag (s.wordAt p)) = true := fun _ => bne_iff_ne.mpr htag
  rw [State.tagRequest_load hplain hp hjobs hpcie rfl (by simp) hholds]
  exact congrArg Except.ok ((State.completeTag_load hreq _ d _).1 len)

/-- LDW completes with a word whose tag is its version (R104). -/
theorem State.tagRequest_ldw {ver : BitVec 4} (htag : s.tag (s.wordAt p) = ver) (d : Reg) :
    s.tagRequest a .tload (.ldw d ver) none = .ok (s.writeS d (s.peek (s.wordAt p))) := by
  have hholds : ∀ l, (Park.ldw d ver).holds l (s.peek (s.wordAt p)) (s.tag (s.wordAt p)) = true := fun _ => beq_iff_eq.mpr htag
  rw [State.tagRequest_load hplain hp hjobs hpcie rfl (by simp) hholds]
  exact congrArg Except.ok ((State.completeTag_load hreq _ d _).2 ver)

include hparked

/-- STE fills a word whose tag is 0 and sets tag 1 (R104). -/
theorem State.tagRequest_ste (htag : s.tag (s.wordAt p) = 0) (v : Word) :
    s.tagRequest a .tagStep (.ste v) rel = .ok (((s.poke (s.wordAt p) v s.lane.part).setTag (s.wordAt p) 1).advance 32) := by
  have ⟨hwindow, _, _, _, hsettled, hclean, _⟩ := hplain
  obtain ⟨hspad, hro⟩ := State.wordAt_spad (s := s) hwindow hp
  have hlane := s.asked_lane (s.wordAt p) (.ste v)
  have htry := State.tryRequest_ste (congrArg Lane.req hlane) hclean rfl ((s.asked_tag _ _).trans htag)
  have hfill : ((s.asked (s.wordAt p) (.ste v)).poke (s.wordAt p) v ((s.asked (s.wordAt p) (.ste v)).laneAt s.cur).ptag.toNat).setTag
      (s.wordAt p) 1 = ((s.poke (s.wordAt p) v s.lane.part).setTag (s.wordAt p) 1).setLane (s.lane.asking ⟨s.wordAt p, .ste v, .held⟩) := by
    rw [State.poke_spad _ _ _ hspad hro, State.poke_spad _ _ _ hspad hro]
    rfl
  rw [hfill] at htry
  generalize ht : (s.poke (s.wordAt p) v s.lane.part).setTag (s.wordAt p) 1 = t at htry ⊢
  have hcur : t.cur = s.cur := by rw [← ht, State.poke_spad _ _ _ hspad hro]; rfl
  have htlane : t.lane = s.lane := by rw [← ht, State.poke_spad _ _ _ hspad hro]; rfl
  have htparked : t.parked = [] := by rw [← ht, State.poke_spad _ _ _ hspad hro]; exact hparked
  obtain ⟨w, hfilled⟩ : ∃ w, (s.asked (s.wordAt p) (.ste v)).tryRequest (s.wordAt p) (fun _ => true) s.cur =
      t.setLane (t.lane.asking ⟨s.wordAt p, .ste v, .answered w⟩) := by
    refine ⟨(s.asked (s.wordAt p) (.ste v)).peek (s.wordAt p), ?_⟩
    have hheld (l : Lane) : (t.setLane l).laneAt t.cur = l := State.setLane_lane t l
    rw [htry, ← hcur, State.setLane_setLaneAt, htlane, hheld]
    rfl
  have hasking := State.setLane_lane t (t.lane.asking ⟨s.wordAt p, .ste v, .answered w⟩)
  have hqreq := congrArg Lane.req hasking
  rw [State.lane, State.setLane_cur, hcur] at hqreq
  have harrive := (State.arriveRequest_answered hsettled hfilled hqreq (by simp)).1 v rfl
  rw [State.reexamine_none (s := t.setLane (t.lane.asking ⟨s.wordAt p, .ste v, .answered w⟩)) htparked] at harrive
  rw [State.tagRequest_answered hplain hp hjobs hpcie rfl harrive (by rw [hasking]; rfl)]
  have hdone : (t.setLane (t.lane.asking ⟨s.wordAt p, .ste v, .answered w⟩)).completeTag t.cur (.ste v) w = t.advance 32 := by
    show (t.setLane _).resumeAt t.cur 32 = _
    rw [State.setLane_resumeAt, (Lane.resume_asking (htlane ▸ hreq) _ 0 0 32).2]
    rfl
  exact congrArg Except.ok hdone
end

end Request

section Post

variable {s : State} {a : Word} {p : Place} (hplain : s.plain a 64 p) (hp : p.isSpad = true) (hjobs : s.jobMayStore s.cur = false)
  (hpcie : s.pcieWrites = [])
include hplain hp hjobs hpcie

/-- STV and RECLAIM post their access at the word (R104). -/
theorem State.tagPost_posts (op : WriteOp) (rel : Option Scope) : ∃ q : Posted,
    s.tagPost a op rel = .ok (({ s with inflight := [q] } : State).advance 32) ∧ q.pa = s.wordAt p ∧ q.op = op := by
  have ⟨hwindow, _, _, _, hsettled, _, _⟩ := hplain
  obtain ⟨⟨c, hspad⟩, -⟩ := State.wordAt_spad (s := s) hwindow hp
  have hrel : s.releaseOpt s.cur rel = .ok s := State.releaseOpt_released ⟨hsettled, hjobs, hpcie⟩ rel
  obtain ⟨q, hpost, hpa, hop, -⟩ := s.post_inflight s.cur .lane s.turn a (g := s.targetOf p a) op false
    (by show homeOf (s.wordAt p) ≠ .pcie; rw [hspad]; simp)
  rw [hsettled.1, List.nil_append] at hpost
  refine ⟨q, ?_, hpa, hop⟩
  simp only [State.tagPost, State.checkAccess_plain_tagged hplain hp (k := .tstore) rfl, hrel, hpost]

end Post

/-- A lane that waits for its parked request is stalled on it with STALL = 1, and memory and tags are as before (R54, R106). -/
theorem State.stallOn_asked (s : State) (pa : Nat) (k : Park) (i : Instr) :
    let t := ({ s.asked pa k with parked := [s.cur] } : State).stallOn i 1
    t.lane.run = .stalled ∧ t.lane.stall = 1 ∧ t.lane.pc = s.lane.pc ∧ t.parked = [s.cur] ∧ (∃ k, t.lane.req = some ⟨pa, k, .held⟩) ∧
      t.mem = s.mem ∧ t.tags = s.tags := by
  have hlane : ({ s.asked pa k with parked := [s.cur] } : State).lane = s.lane.asking ⟨pa, k, .held⟩ := s.asked_lane pa k
  simp only [State.stallOn, State.setLane_lane, hlane]
  exact ⟨trivial, trivial, rfl, rfl, ⟨k, rfl⟩, rfl, rfl⟩

/-- Settles O33: the tagged loads and STE by their request at the home (`State.tagRequest_ldf`, `State.tagRequest_ldw`,
`State.tagRequest_ste`, `State.tagRequest_parks`), STV and RECLAIM by their posted access (`State.tagPost_posts`). -/
theorem tagResults : Obligations.TagResults := by
  unfold Obligations.TagResults
  rintro s d a ver o c b off p pa hplain hp rfl hparked hreq hjobs hpcie
  refine ⟨fun h => ?_, fun h hc => ?_, fun h => ?_, fun h => ?_, ?_, ?_, ?_, ?_⟩
  · show finish _ (s.tagRequest (s.s a) .tload (.ldf d 32) none) = _
    rw [State.tagRequest_ldf hplain hp hreq hjobs hpcie h, finish_ok]
    rfl
  · show finish _ (s.tagRequest (cAddr (s.s (cReg b)) off) .tload (.ldf (cReg c) 16) none) = _
    rw [← hc, State.tagRequest_ldf hplain hp hreq hjobs hpcie h, finish_ok]
  · show finish _ (s.tagRequest (s.s a) .tload (.ldw d ver) none) = _
    rw [State.tagRequest_ldw hplain hp hreq hjobs hpcie h, finish_ok]
  · show finish _ (s.tagRequest (s.s a) .tagStep (.ste (s.s d)) o) = _
    rw [State.tagRequest_ste hplain hp hparked hreq hjobs hpcie h, finish_ok]
  · have hword := State.homeWord_clean hplain.2.2.2.2.1 hplain.2.2.2.2.2.1 s.cur
    show execTagrd d a s = _
    simp only [execTagrd, State.checkAccess_plain_tagged hplain hp (k := .tload) rfl, State.targetOf, hword, finish_ok]
    rw [word, BitVec.ofNat_toNat]
  · obtain ⟨q, hpost, hq⟩ := State.tagPost_posts hplain hp hjobs hpcie (.stv (s.s d) ver) o
    refine ⟨q, ?_, hq⟩
    show finish _ (s.tagPost (s.s a) (.stv (s.s d) ver) o) = _
    rw [hpost, finish_ok]
  · obtain ⟨q, hpost, hq⟩ := State.tagPost_posts hplain hp hjobs hpcie .reclaim o
    refine ⟨q, ?_, hq⟩
    show finish _ (s.tagPost (s.s a) .reclaim o) = _
    rw [hpost, finish_ok]
  · have hwaits {i : Instr} {acc : Access} {k : Park} {rel : Option Scope} (hi : exec i s = finish i (s.tagRequest (s.s a) acc k rel))
        (hacc : accTagged acc = true) (hk : ∀ l, k.holds l (s.peek (s.wordAt p)) (s.tag (s.wordAt p)) = false) :=
      hi.trans (congrArg (finish i) (State.tagRequest_parks hplain hp hparked hjobs hpcie hacc hk (rel := rel)))
    rintro i (⟨rfl, h⟩ | ⟨rfl, h⟩ | ⟨rfl, h⟩)
    · exact ⟨_, hwaits rfl rfl fun _ => by rw [h]; rfl, State.stallOn_asked s _ _ _⟩
    · exact ⟨_, hwaits rfl rfl fun _ => beq_eq_false_iff_ne.mpr h, State.stallOn_asked s _ _ _⟩
    · exact ⟨_, hwaits rfl rfl fun _ => beq_eq_false_iff_ne.mpr h, State.stallOn_asked s _ _ _⟩

end Sys2Proof.Machine

namespace Sys2Proof.Machine

/-! What accesses keep: a property that is kept by each change that an access or a home can make is kept by every access (R25 to R27,
R99 to R106, R299). -/

/-- The state that an instruction ends in without completing. -/
def Stop.state : Stop → State
  | .trap s _ _ => s
  | .wait s _ => s

/-- Whatever a result is, the state that it carries has a property. -/
def Ends {α : Type} (P : State → Prop) (f : α → State) : Except Stop α → Prop
  | .ok a => P (f a)
  | .error e => P e.state

/-- A property that every change an access or a home can make keeps: what a home stores, tags, registers of a core other than its lanes,
lanes with their streams kept, and whatever is neither memory nor tags nor a core. -/
structure AccessInvariant (P : State → Prop) : Prop where
  setHome : ∀ {s : State}, P s → ∀ pa v p, P (s.setHome pa v p)
  setTag : ∀ {s : State}, P s → ∀ pa t, P (s.setTag pa t)
  core : ∀ {s : State}, P s → ∀ c k, k.lanes = (s.core c).lanes → P (s.setCore c k)
  lane : ∀ {s : State}, P s → ∀ r l, l.streamcfg = (s.laneAt r).streamcfg → P (s.setLaneAt r l)
  rest : ∀ {s t : State}, P s → t.mem = s.mem → t.tags = s.tags → t.cores = s.cores → t.cur = s.cur → P t

section

variable {P : State → Prop} {α : Type} {f : α → State} {x : Except Stop α}

theorem Ends.of_ok {a : α} (h : Ends P f x) (e : x = .ok a) : P (f a) := by
  subst e
  exact h

theorem Ends.of_error {e : Stop} (h : Ends P f x) (hx : x = .error e) : P e.state := by
  subst hx
  exact h

end

section AccessInvariant

variable {P : State → Prop} (hP : AccessInvariant P) {s : State} (h : P s)
include hP h

/-! Homes. -/

theorem State.freshCode_keeps (pa : Nat) : P (s.freshCode pa) := hP.rest h rfl rfl rfl rfl

theorem State.countErr_keeps (p : Nat) : P (s.countErr p) := hP.rest h rfl rfl rfl rfl

theorem State.countDrop_keeps (p n : Nat) : P (s.countDrop p n) := hP.rest h rfl rfl rfl rfl

theorem State.countDropcnt_keeps (c n : Nat) : P (s.countDropcnt c n) := hP.core h _ _ rfl

theorem State.countUnc_keeps (pa : Nat) : P (s.countUnc pa) := by
  unfold State.countUnc
  split
  · exact hP.core h _ _ rfl
  · exact h

theorem State.countCorr_keeps (pa : Nat) : P (s.countCorr pa) := by
  unfold State.countCorr
  split
  · exact hP.core h _ _ rfl
  · exact h

theorem State.correct_keeps (pa : Nat) : P (s.correct pa) := by
  unfold State.correct
  split
  · exact State.countCorr_keeps hP (State.freshCode_keeps hP h pa) pa
  · exact h

theorem State.chargeTask_keeps (r : LaneRef) : P (s.chargeTask r) := by
  unfold State.chargeTask
  dsimp only
  split
  · exact h
  · exact hP.rest h rfl rfl rfl rfl

theorem State.poke_keeps (pa : Nat) (v : Word) (p : Nat) : P (s.poke pa v p) := by
  unfold State.poke
  split <;> exact hP.setHome h _ _ _

theorem State.zeroRewrite_keeps (pa p : Nat) : P (s.zeroRewrite pa p) := by
  have h := State.freshCode_keeps hP h pa
  unfold State.zeroRewrite
  dsimp only
  split
  · exact foldl_keeps _ P (fun s i hs => hP.setHome hs _ _ _) _ _ h
  · exact hP.setTag (hP.setHome h _ _ _) _ _

/-- An uncorrectable word is rewritten and counted (R100). -/
theorem State.lost_keeps (pa p : Nat) : P (((s.zeroRewrite pa p).countUnc pa).countErr p) :=
  State.countErr_keeps hP (State.countUnc_keeps hP (State.zeroRewrite_keeps hP h pa p) pa) p

theorem State.readHome_keeps (pa p : Nat) (who : Option LaneRef) : P (s.readHome pa p who).1 := by
  have hlost := State.lost_keeps hP h pa p
  unfold State.readHome
  split
  · cases who with
    | none => exact hlost
    | some r => exact State.chargeTask_keeps hP hlost r
  · exact State.correct_keeps hP h pa

theorem State.merge_keeps (pa : Nat) (m v : Word) (p : Nat) : P (s.merge pa m v p) := by
  unfold State.merge
  dsimp only
  split
  · exact State.poke_keeps hP (State.freshCode_keeps hP h pa) _ _ _
  · split
    · exact hP.setTag (State.poke_keeps hP (State.lost_keeps hP h pa p) _ _ _) _ _
    · exact State.poke_keeps hP (State.correct_keeps hP h pa) _ _ _

/-! Parked requests (R106). -/

theorem State.tryRequest_keeps (pa : Nat) (ok : Park → Bool) (r : LaneRef) : P (s.tryRequest pa ok r) := by
  unfold State.tryRequest
  dsimp only
  split
  · exact h
  · next q hq =>
    split
    · have hread := State.readHome_keeps hP h pa (s.laneAt r).ptag.toNat (some r)
      split
      · refine hP.lane ?_ r _ rfl
        split
        · exact hP.setTag (State.poke_keeps hP hread _ _ _) _ _
        · exact hread
      · exact hread
    · exact h

theorem State.examine_keeps (pa : Nat) (ok : Park → Bool) : P (s.examine pa ok) :=
  hP.rest (foldl_keeps _ P (fun _ r hs => State.tryRequest_keeps hP hs pa ok r) s.parked s h) rfl rfl rfl rfl

theorem State.settleTag_keeps (pa n : Nat) : P (s.settleTag pa n) := by
  induction n generalizing s with
  | zero => exact h
  | succ n ih =>
    have ht := State.examine_keeps hP h pa (fun _ => true)
    unfold State.settleTag
    dsimp only
    split
    · exact ht
    · exact ih ht

theorem State.reexamine_keeps (pa : Nat) (old : BitVec 4) : P (s.reexamine pa old) := by
  unfold State.reexamine
  split
  · exact State.examine_keeps hP h _ _
  · exact State.settleTag_keeps hP h _ _

theorem State.storeAt_keeps (pa : Nat) (m v : Word) (p : Nat) : P (s.storeAt pa m v p) :=
  State.reexamine_keeps hP (State.merge_keeps hP h pa m v p) _ _

theorem State.mergeLine_keeps (line : Nat) (ws : List Word) (p : Nat) : P (s.mergeLine line ws p) := by
  unfold State.mergeLine
  exact foldl_keeps _ P (fun _ i hs => State.examine_keeps hP hs _ _) _ _
    (foldl_keeps _ P (fun _ w hs => State.poke_keeps hP hs _ _ _) _ _ (State.freshCode_keeps hP h line))

theorem State.drainBacks_keeps (line : Nat) : P (s.drainBacks line) :=
  foldl_keeps _ P (fun _ _ hs => State.mergeLine_keeps hP hs _ _ _) _ _ (hP.rest h rfl rfl rfl rfl)

theorem State.snoop_keeps (pa : Nat) : P (s.snoop pa) := by
  have hb := State.drainBacks_keeps hP h (pa / 64 * 64)
  unfold State.snoop
  dsimp only
  split
  · split
    · refine State.mergeLine_keeps hP ?_ _ _ _
      exact hP.rest hb rfl rfl rfl rfl
    · exact hb
  · exact hb

/-! Posted accesses (R13, R99, R123). -/

theorem State.passLinks_keeps (path : List Nat) : P (s.passLinks path) := by
  unfold State.passLinks
  split
  · exact h
  · exact hP.rest h rfl rfl rfl rfl

theorem State.dropNotice_keeps (r : LaneRef) (extra : Word) : P (s.dropNotice r extra) := hP.rest h rfl rfl rfl rfl

theorem State.settleDropped_keeps : P s.settleDropped := by
  unfold State.settleDropped
  exact foldl_keeps _ P (fun _ d hs => State.dropNotice_keeps hP hs d.who d.addr) _ _ (hP.rest h rfl rfl rfl rfl)

theorem State.dropAccess_keeps (d : Dropped) : P (s.dropAccess d) :=
  hP.rest (State.countDrop_keeps hP (State.countDropcnt_keeps hP h d.who.core 1) d.ptag.toNat 1) rfl rfl rfl rfl

theorem State.rmw_keeps (pa off w p : Nat) (who : Option LaneRef) (f : Nat → Nat) : P (s.rmw pa off w p who f).1 := by
  unfold State.rmw
  exact State.merge_keeps hP (State.readHome_keeps hP h pa p who) _ _ _ _

theorem State.rmwAt_keeps (pa off w p : Nat) (who : Option LaneRef) (f : Nat → Nat) : P (s.rmwAt pa off w p who f).1 := by
  unfold State.rmwAt
  exact State.reexamine_keeps hP (State.rmw_keeps hP (State.readHome_keeps hP h pa p who) _ _ _ _ _ _) _ _

theorem State.land_keeps (q : Posted) : P (s.land q) := by
  unfold State.land
  dsimp only
  split
  · exact State.reexamine_keeps hP (State.merge_keeps hP h _ _ _ _) _ _
  · exact State.reexamine_keeps hP (hP.setTag (State.merge_keeps hP h _ _ _ _) _ _) _ _
  · exact State.reexamine_keeps hP (hP.setTag h _ _) _ _
  · exact State.rmwAt_keeps hP h _ _ _ _ _ _

theorem State.arrive_keeps (q : Posted) : P (s.arrive q) := by
  unfold State.arrive
  split
  · exact State.dropAccess_keeps hP h _
  · exact State.land_keeps hP h q

theorem State.arriveAt_keeps (k : Nat) : P (s.arriveAt k) := by
  unfold State.arriveAt
  split
  · exact h
  · next q _ =>
    split
    · exact h
    · have hpass := State.passLinks_keeps hP h q.path
      refine State.settleDropped_keeps hP (State.arrive_keeps hP ?_ q)
      exact hP.rest hpass rfl rfl rfl rfl

theorem State.drain_keeps (p : Posted → Bool) : P (s.drain p) := by
  have hlinks (go : List Posted) : P (go.foldl (fun s q => s.passLinks q.path) s) :=
    foldl_keeps _ P (fun _ q hs => State.passLinks_keeps hP hs q.path) _ _ h
  unfold State.drain
  refine State.settleDropped_keeps hP (foldl_keeps _ P (fun _ q hs => State.arrive_keeps hP hs q) _ _ ?_)
  exact hP.rest (hlinks _) rfl rfl rfl rfl

theorem State.meanwhile_keeps (pa : Nat) : P (s.meanwhile pa) := foldl_keeps _ P (fun _ k hs => State.arriveAt_keeps hP hs k) _ _ h

theorem State.homeWord_keeps (r : LaneRef) (pa : Nat) : P (s.homeWord r pa).1 :=
  State.readHome_keeps hP (State.drain_keeps hP h _) _ _ _

/-! Translation (R299 to R303). -/

theorem State.readPte_keeps (pa p : Nat) : P (s.readPte pa p).1 := by
  unfold State.readPte
  split
  · exact h
  · split
    · exact h
    · exact State.readHome_keeps hP (State.snoop_keeps hP h pa) _ _ _

theorem State.walk_keeps (vb p ppn n : Nat) : P (s.walk vb p ppn n).1 := by
  induction n generalizing s ppn with
  | zero =>
    have hpte := State.readPte_keeps hP h (pteByte vb ppn 0) p
    unfold State.walk
    split <;> rename_i hr <;> rw [hr] at hpte <;> exact hpte
  | succ n ih =>
    have hpte := State.readPte_keeps hP h (pteByte vb ppn (n + 1)) p
    unfold State.walk
    split <;> rename_i hr <;> rw [hr] at hpte
    · exact hpte
    · exact hpte
    · split
      · exact hpte
      · exact hpte
      · exact ih hpte _

theorem State.keepXlate_keeps (x : Xlate) : P (s.keepXlate x) := hP.rest h rfl rfl rfl rfl

theorem State.uncache_keeps (pa : Nat) : P (s.uncache pa) := hP.rest h rfl rfl rfl rfl

theorem State.walkNow_keeps (die est sid root p vb : Nat) (k : Access) :
    P (State.translate.walkNow s die est sid root p vb k).1 := by
  have hwalk := State.walk_keeps hP h vb p root 4
  unfold State.translate.walkNow
  split <;> rename_i hr <;> rw [hr] at hwalk
  · exact hwalk
  · exact hwalk
  · split
    · exact hwalk
    · split
      · exact hwalk
      · refine State.keepXlate_keeps hP ?_ _
        refine hP.rest (s := ite _ _ _) ?_ rfl rfl rfl rfl
        exact iteInduction (motive := P) (fun _ => hwalk) fun _ =>
          State.storeAt_keeps hP (State.uncache_keeps hP hwalk _) _ _ _ _

theorem State.translate_keeps (die p : Nat) (a : Word) (k : Access) : P (s.translate die p a k).1 := by
  have hwalk := State.walkNow_keeps hP h die
  unfold State.translate
  dsimp only
  split
  · exact h
  · split
    · exact h
    · split
      · split
        · split <;> exact h
        · exact hwalk _ _ _ _ _ _
      · exact hwalk _ _ _ _ _ _

/-! The fates of an access (R27), and loads. -/

theorem State.holdAccess_keeps (r : LaneRef) : P (s.holdAccess r) := hP.lane h r _ rfl

theorem State.resolve_keeps (r : LaneRef) (a : Word) (w : Nat) (k : Access) : Ends P Prod.fst (s.resolve r a w k) := by
  have hx := State.translate_keeps hP h (dieOf r.core) (s.laneAt r).part a k
  unfold State.resolve
  dsimp only
  split
  · exact h
  · split
    · exact h
    · split
      · exact h
      · split
        · split <;> exact h
        · split <;> rename_i hr <;> rw [hr] at hx
          · exact hx
          · exact hx
          · exact State.holdAccess_keeps hP hx r
        · exact h
        · exact h
        · exact h

theorem State.fates_keeps (r : LaneRef) (a : Word) (w : Nat) (k : Access) : Ends P Prod.fst (s.fates r a w k) := by
  have hr := State.resolve_keeps hP h r a w k
  unfold State.fates
  split
  · next e he => exact hr.of_error he
  · next t g ht =>
    have ht := hr.of_ok ht
    dsimp only
    split
    · exact ht
    · split
      · exact ht
      · split
        · exact State.holdAccess_keeps hP ht r
        · exact State.passLinks_keeps hP ht _

theorem State.checkAccess_keeps (r : LaneRef) (a : Word) (w : Nat) (k : Access) : Ends P Prod.fst (s.checkAccess r a w k) := by
  have hf := State.fates_keeps hP h r a w k
  unfold State.checkAccess
  split
  · next e he => exact hf.of_error he
  · next t g ht => split <;> exact hf.of_ok ht

theorem State.readPart_keeps (r : LaneRef) (own : Bool) (pa : Nat) : P (s.readPart r own pa).1 := by
  have hm := State.meanwhile_keeps hP h pa
  unfold State.readPart
  refine State.readHome_keeps hP ?_ _ _ _
  cases own with
  | true => exact State.drain_keeps hP hm _
  | false => exact hm

theorem State.readQuad_keeps (r : LaneRef) (own : Bool) (i n : Nat) : P (s.readQuad r own i n).1 := by
  induction n generalizing s i with
  | zero => exact h
  | succ n ih => exact ih (State.readPart_keeps hP h r own _) _

theorem State.readBlock_keeps (r : LaneRef) (own : Bool) (b : Nat) (accepts : BlkFmt → Bool) (kquad : Bool) :
    P (s.readBlock r own b accepts kquad).1 := by
  unfold State.readBlock
  exact State.readQuad_keeps hP (State.readQuad_keeps hP h r own _ _) r own _ _

theorem State.windowRead_keeps (r : LaneRef) (a : Word) (win off w : Nat) : Ends P Prod.fst (s.windowRead r a win off w) := by
  have hb := State.readBlock_keeps hP h r true (off / 32 * 32) (windowAccepts win) false
  unfold State.windowRead
  dsimp only
  split <;> rename_i hr <;> rw [hr] at hb
  · exact hb
  · split <;> exact hb

theorem State.popFifo_keeps (r : LaneRef) (f : Fifo) : Ends P Prod.fst (s.popFifo r f) := by
  unfold State.popFifo
  dsimp only
  split <;> split
  · exact h
  · exact hP.core h _ _ rfl
  · exact h
  · exact hP.core h _ _ rfl

theorem State.devLoad_keeps (r : LaneRef) (off w : Nat) : Ends P Prod.fst (s.devLoad r off w) := by
  have hm := State.popFifo_keeps hP h r .matrix
  have hb := State.popFifo_keeps hP h r .brook
  unfold State.devLoad
  split
  · split
    · next e he => exact hm.of_error he
    · next t x ht => exact hm.of_ok ht
  · split
    · next e he => exact hb.of_error he
    · next t x ht => exact hb.of_ok ht
  · exact h
  · exact h

theorem State.readBits_keeps (r : LaneRef) (a : Word) (w : Nat) (k : Access) : Ends P Prod.fst (s.readBits r a w k) := by
  have hc := State.checkAccess_keeps hP h r a w k
  unfold State.readBits
  split
  · next e he => exact hc.of_error he
  · next t g ht =>
    have ht := hc.of_ok ht
    split
    · exact State.windowRead_keeps hP ht _ _ _ _ _
    · exact State.homeWord_keeps hP ht _ _

theorem State.loadBits_keeps (r : LaneRef) (a : Word) (w : Nat) : Ends P Prod.fst (s.loadBits r a w) := by
  have hc := State.checkAccess_keeps hP h r a w .load
  unfold State.loadBits
  split
  · next e he => exact hc.of_error he
  · next t g ht =>
    have ht := hc.of_ok ht
    split
    · exact State.windowRead_keeps hP ht _ _ _ _ _
    · exact State.devLoad_keeps hP ht _ _ _
    · exact State.homeWord_keeps hP ht _ _

end AccessInvariant

end Sys2Proof.Machine

namespace Sys2Proof.Machine

/-! Vector loads and stores without streams (R116, R123). -/

/-! What an access keeps of the issuing lane: which lane it is, and its streams (R51). -/

/-- Lane `r` issues, with the streams of `c`. -/
def State.Streams (r : LaneRef) (c : Vector Word 8) (s : State) : Prop := s.cur = r ∧ (s.laneAt r).streamcfg = c

theorem State.ctlWrite_cores (s : State) (off : Nat) (x : Word) : (s.ctlWrite off x).cores = s.cores ∧ (s.ctlWrite off x).cur = s.cur := by
  unfold State.ctlWrite
  by_cases h : off < Config.entryOff
  · simp only [h, if_true]
    split <;> exact ⟨rfl, rfl⟩
  · simp only [h, if_false]
    split
    · split <;> exact ⟨rfl, rfl⟩
    all_goals exact ⟨rfl, rfl⟩

theorem State.setHome_cores (s : State) (pa : Nat) (v : Word) (p : Nat) :
    (s.setHome pa v p).cores = s.cores ∧ (s.setHome pa v p).cur = s.cur := by
  have hwritten (t : State) : (t.markWritten pa).cores = t.cores ∧ (t.markWritten pa).cur = t.cur := by
    unfold State.markWritten
    split <;> exact ⟨rfl, rfl⟩
  have hdirty : (s.markDirty pa p).cores = s.cores ∧ (s.markDirty pa p).cur = s.cur := by
    unfold State.markDirty
    split
    · split <;> exact ⟨rfl, rfl⟩
    · exact ⟨rfl, rfl⟩
  unfold State.setHome
  split
  · exact s.ctlWrite_cores _ _
  · exact ⟨rfl, rfl⟩
  · exact ⟨rfl, rfl⟩
  · exact ⟨(hwritten _).1.trans hdirty.1, (hwritten _).2.trans hdirty.2⟩

theorem State.Streams.of_cores {r : LaneRef} {c : Vector Word 8} {s t : State} (h : s.Streams r c)
    (hs : t.cores = s.cores ∧ t.cur = s.cur) : t.Streams r c := by
  obtain ⟨hcores, hcur⟩ := hs
  refine ⟨hcur.trans h.1, ?_⟩
  rw [← h.2]
  unfold State.laneAt State.core
  rw [hcores]

/-- No access changes which lane issues, or a stream of it. -/
theorem State.streams_accessInvariant (r : LaneRef) (c : Vector Word 8) : AccessInvariant (State.Streams r c) where
  setHome h pa v p := h.of_cores (State.setHome_cores _ pa v p)
  setTag h pa t := h.of_cores ⟨rfl, rfl⟩
  core {s} h d k hk := by
    refine ⟨h.1, ?_⟩
    rw [← h.2]
    unfold State.laneAt
    by_cases hd : r.core = d
    · rw [hd, State.setCore_core_same, Core.lane, Core.lane]
      simp only [hk]
    · rw [State.setCore_core_ne _ _ hd]
  lane {s} h q l hl := by
    refine ⟨h.1, ?_⟩
    rw [← h.2]
    by_cases hq : r.core ≠ q.core ∨ r.lane % 4 ≠ q.lane % 4
    · rw [State.setLaneAt_laneAt_ne _ _ hq]
    · obtain ⟨hcore, hlane⟩ := not_or.mp hq
      have hmod (k : Core) : k.lane r.lane = k.lane q.lane := by
        simp only [Core.lane, not_ne_iff.mp hlane]
      have hsame (t : State) : t.laneAt r = t.laneAt q := by
        rw [State.laneAt, hmod, not_ne_iff.mp hcore, State.laneAt]
      rw [hsame, hsame, State.setLaneAt_laneAt_same, hl]
  rest h _ _ hcores hcur := h.of_cores ⟨hcores, hcur⟩

/-! Without streams a vector instruction is its checks, its run and its destinations (R116, R134). -/

theorem Lane.boundTo_none {l : Lane} (h : l.noStreams) (v : VReg) : l.boundTo v = none := by
  unfold Lane.boundTo
  rw [h]
  exact if_neg (by simp)

theorem State.moves_none {s : State} (h : s.lane.noStreams) (srcs dsts : List VReg) : s.moves srcs dsts = .ok [] := by
  unfold State.moves
  induction regsOnce (srcs ++ dsts) with
  | nil => rfl
  | cons v t ih => simp only [State.moves.go, Lane.boundTo_none h, ih]

section VecRun

variable {α : Type} {s : State} (h : s.lane.noStreams) (srcs dsts : List VReg) {check : Lane → State → Except Stop (State × α)}
include h

theorem State.vecRun_stop (run : α → Lane → State → State × VOut) {e : Stop} (hcheck : check s.lane s = .error e) :
    s.vecRun srcs dsts check run = .error e := by
  simp only [State.vecRun, State.moves_none h, List.isEmpty_nil, if_true, State.streamWaits, State.streamRead, hcheck]

theorem State.vecRun_done {run : α → Lane → State → State × VOut} {u z : State} {found : α} {out : VOut}
    (hcheck : check s.lane s = .ok (u, found)) (hrun : run found s.lane u = (z, out)) :
    s.vecRun srcs dsts check run = .ok (((out.fin z).setLane ((out.fin z).lane.setVecs out.vecs)).advance 32) := by
  have hpush (vals : List (VReg × VWord)) : z.pushAll vals [] = .ok z := rfl
  simp only [State.vecRun, State.moves_none h, List.isEmpty_nil, if_true, State.streamWaits, State.streamRead, hcheck,
    State.popCommit, hrun, hpush]

end VecRun

theorem Lane.setVecs_one {l : Lane} (h : l.noStreams) (d : VReg) (x y : VWord) : l.setVecs [(d, x, y)] = l.setV d x := by
  simp only [Lane.setVecs, List.foldl_cons, List.foldl_nil, Lane.boundTo_none h, Option.isSome_none, Bool.false_eq_true, if_false]

/-- Writing back the lane that issues changes no completion. -/
theorem State.setLane_advance (s : State) (len : Nat) : (s.setLane s.lane).advance len = s.advance len := by
  rw [State.advance, State.setLane_lane]
  exact State.setLane_setLaneAt _ _ _

theorem State.Streams.noStreams {s t : State} (h : t.Streams s.cur s.lane.streamcfg) (hs : s.lane.noStreams) : t.lane.noStreams := by
  intro n
  have hcfg : t.lane.streamcfg = s.lane.streamcfg := by rw [State.lane, h.1]; exact h.2
  rw [← hs n]
  unfold Lane.streamOf
  simp only [hcfg]

end Sys2Proof.Machine

namespace Sys2Proof.Machine

/-! Checks and reads of the elements, for every state. -/

theorem State.checkElem_keeps {P : State → Prop} (hP : AccessInvariant P) {s : State} (h : P s) (a : Word) (e : Nat) (k : Access) :
    Ends P Prod.fst (s.checkElem a e k) := by
  have hc := State.checkAccess_keeps hP h s.cur a e k
  unfold State.checkElem
  split
  · next x hx => exact hc.of_error hx
  · next t g ht =>
    have ht := hc.of_ok ht
    split
    · next win off _ =>
      split
      · exact ht
      · have hw := State.windowRead_keeps hP ht t.cur a win off e
        split
        · next x hx => exact hw.of_error hx
        · next u x hu => exact hw.of_ok hu
    · exact ht

theorem State.elemStop_state (s : State) (as : List Word) (e : Nat) (k : Access) (x : Stop) : (s.elemStop as e k x).state = x.state := by
  cases x <;> rfl

theorem State.checkElems_keeps {P : State → Prop} (hP : AccessInvariant P) {s : State} (h : P s) (e : Nat) (k : Access) (addr : Nat → Word)
    (js : List Nat) : Ends P Prod.fst (s.checkElems e k addr js) := by
  induction js generalizing s with
  | nil => exact h
  | cons j js ih =>
    have hc := State.checkElem_keeps hP h (addr j) e k
    unfold State.checkElems
    split
    · next x hx =>
      show P (State.elemStop s _ e k x).state
      rw [State.elemStop_state]
      exact hc.of_error hx
    · next t v ht =>
      have hcs := ih (hc.of_ok ht)
      split
      · next x hx => exact hcs.of_error hx
      · next u vs hu =>
        have hu := hcs.of_ok hu
        exact hu

theorem State.readElems_keeps {P : State → Prop} (hP : AccessInvariant P) {s : State} (h : P s) (e : Nat) (addr : Nat → Word)
    (found : List (Nat × Nat)) (js : List Nat) : P (s.readElems e addr found js).1 := by
  induction js generalizing s with
  | nil => exact h
  | cons j js ih =>
    have hl := State.loadBits_keeps hP h s.cur (addr j) e
    unfold State.readElems
    dsimp only
    refine ih ?_
    split
    · exact h
    · split
      · next t x ht => exact hl.of_ok ht
      · exact h

/-! A load and a store of a vector, without streams. -/

section Instr

variable {s : State} (h : s.lane.noStreams) (srcs : List VReg) (d : VReg) (e : Nat) (m : MReg) {addr : Lane → Nat → Word}
include h

theorem State.vload_stop {x : Stop} (hc : s.checkElems e .load (addr s.lane) (activeElems (s.lane.m m) (256 / e)) = .error x) :
    s.vload srcs d e m addr = .error x := State.vecRun_stop h _ _ _ hc

theorem State.vstore_stop {x : Stop} (hc : s.checkElems e .store (addr s.lane) (activeElems (s.lane.m m) (256 / e)) = .error x) :
    s.vstore srcs d e m addr = .error x := State.vecRun_stop h _ _ _ hc

/-- A load writes the elements that it read and keeps the others (R115, R123). -/
theorem State.vload_done {u z : State} {found xs : List (Nat × Nat)}
    (hc : s.checkElems e .load (addr s.lane) (activeElems (s.lane.m m) (256 / e)) = .ok (u, found))
    (hr : u.readElems e (addr s.lane) found (activeElems (s.lane.m m) (256 / e)) = (z, xs)) :
    s.vload srcs d e m addr = .ok (z.writeV d (vmerge e (s.lane.m m) (s.lane.v d) (fun j => Table.get 0 xs j))) := by
  have hP := State.streams_accessInvariant s.cur s.lane.streamcfg
  have hu := (State.checkElems_keeps hP (s := s) ⟨rfl, rfl⟩ e .load (addr s.lane) (activeElems (s.lane.m m) (256 / e))).of_ok hc
  have hz := State.readElems_keeps hP hu e (addr s.lane) found (activeElems (s.lane.m m) (256 / e))
  rw [hr] at hz
  refine (State.vecRun_done h _ _ hc (out := ⟨[vout d e (s.lane.m m) (s.lane.v d) (fun i => Table.get 0 xs i)], id⟩) (z := z) ?_).trans ?_
  · dsimp only
    rw [hr]
  · show Except.ok ((z.setLane (z.lane.setVecs [_])).advance 32) = _
    rw [vout, Lane.setVecs_one (hz.noStreams h)]
    rfl

/-- A store sends its elements on their way, in increasing order (R123). -/
theorem State.vstore_done {u : State} {found : List (Nat × Nat)}
    (hc : s.checkElems e .store (addr s.lane) (activeElems (s.lane.m m) (256 / e)) = .ok (u, found)) :
    s.vstore srcs d e m addr =
      .ok (((activeElems (s.lane.m m) (256 / e)).foldl (fun t j => t.storeElem (addr s.lane j) e (s.el d e j)) u).advance 32) := by
  refine (State.vecRun_done h _ _ hc rfl).trans ?_
  exact congrArg Except.ok (State.setLane_advance _ _)

end Instr

/-! Elements at ordinary addresses. -/

theorem decodeWindow_coh {a : Word} {off : Nat} (h : decodeWindow a = some (.coh off)) : off < 2 ^ 29 := by
  unfold decodeWindow at h
  simp only at h
  split_ifs at h with h63 h0 h0' hc h1 hd h2 hco hlow hhi h8 <;> simp at h
  simp [bits] at h
  omega

/-- No address that names a memory without translation names a PCI Express window (R306). -/
theorem State.wordAt_not_pcie {s : State} {a : Word} {p : Place} (ha : decodeWindow a = some p) (hp : p.direct = true) :
    homeOf (s.wordAt p) ≠ .pcie := by
  have hspad (hs : p.isSpad = true) : homeOf (s.wordAt p) ≠ .pcie := by
    obtain ⟨⟨c, hc⟩, -⟩ := State.wordAt_spad (s := s) ha hs
    rw [hc]
    simp
  cases p with
  | raw off | global c off => exact hspad rfl
  | coh off =>
    have hoff := decodeWindow_coh ha
    have hlt : s.wordAt (.coh off) < Config.cohBase + Config.cohBytes := by
      simp only [State.wordAt, Place.byteAddr, Config.cohBase, Config.cohBytes]
      omega
    unfold homeOf
    split_ifs <;> simp
  | trans | fmt win off | dev off => cases hp

section Plain

variable {s : State} {a : Word} {e : Nat} {p : Place}

/-- The element's width does not make a load of the control area of it. -/
theorem State.checkElem_plain {k : Access} (hk : k = .load ∨ k = .store) (he : e ≠ 64) (h : s.plain a e p) :
    s.checkElem a e k = .ok (s, none) := by
  have ⟨_, hp, haligned, _⟩ := h
  have hordinary : (k == .load && e == 64) = false := by simp [he]
  have hkind : (k == .amo || k == .red) = false ∧ accTagged k = false := by obtain rfl | rfl := hk <;> exact ⟨rfl, rfl⟩
  have hcheck : s.checkAccess s.cur a e k = .ok (s, s.targetOf p a) := by
    refine State.checkAccess_plain (hordinary ▸ h) (order3_direct hp _ hkind.2) ?_
    rw [order4_direct hp _ _ _ hkind.1 hkind.2, haligned]
    rfl
  unfold State.checkElem
  cases p with
  | raw off | global c off | coh off => simp only [hcheck, State.targetOf]
  | trans | fmt win off | dev off => cases hp

theorem State.checkElems_plain {k : Access} (hk : k = .load ∨ k = .store) (he : e ≠ 64) {addr : Nat → Word} {pl : Nat → Place} :
    ∀ js : List Nat, (∀ j ∈ js, s.plain (addr j) e (pl j)) → s.checkElems e k addr js = .ok (s, [])
  | [], _ => rfl
  | j :: js, h => by
    have hj := State.checkElem_plain hk he (h j List.mem_cons_self)
    have hjs := State.checkElems_plain hk he js fun i hi => h i (List.mem_cons_of_mem j hi)
    simp only [State.checkElems, hj, hjs, Option.map_none, Option.toList_none, List.nil_append]

/-- Ordinary elements are read as they stand, and nothing changes (R99, R123). -/
theorem State.readElems_plain (he : 0 < e) (he' : e ≠ 64) {addr : Nat → Word} {pl : Nat → Place} :
    ∀ js : List Nat, (∀ j ∈ js, s.plain (addr j) e (pl j)) → s.readElems e addr [] js =
      (s, js.map fun j => (j, fieldOf (s.peek (s.wordAt (pl j))) ((addr j).toNat % 64) e))
  | [], _ => rfl
  | j :: js, h => by
    have hordinary : (e == 64) = false := by simp [he']
    have hj := State.loadBits_plain he (hordinary ▸ h j List.mem_cons_self)
    have hjs := State.readElems_plain he he' js fun i hi => h i (List.mem_cons_of_mem j hi)
    simp only [State.readElems, Table.find, hj, hjs, List.map_cons]

/-- The checks of a posted store to a memory named directly do not depend on what is in flight (R27). -/
theorem State.fates_store (ha : decodeWindow a = some p) (hp : p.direct = true) (haligned : aligned a e = true) :
    s.fates s.cur a e .store = .ok (s, s.targetOf p a) := by
  have h4 : order4 (decide (Config.mgmtCore ≤ s.cur.core)) p a e .store = false := by
    rw [order4_direct hp _ _ _ rfl rfl, haligned]
    rfl
  simp only [State.fates, State.resolve_direct ha hp (order3_direct hp _ rfl) h4]
  rfl

/-- An element stored at a memory named directly joins the accesses in flight, at its own word and address (R123). -/
theorem State.storeElem_direct (ha : decodeWindow a = some p) (hp : p.direct = true) (haligned : aligned a e = true) (x : Nat) :
    ∃ q : Posted, s.storeElem a e x = s.withInflight (s.inflight ++ [q]) ∧
      (q.pa, q.op, q.addr) = (s.wordAt p, WriteOp.store (maskAt (a.toNat % 64) e) (placeAt (a.toNat % 64) e x), a) := by
  obtain ⟨q, hpost, hpa, hop, -, haddr, -⟩ := s.post_inflight s.cur .lane s.turn a (g := s.targetOf p a)
    (.store (maskAt (a.toNat % 64) e) (placeAt (a.toNat % 64) e x)) true (State.wordAt_not_pcie ha hp)
  refine ⟨q, ?_, by rw [hpa, hop, haddr]; rfl⟩
  unfold State.storeElem
  rw [State.fates_store ha hp haligned]
  cases p with
  | raw off | global c off | coh off => exact hpost
  | trans | fmt win off | dev off => cases hp

theorem State.storeElems_direct {addr : Nat → Word} {pl : Nat → Place} (x : Nat → Nat) :
    ∀ (js : List Nat) (t : State), t.cur = s.cur → (∀ j ∈ js, s.plain (addr j) e (pl j)) → ∃ qs : List Posted,
      js.foldl (fun t j => t.storeElem (addr j) e (x j)) t = t.withInflight (t.inflight ++ qs) ∧
      qs.map (fun q => (q.pa, q.op, q.addr)) = js.map fun j =>
        (s.wordAt (pl j), WriteOp.store (maskAt ((addr j).toNat % 64) e) (placeAt ((addr j).toNat % 64) e (x j)), addr j)
  | [], t, _, _ => ⟨[], by rw [List.append_nil]; rfl, rfl⟩
  | j :: js, t, hcur, h => by
    have ⟨ha, hp, haligned, _⟩ := h j List.mem_cons_self
    obtain ⟨q, hq, hqj⟩ := State.storeElem_direct (s := t) ha hp haligned (x j)
    obtain ⟨qs, hqs, hmap⟩ := State.storeElems_direct x js (t.withInflight (t.inflight ++ [q])) hcur
      fun i hi => h i (List.mem_cons_of_mem j hi)
    have hword : t.wordAt (pl j) = s.wordAt (pl j) := by rw [State.wordAt, hcur, State.wordAt]
    refine ⟨q :: qs, ?_, ?_⟩
    · rw [List.foldl_cons, hq, hqs]
      show (t.withInflight _).withInflight (t.inflight ++ [q] ++ qs) = _
      rw [List.append_assoc]
      rfl
    · rw [List.map_cons, List.map_cons, hmap, hqj, hword]

end Plain

end Sys2Proof.Machine

namespace Sys2Proof.Machine

/-- Element widths are 8, 16 and 32 bits (R49). -/
theorem viewBits_bounds (v : View) : 0 < viewBits v ∧ viewBits v ≠ 64 := by cases v <;> decide

/-- An element of a masked result (R115). -/
theorem vget_vmerge (e : Nat) (m : BitVec 32) (old : VWord) (f : Nat → Nat) {j : Nat} (hj : j < 256 / e) :
    vget (vmerge e m old f) e j = if m.toNat.testBit j then f j % 2 ^ e else vget old e j := by
  unfold vmerge
  rw [vget_vmake _ hj]
  split
  · rfl
  · exact Nat.mod_mod _ _

theorem Table.get_map {js : List Nat} (f : Nat → Nat) {j : Nat} (hj : j ∈ js) : Table.get 0 (js.map fun i => (i, f i)) j = f j := by
  have hfind : Table.find (js.map fun i => (i, f i)) j = some (f j) := by
    induction js with
    | nil => cases hj
    | cons i js ih =>
      by_cases hi : i = j
      · simp [Table.find, hi]
      · simpa [Table.find, hi] using ih ((List.mem_cons.mp hj).resolve_left (Ne.symm hi))
  rw [Table.get, hfind]
  rfl

theorem mem_activeElems {m : BitVec 32} {n j : Nat} (hj : j < n) (h : m.toNat.testBit j = true) : j ∈ activeElems m n :=
  List.mem_filter.mpr ⟨List.mem_range.mpr hj, h⟩

/-- Writing the generator state that a lane has changes no completion. -/
theorem State.writeV_setSeed (s : State) (d : VReg) (x : VWord) : (setSeed s.lane.rseed s).writeV d x = s.writeV d x := by
  show ((s.setLane s.lane).setV d x).advance 32 = _
  have hset : (s.setLane s.lane).setV d x = s.setV d x := by
    rw [State.setV, State.setLane_lane]
    exact State.setLane_setLaneAt _ _ _
  rw [hset, State.writeV]

/-- A completion that writes nothing changes the lane's progress alone. -/
theorem Lane.advance_progress (l : Lane) (len : Nat) : ({ (l.advance len).progressOf l with sreg := l.sreg } : Lane) = l := by
  cases l
  rfl

/-- `i` is a vector load into `d` under `m` with the element addresses `addr` (R123). -/
def State.VectorLoad (s : State) (i : Instr) (d : VReg) (e : Nat) (m : MReg) (addr : Nat → Word) : Prop :=
  ∃ (srcs : List VReg) (f : Lane → Nat → Word), f s.lane = addr ∧ exec i s = finish i (s.vload srcs d e m f)

/-- `i` is a vector store from `d` under `m` with the element addresses `addr` (R123). -/
def State.VectorStore (s : State) (i : Instr) (d : VReg) (e : Nat) (m : MReg) (addr : Nat → Word) : Prop :=
  ∃ (srcs : List VReg) (f : Lane → Nat → Word), f s.lane = addr ∧ exec i s = finish i (s.vstore srcs d e m f)

section Elements

variable {s : State} {i : Instr} {d : VReg} {e : Nat} {m : MReg} {addr : Nat → Word} (h : s.lane.noStreams)
include h

/-- Once its checks pass, a vector load writes what it reads (R116, R123). -/
theorem State.VectorLoad.exec_done (hi : s.VectorLoad i d e m addr) {u z : State} {found xs : List (Nat × Nat)}
    (hc : s.checkElems e .load addr (activeElems (s.lane.m m) (256 / e)) = .ok (u, found))
    (hr : u.readElems e addr found (activeElems (s.lane.m m) (256 / e)) = (z, xs)) :
    exec i s = .next (z.writeV d (vmerge e (s.lane.m m) (s.lane.v d) (fun j => Table.get 0 xs j))) := by
  obtain ⟨srcs, f, rfl, hexec⟩ := hi
  rw [hexec, State.vload_done h srcs d e m hc hr, finish_ok]

/-- Once its checks pass, a vector store sends its elements on their way (R116, R123). -/
theorem State.VectorStore.exec_done (hi : s.VectorStore i d e m addr) {u : State} {found : List (Nat × Nat)}
    (hc : s.checkElems e .store addr (activeElems (s.lane.m m) (256 / e)) = .ok (u, found)) :
    exec i s =
      .next (((activeElems (s.lane.m m) (256 / e)).foldl (fun t j => t.storeElem (addr j) e (s.el d e j)) u).advance 32) := by
  obtain ⟨srcs, f, rfl, hexec⟩ := hi
  rw [hexec, State.vstore_done h srcs d e m hc, finish_ok]

/-- A vector load or store whose checks fail ends as they do (R116). -/
theorem State.VectorLoad.exec_stop (hi : s.VectorLoad i d e m addr) {x : Stop}
    (hc : s.checkElems e .load addr (activeElems (s.lane.m m) (256 / e)) = .error x) : exec i s = finish i (.error x) := by
  obtain ⟨srcs, f, rfl, hexec⟩ := hi
  rw [hexec, State.vload_stop h srcs d e m hc]

theorem State.VectorStore.exec_stop (hi : s.VectorStore i d e m addr) {x : Stop}
    (hc : s.checkElems e .store addr (activeElems (s.lane.m m) (256 / e)) = .error x) : exec i s = finish i (.error x) := by
  obtain ⟨srcs, f, rfl, hexec⟩ := hi
  rw [hexec, State.vstore_stop h srcs d e m hc]

variable (he' : e ≠ 64) {pl : Nat → Place} (hpl : ∀ j ∈ activeElems (s.lane.m m) (256 / e), s.plain (addr j) e (pl j))
include he' hpl

/-- A vector load at ordinary addresses gives each active element the stored bits and keeps the others (R115, R123). -/
theorem State.VectorLoad.exec_plain (hi : s.VectorLoad i d e m addr) (he : 0 < e) :
    s.Elementwise i s.lane.rseed d e (fun j => (s.lane.m m).getLsbD j)
      (fun j => fieldOf (s.peek (s.wordAt (pl j))) ((addr j).toNat % 64) e) := by
  have hdone := hi.exec_done h (State.checkElems_plain (.inl rfl) he' _ hpl) (State.readElems_plain he he' _ hpl)
  refine ⟨_, hdone.trans (congrArg Host.Outcome.next (State.writeV_setSeed s d _).symm), fun j hj => ?_⟩
  rw [vget_vmerge e _ _ _ hj]
  show _ = if (s.lane.m m).toNat.testBit j = true then _ else _
  split
  · next hact =>
    rw [Table.get_map _ (mem_activeElems hj hact)]
    exact Nat.mod_eq_of_lt (fieldOf_lt _ _ _)
  · rfl

/-- A vector store at ordinary addresses leaves memory and registers, with one access in flight for each active element (R123). -/
theorem State.VectorStore.exec_plain (hi : s.VectorStore i d e m addr) (hsettled : s.settled) : ∃ t, exec i s = .next t ∧ t.mem = s.mem ∧
    t.SameButScalars s ∧ (∀ r, t.s r = s.s r) ∧ t.inflight.map (fun p => (p.pa, p.op, p.addr)) =
      (activeElems (s.lane.m m) (256 / e)).map (fun j => (s.wordAt (pl j),
        WriteOp.store (maskAt ((addr j).toNat % 64) e) (placeAt ((addr j).toNat % 64) e (s.el d e j)), addr j)) := by
  obtain ⟨qs, hqs, hmap⟩ := State.storeElems_direct (s := s) (s.el d e) _ s rfl hpl
  refine ⟨_, hi.exec_done h (State.checkElems_plain (.inr rfl) he' _ hpl), ?_⟩
  rw [hqs, hsettled.1, List.nil_append]
  have hlane : ((s.withInflight qs).advance 32).lane = s.lane.advance 32 := State.advance_lane _ _
  refine ⟨rfl, ?_, fun r => ?_, hmap⟩
  · unfold State.SameButScalars
    rw [hlane]
    exact Lane.advance_progress _ _
  · rw [State.s, hlane]
    rfl

end Elements

/-- Settles O44: the five instructions are one load and one store of elements (`State.VectorLoad`, `State.VectorStore`), which end as
their checks do, and at ordinary addresses read and post one field for each active element. -/
theorem vectorMemoryResults : Obligations.VectorMemoryResults := by
  unfold Obligations.VectorMemoryResults
  intro s d b a q v m i e addr st hns he hi k js
  subst he
  obtain ⟨hpos, h64⟩ := viewBits_bounds v
  have hcases : (st = false ∧ s.VectorLoad i d (viewBits v) m addr) ∨ (st = true ∧ s.VectorStore i d (viewBits v) m addr) := by
    obtain ⟨rfl, rfl, rfl⟩ | ⟨rfl, rfl, rfl⟩ | ⟨rfl, rfl, rfl⟩ | ⟨rfl, rfl, rfl⟩ | ⟨rfl, rfl, rfl⟩ := hi
    · exact .inl ⟨rfl, _, addrUnit (s.s a) (viewBits v), rfl, rfl⟩
    · exact .inl ⟨rfl, _, fun _ j => s.s a + s.s q * word j, rfl, rfl⟩
    · exact .inl ⟨rfl, _, addrIndex (s.s a) (viewBits v) b, rfl, rfl⟩
    · exact .inr ⟨rfl, _, addrUnit (s.s a) (viewBits v), rfl, rfl⟩
    · exact .inr ⟨rfl, _, addrIndex (s.s a) (viewBits v) b, rfl, rfl⟩
  obtain ⟨rfl, hload⟩ | ⟨rfl, hstore⟩ := hcases
  · exact ⟨fun u found hc => ⟨fun _ z xs hr => hload.exec_done hns hc hr, nofun⟩, fun u c x hc => hload.exec_stop hns hc,
      fun pl _ hpl => ⟨fun _ => hload.exec_plain hns h64 hpl hpos, nofun⟩⟩
  · exact ⟨fun u found hc => ⟨nofun, fun _ => hstore.exec_done hns hc⟩, fun u c x hc => hstore.exec_stop hns hc,
      fun pl hsettled hpl => ⟨nofun, fun _ => hstore.exec_plain hns h64 hpl hsettled⟩⟩

end Sys2Proof.Machine

namespace Sys2Proof.Machine

/-! Every step keeps memory and tags in their canonical form: the operations of a home, and what the parts of a step can end in. -/

/-- A state with the memory and the tags of a canonical one is canonical. -/
theorem State.memoryOk.of_eq {s t : State} (h : s.memoryOk) (hmem : t.mem = s.mem) (htags : t.tags = s.tags) : t.memoryOk := by
  unfold State.memoryOk
  rw [hmem, htags]
  exact h

/-- Steps that each keep memory and tags canonical keep them so. -/
theorem State.memoryOk.foldl {α : Type} {f : State → α → State} {s : State} (h : s.memoryOk)
    (hf : ∀ {t : State}, t.memoryOk → ∀ x, (f t x).memoryOk) (xs : List α) : (xs.foldl f s).memoryOk :=
  foldl_keeps f State.memoryOk (fun _ x ht => hf ht x) xs s h

theorem State.memoryOk.foldl_fst {α β : Type} {f : State × β → α → State × β}
    (hf : ∀ {x : State × β}, x.1.memoryOk → ∀ a, (f x a).1.memoryOk) {x : State × β} (h : x.1.memoryOk) (as : List α) :
    (as.foldl f x).1.memoryOk := by
  induction as generalizing x with
  | nil => exact h
  | cons a as ih => exact ih (hf h a)

theorem State.memoryOk.getD {s : State} (h : s.memoryOk) {x : Option State} (hx : ∀ {t}, x = some t → t.memoryOk) :
    (x.getD s).memoryOk := by
  cases x with
  | none => exact h
  | some t => exact hx rfl

theorem State.ctlWrite_tags (s : State) (off : Nat) (x : Word) : (s.ctlWrite off x).tags = s.tags := by
  unfold State.ctlWrite
  by_cases h : off < Config.entryOff
  · simp only [h, if_true]
    split <;> rfl
  · simp only [h, if_false]
    split
    · split <;> rfl
    all_goals rfl

theorem State.setHome_tags (s : State) (pa : Nat) (v : Word) (p : Nat) : (s.setHome pa v p).tags = s.tags := by
  have hwritten (t : State) : (t.markWritten pa).tags = t.tags := by
    unfold State.markWritten
    split <;> rfl
  have hdirty : (s.markDirty pa p).tags = s.tags := by
    unfold State.markDirty
    split
    · split <;> rfl
    · rfl
  unfold State.setHome
  split
  · exact s.ctlWrite_tags _ _
  · rfl
  · rfl
  · exact (hwritten _).trans hdirty

theorem State.setTag_memoryOk {s : State} (h : s.memoryOk) (pa : Nat) (t : BitVec 4) : (s.setTag pa t).memoryOk := by
  obtain ⟨hmem, hsorted, hlisted⟩ := h
  rw [List.all_eq_true] at hlisted
  refine ⟨hmem, ?_⟩
  rw [List.all_eq_true]
  unfold State.setTag Table.setD
  dsimp only
  split
  · exact ⟨Table.sorted_del _ hsorted, fun x hx => hlisted x (Table.mem_del hx)⟩
  · next hne =>
    refine ⟨Table.sorted_put _ _ hsorted, fun x hx => ?_⟩
    rcases Table.mem_put hx with rfl | hx
    · simpa using hne
    · exact hlisted x hx

/-- Accesses keep memory and tags canonical: what a home stores is in canonical form, and nothing else writes them. -/
theorem State.memoryOk_access : AccessInvariant State.memoryOk where
  setHome {s} h pa v p := ⟨State.setHome_wf h.1 pa v p, by rw [State.setHome_tags]; exact h.2⟩
  setTag h := State.setTag_memoryOk h
  core h _ _ _ := h.of_eq rfl rfl
  lane h r l _ := h.of_eq (State.setLaneAt_mem _ _ _) (State.setLaneAt_tags _ _ _)
  rest h hmem htags _ _ := h.of_eq hmem htags

/-- Whatever next state an outcome gives has a property. -/
def Leads (P : State → Prop) : Host.Outcome State Fault Refusal → Prop
  | .next t => P t
  | _ => True

theorem Ends.done {P : State → Prop} {α : Type} {f : α → State} {a : α} (h : P (f a)) : Ends P f (.ok a) := h

theorem Ends.trap {P : State → Prop} {α : Type} {f : α → State} {s : State} (h : P s) (c : BitVec 8) (v : Word) :
    Ends P f (.error (.trap s c v)) := h

theorem Ends.wait {P : State → Prop} {α : Type} {f : α → State} {s : State} (h : P s) (c : BitVec 4) :
    Ends P f (.error (.wait s c)) := h

/-! The functions that set one part of a state. -/

section

variable {s : State} (h : s.memoryOk)
include h

end

end Sys2Proof.Machine

namespace Sys2Proof.Machine

/-! Every step keeps memory and tags in their canonical form: starts, tasks and traps. Each lemma says that one function keeps the form; its
proof names the lemmas about the functions it calls. -/

section

variable {s : State} (h : s.memoryOk)
include h

/-! The functions that set one part of a state, and the start of a part (R340, R344 to R350). -/

omit h in
theorem mapNext_leads {P : State → Prop} {f : State → State} {x : Host.Outcome State Fault Refusal} (hx : Leads P x)
    (hf : ∀ {t : State}, P t → P (f t)) : Leads P (mapNext f x) := by
  cases x with
  | next t => exact hf hx
  | fault _ => exact trivial
  | refused _ => exact trivial

theorem State.setCore_memoryOk (c : Nat) (k : Core) : (s.setCore c k).memoryOk := h

theorem State.setPart_memoryOk (p : Nat) (x : Part) : (s.setPart p x).memoryOk := h

theorem State.setHome_memoryOk (pa : Nat) (v : Word) (p : Nat) : (s.setHome pa v p).memoryOk :=
  State.memoryOk_access.setHome h pa v p

theorem State.setDie_memoryOk (n : Nat) (d : Die) : (s.setDie n d).memoryOk := h

theorem State.setLaneAt_memoryOk (r : LaneRef) (l : Lane) : (s.setLaneAt r l).memoryOk := h

theorem State.encoderStore_memoryOk (core : Nat) : (s.encoderStore core).memoryOk := by
  have hr (ctl : Nat) := State.readHome_keeps State.memoryOk_access h ctl 0 none
  unfold State.encoderStore
  dsimp only
  split
  · exact h
  · exact h
  · split
    · split
      · exact hr _
      · exact State.storeAt_keeps State.memoryOk_access (State.setCore_memoryOk (hr _) ..) ..
    · exact State.storeAt_keeps State.memoryOk_access (State.setCore_memoryOk (hr _) ..) ..
    · exact State.storeAt_keeps State.memoryOk_access (State.setCore_memoryOk (hr _) ..) ..

theorem State.encoderStores_memoryOk (core n : Nat) : (s.encoderStores core n).memoryOk := by
  induction n generalizing s with
  | zero => exact h
  | succ n ih => exact ih (State.encoderStore_memoryOk h core)

theorem State.encode_memoryOk : s.encode.memoryOk := h.foldl (fun ht k => State.encoderStores_memoryOk ht k.1 _) _

theorem State.pass_memoryOk (who : Option (Nat × Nat)) : (s.pass who).memoryOk := State.encode_memoryOk h ..

theorem State.logRecord_memoryOk (kind : Nat) (a b : Word) : (s.logRecord kind a b).memoryOk := h

theorem State.logStart_memoryOk : s.logStart.memoryOk := h

omit h in
/-- Memory below an address is canonical where all of it is. -/
theorem Memory.wf_below {m : List Host.Cell} (hm : Memory.wf m = true) (a : Nat) : Memory.wf (m.filter (fun c => c.1 < a)) = true := by
  rw [Memory.wf_iff] at hm ⊢
  obtain ⟨hsorted, hlisted⟩ := hm
  refine ⟨?_, fun c hc => hlisted c (List.mem_filter.1 hc).1⟩
  clear hlisted
  induction m with
  | nil => rfl
  | cons c m ih =>
    obtain ⟨hsorted, hlt⟩ := Table.head_lt hsorted
    rw [List.filter_cons]
    split
    · exact Table.sorted_cons (ih hsorted) fun x hx => hlt x (List.mem_filter.1 hx).1
    · exact ih hsorted

theorem State.cleared_memoryOk (warm : Bool) : (s.cleared warm).memoryOk := by
  cases warm with
  | true => exact ⟨Memory.wf_below h.1 _, rfl, rfl⟩
  | false => exact ⟨rfl, rfl, rfl⟩

theorem State.beginStart_memoryOk (warm : Bool) : (s.beginStart warm).memoryOk := by
  grind [State.beginStart, State.memoryOk, !State.logStart_memoryOk, !State.cleared_memoryOk]

theorem execPowerOn_memoryOk : Leads State.memoryOk (execPowerOn s) := by
  grind [execPowerOn, Leads, !State.beginStart_memoryOk]

/-! The tasks of a die (R255 to R276). -/

theorem State.choose_memoryOk : s.choose.1.memoryOk := by
  unfold State.choose
  split <;> exact h

theorem State.atTick_memoryOk (die : Nat) (t : Word) {f : State → State} (hf : ∀ {u : State}, u.memoryOk → (f u).memoryOk) :
    (s.atTick die t f).memoryOk := hf (u := s.setDie die _) h

theorem State.resolvePlacement_memoryOk (die : Nat) (a : Attempt) : (s.resolvePlacement die a).1.memoryOk := by
  grind [State.resolvePlacement, !State.setDie_memoryOk]

theorem State.updTask_memoryOk (die : Nat) (id : BitVec 16) (f : Task → Task) : (s.updTask die id f).memoryOk := h

theorem State.resolveSteal_memoryOk (die : Nat) (a : Attempt) (sector : Nat) : (s.resolveSteal die a sector).memoryOk := by
  grind [State.resolveSteal, !State.updTask_memoryOk, !State.setDie_memoryOk]

theorem State.resolveAttempt_memoryOk (die : Nat) : (s.resolveAttempt die).1.memoryOk := by
  grind [State.resolveAttempt, !State.setDie_memoryOk, !State.resolvePlacement_memoryOk, !State.resolveSteal_memoryOk]

theorem State.untake_memoryOk (die : Nat) (t : Task) : (s.untake die t).memoryOk := h

theorem State.demand_memoryOk (p : Nat) : (s.demand p).memoryOk := h

theorem State.holdOrder_memoryOk (die k : Nat) (o : Order) (p : Nat) : (s.holdOrder die k o p).memoryOk := by
  grind [State.holdOrder, !State.setDie_memoryOk, !State.demand_memoryOk]

theorem State.sendHw_memoryOk (src dest ctx cls ptag : Nat) (body : List Word) : (s.sendHw src dest ctx cls ptag body).memoryOk := h

theorem State.postNotice_memoryOk (r : LaneRef) (body : List Word) : (s.postNotice r body).memoryOk := h

theorem State.drainPath_memoryOk (r : LaneRef) (path : Nat) : (s.drainPath r path).memoryOk := State.drain_keeps State.memoryOk_access h ..

theorem State.tableEntry_memoryOk (r : LaneRef) (n : Nat) : Ends State.memoryOk Prod.fst (s.tableEntry r n) := by
  grind [State.tableEntry, Ends, !State.readBits_keeps State.memoryOk_access]

theorem State.poolCheck_memoryOk (r : LaneRef) (t : Task) : Ends State.memoryOk Prod.fst (s.poolCheck r t) := by
  grind [State.poolCheck, Ends, Stop.state, !State.homeWord_keeps State.memoryOk_access, !State.tableEntry_memoryOk]

theorem State.ringPut_memoryOk (base ctl nsz size : Nat) (ws : List Word) (p : Nat) : (s.ringPut base ctl nsz size ws p).1.memoryOk := by
  have hr := State.readHome_keeps State.memoryOk_access h ctl p none
  unfold State.ringPut
  dsimp only
  split
  · exact hr
  · exact State.storeAt_keeps State.memoryOk_access
      (State.memoryOk.foldl hr (fun ht w => State.storeAt_keeps State.memoryOk_access ht _ _ _ _) _) _ _ _ _

theorem State.stamp_memoryOk (die : Nat) (t : Task) : (s.stamp die t).memoryOk := by
  grind [State.stamp, !State.ringPut_memoryOk]

theorem State.storeAs_memoryOk (r : LaneRef) (p : BitVec 8) (a v : Word) {t : State} (he : s.storeAs r p a v = some t) : t.memoryOk := by
  grind [State.storeAs, Ends, State.memoryOk, !State.setLaneAt_memoryOk, !State.resolve_keeps State.memoryOk_access,
    !State.storeAt_keeps State.memoryOk_access]

theorem State.taskNotice_memoryOk (die : Nat) (t : Task) (reason anchor : Nat) (w2 extra : Word) :
    (s.taskNotice die t reason anchor w2 extra).memoryOk :=
  h

theorem State.writeBack_memoryOk (die : Nat) (t : Task) (val : Nat) : (s.writeBack die t val).memoryOk := by
  grind [State.writeBack, → State.storeAs_memoryOk, !State.taskNotice_memoryOk, !State.countDrop_keeps State.memoryOk_access]

theorem State.abandonMark_memoryOk (die : Nat) (t : Task) (reason anchor : Nat) (w2 extra : Word) :
    (s.abandonMark die t reason anchor w2 extra).memoryOk := by
  grind [State.abandonMark, !State.demand_memoryOk, !State.setDie_memoryOk, !State.stamp_memoryOk, !State.writeBack_memoryOk,
    !State.taskNotice_memoryOk]

theorem State.flagAbandon_memoryOk (die : Nat) (id : BitVec 16) : (s.flagAbandon die id).memoryOk := h

theorem State.applyDoom_memoryOk (die : Nat) (x : Doom) : (s.applyDoom die x).memoryOk := by
  grind [State.applyDoom, !State.abandonMark_memoryOk, !State.flagAbandon_memoryOk]

theorem State.abandon_memoryOk (die : Nat) (xs : List Doom) : (s.abandon die xs).memoryOk :=
  h.foldl (fun ht x => State.applyDoom_memoryOk ht die x) _

theorem State.openPool_memoryOk (die : Nat) (t : Task) : (s.openPool die t).memoryOk := by
  grind [State.openPool, Ends, !State.poolCheck_memoryOk, !State.abandon_memoryOk, !State.setLaneAt_memoryOk, !State.updTask_memoryOk,
    !State.setDie_memoryOk]

theorem State.sendLaunches_memoryOk (die : Nat) (t : Task) (sector : Nat) : (s.sendLaunches die t sector).memoryOk := by
  unfold State.sendLaunches
  split <;> exact h

theorem State.endTaken_memoryOk (die : Nat) : (s.endTaken die).memoryOk := by
  grind [State.endTaken, !State.setDie_memoryOk, !State.untake_memoryOk, !State.holdOrder_memoryOk, !State.openPool_memoryOk,
    !State.sendLaunches_memoryOk]

theorem State.endAllTaken_memoryOk (die : Nat) : (s.endAllTaken die).memoryOk :=
  h.foldl (fun ht _ => State.endTaken_memoryOk ht die) _

theorem State.abandonInOrder_memoryOk (die : Nat) (xs : List Doom) : (s.abandonInOrder die xs).memoryOk :=
  h.foldl (fun ht x => State.applyDoom_memoryOk ht die x) _

theorem State.evaluate_memoryOk (die : Nat) : (s.evaluate die).memoryOk := by
  unfold State.evaluate
  refine State.abandonInOrder_memoryOk (State.memoryOk.foldl ?_ (fun ht x => State.flagAbandon_memoryOk ht ..) _) die _
  exact h

theorem State.evaluateDue_memoryOk (die : Nat) : (s.evaluateDue die).memoryOk :=
  State.memoryOk.foldl (s := s.setDie die _) h (fun ht _ => State.evaluate_memoryOk ht die) _

theorem State.stealTick_memoryOk (die : Nat) : (s.stealTick die).memoryOk := h

theorem State.reserve_memoryOk (die queue : Nat) : (s.reserve die queue).memoryOk := by
  grind [State.reserve, !State.setDie_memoryOk]

theorem State.beginOffer_memoryOk (die : Nat) (ns : List Nat) : (s.beginOffer die ns).memoryOk := by
  induction ns with
  | nil => exact h
  | cons n rest ih =>
    unfold State.beginOffer
    dsimp only
    split
    · exact ih
    · exact h

theorem State.workAt_memoryOk (die : Nat) (t : Word) : (s.workAt die t).memoryOk := by
  refine State.atTick_memoryOk h die t fun {u} hu => ?_
  have hr := State.resolveAttempt_memoryOk (State.endAllTaken_memoryOk hu die) die
  have hreserve {v : State} (hv : v.memoryOk) := hv.foldl (fun ht q => State.reserve_memoryOk ht die q) (List.range 8)
  grind [!State.evaluateDue_memoryOk, !State.stealTick_memoryOk, !State.setDie_memoryOk, !State.beginOffer_memoryOk]

theorem State.enqueue_memoryOk (die : Nat) (t : Task) : (s.enqueue die t).memoryOk := by
  grind [State.enqueue, !State.setDie_memoryOk, !State.abandon_memoryOk]

theorem State.makeReady_memoryOk (die : Nat) (id : BitVec 16) : (s.makeReady die id).memoryOk := by
  grind [State.makeReady, !State.setDie_memoryOk, !State.enqueue_memoryOk]

theorem State.arriveTask_memoryOk (o : Origin) (die : Nat) (x : Vector Word 8) (c : List (Nat × Nat)) (xs : List Succ) (id : BitVec 16) :
    (s.arriveTask o die x c xs id).memoryOk := by
  grind [State.arriveTask, !State.setDie_memoryOk, !State.abandon_memoryOk, !State.makeReady_memoryOk]

theorem State.arriveAll_memoryOk (die : Nat) (x : Checked) (tiles : Option (List Word)) (k : Nat) : (s.arriveAll die x tiles k).memoryOk := by
  cases tiles with
  | none => exact State.arriveTask_memoryOk h ..
  | some as => exact h.foldl (fun ht a => State.arriveTask_memoryOk ht ..) _

theorem State.takeInput_memoryOk (die : Nat) {t : State} (he : s.takeInput die = some t) : t.memoryOk := by
  unfold State.takeInput at he
  dsimp only at he
  split at he
  · cases he
  · obtain ⟨k, _, rfl⟩ := Option.map_eq_some_iff.1 he
    exact State.arriveAll_memoryOk (s := s.setDie die _) h ..
  · obtain ⟨k, _, rfl⟩ := Option.map_eq_some_iff.1 he
    exact State.setLaneAt_memoryOk (State.arriveAll_memoryOk (s := s.setDie die _) h ..) ..

theorem State.drainInput_memoryOk (die : Nat) : (s.drainInput die).memoryOk := by
  unfold State.drainInput
  dsimp only
  split
  · exact h
  · refine State.memoryOk.foldl (s := s.setDie die _) h (fun {t} ht _ => ?_) _
    exact ht.getD fun he => State.takeInput_memoryOk ht die he

theorem State.settleDie_memoryOk (die : Nat) (a : Word) (n : Nat) : (s.settleDie die a n).memoryOk := by
  induction n generalizing s a with
  | zero => exact h
  | succ n ih =>
    unfold State.settleDie
    dsimp only
    split
    · refine ih (State.atTick_memoryOk ?_ die _ fun hu => State.drainInput_memoryOk hu die) _
      exact State.workAt_memoryOk h die _
    · exact h

theorem State.caughtUp_memoryOk : s.caughtUp.memoryOk := h.foldl (fun ht d => State.settleDie_memoryOk ht d.1 0 _) _

/-! The steps of a start (R344 to R350). -/

theorem State.stepDone_memoryOk (m : Mgmt) (step : BitVec 4) : (s.stepDone m step).memoryOk := h

theorem State.chooseBank_memoryOk : s.chooseBank.memoryOk := by
  unfold State.chooseBank
  exact State.memoryOk.foldl (State.stepDone_memoryOk h _ _) (fun ht _ => State.logRecord_memoryOk ht ..) _

theorem State.selfTest_memoryOk : s.selfTest.memoryOk := by
  unfold State.selfTest
  exact State.memoryOk.foldl (State.stepDone_memoryOk h _ _) (fun ht _ => State.logRecord_memoryOk ht ..) _

theorem State.pufStep_memoryOk : s.pufStep.memoryOk := by
  grind [State.pufStep, !State.stepDone_memoryOk, !State.logRecord_memoryOk]

theorem State.release10_memoryOk : s.release10.memoryOk := h

theorem State.startStep_memoryOk : s.startStep.memoryOk := by
  grind [State.startStep, !State.chooseBank_memoryOk, !State.selfTest_memoryOk, !State.stepDone_memoryOk, !State.pufStep_memoryOk,
    !State.cleared_memoryOk, !State.logStart_memoryOk, !State.release10_memoryOk]

theorem State.drainInputs_memoryOk : s.drainInputs.memoryOk := by
  unfold State.drainInputs
  refine h.foldl (fun ht d => ?_) _
  exact State.drainInput_memoryOk ht d.1

/-! Fetches, traps and the stops of the debugger (R186 to R192, R333 to R340). -/

theorem State.trapHandler_memoryOk (r : LaneRef) : (s.trapHandler r).1.memoryOk := by
  grind [State.trapHandler, Ends, Stop.state, !State.tableEntry_memoryOk]

theorem State.fetchParcel_memoryOk (r : LaneRef) (a : Word) : Ends State.memoryOk Prod.fst (s.fetchParcel r a) := by
  grind [State.fetchParcel, Ends, !State.readBits_keeps State.memoryOk_access]

theorem State.fetchAheadFrom_memoryOk (r : LaneRef) (a : Word) (n : Nat) : (s.fetchAheadFrom r a n).1.memoryOk := by
  induction n generalizing s a with
  | zero => exact h
  | succ n ih =>
    have hf := State.fetchParcel_memoryOk h r a
    unfold State.fetchAheadFrom
    split
    · next hx => exact ih (hf.of_ok hx) _
    · exact h

theorem State.prefetch_memoryOk (r : LaneRef) (n : Nat) : (s.prefetch r n).memoryOk := by
  grind [State.prefetch, !State.fetchAheadFrom_memoryOk, !State.setLaneAt_memoryOk]

theorem State.watchTick_memoryOk (r : LaneRef) : (s.watchTick r).memoryOk := by
  unfold State.watchTick
  split <;> exact h

theorem State.drainLane_memoryOk (r : LaneRef) : (s.drainLane r).memoryOk := State.drain_keeps State.memoryOk_access h ..

theorem State.dbgStore_memoryOk (a v : Word) (tag : Bool) : (s.dbgStore a v tag).memoryOk := by
  grind [State.dbgStore, !State.merge_keeps State.memoryOk_access, !State.setTag_memoryOk, !State.reexamine_keeps State.memoryOk_access]

theorem State.dbgReply_memoryOk (raddr value : Word) (status : Nat) : (s.dbgReply raddr value status).memoryOk := by
  grind [State.dbgReply, !State.dbgStore_memoryOk]

theorem State.setDbg_memoryOk (c : Nat) (d : Debug) : (s.setDbg c d).memoryOk := h

theorem State.dbgSettleOne_memoryOk (c : Nat) (x : BitVec 4 × Word × Nat) : (s.dbgSettleOne c x).memoryOk := by
  have hdrain := h.foldl (fun ht l => State.drainLane_memoryOk ht ⟨c, l⟩) (namedLanes x.1)
  unfold State.dbgSettleOne
  dsimp only
  split
  · split
    · exact State.dbgReply_memoryOk (State.setDbg_memoryOk hdrain c _) ..
    · exact hdrain
  · exact h

theorem State.dbgSettle_memoryOk (c : Nat) : (s.dbgSettle c).memoryOk := h.foldl (fun ht x => State.dbgSettleOne_memoryOk ht c x) _

theorem State.withdraw_memoryOk (r : LaneRef) : (s.withdraw r).memoryOk := h

theorem State.trace_memoryOk (r : LaneRef) (kind : Nat) (data : Word) : (s.trace r kind data).memoryOk := by
  grind [State.trace, !State.setCore_memoryOk]

theorem State.debugHalt_memoryOk (r : LaneRef) (c : BitVec 8) (v pc : Word) : (s.debugHalt r c v pc).memoryOk := by
  grind [State.debugHalt, !State.trace_memoryOk, !State.setCore_memoryOk]

theorem State.dbgStopNow_memoryOk (r : LaneRef) : (s.dbgStopNow r).memoryOk := by
  grind [State.dbgStopNow, !State.dbgSettle_memoryOk, !State.setLaneAt_memoryOk, !State.withdraw_memoryOk, !State.debugHalt_memoryOk]

theorem execDebugStopEffect_memoryOk (core lane : Nat) : Leads State.memoryOk (execDebugStopEffect core lane s) := by
  grind [execDebugStopEffect, Leads, !State.dbgStopNow_memoryOk]

theorem State.sendReport_memoryOk (r : LaneRef) (body : List Word) : (s.sendReport r body).memoryOk := h

theorem State.parkTrap_memoryOk (r : LaneRef) (l : Lane) : (s.parkTrap r l).memoryOk := h

theorem State.enterHandler_memoryOk (r : LaneRef) (l : Lane) : (s.enterHandler r l).memoryOk := by
  grind [State.enterHandler, !State.setLaneAt_memoryOk, !State.trapHandler_memoryOk, !State.parkTrap_memoryOk]

theorem State.takeTrapAt_memoryOk (r : LaneRef) (c : BitVec 8) (v pc : Word) : (s.takeTrapAt r c v pc).memoryOk := by
  grind [State.takeTrapAt, !State.withdraw_memoryOk, !State.debugHalt_memoryOk, !State.trace_memoryOk, !State.parkTrap_memoryOk,
    !State.enterHandler_memoryOk]

theorem State.takeWatchdog_memoryOk (r : LaneRef) : (s.takeWatchdog r).memoryOk :=
  State.takeTrapAt_memoryOk (State.setLaneAt_memoryOk h ..) ..

theorem State.counting_leads (r : LaneRef) {f : State → Host.Outcome State Fault Refusal}
    (hf : ∀ {t : State}, t.memoryOk → Leads State.memoryOk (f t)) : Leads State.memoryOk (s.counting r f) := by
  unfold State.counting
  split
  · refine mapNext_leads (hf h) fun {t} ht => ?_
    split
    · exact State.takeWatchdog_memoryOk ht r
    · exact ht
  · exact hf (State.watchTick_memoryOk h r)

theorem State.afterStep_memoryOk (r : LaneRef) : (s.afterStep r).memoryOk := by
  grind [State.afterStep, !State.setLaneAt_memoryOk]

theorem State.takeTrap_memoryOk (c : BitVec 8) (v : Word) : (s.takeTrap c v).memoryOk := State.takeTrapAt_memoryOk h ..

theorem State.setLane_memoryOk (x : Lane) : (s.setLane x).memoryOk := h

theorem State.stallOn_memoryOk (i : Instr) (c : BitVec 4) : (s.stallOn i c).memoryOk := h

omit h in
theorem finish_leads (i : Instr) {x : Except Stop State} (hx : Ends State.memoryOk id x) : Leads State.memoryOk (finish i x) := by
  match x with
  | .ok _ => exact hx
  | .error (.trap _ _ _) => exact State.takeTrap_memoryOk hx ..
  | .error (.wait _ _) => exact State.stallOn_memoryOk hx ..

end

end Sys2Proof.Machine

namespace Sys2Proof.Machine

/-! Every step keeps memory and tags in their canonical form: scalar instructions. Each lemma says that one function keeps the form; its
proof names the lemmas about the functions it calls. -/

section

variable {s : State} (h : s.memoryOk)
include h

/-! Loads and stores of a lane, its command FIFOs and its device registers (R58, R99 to R102, R142). -/

theorem State.resumeAt_memoryOk (r : LaneRef) (len : Nat) : (s.resumeAt r len).memoryOk := h

theorem State.setS_memoryOk (n : Reg) (v : Word) : (s.setS n v).memoryOk := h

theorem State.post_memoryOk (r : LaneRef) (w : Writer) (grp : Nat) (a : Word) (t : Target) (op : WriteOp) (inOrder : Bool := false) :
    (s.post r w grp a t op inOrder).memoryOk := by
  unfold State.post
  dsimp only
  split <;> grind [State.memoryOk]

theorem State.postStore_memoryOk (r : LaneRef) (w : Writer) (grp : Nat) (a : Word) (t : Target) (n x : Nat) :
    (s.postStore r w grp a t n x).memoryOk :=
  State.post_memoryOk h ..

theorem State.storeBits_memoryOk (r : LaneRef) (a : Word) (n x : Nat) : Ends State.memoryOk id (s.storeBits r a n x) := by
  grind [State.storeBits, Ends, Stop.state, !State.checkAccess_keeps State.memoryOk_access, !State.postStore_memoryOk]

theorem State.completeTag_memoryOk (r : LaneRef) (k : Park) (v : Word) : (s.completeTag r k v).memoryOk := by
  unfold State.completeTag
  split <;> exact h

theorem State.complete_memoryOk (k : Park) (v : Word) : Ends State.memoryOk id (s.complete k v) := by
  unfold State.complete
  split
  · next d hr n =>
    have hx := State.readBits_keeps State.memoryOk_access h s.cur ((s.lane.h hr).slot (ctlHead v + n)) (s.lane.h hr).bits .load
    dsimp only
    split
    · next e => exact hx.of_error e
    · next e => exact State.resumeAt_memoryOk (State.setS_memoryOk (hx.of_ok e) ..) ..
  · next d hr n =>
    have hx := State.storeBits_memoryOk h s.cur ((s.lane.h hr).slot (ctlTail v + n)) (s.lane.h hr).bits
      (bits (s.s d) ((s.lane.h hr).bits - 1) 0)
    dsimp only
    split
    · next e => exact hx.of_error e
    · next e => exact State.resumeAt_memoryOk (hx.of_ok e) ..
  · exact State.setLane_memoryOk h _
  · exact State.setLane_memoryOk h _
  · exact State.completeTag_memoryOk h ..

theorem execAnswerArrival_memoryOk (core lane : Nat) : Leads State.memoryOk (execAnswerArrival core lane s) := by
  grind [execAnswerArrival, Ends, Stop.state, Leads, State.memoryOk, !finish_leads, !State.complete_memoryOk]

theorem State.release_memoryOk (r : LaneRef) (sc : Scope) : Ends State.memoryOk id (s.release r sc) := by
  grind [State.release, Ends, Stop.state, !State.drain_keeps State.memoryOk_access]

theorem State.afterFence_memoryOk (i : Instr) : Ends State.memoryOk id (s.afterFence i) := by
  grind [State.afterFence, Ends, Stop.state, !State.release_memoryOk, !State.setLane_memoryOk]

theorem State.endSpv_memoryOk (i : Instr) : (s.endSpv i).memoryOk := by
  unfold State.endSpv
  split
  · exact h
  · exact h
  · split <;> exact h

theorem State.advance_memoryOk (len : Nat) : (s.advance len).memoryOk := h

theorem State.loadTo_memoryOk (d : Reg) (a : Word) (w : Nat) (sx : Bool) (len : Nat) : Ends State.memoryOk id (s.loadTo d a w sx len) := by
  grind [State.loadTo, Ends, Stop.state, !State.loadBits_keeps State.memoryOk_access, !State.advance_memoryOk, !State.setS_memoryOk]

theorem State.releaseOpt_memoryOk (r : LaneRef) (sc : Option Scope) : Ends State.memoryOk id (s.releaseOpt r sc) := by
  cases sc with
  | none => exact h
  | some sc => exact State.release_memoryOk h r sc

theorem State.recordCheck_go_memoryOk (r : LaneRef) (a : Word) (n : Nat) : Ends State.memoryOk id (State.recordCheck.go r s a n) := by
  induction n generalizing s a with
  | zero => exact h
  | succ n ih =>
    have hc := State.checkAccess_keeps State.memoryOk_access h r a 64 .table
    unfold State.recordCheck.go
    split
    · next e => exact hc.of_error e
    · next e => exact ih (hc.of_ok e) _

theorem State.recordCheck_memoryOk (r : LaneRef) (a : Word) (n : Nat) : Ends State.memoryOk id (s.recordCheck r a n) := by
  unfold State.recordCheck
  split
  · exact h
  · split
    · exact h
    · exact State.recordCheck_go_memoryOk h r a n

theorem State.readWords_memoryOk (r : LaneRef) (a : Word) (k : Access) (n : Nat) :
    Ends State.memoryOk Prod.fst (s.readWords r a k n) := by
  induction n generalizing s a with
  | zero => exact h
  | succ n ih =>
    have hx := State.readBits_keeps State.memoryOk_access h r a 64 k
    unfold State.readWords
    split
    · next e => exact hx.of_error e
    · next e =>
      have hxs := ih (hx.of_ok e) (a + 64)
      split
      · next e => exact hxs.of_error e
      · next e => exact (hxs.of_ok e :)

theorem State.enterMatrix_memoryOk (r : LaneRef) (op : MOp) (fifo : Option Nat) : (s.enterMatrix r op fifo).1.memoryOk := h

theorem State.pushMatrix_memoryOk (r : LaneRef) (a : Word) (sc : Scope) : Ends State.memoryOk id (s.pushMatrix r a sc) := by
  have hrel := State.release_memoryOk h r sc
  unfold State.pushMatrix
  split
  · next e => exact hrel.of_error e
  · next e =>
    have hchk := State.recordCheck_memoryOk (hrel.of_ok e) r a 4
    split
    · next e => exact hchk.of_error e
    · next e =>
      have hx := State.readWords_memoryOk (hchk.of_ok e) r a .table 4
      split
      · exact hchk.of_ok e
      · split
        · next e => exact hx.of_error e
        · next e =>
          split
          · exact (hx.of_ok e :)
          · exact State.enterMatrix_memoryOk (hx.of_ok e :) ..

theorem State.readBrook_memoryOk (r : LaneRef) (a : Word) (bar : Option Word) (conv : Option Bool) (sc : Scope) :
    Ends State.memoryOk Prod.fst (s.readBrook r a bar conv sc) := by
  have hchk := State.recordCheck_memoryOk h r a 4
  unfold State.readBrook
  split
  · exact h
  · split
    · next e => exact hchk.of_error e
    · next e =>
      have hrel := State.release_memoryOk (hchk.of_ok e) r sc
      split
      · next e => exact hrel.of_error e
      · next e =>
        have hx := State.readWords_memoryOk (hrel.of_ok e) r a .table (if bar.isSome then 3 else 4)
        split
        · next e => exact hx.of_error e
        · next e =>
          dsimp only
          split <;> exact (hx.of_ok e :)

theorem State.brookDesc_memoryOk (r : LaneRef) (a : Word) (bar : Option Word) (conv : Option Bool) (sc : Scope) :
    Ends State.memoryOk Prod.fst (s.brookDesc r a bar conv sc) := by
  grind [State.brookDesc, Ends, Stop.state, !State.readBrook_memoryOk]

theorem State.setCluster_memoryOk (n : Nat) (k : Cluster) : (s.setCluster n k).memoryOk := h

theorem State.enterBrook_memoryOk (r : LaneRef) (src dst w2 bar : Word) (rm : RoundMode) (fifo : Bool) :
    (s.enterBrook r src dst w2 bar rm fifo).1.memoryOk :=
  h

theorem State.issueBrook_memoryOk (r : LaneRef) (a : Word) (bar : Option Word) (conv : Option Bool) (sc : Scope) :
    Ends State.memoryOk Prod.fst (s.issueBrook r a bar conv sc) := by
  grind [State.issueBrook, Ends, Stop.state, !State.brookDesc_memoryOk, !State.setLaneAt_memoryOk, !State.enterBrook_memoryOk]

theorem State.pushBrook_memoryOk (r : LaneRef) (a : Word) (sc : Scope) : Ends State.memoryOk id (s.pushBrook r a sc) := by
  grind [State.pushBrook, Ends, Stop.state, !State.release_memoryOk, !State.issueBrook_memoryOk]

theorem State.pushFifo_memoryOk (r : LaneRef) (f : Fifo) (a : Word) (sc : Scope) : Ends State.memoryOk id (s.pushFifo r f a sc) := by
  cases f with
  | matrix => exact State.pushMatrix_memoryOk h r a sc
  | brook => exact State.pushBrook_memoryOk h r a sc

theorem State.setSector_memoryOk (n : Nat) (x : Sector) : (s.setSector n x).memoryOk := h

theorem State.setShare_memoryOk (p v : Nat) : (s.setShare p v).memoryOk := by
  unfold State.setShare
  split <;> exact h

theorem State.setGuar_memoryOk (p k : Nat) (g : BitVec 17) : (s.setGuar p k g).memoryOk := by
  grind [State.setGuar, State.memoryOk]

theorem State.pendIdentity_memoryOk (hart file id : Nat) : (s.pendIdentity hart file id).memoryOk := by
  grind [State.pendIdentity, State.memoryOk]

theorem State.sendMsi_memoryOk (p : Nat) : (s.sendMsi p).memoryOk := by
  grind [State.sendMsi, State.memoryOk, !State.pendIdentity_memoryOk]

theorem State.devWrite_memoryOk (r : LaneRef) (d : DevReg) (m v : Word) : (s.devWrite r d m v).memoryOk := by
  unfold State.devWrite
  dsimp only
  split
  case h_8 => exact State.setShare_memoryOk h ..
  case h_10 => exact State.setGuar_memoryOk h ..
  case h_18 => exact State.sendMsi_memoryOk h 0
  all_goals exact h

theorem State.devStore_memoryOk (r : LaneRef) (off w x : Nat) (sc : Scope) : Ends State.memoryOk id (s.devStore r off w x sc) := by
  grind [State.devStore, Ends, Stop.state, !State.pushFifo_memoryOk, !State.devWrite_memoryOk]

theorem State.storeFrom_memoryOk (v a : Word) (w : Nat) (rel : Option Scope) (len : Nat) : Ends State.memoryOk id (s.storeFrom v a w rel len) := by
  have hc := State.checkAccess_keeps State.memoryOk_access h s.cur a w .store
  unfold State.storeFrom
  split
  · next e => exact hc.of_error e
  · next t g e =>
    have hrel := State.releaseOpt_memoryOk (hc.of_ok e) t.cur rel
    split
    · next e => exact hrel.of_error e
    · next u e =>
      have hu : u.memoryOk := hrel.of_ok e
      split
      · next off _ =>
        have hst := State.devStore_memoryOk hu u.cur off w (bits v (w - 1) 0) (rel.getD .dev)
        split
        · next e => exact hst.of_error e
        · next e => exact State.advance_memoryOk (hst.of_ok e) len
      · exact State.advance_memoryOk (State.postStore_memoryOk hu ..) len

/-! Tagged instructions, spills, atomics and reductions (R104 to R112). -/

theorem State.arriveRequest_memoryOk (r : LaneRef) (pa : Nat) (k : Park) : (s.arriveRequest r pa k).memoryOk := by
  have hd := State.drainPath_memoryOk h r (pathOf pa)
  have hreq (l : Lane) := State.tryRequest_keeps State.memoryOk_access (State.setLaneAt_memoryOk hd r l) pa (fun _ => true) r
  unfold State.arriveRequest
  dsimp only
  split
  · split
    · split
      · exact (hreq _).of_eq rfl rfl
      · exact State.setLaneAt_memoryOk (hreq _) ..
    · split
      · exact State.reexamine_keeps State.memoryOk_access (hreq _) ..
      · exact hreq _
  · exact hreq _

theorem State.tagRequest_memoryOk (a : Word) (acc : Access) (k : Park) (rel : Option Scope) : Ends State.memoryOk id (s.tagRequest a acc k rel) := by
  have hc := State.checkAccess_keeps State.memoryOk_access h s.cur a 64 acc
  unfold State.tagRequest
  split
  · next e => exact hc.of_error e
  · next t g e =>
    have hrel := State.releaseOpt_memoryOk (hc.of_ok e) t.cur rel
    split
    · next e => exact hrel.of_error e
    · next u e =>
      have hreq := State.arriveRequest_memoryOk (hrel.of_ok e) u.cur g.pa k
      dsimp only
      split
      · exact Ends.done (State.completeTag_memoryOk hreq ..)
      · exact Ends.wait hreq 1

theorem State.tagPost_memoryOk (a : Word) (op : WriteOp) (rel : Option Scope) : Ends State.memoryOk id (s.tagPost a op rel) := by
  grind [State.tagPost, Ends, Stop.state, !State.checkAccess_keeps State.memoryOk_access, !State.releaseOpt_memoryOk,
    !State.advance_memoryOk, !State.post_memoryOk]

theorem State.writeS_memoryOk (d : Reg) (v : Word) : (s.writeS d v).memoryOk := h

theorem execTagrd_memoryOk (d a : Reg) : Leads State.memoryOk (execTagrd d a s) := by
  refine finish_leads _ ?_
  grind [Ends, Stop.state, !State.checkAccess_keeps State.memoryOk_access, !State.homeWord_keeps State.memoryOk_access,
    !State.writeS_memoryOk]

theorem State.spillTargets_memoryOk (r : LaneRef) (a : Word) (k : Access) (n : Nat) :
    Ends State.memoryOk Prod.fst (s.spillTargets r a k n) := by
  induction n generalizing s a with
  | zero => exact h
  | succ n ih =>
    have hx := State.fates_keeps State.memoryOk_access h r a 64 k
    unfold State.spillTargets
    split
    · exact h
    · split
      · next e => exact hx.of_error e
      · next e =>
        have hxs := ih (hx.of_ok e) (a + 64)
        split
        · next e => exact hxs.of_error e
        · next e => exact (hxs.of_ok e :)

theorem State.keepSpill_memoryOk (n : Nat) : (s.keepSpill n).memoryOk := h

omit h in
theorem spillStop_memoryOk (n d : Nat) {x : Stop} (hx : x.state.memoryOk) : (spillStop n d x).state.memoryOk := by
  cases x with
  | trap t c v =>
    unfold spillStop
    dsimp only
    split
    · exact State.setLane_memoryOk (State.drainLane_memoryOk hx _) _
    · exact State.keepSpill_memoryOk (State.drainLane_memoryOk hx _) n
  | wait t c => exact State.keepSpill_memoryOk hx n

/-- The words of a fill are read one after another (R112). -/
theorem State.homeWords_memoryOk (r : LaneRef) (ts : List (Word × Target)) (ws : List Word) :
    (ts.foldl (fun (acc : State × List Word) x =>
      let (s, w, _) := acc.1.homeWord r x.2.pa
      (s, acc.2 ++ [w])) (s, ws)).1.memoryOk :=
  State.memoryOk.foldl_fst (x := (s, ws)) (fun hx t => State.homeWord_keeps State.memoryOk_access hx r t.2.pa) h ts

theorem State.moveRegs_memoryOk (spill file : Bool) (first d n m : Nat) :
    Ends State.memoryOk id (s.moveRegs spill file first d n m) := by
  induction m generalizing s n with
  | zero => exact h
  | succ m ih =>
    have hts := State.spillTargets_memoryOk h s.cur (word (first + (n - d) * 64 * (if file then 4 else 1)))
      (if spill then .store else .load) (if file then 4 else 1)
    unfold State.moveRegs
    dsimp only
    split
    · next e => exact spillStop_memoryOk n d (hts.of_error e)
    · next t ts e =>
      have ht : t.memoryOk := hts.of_ok e
      refine ih (s := ite _ _ _) (iteInduction (motive := State.memoryOk) (fun _ => ?_) fun _ => ?_) _
      · exact ht.foldl (fun hu x => State.postStore_memoryOk hu ..) _
      · exact State.setLane_memoryOk (State.homeWords_memoryOk ht t.cur ts []) _

theorem State.spillFill_memoryOk (spill : Bool) (d a : Reg) (file : Bool) : Ends State.memoryOk id (s.spillFill spill d a file) := by
  grind [State.spillFill, Ends, Stop.state, !State.setLane_memoryOk, !State.moveRegs_memoryOk, !State.advance_memoryOk]

theorem State.amo_memoryOk (d a : Reg) (w64 : Bool) (ord : AmoOrd) (f : Nat → Nat → Nat) (y : Word) :
    Ends State.memoryOk id (s.amo d a w64 ord f y) := by
  grind [State.amo, Ends, Stop.state, !State.checkAccess_keeps State.memoryOk_access, !State.releaseOpt_memoryOk,
    !State.drainPath_memoryOk, !State.rmwAt_keeps State.memoryOk_access, !State.writeS_memoryOk]

theorem State.reduce_memoryOk (a b : Reg) (w64 : Bool) (rel : Option Scope) (fn : RedFn) :
    Ends State.memoryOk id (s.reduce a b w64 rel fn) := by
  grind [State.reduce, Ends, Stop.state, !State.checkAccess_keeps State.memoryOk_access, !State.releaseOpt_memoryOk,
    !State.advance_memoryOk, !State.post_memoryOk]

/-! Scalars and branches (R82 to R96). -/

theorem scalar_memoryOk (d : Reg) (v : Word) : Leads State.memoryOk (scalar d v s) := h

theorem execEaddr_memoryOk (d a b : Reg) (g : BitVec 6) : Leads State.memoryOk (execEaddr d a b g s) := by
  grind [execEaddr, Leads, !State.takeTrap_memoryOk, !scalar_memoryOk]

theorem execEdiff_memoryOk (d a b : Reg) (g : BitVec 6) : Leads State.memoryOk (execEdiff d a b g s) := by
  grind [execEdiff, Leads, !State.takeTrap_memoryOk, !scalar_memoryOk]

theorem execGaddr_memoryOk (d a : Reg) : Leads State.memoryOk (execGaddr d a s) := by
  grind [execGaddr, Leads, !State.takeTrap_memoryOk, !scalar_memoryOk]

theorem State.jump_memoryOk (target : Word) : (s.jump target).memoryOk := h

theorem State.branchTo_memoryOk (target : Word) : (s.branchTo target).memoryOk := by
  grind [State.branchTo, !State.trace_memoryOk, !State.jump_memoryOk]

theorem State.branch_memoryOk (c : BCond) (x y target : Word) (len : Nat) : (s.branch c x y target len).memoryOk := by
  grind [State.branch, !State.branchTo_memoryOk, !State.advance_memoryOk]

theorem execJal_memoryOk (d : Reg) (off : BitVec 21) : Leads State.memoryOk (execJal d off s) := by
  grind [execJal, Leads, !State.branchTo_memoryOk, !State.setS_memoryOk]

theorem jumpReg_memoryOk (d : Reg) (t : Word) (len : Nat) : Leads State.memoryOk (jumpReg d t len s) := by
  grind [jumpReg, Leads, !State.takeTrap_memoryOk, !State.branchTo_memoryOk, !State.setS_memoryOk]

theorem execLoop_memoryOk (a : Reg) (imm : BitVec 12) : Leads State.memoryOk (execLoop a imm s) := by
  grind [execLoop, Leads, !State.advance_memoryOk, !State.writeS_memoryOk, !State.branchTo_memoryOk, !State.setS_memoryOk]

/-! Launches and completions of tasks on a lane (R173 to R189). -/

theorem State.parkDispatch_memoryOk (r : LaneRef) (c : BitVec 8) (entry : Word) : (s.parkDispatch r c entry).memoryOk :=
  State.trace_memoryOk h ..

theorem State.begin_memoryOk (r : LaneRef) (e : RingEntry) (pc : Word) : (s.begin_ r e pc).memoryOk := by
  grind [State.begin_, !State.trace_memoryOk, !State.setLaneAt_memoryOk]

theorem State.ringWords_memoryOk (r : LaneRef) (slot first n : Nat) : (s.ringWords r slot first n).1.memoryOk := by
  induction n generalizing s first with
  | zero => exact h
  | succ n ih =>
    have hx := State.readHome_keeps State.memoryOk_access h (rawByte r.core (ringOff r slot) + 8 * first) (s.laneAt r).part none
    exact ih hx (first + 1)

theorem State.requestDigest_memoryOk (die : Nat) (t : Task) : (s.requestDigest die t).memoryOk := by
  unfold State.requestDigest
  refine State.memoryOk.of_eq (State.memoryOk.foldl h (fun hu k => ?_) (List.range 16)) rfl rfl
  exact hu

theorem State.fire_memoryOk (die : Nat) (p : BitVec 8) (id : BitVec 16) : (s.fire die p id).memoryOk := by
  grind [State.fire, !State.updTask_memoryOk, !State.makeReady_memoryOk]

theorem State.fireEntries_memoryOk (die : Nat) (t : Task) (p : Succ → Bool) : (s.fireEntries die t p).memoryOk := by
  unfold State.fireEntries
  exact State.memoryOk.foldl (State.updTask_memoryOk h ..) (fun hu e => State.fire_memoryOk hu ..) _

theorem State.completeTask_memoryOk (die : Nat) (t : Task) : (s.completeTask die t).memoryOk := by
  unfold State.completeTask
  dsimp only
  refine State.stamp_memoryOk (State.requestDigest_memoryOk (State.fireEntries_memoryOk (State.writeBack_memoryOk ?_ ..) ..) ..) ..
  exact State.setDie_memoryOk h ..

theorem State.recordDone_memoryOk (r : LaneRef) (id : BitVec 16) (status : BitVec 8) : (s.recordDone r id status).1.memoryOk := by
  grind [State.recordDone, !State.updTask_memoryOk, !State.completeTask_memoryOk]

theorem State.unbound_memoryOk (r : LaneRef) (e : RingEntry) : (s.unbound r e).memoryOk := by
  grind [State.unbound, State.memoryOk, !State.ringWords_memoryOk, !State.setLaneAt_memoryOk,
    !State.countDropcnt_keeps State.memoryOk_access, !State.countDrop_keeps State.memoryOk_access, !State.postNotice_memoryOk,
    !State.recordDone_memoryOk]

theorem State.dispatchHead_memoryOk (r : LaneRef) : (s.dispatchHead r).memoryOk := by
  grind [State.dispatchHead, Ends, Stop.state, !State.tableEntry_memoryOk, !State.parkDispatch_memoryOk, !State.begin_memoryOk,
    !State.unbound_memoryOk]

theorem State.dispatchLoop_memoryOk (r : LaneRef) (n : Nat) : (s.dispatchLoop r n).memoryOk := by
  induction n generalizing s with
  | zero => exact h
  | succ n ih =>
    unfold State.dispatchLoop
    split
    · exact ih (State.dispatchHead_memoryOk h r)
    · exact h

theorem State.dispatchNow_memoryOk (r : LaneRef) : (s.dispatchNow r).memoryOk := State.dispatchLoop_memoryOk h ..

theorem State.endActivation_memoryOk (r : LaneRef) : (s.endActivation r).memoryOk := by
  grind [State.endActivation, !State.setLaneAt_memoryOk]

theorem State.endh_memoryOk (r : LaneRef) : Ends State.memoryOk id (s.endh r) := by
  grind [State.endh, Ends, Stop.state, !State.drainLane_memoryOk, !State.dispatchNow_memoryOk, !State.endActivation_memoryOk,
    !State.trace_memoryOk]

end

end Sys2Proof.Machine

namespace Sys2Proof.Machine

/-! Every step keeps memory and tags in their canonical form: vectors, handles and jobs. Each lemma says that one function keeps the form; its
proof names the lemmas about the functions it calls. -/

section

variable {s : State} (h : s.memoryOk)
include h

/-! Streams and vector instructions (R113 to R134). -/

omit h in
/-- Where the checks of the streams fail, the state that traps is the one they are asked in. -/
theorem State.moves_go_state (s : State) (srcs dsts vs : List VReg) : Ends (· = s) (fun _ => s) (State.moves.go s srcs dsts vs) := by
  induction vs with
  | nil => exact rfl
  | cons v vs ih =>
    unfold State.moves.go
    grind [Ends, Stop.state]

theorem State.moves_memoryOk (srcs dsts : List VReg) : Ends State.memoryOk (fun _ => s) (s.moves srcs dsts) := by
  have hgo := State.moves_go_state s srcs dsts (regsOnce (srcs ++ dsts))
  unfold State.moves
  cases e : State.moves.go s srcs dsts (regsOnce (srcs ++ dsts)) with
  | ok ms => exact h
  | error x =>
    rw [e] at hgo
    exact (show x.state = s from hgo) ▸ h

theorem State.ctlTarget_memoryOk (r : LaneRef) (hd : Handle) (k : Access) : Ends State.memoryOk Prod.fst (s.ctlTarget r hd k) := by
  grind [State.ctlTarget, Ends, Stop.state, !State.fates_keeps State.memoryOk_access]

theorem State.streamWaits_memoryOk (had : List Word) (ms : List Move) : Ends State.memoryOk Prod.fst (s.streamWaits had ms) := by
  induction ms generalizing s had with
  | nil => exact h
  | cons x ms ih =>
    have hx := State.ctlTarget_memoryOk h s.cur x.h .table
    have hwait {t : State} (ht : t.memoryOk) (pa : Nat) (k : Park) := State.arriveRequest_memoryOk ht t.cur pa k
    unfold State.streamWaits
    grind [Ends, Stop.state, !State.setLane_memoryOk]

theorem State.pushCheck_memoryOk (x : Move) (v : Word) (n : Nat) : Ends State.memoryOk id (s.pushCheck x v n) := by
  induction n with
  | zero => exact h
  | succ n ih =>
    unfold State.pushCheck
    split
    · next e => exact ih.of_error e
    · next t e =>
      have hc := State.checkAccess_keeps State.memoryOk_access (ih.of_ok e) t.cur (x.h.slot (ctlTail v + n)) (viewBits (cfgView x.cfg)) .store
      split
      · next e => exact hc.of_error e
      · next e => exact (hc.of_ok e :)

theorem State.popRead_memoryOk (x : Move) (v : Word) (n : Nat) : Ends State.memoryOk Prod.fst (s.popRead x v n) := by
  induction n with
  | zero => exact h
  | succ n ih =>
    unfold State.popRead
    split
    · next e => exact ih.of_error e
    · next t acc e =>
      have hc := State.readBits_keeps State.memoryOk_access (ih.of_ok e) t.cur (x.h.slot (ctlHead v + n)) (viewBits (cfgView x.cfg)) .load
      dsimp only
      split
      · next e => exact hc.of_error e
      · next e => exact (hc.of_ok e :)

theorem State.streamRead_memoryOk (env : Lane) (part : Bool) (ms : List (Move × Nat × Word)) :
    Ends State.memoryOk Prod.fst (s.streamRead env part ms) := by
  induction ms generalizing s env part with
  | nil => exact h
  | cons m ms ih =>
    obtain ⟨x, pa, v⟩ := m
    have hpush := State.pushCheck_memoryOk h x v x.m
    have hpop := State.popRead_memoryOk h x v x.m
    unfold State.streamRead
    split
    · split
      · next e => exact hpush.of_error e
      · next e => exact ih (hpush.of_ok e) _ _
    · split
      · next e => exact hpop.of_error e
      · next e =>
        dsimp only
        split <;> exact ih (hpop.of_ok e) _ _

theorem State.advanceCtl_memoryOk (r : LaneRef) (pa : Nat) (tail : Bool) (count slots : Nat) {t : State}
    (e : s.advanceCtl r pa tail count slots = some t) : t.memoryOk := by
  have hd := State.drainPath_memoryOk h r (pathOf pa)
  have hr := State.readHome_keeps State.memoryOk_access hd pa ((s.drainPath r (pathOf pa)).laneAt r).part (some r)
  unfold State.advanceCtl at e
  dsimp only at e
  split at e <;> split at e
  · cases e
    exact State.storeAt_keeps State.memoryOk_access hr ..
  · cases e
  · cases e
    exact State.storeAt_keeps State.memoryOk_access hr ..
  · cases e

theorem State.countDown_memoryOk (x : Move) : (s.countDown x).memoryOk := h

theorem State.popCommit_memoryOk (ms : List (Move × Nat × Word)) : Ends State.memoryOk id (s.popCommit ms) := by
  induction ms generalizing s with
  | nil => exact h
  | cons m ms ih =>
    obtain ⟨x, pa, v⟩ := m
    unfold State.popCommit
    split
    · exact ih h
    · split
      · exact h
      · next e => exact ih (State.countDown_memoryOk (State.advanceCtl_memoryOk h _ _ _ _ _ e) x)

theorem State.pushStores_memoryOk (x : Move) (v : Word) (val : VWord) (n : Nat) : (s.pushStores x v val n).memoryOk := by
  induction n with
  | zero => exact h
  | succ n ih =>
    have hf (a : Word) (w : Nat) := State.fates_keeps State.memoryOk_access ih (s.pushStores x v val n).cur a w .store
    unfold State.pushStores
    dsimp only
    split
    · next e => exact State.postStore_memoryOk ((hf _ _).of_ok e :) ..
    · exact ih

omit h in
/-- A property that each round of a recursion along a list keeps holds of the recursion. -/
theorem List.brecOn_keeps {α S R : Type} {I : S → Prop} {P : R → Prop} (F : (x : List α) → List.below (motive := fun _ => S → R) x → S → R)
    (hnil : ∀ b s, I s → P (F [] b s)) (hcons : ∀ a t b, (∀ s, I s → P (b.1 s)) → ∀ s, I s → P (F (a :: t) b s))
    (xs : List α) (s : S) (hs : I s) : P (List.brecOn (motive := fun _ => S → R) xs F s) := by
  induction xs generalizing s with
  | nil => exact hnil _ s hs
  | cons a t ih => exact hcons a t ⟨_, _⟩ ih s hs

/-- The equations of `pushAll` are too large for the kernel, so the property goes along its recursion itself. -/
theorem State.pushAll_memoryOk (vals : List (VReg × VWord)) (ms : List (Move × Nat × Word)) :
    Ends State.memoryOk id (s.pushAll vals ms) := by
  delta State.pushAll
  refine List.brecOn_keeps (I := State.memoryOk) (P := Ends State.memoryOk id) _ ?_ (fun m ms rest ih t ht => ?_) ms s h
  · exact fun _ _ ht => ht
  obtain ⟨x, pa, v⟩ := m
  have hst (val : VWord) := State.drainLane_memoryOk (State.pushStores_memoryOk ht x v val x.m) t.cur
  show Ends State.memoryOk id (if cfgOut x.cfg then _ else rest.1 t)
  split
  · dsimp only
    split
    · exact Ends.wait (hst _) 6
    · split
      · exact Ends.trap (hst _) ..
      · next e => exact ih _ (State.countDown_memoryOk (State.advanceCtl_memoryOk (hst _) _ _ _ _ _ e) x)
  · exact ih t ht

omit h in
/-- What the computation of a vector instruction gives: a canonical state, and a last effect that keeps memory canonical. -/
def VOut.memoryOk (x : State × VOut) : Prop := x.1.memoryOk ∧ ∀ {t : State}, t.memoryOk → (x.2.fin t).memoryOk

theorem State.vecRun_memoryOk {α : Type} (srcs dsts : List VReg) {check : Lane → State → Except Stop (State × α)}
    {run : α → Lane → State → State × VOut}
    (hcheck : ∀ env {t : State}, t.memoryOk → Ends State.memoryOk Prod.fst (check env t))
    (hrun : ∀ found env {t : State}, t.memoryOk → VOut.memoryOk (run found env t)) :
    Ends State.memoryOk id (s.vecRun srcs dsts check run) := by
  have hmoves := State.moves_memoryOk h srcs dsts
  have hrel (b : Bool) : Ends State.memoryOk id (if b then .ok s else s.release s.cur .dev) := by
    split
    · exact h
    · exact State.release_memoryOk h ..
  unfold State.vecRun
  split
  · next e => exact hmoves.of_error e
  · next ms _ =>
    split
    · next e => exact (hrel _).of_error e
    · next t e =>
      have hwaits := State.streamWaits_memoryOk ((hrel _).of_ok e) t.lane.kept.waits ms
      split
      · next e => exact hwaits.of_error e
      · next s0 xs e =>
        have h0 : s0.memoryOk := hwaits.of_ok e
        have hreads := State.streamRead_memoryOk h0 s0.lane false xs
        split
        · next e => exact hreads.of_error e
        · next s1 env e =>
          have hfound := hcheck env (hreads.of_ok e :)
          split
          · next e => exact hfound.of_error e
          · next s2 found e =>
            have hpops := State.popCommit_memoryOk (hfound.of_ok e :) xs
            split
            · next e => exact hpops.of_error e
            · next s3 e =>
              have hm7 : (if xs.isEmpty then s3 else s3.setLane (s3.lane.setM 7 (env.m 7))).memoryOk :=
                iteInduction (motive := State.memoryOk) (fun _ => hpops.of_ok e) fun _ => State.setLane_memoryOk (hpops.of_ok e) _
              obtain ⟨hout, hfin⟩ := hrun found env hm7
              have hpush := State.pushAll_memoryOk hout
                ((run found env (if xs.isEmpty then s3 else s3.setLane (s3.lane.setM 7 (env.m 7)))).2.vecs.map (fun x => (x.1, x.2.2))) xs
              dsimp only
              split
              · exact h0
              · next e => exact hpush.of_error e
              · next e => exact State.advance_memoryOk (State.setLane_memoryOk (hfin (hpush.of_ok e)) _) 32

omit h in
/-- A computation that only answers values leaves the state as it is. -/
theorem VOut.memoryOk_id {t : State} (ht : t.memoryOk) (vecs : List (VReg × VWord × VWord)) : VOut.memoryOk (t, ⟨vecs, id⟩) :=
  ⟨ht, fun hu => hu⟩

omit h in
theorem noCheck_memoryOk (env : Lane) {t : State} (ht : t.memoryOk) : Ends State.memoryOk Prod.fst (noCheck env t) := ht

theorem State.vmap_memoryOk (srcs : List VReg) (d : VReg) (e : Nat) (m : MReg) (f : Lane → Nat → Nat) :
    Ends State.memoryOk id (s.vmap srcs d e m f) :=
  State.vecRun_memoryOk h srcs [d] noCheck_memoryOk fun _ _ {_} ht => VOut.memoryOk_id ht _

omit h in
theorem VOut.memoryOk_setSeed {t : State} (ht : t.memoryOk) (vecs : List (VReg × VWord × VWord)) (g : Word) :
    VOut.memoryOk (t, ⟨vecs, setSeed g⟩) := ⟨ht, fun hu => State.setLane_memoryOk hu _⟩

theorem State.vround_memoryOk (srcs : List VReg) (d : VReg) (e : Nat) (m : MReg) (f : Lane → RoundMode → Nat → Nat → Nat) :
    Ends State.memoryOk id (s.vround srcs d e m f) :=
  State.vecRun_memoryOk h srcs [d] noCheck_memoryOk fun _ _ {_} ht => VOut.memoryOk_setSeed ht _ _

theorem State.varith_memoryOk (d a b : VReg) (ty : VTy) (m : MReg) (fi : Nat → Nat → Nat → Nat) (ff : RoundMode → FVal → FVal → FVal) :
    Ends State.memoryOk id (s.varith d a b ty m fi ff) := by
  grind [State.varith, Ends, Stop.state, !State.vmap_memoryOk, !State.vround_memoryOk]

theorem execVfma_memoryOk (d a b : VReg) (ty : VTy) (m : MReg) : Leads State.memoryOk (execVfma d a b ty m s) := by
  refine finish_leads _ ?_
  grind [Ends, Stop.state, !State.vmap_memoryOk, !State.vround_memoryOk]

theorem State.vbits_memoryOk (d a b : VReg) (v : View) (m : MReg) (f : Nat → Nat → Nat → Nat) :
    Ends State.memoryOk id (s.vbits d a b v m f) :=
  State.vmap_memoryOk h ..

theorem State.setM_memoryOk (n : MReg) (v : BitVec 32) : (s.setM n v).memoryOk := h

theorem execVcmp_memoryOk (md : MReg) (a b : VReg) (c : VCond) (ty : VTy) (m : MReg) : Leads State.memoryOk (execVcmp md a b c ty m s) :=
  finish_leads _ (State.vecRun_memoryOk h _ _ noCheck_memoryOk fun _ _ {_} ht => ⟨ht, fun hu => State.setM_memoryOk hu ..⟩)

theorem execVredadd_memoryOk (d a : VReg) (ty : VTy) (m : MReg) : Leads State.memoryOk (execVredadd d a ty m s) := by
  refine finish_leads _ (State.vecRun_memoryOk h _ _ noCheck_memoryOk fun _ _ {_} ht => ?_)
  split
  · exact VOut.memoryOk_id ht _
  · exact VOut.memoryOk_setSeed ht _ _

theorem State.vextreme_memoryOk (d a : VReg) (ty : VTy) (m : MReg) (max : Bool) : Ends State.memoryOk id (s.vextreme d a ty m max) := by
  unfold State.vextreme
  exact State.vecRun_memoryOk h _ _ noCheck_memoryOk fun _ _ {_} ht => VOut.memoryOk_id ht _

theorem execVmovsv_memoryOk (d : Reg) (a : VReg) (v : View) (m : MReg) : Leads State.memoryOk (execVmovsv d a v m s) :=
  finish_leads _ (State.vecRun_memoryOk h _ _ noCheck_memoryOk fun _ _ {_} ht => ⟨ht, fun hu => State.setS_memoryOk hu ..⟩)

theorem execVmovvs_memoryOk (d : VReg) (a : Reg) (v : View) (m : MReg) : Leads State.memoryOk (execVmovvs d a v m s) :=
  finish_leads _ (State.vecRun_memoryOk h _ _ noCheck_memoryOk fun _ _ {_} ht => VOut.memoryOk_id ht _)

theorem State.vload_memoryOk (srcs : List VReg) (d : VReg) (e : Nat) (m : MReg) (addr : Lane → Nat → Word) :
    Ends State.memoryOk id (s.vload srcs d e m addr) :=
  State.vecRun_memoryOk h srcs [d] (fun _ {_} ht => State.checkElems_keeps State.memoryOk_access ht ..) fun found env {_} ht =>
    VOut.memoryOk_id (State.readElems_keeps State.memoryOk_access ht e (addr env) found (activeElems (env.m m) (256 / e))) _

theorem State.storeElem_memoryOk (a : Word) (e x : Nat) : (s.storeElem a e x).memoryOk := by
  have hf := State.fates_keeps State.memoryOk_access h s.cur a e .store
  unfold State.storeElem
  split
  · exact h
  · next t g he =>
    have ht : t.memoryOk := hf.of_ok he
    split
    · next off _ =>
      have hdev := State.devStore_memoryOk ht t.cur off e x .dev
      cases hd : t.devStore t.cur off e x .dev with
      | ok u => exact hdev.of_ok hd
      | error _ => exact ht
    · exact State.post_memoryOk ht _ _ _ _ _ _ true

theorem State.vstore_memoryOk (srcs : List VReg) (d : VReg) (e : Nat) (m : MReg) (addr : Lane → Nat → Word) :
    Ends State.memoryOk id (s.vstore srcs d e m addr) :=
  State.vecRun_memoryOk h srcs [] (fun _ {_} ht => State.checkElems_keeps State.memoryOk_access ht ..) fun _ _ {_} ht =>
    ⟨ht, fun hu => hu.foldl (fun hw _ => State.storeElem_memoryOk hw ..) _⟩

theorem amaxOf_memoryOk (t : ElemTy) (xs : List FVal) : (amaxOf t xs s).memoryOk := by
  unfold amaxOf
  split <;> exact h

theorem execVcvt_memoryOk (d a : VReg) (tt st : ElemTy) (rm : RmField) : Leads State.memoryOk (execVcvt d a tt st rm s) :=
  finish_leads _ (State.vecRun_memoryOk h _ _ noCheck_memoryOk fun _ _ {_} ht =>
    ⟨ht, fun hu => amaxOf_memoryOk (State.setLane_memoryOk hu _) ..⟩)

omit h in
theorem unitCheck_memoryOk {x : Except Stop State} (hx : Ends State.memoryOk id x) : Ends State.memoryOk Prod.fst (unitCheck x) := by
  cases x with
  | ok _ => exact hx
  | error _ => exact hx

theorem State.checkWords_memoryOk (ws : List (Word × Word × Word)) : Ends State.memoryOk id (s.checkWords ws) := by
  induction ws generalizing s with
  | nil => exact h
  | cons w ws ih =>
    have hc := State.checkAccess_keeps State.memoryOk_access h s.cur w.1 64 .store
    unfold State.checkWords
    split
    · next e => exact hc.of_error e
    · next e => exact ih (hc.of_ok e)

theorem State.storeWord_memoryOk (a m v : Word) : (s.storeWord a m v).memoryOk := by
  grind [State.storeWord, Ends, Stop.state, !State.fates_keeps State.memoryOk_access, !State.post_memoryOk]

theorem execVpack_memoryOk (a : VReg) (b : Reg) (fmt : BlkFmt) (st : ElemTy) (rm : RmField) (cb : CbSel) (kquad : Bool) :
    Leads State.memoryOk (execVpack a b fmt st rm cb kquad s) := by
  refine finish_leads _ (State.vecRun_memoryOk h _ _ (fun env {t} ht => ?_) fun _ env {t} ht => ⟨ht, fun {u} hu => ?_⟩)
  · split
    · exact ht
    · split
      · exact ht
      · exact unitCheck_memoryOk (State.checkWords_memoryOk ht _)
  · have hamax := amaxOf_memoryOk hu st (packValues env a st)
    refine State.memoryOk.foldl (iteInduction (motive := State.memoryOk) (fun _ => ?_) fun _ => hamax)
      (fun hw x => State.storeWord_memoryOk hw ..) _
    exact State.setLane_memoryOk hamax _

theorem State.readHalf_memoryOk (r : LaneRef) (own : Bool) (a : Word) (k : Access) :
    Ends State.memoryOk Prod.fst (s.readHalf r own a k) := by
  grind [State.readHalf, Ends, Stop.state, !State.checkAccess_keeps State.memoryOk_access, !State.readPart_keeps State.memoryOk_access]

theorem State.readHalfAfter_memoryOk (r : LaneRef) (own : Bool) (k : Access) (a : Word) (prev : Option Word) :
    Ends State.memoryOk Prod.fst (s.readHalfAfter r own k a prev) := by
  unfold State.readHalfAfter
  grind [Ends, Stop.state, !State.checkAccess_keeps State.memoryOk_access, !State.readHalf_memoryOk]

theorem State.readHalves_memoryOk (r : LaneRef) (own : Bool) (k : Access) (a : Word) (prev : Option Word) (n : Nat) :
    Ends State.memoryOk Prod.fst (s.readHalves r own k a prev n) := by
  induction n generalizing s a prev with
  | zero => exact h
  | succ n ih =>
    have hx := State.readHalfAfter_memoryOk h r own k a prev
    unfold State.readHalves
    split
    · next e => exact hx.of_error e
    · next x e =>
      have hxs := ih (hx.of_ok e :) (a + 32) (some x)
      split
      · next e => exact hxs.of_error e
      · next e => exact (hxs.of_ok e :)

theorem State.blockAt_memoryOk (r : LaneRef) (own : Bool) (a : Word) (accepts : BlkFmt → Bool) (kquad : Bool) (k : Access) :
    Ends State.memoryOk Prod.fst (s.blockAt r own a accepts kquad k) := by
  unfold State.blockAt
  grind [Ends, Stop.state, !State.readHalf_memoryOk, !State.readHalves_memoryOk]

theorem execVunpack_memoryOk (d : VReg) (a : Reg) (fmt : BlkFmt) (tt : ElemTy) (rm : RmField) :
    Leads State.memoryOk (execVunpack d a fmt tt rm s) := by
  refine finish_leads _ (State.vecRun_memoryOk h _ _ (fun env {t} ht => ?_) fun _ env {t} ht => VOut.memoryOk_setSeed ht _ _)
  have hb := State.blockAt_memoryOk ht t.cur true (s.s a) (· == fmt) false .load
  split
  · exact ht
  · split
    · exact ht
    · split
      · next e => exact hb.of_error e
      · next e => exact (hb.of_ok e :)

theorem execHset_memoryOk (hd : HReg) (d : Reg) : Leads State.memoryOk (execHset hd d s) := by
  refine finish_leads _ ?_
  grind [Ends, Stop.state, !State.readWords_memoryOk, !State.advance_memoryOk, !State.setLane_memoryOk]

/-! Handles and the jobs that lanes issue (R114 to R117, R142 to R184). -/

theorem State.useHandle_memoryOk (x : HReg) (tail : Bool) (slots count : Nat) :
    Ends State.memoryOk (fun _ => s) (s.useHandle x tail slots count) := by
  unfold State.useHandle
  dsimp only
  split
  · exact h
  · split <;> exact h

theorem State.handleWait_memoryOk (hd : Handle) (k : Park) : Ends State.memoryOk id (s.handleWait hd k) := by
  grind [State.handleWait, Ends, Stop.state, !State.ctlTarget_memoryOk, !State.arriveRequest_memoryOk, !State.complete_memoryOk]

theorem execHwaitf_memoryOk (hd : HReg) (count : BitVec 12) : Leads State.memoryOk (execHwaitf hd count s) := by
  refine finish_leads _ ?_
  grind [Ends, Stop.state, !State.useHandle_memoryOk, !State.handleWait_memoryOk]

theorem execHwaite_memoryOk (hd : HReg) (count : BitVec 12) : Leads State.memoryOk (execHwaite hd count s) := by
  refine finish_leads _ ?_
  grind [Ends, Stop.state, !State.useHandle_memoryOk, !State.handleWait_memoryOk]

theorem execHadv_memoryOk (hd : HReg) (tail : Bool) (count : BitVec 12) : Leads State.memoryOk (execHadv hd tail count s) := by
  refine finish_leads _ ?_
  have huse := State.useHandle_memoryOk h hd tail count.toNat count.toNat
  have hrel := State.release_memoryOk h s.cur .dev
  split
  · next e => exact huse.of_error e
  · next x _ =>
    split
    · next e => exact hrel.of_error e
    · next t e =>
      have hctl := State.ctlTarget_memoryOk (hrel.of_ok e) t.cur x .amo
      split
      · next e => exact hctl.of_error e
      · next u pa e =>
        have hu : u.memoryOk := hctl.of_ok e
        split
        · exact hu
        · next e => exact State.advance_memoryOk (State.advanceCtl_memoryOk hu _ _ _ _ _ e) 32

theorem execLdh_memoryOk (d : Reg) (hd : HReg) (k : BitVec 12) : Leads State.memoryOk (execLdh d hd k s) := by
  refine finish_leads _ ?_
  grind [Ends, Stop.state, !State.useHandle_memoryOk, !State.handleWait_memoryOk]

theorem execSth_memoryOk (d : Reg) (hd : HReg) (k : BitVec 12) : Leads State.memoryOk (execSth d hd k s) := by
  refine finish_leads _ ?_
  grind [Ends, Stop.state, !State.useHandle_memoryOk, !State.handleWait_memoryOk]

theorem execSbind_memoryOk (n : BitVec 3) (hd : HReg) (d : Reg) (out : Bool) (v : View) : Leads State.memoryOk (execSbind n hd d out v s) := by
  refine finish_leads _ ?_
  split
  · exact h
  · split
    · exact h
    · exact State.advance_memoryOk (State.setLane_memoryOk h _) 32

theorem execSunbind_memoryOk (n : BitVec 3) : Leads State.memoryOk (execSunbind n s) := by
  unfold execSunbind
  split <;> exact h

theorem trapNow_memoryOk (c : BitVec 8) (v : Word) : Ends State.memoryOk id (trapNow s c v) := h

theorem State.issueMatrix_memoryOk (r : LaneRef) (op : MOp) : Ends State.memoryOk Prod.fst (s.issueMatrix r op) := by
  grind [State.issueMatrix, Ends, Stop.state, !State.release_memoryOk, !State.enterMatrix_memoryOk]

theorem State.postJob_memoryOk (d : Reg) (op : MOp) : Ends State.memoryOk id (s.postJob d op) := by
  grind [State.postJob, Ends, Stop.state, !State.issueMatrix_memoryOk, !State.writeS_memoryOk]

theorem State.issueMma_memoryOk (team : Bool) (d a b c : Reg) (p1 : BitVec 4) : Ends State.memoryOk id (s.issueMma team d a b c p1) := by
  grind [State.issueMma, Ends, Stop.state, !trapNow_memoryOk, !State.postJob_memoryOk]

theorem State.labelJob_memoryOk (d a : Reg) (op : BitVec 16 → MOp) : Ends State.memoryOk id (s.labelJob d a op) := by
  grind [State.labelJob, Ends, Stop.state, !trapNow_memoryOk, !State.postJob_memoryOk]

theorem State.waitForJob_memoryOk (op : MOp) : Ends State.memoryOk id (s.waitForJob op) := by
  grind [State.waitForJob, Ends, Stop.state, !State.issueMatrix_memoryOk, !State.setLane_memoryOk]

theorem execLmap_memoryOk (d a b : Reg) : Leads State.memoryOk (execLmap d a b s) := by
  refine finish_leads _ ?_
  grind [Ends, Stop.state, !State.advance_memoryOk, !State.writeS_memoryOk, !trapNow_memoryOk, !State.waitForJob_memoryOk]

theorem State.queueCheck_memoryOk : Ends State.memoryOk id s.queueCheck := by
  grind [State.queueCheck, Ends, Stop.state, !State.release_memoryOk]

theorem execAccrow_memoryOk (d : VReg) (a b : Reg) (rm : RmField) : Leads State.memoryOk (execAccrow d a b rm s) := by
  refine finish_leads _ (State.vecRun_memoryOk h _ _ (fun env {t} ht => unitCheck_memoryOk ?_) fun _ _ {t} ht =>
    VOut.memoryOk_id (State.enterMatrix_memoryOk ht ..) _)
  split
  · exact ht
  · split
    · exact ht
    · split
      · exact ht
      · exact State.queueCheck_memoryOk ht

theorem execBind_memoryOk (d a b : Reg) (rm : RmField) (cm : Bool) : Leads State.memoryOk (execBind d a b rm cm s) := by
  refine finish_leads _ ?_
  grind [Ends, Stop.state, !trapNow_memoryOk, !State.postJob_memoryOk]

theorem State.takeRow_memoryOk (d : VReg) (ty : Nat) (rm : RoundMode) (row : List (BitVec 32)) :
    Ends State.memoryOk id (s.takeRow d ty rm row) := by
  unfold State.takeRow
  exact State.vecRun_memoryOk h _ _ noCheck_memoryOk fun _ _ {_} ht => ⟨ht, fun hu => amaxOf_memoryOk hu ..⟩

theorem execAccrd_memoryOk (d : VReg) (a b : Reg) (rm : RmField) : Leads State.memoryOk (execAccrd d a b rm s) := by
  refine finish_leads _ ?_
  grind [Ends, Stop.state, !State.advance_memoryOk, !State.takeRow_memoryOk, !State.moves_memoryOk, !State.streamWaits_memoryOk,
    !trapNow_memoryOk, !State.waitForJob_memoryOk]

theorem execMwait_memoryOk (d : Reg) : Leads State.memoryOk (execMwait d s) := by
  unfold execMwait
  split <;> exact h

/-! Messages that lanes send, and mailboxes (R170 to R176). -/

theorem State.bodyCheck_go_memoryOk (r : LaneRef) (a : Word) (n : Nat) : Ends State.memoryOk id (State.bodyCheck.go r s a n) := by
  induction n generalizing s a with
  | zero => exact h
  | succ n ih =>
    have hc := State.fates_keeps State.memoryOk_access h r a 64 .table
    unfold State.bodyCheck.go
    split
    · next e => exact hc.of_error e
    · next e => exact ih (hc.of_ok e) _

theorem State.bodyCheck_memoryOk (r : LaneRef) (a : Word) (n : Nat) : Ends State.memoryOk id (s.bodyCheck r a n) := by
  unfold State.bodyCheck
  split
  · exact h
  · split
    · exact h
    · exact State.bodyCheck_go_memoryOk h r a n

theorem State.enqueueSend_memoryOk (r : LaneRef) (m : Msg) : Ends State.memoryOk id (s.enqueueSend r m) := by
  grind [State.enqueueSend, Ends, Stop.state, !State.setLaneAt_memoryOk]

theorem execSend_memoryOk (a b : Reg) (sc : Scope) : Leads State.memoryOk (execSend a b sc s) := by
  refine finish_leads _ ?_
  have hbody := State.bodyCheck_memoryOk h s.cur (s.s b) (4 * hdrFlits (s.s a) - 1)
  split
  · exact h
  · split
    · next e => exact hbody.of_error e
    · next t e =>
      have hrel := State.release_memoryOk (hbody.of_ok e) t.cur sc
      split
      · next e => exact hrel.of_error e
      · next u e =>
        have hu : u.memoryOk := hrel.of_ok e
        have hx := State.readWords_memoryOk hu u.cur (u.s b) .table (4 * hdrFlits (s.s a) - 1)
        split
        · exact hu
        · split
          · next e => exact hx.of_error e
          · next v ws e =>
            have hq := State.enqueueSend_memoryOk (hx.of_ok e :) v.cur (v.outHeader v.cur (s.s a) false :: ws)
            split
            · next e => exact hq.of_error e
            · next e => exact State.advance_memoryOk (hq.of_ok e) 32

theorem execSendi_memoryOk (a b : Reg) (sc : Scope) : Leads State.memoryOk (execSendi a b sc s) := by
  refine finish_leads _ ?_
  grind [Ends, Stop.state, !trapNow_memoryOk, !State.release_memoryOk, !State.enqueueSend_memoryOk, !State.advance_memoryOk]

theorem execCntwait_memoryOk (n : BitVec 2) (a : Reg) : Leads State.memoryOk (execCntwait n a s) := by
  unfold execCntwait
  split <;> exact h

theorem execMbxpost_memoryOk (a b d : Reg) : Leads State.memoryOk (execMbxpost a b d s) := by
  refine finish_leads _ ?_
  grind [Ends, Stop.state, !trapNow_memoryOk, !State.enqueueSend_memoryOk, !State.advance_memoryOk]

theorem State.setMyCore_memoryOk (k : Core) : (s.setMyCore k).memoryOk := h

theorem execMbxtake_memoryOk (d : Reg) : Leads State.memoryOk (execMbxtake d s) := by
  refine finish_leads _ ?_
  split
  · exact State.writeS_memoryOk h ..
  · have hhand := State.setMyCore_memoryOk h (s.myCore.handEntries (s.myCore.takesBefore (s.cur.lane % 4)))
    dsimp only
    split
    · exact State.setMyCore_memoryOk hhand _
    · exact State.writeS_memoryOk (State.setMyCore_memoryOk hhand _) ..

theorem execMbxcfg_memoryOk (a : Reg) : Leads State.memoryOk (execMbxcfg a s) := by
  refine finish_leads _ ?_
  grind [Ends, Stop.state, !trapNow_memoryOk, !State.advance_memoryOk, !State.setMyCore_memoryOk]

theorem State.brookInstr_memoryOk (d a b : Reg) (conv : Bool) (sc : Scope) : Ends State.memoryOk id (s.brookInstr d a b conv sc) := by
  grind [State.brookInstr, Ends, Stop.state, !State.issueBrook_memoryOk, !State.advance_memoryOk, !State.setS_memoryOk]

theorem execBevict_memoryOk (a : Reg) : Leads State.memoryOk (execBevict a s) := by
  refine finish_leads _ ?_
  grind [Ends, Stop.state, !trapNow_memoryOk, !State.advance_memoryOk, !State.setCluster_memoryOk]

theorem execBwait_memoryOk (a : Reg) : Leads State.memoryOk (execBwait a s) := by
  unfold execBwait
  split <;> exact h

theorem execEngpush_memoryOk (f : Fifo) (a : Reg) (sc : Scope) : Leads State.memoryOk (execEngpush f a sc s) := by
  refine finish_leads _ ?_
  grind [Ends, Stop.state, !State.pushFifo_memoryOk, !State.advance_memoryOk]

theorem execEngpop_memoryOk (f : Fifo) (d : Reg) : Leads State.memoryOk (execEngpop f d s) := by
  refine finish_leads _ ?_
  grind [Ends, Stop.state, !State.popFifo_keeps State.memoryOk_access, !State.writeS_memoryOk]

end

end Sys2Proof.Machine

namespace Sys2Proof.Machine

/-! Every step keeps memory and tags in their canonical form: tasks, the supervisor and the host. Each lemma says that one function keeps the form; its
proof names the lemmas about the functions it calls. -/

section

variable {s : State} (h : s.memoryOk)
include h

/-! Instructions on tasks, fences and traps (R185 to R190, R194). -/

theorem State.spawnAnswer_memoryOk (d : Reg) {first : Except Stop State} (hfirst : Ends State.memoryOk id first) :
    Ends State.memoryOk id (s.spawnAnswer d first) := by
  unfold State.spawnAnswer
  split
  · exact State.writeS_memoryOk h ..
  · split
    · exact h
    · exact hfirst

theorem State.toUnit_memoryOk : Ends State.memoryOk id s.toUnit := by
  grind [State.toUnit, Ends, Stop.state, !State.release_memoryOk]

theorem State.loadAs_memoryOk (r : LaneRef) (p : BitVec 8) (a : Word) (n : Nat) : Ends State.memoryOk Prod.fst (s.loadAs r p a n) := by
  grind [State.loadAs, Ends, Stop.state, !State.setLaneAt_memoryOk, !State.readWords_memoryOk]

theorem State.unitRead_memoryOk (o : Origin) (a : Word) (n : Nat) : Ends State.memoryOk Prod.fst (s.unitRead o a n) := by
  grind [State.unitRead, Ends, Stop.state, !State.setLaneAt_memoryOk, !State.loadAs_memoryOk]

theorem State.recordCurve_memoryOk (o : Origin) (x : Vector Word 8) : Ends State.memoryOk Prod.fst (s.recordCurve o x) := by
  grind [State.recordCurve, Ends, Stop.state, !State.unitRead_memoryOk]

theorem State.recordSuccs_memoryOk (o : Origin) (x : Vector Word 8) : Ends State.memoryOk Prod.fst (s.recordSuccs o x) := by
  grind [State.recordSuccs, Ends, Stop.state, !State.unitRead_memoryOk]

theorem State.checkRecord_memoryOk (o : Origin) (die : Nat) (x : Vector Word 8) (val : Word) :
    Ends State.memoryOk Prod.fst (s.checkRecord o die x val) := by
  grind [State.checkRecord, Ends, Stop.state, !State.recordCurve_memoryOk, !State.recordSuccs_memoryOk]

theorem State.setSettings_memoryOk (die p : Nat) (x : Vector Word 8) : (s.setSettings die p x).memoryOk := h

theorem State.spawnWait_memoryOk (x : Checked) (tiles : Option (List Word)) : (s.spawnWait x tiles).state.memoryOk := by
  unfold State.spawnWait
  dsimp only
  split <;> exact h

theorem State.spawn_memoryOk (d : Reg) (x : Checked) (tiles : Option (List Word)) : Ends State.memoryOk id (s.spawn d x tiles) := by
  grind [State.spawn, Ends, Stop.state, !State.spawnWait_memoryOk, !State.writeS_memoryOk, !State.arriveAll_memoryOk]

theorem State.tspawnAt_memoryOk (d : Reg) (at_ : Word) (ws : List Word) : Ends State.memoryOk id (s.tspawnAt d at_ ws) := by
  grind [State.tspawnAt, Ends, Stop.state, !State.checkRecord_memoryOk, !State.writeS_memoryOk, !State.setSettings_memoryOk,
    !State.spawn_memoryOk]

theorem State.tspawn_memoryOk (d a : Reg) : Ends State.memoryOk id (s.tspawn d a) := by
  grind [State.tspawn, Ends, Stop.state, !State.spawnAnswer_memoryOk, !State.recordCheck_memoryOk, !State.toUnit_memoryOk,
    !State.readWords_memoryOk, !State.tspawnAt_memoryOk]

theorem execTspawn_memoryOk (d a : Reg) : Leads State.memoryOk (execTspawn d a s) := finish_leads _ (State.tspawn_memoryOk h ..)

theorem State.tspawnrAt_memoryOk (d : Reg) (tmpl arr : Word) (ws rs : List Word) :
    Ends State.memoryOk id (s.tspawnrAt d tmpl arr ws rs) := by
  grind [State.tspawnrAt, Ends, Stop.state, !State.checkRecord_memoryOk, !State.writeS_memoryOk, !State.spawn_memoryOk]

theorem State.tspawnr_memoryOk (d a b : Reg) : Ends State.memoryOk id (s.tspawnr d a b) := by
  unfold State.tspawnr
  dsimp only
  split <;> grind [Ends, Stop.state, !State.spawnAnswer_memoryOk, !State.recordCheck_memoryOk, !State.toUnit_memoryOk,
    !State.readWords_memoryOk, !State.tspawnrAt_memoryOk]

theorem execTspawnr_memoryOk (d a b : Reg) : Leads State.memoryOk (execTspawnr d a b s) := finish_leads _ (State.tspawnr_memoryOk h ..)

theorem State.tdep_memoryOk (a b : Word) : (s.tdep a b).1.memoryOk := by
  grind [State.tdep, !State.fire_memoryOk, !State.updTask_memoryOk]

theorem execTdep_memoryOk (d a b : Reg) : Leads State.memoryOk (execTdep d a b s) := by
  refine finish_leads _ ?_
  grind [Ends, Stop.state, !State.toUnit_memoryOk, !State.tdep_memoryOk, !State.writeS_memoryOk]

theorem State.traceTask_memoryOk (task : BitVec 16) (x : Nat) : (s.traceTask task x).memoryOk := State.trace_memoryOk h ..

theorem execTdone_memoryOk (d a : Reg) : Leads State.memoryOk (execTdone d a s) := by
  refine finish_leads _ ?_
  grind [Ends, Stop.state, !trapNow_memoryOk, !State.toUnit_memoryOk, !State.recordDone_memoryOk, !State.traceTask_memoryOk,
    !State.writeS_memoryOk, !State.setLane_memoryOk]

theorem execTtile_memoryOk (d a : Reg) : Leads State.memoryOk (execTtile d a s) := by
  refine finish_leads _ ?_
  grind [Ends, Stop.state, !trapNow_memoryOk, !State.toUnit_memoryOk, !State.traceTask_memoryOk, !State.writeS_memoryOk,
    !State.updTask_memoryOk, !State.fireEntries_memoryOk]

theorem execTnote_memoryOk (d a b : Reg) : Leads State.memoryOk (execTnote d a b s) := by
  refine finish_leads _ ?_
  grind [Ends, Stop.state, !State.toUnit_memoryOk, !State.writeS_memoryOk, !State.sendHw_memoryOk]

theorem execTval_memoryOk (d a b : Reg) : Leads State.memoryOk (execTval d a b s) := by
  refine finish_leads _ ?_
  grind [Ends, Stop.state, !trapNow_memoryOk, !State.toUnit_memoryOk, !State.writeS_memoryOk]

theorem State.tabort_memoryOk (id : Word) : (s.tabort id).1.memoryOk := by
  grind [State.tabort, !State.abandon_memoryOk, !State.flagAbandon_memoryOk]

theorem execTabort_memoryOk (d a : Reg) : Leads State.memoryOk (execTabort d a s) := by
  refine finish_leads _ ?_
  grind [Ends, Stop.state, !State.toUnit_memoryOk, !State.tabort_memoryOk, !State.writeS_memoryOk]

theorem State.fenced_memoryOk (i : Bool) : (s.fenced i).memoryOk := by
  unfold State.fenced
  split <;> exact h

theorem execFence_memoryOk (k : FenceKind) : Leads State.memoryOk (execFence k s) := by
  refine finish_leads _ ?_
  grind [Ends, Stop.state, !State.fenced_memoryOk, !State.setLane_memoryOk, !State.release_memoryOk]

theorem execTrap_memoryOk (e : BitVec 10) : Leads State.memoryOk (execTrap e s) :=
  finish_leads (.trap e) (trapNow_memoryOk h Cause.software (e.setWidth 64))

theorem State.trapReturn_memoryOk : s.trapReturn.memoryOk := h

theorem execTret_memoryOk : Leads State.memoryOk (execTret s) := by
  refine finish_leads _ ?_
  grind [Ends, Stop.state, !State.trapReturn_memoryOk, !trapNow_memoryOk]

theorem State.sleep_memoryOk (d a : Reg) : Ends State.memoryOk id (s.sleep d a) := by
  grind [State.sleep, Ends, Stop.state, !State.writeS_memoryOk, !trapNow_memoryOk]

/-! The supervisor's instructions and images (R194 to R196, R294 to R298). -/

theorem supOnly_memoryOk (i : Instr) {k : Except Stop State} (hk : Ends State.memoryOk id k) : Ends State.memoryOk id (supOnly i s k) := by
  unfold supOnly
  split
  · exact hk
  · exact h

theorem State.partset_memoryOk (r : LaneRef) (v : Word) : (s.partset r v).memoryOk := by
  unfold State.partset
  split <;> exact h

theorem execPartset_memoryOk (a : Reg) : Leads State.memoryOk (execPartset a s) := by
  refine finish_leads _ ?_
  grind [Ends, Stop.state, !supOnly_memoryOk, !trapNow_memoryOk, !State.advance_memoryOk, !State.partset_memoryOk]

theorem State.laneReset_memoryOk (r : LaneRef) : (s.laneReset r).memoryOk := by
  grind [State.laneReset, !State.withdraw_memoryOk, !State.recordDone_memoryOk, !State.dispatchNow_memoryOk, !State.endActivation_memoryOk]

theorem State.laneGate_memoryOk (op : Nat) (r : LaneRef) : (s.laneGate op r).memoryOk := by
  unfold State.laneGate
  grind [!State.setLaneAt_memoryOk, !State.laneReset_memoryOk]

theorem execLanegate_memoryOk (a : Reg) : Leads State.memoryOk (execLanegate a s) := by
  refine finish_leads _ (supOnly_memoryOk h _ ?_)
  split
  · exact h
  · split
    · exact h
    · exact State.memoryOk.foldl (State.advance_memoryOk h 32) (fun ht r => State.laneGate_memoryOk ht ..) _

theorem State.imageTarget_memoryOk (at_ : Word) : Ends State.memoryOk Prod.fst (s.imageTarget at_) := by
  unfold State.imageTarget
  dsimp only
  split <;> grind [Ends, Stop.state, !State.recordCheck_memoryOk, !State.readWords_memoryOk, !State.fates_keeps State.memoryOk_access]

theorem State.takeReply_memoryOk (x : Instr) : Leads State.memoryOk (s.takeReply x) := by
  unfold State.takeReply
  grind [Leads, !execLmap_memoryOk, !execAccrd_memoryOk, !execMbxtake_memoryOk, !execTspawn_memoryOk, !execTspawnr_memoryOk]

theorem State.saveAnswer_memoryOk (r : LaneRef) : (s.saveAnswer r).memoryOk := by
  grind [State.saveAnswer, Ends, Stop.state, Leads, State.memoryOk, !finish_leads, !State.complete_memoryOk, !State.takeReply_memoryOk]

theorem State.saveBegin_memoryOk (r : LaneRef) : (s.saveBegin r).memoryOk := h

theorem State.countLane_memoryOk (r : LaneRef) : (s.countLane r).memoryOk := by
  grind [State.countLane, !State.chargeTask_keeps State.memoryOk_access, !State.countErr_keeps State.memoryOk_access,
    !State.setCore_memoryOk]

theorem State.meetLost_memoryOk (r : LaneRef) (p : Nat → Bool) : (s.meetLost r p).memoryOk := by
  unfold State.meetLost
  dsimp only
  split
  · exact State.memoryOk.foldl (State.setLaneAt_memoryOk h r _) (fun ht _ => State.countLane_memoryOk ht r) _
  · exact h

theorem State.regionParts_memoryOk (r : LaneRef) : (s.regionParts r).1.memoryOk := by
  unfold State.regionParts
  refine State.memoryOk.foldl_fst (x := (s, [])) (fun {x} hx b => ?_) h _
  exact State.memoryOk.foldl_fst (β := List Word) (x := (x.1, [])) (fun hy i => State.homeWord_keeps State.memoryOk_access hy r _) hx _

theorem State.ringMessages_memoryOk (r : LaneRef) : (s.ringMessages r).1.memoryOk := by
  unfold State.ringMessages
  exact State.memoryOk.foldl_fst (x := (s, [])) (fun hx e => State.ringWords_memoryOk hx r e.slot 0 (4 * e.flits)) h _

theorem State.alwaysWords_memoryOk (r : LaneRef) : (s.alwaysWords r).1.memoryOk := State.ringMessages_memoryOk h ..

theorem State.imageBody_memoryOk (r : LaneRef) : (s.imageBody r).1.memoryOk := by
  grind [State.imageBody, !State.regionParts_memoryOk, !State.alwaysWords_memoryOk]

theorem State.imageWords_memoryOk (r : LaneRef) (inc : Bool) : (s.imageWords r inc).1.memoryOk := by
  grind [State.imageWords, !State.imageBody_memoryOk]

theorem State.imageStatus_memoryOk (at_ : Word) (t : Target) (status : Nat) (size : Option Nat) :
    (s.imageStatus at_ t status size).memoryOk := by
  unfold State.imageStatus
  grind [!State.drainLane_memoryOk, !State.post_memoryOk, !State.advance_memoryOk]

theorem State.storeImage_memoryOk (r : LaneRef) (a : Word) (ws : List Word) (n : Nat) :
    Ends State.memoryOk Prod.fst (s.storeImage r a ws n) := by
  induction ws generalizing s a n with
  | nil => exact h
  | cons w ws ih =>
    have hf := State.fates_keeps State.memoryOk_access h r a 64 .store
    unfold State.storeImage
    split
    · exact h
    · split
      · next e => exact hf.of_error e
      · next e => exact Ends.done (hf.of_error e)
      · next t g e =>
        have ht : t.memoryOk := hf.of_ok e
        split
        · exact ht
        · exact ih (State.postStore_memoryOk ht ..) _ _

theorem State.cleanLane_memoryOk (r : LaneRef) : (s.cleanLane r).memoryOk := h

theorem State.imageSave_memoryOk (at_ : Word) (inc : Bool) : Ends State.memoryOk id (s.imageSave at_ inc) := by
  grind [State.imageSave, Ends, Stop.state, !State.imageTarget_memoryOk, !State.saveAnswer_memoryOk, !State.saveBegin_memoryOk,
    !State.drain_keeps State.memoryOk_access, !State.withdraw_memoryOk, !State.meetLost_memoryOk, !State.imageWords_memoryOk,
    !State.setLaneAt_memoryOk, !State.imageStatus_memoryOk, !State.storeImage_memoryOk, !State.drainLane_memoryOk,
    !State.cleanLane_memoryOk]

theorem execImgsave_memoryOk (a : Reg) (inc : Bool) : Leads State.memoryOk (execImgsave a inc s) := by
  refine finish_leads _ ?_
  grind [Ends, Stop.state, !supOnly_memoryOk, !State.imageSave_memoryOk]

theorem State.loadImage_memoryOk (r : LaneRef) (a : Word) (n : Nat) (ws : List Word) :
    Ends State.memoryOk Prod.fst (s.loadImage r a n ws) := by
  induction n generalizing s a ws with
  | zero => exact h
  | succ n ih =>
    have hx := State.readBits_keeps State.memoryOk_access h r a 64 .table
    unfold State.loadImage
    split
    · exact h
    · split
      · next e => exact hx.of_error e
      · next e => exact Ends.done (hx.of_error e)
      · next e => exact ih (hx.of_ok e :) _ _

theorem State.holdMessages_memoryOk (r : LaneRef) : (s.holdMessages r).1.memoryOk := by
  grind [State.holdMessages, !State.ringMessages_memoryOk, !State.setLaneAt_memoryOk]

theorem State.coreStores_memoryOk (pa : Nat) (ws : List Word) (p : Nat) : (s.coreStores pa ws p).memoryOk := by
  unfold State.coreStores
  exact h.foldl (fun ht w => State.storeAt_keeps State.memoryOk_access ht ..) _

theorem State.setAccSet_memoryOk (cl n : Nat) (a : AccSet) : (s.setAccSet cl n a).memoryOk := h

/-- An image is loaded by stores to the core's scratchpad and by registers (R296, R298). -/
theorem State.applyImage_memoryOk (r : LaneRef) (w0 : Word) (b : ImageBody) {t : State} (he : s.applyImage r w0 b = some t) :
    t.memoryOk := by
  have hheld := State.holdMessages_memoryOk h r
  unfold State.applyImage at he
  split at he
  · cases he
  · split at he
    · cases he
    · split at he
      · cases he
      · split at he
        · cases he
        · extract_lets mbx at he
          clear_value mbx
          split at he
          · cases he
          · extract_lets pool at he
            clear_value pool
            split at he
            · cases he
            · split at he
              next u held hu =>
              rw [hu] at hheld
              extract_lets l l' s1 s2 s3 s4 k s5 at he
              have h1 : s1.memoryOk := State.setLaneAt_memoryOk hheld ..
              have h2 : s2.memoryOk := h1.foldl (fun hu e => State.coreStores_memoryOk hu ..) _
              have h3 : s3.memoryOk := h2.foldl (fun hu e => State.coreStores_memoryOk hu ..) _
              have h4 : s4.memoryOk := iteInduction (motive := State.memoryOk) (fun _ => State.setAccSet_memoryOk h3 ..) fun _ => h3
              have h5 : s5.memoryOk := by
                unfold s5
                split
                · exact State.setCore_memoryOk h4 ..
                · exact h4
              cases he
              exact h5.of_eq rfl rfl

theorem State.imageLoad_memoryOk (at_ : Word) : Ends State.memoryOk id (s.imageLoad at_) := by
  have htarget := State.imageTarget_memoryOk h at_
  unfold State.imageLoad
  split
  · next e => exact htarget.of_error e
  · next t r d g e =>
    have ht : t.memoryOk := htarget.of_ok e
    have hhead := State.loadImage_memoryOk ht t.cur (d.getD 1 0) 4 []
    dsimp only
    split
    · exact State.imageStatus_memoryOk ht ..
    · split
      · exact State.imageStatus_memoryOk ht ..
      · split
        · next e => exact hhead.of_error e
        · next e => exact State.imageStatus_memoryOk (hhead.of_ok e :) ..
        · next u ws e =>
          have hu : u.memoryOk := hhead.of_ok e
          have hbody (a : Word) (n : Nat) := State.loadImage_memoryOk hu u.cur a n []
          split
          · exact State.imageStatus_memoryOk hu ..
          · split
            · exact State.imageStatus_memoryOk hu ..
            · split
              · exact State.imageStatus_memoryOk hu ..
              · split
                · next e => exact (hbody _ _).of_error e
                · next e => exact State.imageStatus_memoryOk ((hbody _ _).of_ok e :) ..
                · next v xs e =>
                  have hv : v.memoryOk := (hbody _ _).of_ok e
                  split
                  · exact State.imageStatus_memoryOk hv ..
                  · split
                    · exact State.imageStatus_memoryOk hv ..
                    · next e =>
                      have hw := State.applyImage_memoryOk hv _ _ _ e
                      exact State.imageStatus_memoryOk (State.setLaneAt_memoryOk (State.cleanLane_memoryOk hw r) ..) ..

theorem execImgload_memoryOk (a : Reg) : Leads State.memoryOk (execImgload a s) := by
  refine finish_leads _ ?_
  grind [Ends, Stop.state, !supOnly_memoryOk, !State.imageLoad_memoryOk]

/-! Control registers, compact forms and faults of jobs. -/

theorem execCrr_memoryOk (d : Reg) (n : BitVec 12) : Leads State.memoryOk (execCrr d n s) := by
  refine finish_leads _ ?_
  grind [Ends, Stop.state, !trapNow_memoryOk, !State.writeS_memoryOk]

theorem State.crSet_memoryOk (r : LaneRef) (n : Nat) (v : Word) : (s.crSet r n v).memoryOk := by
  unfold State.crSet
  split <;> exact h

theorem execCrw_memoryOk (a : Reg) (n : BitVec 12) : Leads State.memoryOk (execCrw a n s) := by
  refine finish_leads _ ?_
  grind [Ends, Stop.state, !trapNow_memoryOk, !State.advance_memoryOk, !State.crSet_memoryOk]

theorem execBkpt_memoryOk (e : BitVec 10) : Leads State.memoryOk (execBkpt e s) :=
  finish_leads (.bkpt e) (trapNow_memoryOk h Cause.breakpoint (e.setWidth 64))

theorem State.endPast_memoryOk (r : LaneRef) : (s.endPast r).memoryOk := by
  grind [State.endPast, Ends, Stop.state, !State.endh_memoryOk]

theorem State.compactTo_memoryOk (target : Word) : (s.compactTo target).memoryOk := by
  grind [State.compactTo, !State.endPast_memoryOk, !State.branchTo_memoryOk]

theorem State.compactBranch_memoryOk (c : BCond) (a : Reg) (off : BitVec 6) : (s.compactBranch c a off).memoryOk := by
  grind [State.compactBranch, !State.compactTo_memoryOk, !State.advance_memoryOk]

theorem State.takeJobFault_memoryOk (r : LaneRef) (c : BitVec 8) (id : BitVec 32) (report : List Word) :
    (s.takeJobFault r c id report).memoryOk := by
  grind [State.takeJobFault, !State.withdraw_memoryOk, !State.trace_memoryOk, !State.sendReport_memoryOk, !State.setLaneAt_memoryOk]

theorem execJobFaultTrap_memoryOk (core lane : Nat) : Leads State.memoryOk (execJobFaultTrap core lane s) := by
  grind [execJobFaultTrap, Leads, !State.takeJobFault_memoryOk, !State.setLaneAt_memoryOk]

theorem execWatchdog_memoryOk (core lane : Nat) : Leads State.memoryOk (execWatchdog core lane s) := by
  grind [execWatchdog, Leads, !State.takeWatchdog_memoryOk]

theorem execPromiseMissed_memoryOk (core lane : Nat) : Leads State.memoryOk (execPromiseMissed core lane s) := by
  grind [execPromiseMissed, Ends, Stop.state, Leads, State.memoryOk, !finish_leads, !State.sleep_memoryOk]

theorem execSleepTimer_memoryOk (core lane : Nat) : Leads State.memoryOk (execSleepTimer core lane s) := by
  grind [execSleepTimer, Ends, Stop.state, Leads, State.memoryOk, !finish_leads, !State.sleep_memoryOk]

/-! Accesses of the host to homes (R318 to R323). -/

theorem State.answerHost_memoryOk (byteAddr width : Nat) (x : Option Word) : (s.answerHost byteAddr width x).memoryOk := h

theorem State.launchStore_memoryOk (v : Word) : (s.launchStore v).memoryOk := by
  unfold State.launchStore
  extract_lets p page at_
  split
  · exact h
  · generalize List.range 8 = ks
    refine State.memoryOk.of_eq (State.memoryOk.foldl_fst (β := List Word) (x := (s, [])) (fun hx k => ?_) h ks) rfl rfl
    exact State.readHome_keeps State.memoryOk_access hx (at_ + 8 * k) p none

theorem State.pageWrite_memoryOk (off : Nat) (x : Word) : (s.pageWrite off x).memoryOk := by
  unfold State.pageWrite
  split
  · exact State.launchStore_memoryOk h x
  · split
    · exact h.of_eq rfl rfl
    · split
      · exact h.of_eq rfl rfl
      · exact h

theorem State.mergeOne_memoryOk (op : HostOp) (byteAddr width : Nat) (data : Word) : (s.mergeOne op byteAddr width data).memoryOk := by
  grind [State.mergeOne, State.memoryOk, !State.answerHost_memoryOk, !State.pageWrite_memoryOk, !State.pendIdentity_memoryOk,
    !State.storeAt_keeps State.memoryOk_access, !State.rmwAt_keeps State.memoryOk_access]

theorem State.hostMerge_memoryOk (op : HostOp) (byteAddr width : Nat) (data : Word) : (s.hostMerge op byteAddr width data).memoryOk := by
  unfold State.hostMerge
  split
  · exact h
  · split
    · exact State.mergeOne_memoryOk h ..
    · split
      · exact h.foldl (fun ht i => State.mergeOne_memoryOk ht ..) _
      · exact State.answerHost_memoryOk h ..

theorem execHomeMerge_memoryOk (src : MergeSrc) : Leads State.memoryOk (execHomeMerge src s) := by
  unfold execHomeMerge
  grind [Leads, !State.arriveAt_keeps State.memoryOk_access, !State.hostMerge_memoryOk]

theorem State.lookAgain_memoryOk (r : LaneRef) : (s.lookAgain r).memoryOk := by
  grind [State.lookAgain, State.memoryOk, !State.tryRequest_keeps State.memoryOk_access]

theorem State.readWith_memoryOk {one : State → Nat → Nat → State × Option Nat}
    (hone : ∀ {t : State} (a w : Nat), t.memoryOk → (one t a w).1.memoryOk) (byteAddr width : Nat) :
    (s.readWith one byteAddr width).memoryOk := by
  unfold State.readWith
  split
  · exact h
  · split
    · exact State.answerHost_memoryOk (hone _ _ h) ..
    · split
      · exact State.answerHost_memoryOk (State.memoryOk.foldl_fst (β := Nat) (x := (s, 0)) (fun hx i => hone _ _ hx) h _) ..
      · exact State.answerHost_memoryOk h ..

theorem State.readOne_memoryOk (byteAddr width : Nat) : (s.readOne byteAddr width).1.memoryOk := by
  grind [State.readOne, !State.readHome_keeps State.memoryOk_access]

theorem State.hostRead_memoryOk (byteAddr width : Nat) : (s.hostRead byteAddr width).memoryOk :=
  State.readWith_memoryOk h (fun a w ht => State.readOne_memoryOk ht a w) byteAddr width

theorem execHomeRead_memoryOk (src : ReadSrc) : Leads State.memoryOk (execHomeRead src s) := by
  unfold execHomeRead
  grind [Leads, !State.lookAgain_memoryOk, !State.hostRead_memoryOk]

theorem execParkedRequestReissue_memoryOk (core lane : Nat) : Leads State.memoryOk (execParkedRequestReissue core lane s) := by
  grind [execParkedRequestReissue, Leads, !State.arriveRequest_memoryOk]

theorem execTranslationWalk_memoryOk (die sid : Nat) (va : Word) (kind : Access) :
    Leads State.memoryOk (execTranslationWalk die sid va kind s) := by
  grind [execTranslationWalk, Leads, !State.translate_keeps State.memoryOk_access]

end

end Sys2Proof.Machine

namespace Sys2Proof.Machine

/-! Every step keeps memory and tags in their canonical form: engines, messages, pools and power. Each lemma says that one function keeps the form; its
proof names the lemmas about the functions it calls. -/

section

variable {s : State} (h : s.memoryOk)
include h

/-! Jobs of the matrix engine and its teams (R144 to R169). -/

omit h in
theorem actFault_memoryOk {α : Type} {f : α → State} (spill : Bool) {x : Except Stop α} (hx : Ends State.memoryOk f x) :
    Ends State.memoryOk f (actFault spill x) := by
  match x with
  | .ok _ => exact hx
  | .error (.trap _ _ _) => exact hx
  | .error (.wait _ _) => exact hx

theorem State.jobLoad_memoryOk (r : LaneRef) (w : Writer) (a : Word) : Ends State.memoryOk Prod.fst (s.jobLoad r w a) := by
  grind [State.jobLoad, Ends, Stop.state, !State.fates_keeps State.memoryOk_access, !State.drain_keeps State.memoryOk_access,
    !State.readPart_keeps State.memoryOk_access]

theorem State.jobStore_memoryOk (r : LaneRef) (w : Writer) (a m v : Word) : Ends State.memoryOk id (s.jobStore r w a m v) := by
  grind [State.jobStore, Ends, Stop.state, !State.fates_keeps State.memoryOk_access, !State.post_memoryOk]

theorem State.readSlot_memoryOk (cl : Nat) (r : LaneRef) (n : Nat) (row : Option Nat) : (s.readSlot cl r n row).memoryOk := by
  unfold State.readSlot
  extract_lets a mine
  split
  · exact h
  · split
    · exact State.memoryOk.foldl (State.setAccSet_memoryOk h ..) (fun ht _ => State.countLane_memoryOk ht r) _
    · exact h

theorem State.multicast_memoryOk (t : Team) (cls : List Nat) (col : Bool) (x : Stream) : (s.multicast t cls col x).memoryOk := by
  unfold State.multicast
  exact h.foldl (fun hu c => State.setCluster_memoryOk hu ..) _

theorem State.jobAct_memoryOk (cl : Nat) (r : LaneRef) (j : MJob) (x : JobAct) : Ends State.memoryOk Prod.fst (s.jobAct cl r j x) := by
  cases x with
  | load spill a =>
    have hx := actFault_memoryOk spill (State.jobLoad_memoryOk h r (.mjob j.id) a)
    unfold State.jobAct
    dsimp only
    split
    · next e => exact hx.of_error e
    · next e => exact (hx.of_ok e :)
  | store spill a m v =>
    have hx := actFault_memoryOk spill (State.jobStore_memoryOk h r (.mjob j.id) a m v)
    unfold State.jobAct
    dsimp only
    split
    · next e => exact hx.of_error e
    · next e => exact Ends.done (hx.of_ok e)
  | quad i => exact State.readPart_keeps State.memoryOk_access h r false _
  | edit n c x => exact State.setAccSet_memoryOk h ..
  | read n row => exact State.readSlot_memoryOk h ..
  | publish col x =>
    unfold State.jobAct
    dsimp only
    split
    · exact State.multicast_memoryOk h ..
    · exact h
  | await col =>
    unfold State.jobAct
    dsimp only
    split <;> exact h
  | set => exact h
  | spillBase => exact h

theorem Prog.run_memoryOk (cl : Nat) (r : LaneRef) (j : MJob) (p : Prog MOut) (n : Option Nat) : (Prog.run cl r j p s n).1.memoryOk := by
  induction p generalizing s n with
  | done x => exact h
  | fault c a l => exact h
  | act l o k ih =>
    have hact := State.jobAct_memoryOk h cl r j o
    unfold Prog.run
    split
    · exact h
    · split
      · next e => exact ih _ (hact.of_ok e :) _
      · next e => exact hact.of_error e
      · exact h

theorem State.workMatrix_memoryOk (cl : Nat) (m : MRun) (n : Option Nat) : (s.workMatrix cl m n).1.memoryOk := by
  grind [State.workMatrix, !Prog.run_memoryOk]

theorem State.goMatrix_memoryOk (cl : Nat) (n : Option Nat) : (s.goMatrix cl n).memoryOk := by
  grind [State.goMatrix, !State.workMatrix_memoryOk, !State.setCluster_memoryOk]

theorem State.startMatrix_memoryOk (cl : Nat) : (s.startMatrix cl).memoryOk := by
  grind [State.startMatrix, !State.goMatrix_memoryOk, !State.setCluster_memoryOk]

theorem State.chargeJob_memoryOk (r : LaneRef) (cause : BitVec 8) (id : BitVec 32) (report : List Word) :
    (s.chargeJob r cause id report).memoryOk := by
  grind [State.chargeJob, !State.sendReport_memoryOk, !State.setLaneAt_memoryOk]

theorem State.retireMatrix_memoryOk (cl : Nat) (m : MRun) (e : MEnd) : (s.retireMatrix cl m e).memoryOk := by
  unfold State.retireMatrix
  grind [!State.setAccSet_memoryOk, !State.setCore_memoryOk, !State.setCluster_memoryOk, !State.settleDropped_keeps State.memoryOk_access,
    !State.chargeJob_memoryOk]

theorem State.finishMatrix_memoryOk (cl : Nat) : (s.finishMatrix cl).memoryOk := by
  grind [State.finishMatrix, !State.goMatrix_memoryOk, !State.drain_keeps State.memoryOk_access, !State.retireMatrix_memoryOk]

theorem State.startTeam_memoryOk (key : Nat × Nat × BitVec 8) (cls : List Nat) : (s.startTeam key cls).memoryOk := by
  unfold State.startTeam
  exact h.foldl (fun ht c => State.setCluster_memoryOk ht ..) _

theorem State.tryTeam_memoryOk (key : Nat × Nat × BitVec 8) : (s.tryTeam key).memoryOk := by
  grind [State.tryTeam, !State.startTeam_memoryOk]

theorem State.reserveTeam_memoryOk (key : Nat × Nat × BitVec 8) : (s.reserveTeam key).memoryOk := by
  grind [State.reserveTeam, !State.tryTeam_memoryOk, !State.setCluster_memoryOk]

/-! Jobs of the Brook engine (R177 to R184). -/

theorem State.jobLoads_memoryOk (r : LaneRef) (w : Writer) (a : Word) (n : Nat) : Ends State.memoryOk Prod.fst (s.jobLoads r w a n) := by
  induction n generalizing s a with
  | zero => exact h
  | succ n ih =>
    have hx := State.jobLoad_memoryOk h r w a
    unfold State.jobLoads
    split
    · next e => exact hx.of_error e
    · next e =>
      have hxs := ih (hx.of_ok e :) (a + 64)
      split
      · next e => exact hxs.of_error e
      · next e => exact (hxs.of_ok e :)

theorem State.jobStores_memoryOk (r : LaneRef) (w : Writer) (xs : List (Word × Word × Word)) :
    Ends State.memoryOk id (s.jobStores r w xs) := by
  induction xs generalizing s with
  | nil => exact h
  | cons x xs ih =>
    have hx := State.jobStore_memoryOk h r w x.1 x.2.1 x.2.2
    unfold State.jobStores
    split
    · next e => exact hx.of_error e
    · next e => exact ih (hx.of_ok e)

theorem State.brookPiece_memoryOk (b : BRun) : Ends State.memoryOk Prod.fst (s.brookPiece b) := by
  grind [State.brookPiece, Ends, Stop.state, !State.jobLoads_memoryOk, !State.jobStores_memoryOk, !State.drain_keeps State.memoryOk_access,
    !State.blockAt_memoryOk]

theorem State.brookMove_memoryOk (b : BRun) (n : Nat) : (s.brookMove b n).1.memoryOk := by
  induction n generalizing s b with
  | zero => exact h
  | succ n ih =>
    have hx := State.brookPiece_memoryOk h b
    unfold State.brookMove
    split
    · exact h
    · split
      · next e => exact ih (hx.of_ok e :) _
      · next e => exact hx.of_error e
      · exact h

theorem State.startBrook_memoryOk (cl pieces : Nat) : (s.startBrook cl pieces).memoryOk := by
  grind [State.startBrook, !State.brookMove_memoryOk, !State.setCluster_memoryOk]

theorem State.drainBrook_memoryOk (c : Nat) (j : BJob) : (s.drainBrook c j).memoryOk := State.drain_keeps State.memoryOk_access h ..

theorem State.staleArrival_memoryOk (r : LaneRef) (id : BitVec 32) : (s.staleArrival r id).memoryOk := h

theorem State.arriveBarrier_memoryOk (c : Nat) (j : BJob) : (s.arriveBarrier c j).memoryOk := by
  grind [State.arriveBarrier, !State.dropAccess_keeps State.memoryOk_access, !State.drainPath_memoryOk,
    !State.readHome_keeps State.memoryOk_access, !State.setTag_memoryOk, !State.poke_keeps State.memoryOk_access,
    !State.reexamine_keeps State.memoryOk_access, !State.staleArrival_memoryOk]

theorem State.retireBrook_memoryOk (cl : Nat) (b : BRun) : (s.retireBrook cl b).memoryOk := by
  grind [State.retireBrook, !State.setCore_memoryOk, !State.setCluster_memoryOk, !State.settleDropped_keeps State.memoryOk_access,
    !State.chargeJob_memoryOk]

theorem State.endBrook_memoryOk (cl : Nat) (b : BRun) : (s.endBrook cl b).memoryOk := by
  grind [State.endBrook, !State.setCluster_memoryOk, !State.drainBrook_memoryOk, !State.arriveBarrier_memoryOk, !State.retireBrook_memoryOk]

theorem State.retireUnrun_memoryOk (cl core : Nat) (j : BJob) : (s.retireUnrun cl core j).memoryOk := by
  grind [State.retireUnrun, !State.retireBrook_memoryOk, !State.arriveBarrier_memoryOk]

theorem State.supersede_memoryOk (cl core : Nat) (j : BJob) : (s.supersede cl core j).memoryOk := by
  grind [State.supersede, !State.retireUnrun_memoryOk, !State.setCore_memoryOk]

theorem State.evictNow_memoryOk (cl : Nat) (e : Evict) : (s.evictNow cl e).memoryOk := by
  grind [State.evictNow, !State.setCluster_memoryOk, !State.endBrook_memoryOk, !State.supersede_memoryOk]

theorem State.evictAll_memoryOk (cl : Nat) : (s.evictAll cl).memoryOk := by
  unfold State.evictAll
  exact State.memoryOk.foldl (State.setCluster_memoryOk h ..) (fun ht e => State.evictNow_memoryOk ht cl e) _

theorem State.finishBrook_memoryOk (cl : Nat) : (s.finishBrook cl).memoryOk := by
  grind [State.finishBrook, !State.evictAll_memoryOk, !State.brookMove_memoryOk, !State.endBrook_memoryOk, !State.setCluster_memoryOk]

theorem State.barrierNow_memoryOk (cl : Nat) : (s.barrierNow cl).memoryOk := by
  grind [State.barrierNow, !State.drainBrook_memoryOk, !State.arriveBarrier_memoryOk, !State.setCluster_memoryOk]

theorem execResidencyEviction_memoryOk (cluster : Nat) : Leads State.memoryOk (execResidencyEviction cluster s) := by
  grind [execResidencyEviction, Leads, !State.evictNow_memoryOk, !State.setCluster_memoryOk]

/-! Accesses to device registers by rows (R58). -/

omit h in
theorem accessEnd_leads {x : Except Stop State} (hx : Ends State.memoryOk id x) : Leads State.memoryOk (accessEnd x) := by
  match x with
  | .ok _ => exact hx
  | .error (.trap _ _ _) => exact State.takeTrap_memoryOk hx ..
  | .error (.wait _ _) => exact hx

theorem State.devRowStore_memoryOk (off : Nat) (v : Word) (sc : Scope) : Ends State.memoryOk id (s.devRowStore off v sc) := by
  grind [State.devRowStore, Ends, Stop.state, !State.checkAccess_keeps State.memoryOk_access, !State.devStore_memoryOk]

theorem execMcmdqPush_memoryOk (sc : Scope) (cmd : Word) : Leads State.memoryOk (execMcmdqPush sc cmd s) := by
  grind [execMcmdqPush, Ends, Stop.state, Leads, !accessEnd_leads, !State.devRowStore_memoryOk]

theorem State.devRowLoad_memoryOk (off : Nat) (d : Reg) : Ends State.memoryOk id (s.devRowLoad off d) := by
  grind [State.devRowLoad, Ends, Stop.state, !State.checkAccess_keeps State.memoryOk_access, !State.devLoad_keeps State.memoryOk_access,
    !State.setS_memoryOk]

theorem execMresqPop_memoryOk (d : Reg) : Leads State.memoryOk (execMresqPop d s) := by
  grind [execMresqPop, Ends, Stop.state, Leads, !accessEnd_leads, !State.devRowLoad_memoryOk]

theorem execBcmdqPush_memoryOk (sc : Scope) (cmd : Word) : Leads State.memoryOk (execBcmdqPush sc cmd s) := by
  grind [execBcmdqPush, Ends, Stop.state, Leads, !accessEnd_leads, !State.devRowStore_memoryOk]

theorem execBresqPop_memoryOk (d : Reg) : Leads State.memoryOk (execBresqPop d s) := by
  grind [execBresqPop, Ends, Stop.state, Leads, !accessEnd_leads, !State.devRowLoad_memoryOk]

theorem execDropcntClear_memoryOk (v : Word) : Leads State.memoryOk (execDropcntClear v s) := by
  grind [execDropcntClear, Ends, Stop.state, Leads, !accessEnd_leads, !State.devRowStore_memoryOk]

theorem execErrcntClear_memoryOk (v : Word) : Leads State.memoryOk (execErrcntClear v s) := by
  grind [execErrcntClear, Ends, Stop.state, Leads, !accessEnd_leads, !State.devRowStore_memoryOk]

theorem execDeviceRegisterWrite_memoryOk (off : BitVec 16) (v : Word) : Leads State.memoryOk (execDeviceRegisterWrite off v s) := by
  grind [execDeviceRegisterWrite, Ends, Stop.state, Leads, !accessEnd_leads, !State.devRowStore_memoryOk]

/-! Messages and their arrival (R201 to R214). -/

theorem State.dropMessage_memoryOk (src : Nat) (lane : Option Nat) (hd : Word) : (s.dropMessage src lane hd).memoryOk := by
  unfold State.dropMessage
  grind [!State.countDropcnt_keeps State.memoryOk_access, !State.countDrop_keeps State.memoryOk_access,
    !State.dropNotice_keeps State.memoryOk_access]

theorem State.sendRemote_memoryOk (p k : Nat) (ws : Msg) : (s.sendRemote p k ws).memoryOk := by
  grind [State.sendRemote, State.memoryOk, !State.countDrop_keeps State.memoryOk_access]

theorem State.injectFrom_memoryOk (c l : Nat) {t : State} (he : s.injectFrom c l = some t) : t.memoryOk := by
  grind [State.injectFrom, State.memoryOk, !State.setCore_memoryOk, !State.dropMessage_memoryOk, !State.sendRemote_memoryOk]

theorem State.inject_memoryOk (c : Nat) : (s.inject c).memoryOk := by
  unfold State.inject
  split
  · exact h
  · split
    · next he => exact State.injectFrom_memoryOk h _ _ he
    · dsimp only
      split
      · exact h.getD fun he => State.injectFrom_memoryOk h _ _ he
      · exact h

theorem State.unflight_memoryOk (j : Nat) : (s.unflight j).memoryOk := by
  grind [State.unflight, State.memoryOk, !State.passLinks_keeps State.memoryOk_access]

theorem State.holdAt_memoryOk (f : Flight) : (s.holdAt f).memoryOk := by
  grind [State.holdAt, State.memoryOk, !State.passLinks_keeps State.memoryOk_access]

theorem State.take_memoryOk (c k : Nat) (ok : MsgKind → Bool) {f : State → Flight → Option State}
    (hf : ∀ {t u : State} (m : Flight), t.memoryOk → f t m = some u → u.memoryOk) : (s.take_ c k ok f).memoryOk := by
  unfold State.take_
  split
  · exact h
  · next j m _ =>
    have hj := State.unflight_memoryOk h j
    dsimp only
    split
    · exact h
    · split
      · exact State.dropMessage_memoryOk hj ..
      · exact State.memoryOk.getD (State.holdAt_memoryOk h m) fun he => hf m hj he

theorem State.acceptRing_memoryOk (r : LaneRef) (ws : Msg) (tile : Option (Nat × Nat)) (pool : Option Pool) (from_ : Sender) {t : State}
    (he : s.acceptRing r ws tile pool from_ = some t) :
    t.memoryOk := by
  grind [State.acceptRing, !State.coreStores_memoryOk, !State.setLaneAt_memoryOk]

theorem State.enterRing_memoryOk (m : Flight) {t : State} (he : s.enterRing m = some t) : t.memoryOk := by
  grind [State.enterRing, → State.acceptRing_memoryOk]

theorem State.storePieces_memoryOk (core off : Nat) (xs : List Nat) (p : Nat) : (s.storePieces core off xs p).memoryOk := by
  unfold State.storePieces
  exact h.foldl (fun ht x => State.storeAt_keeps State.memoryOk_access ht ..) _

theorem State.placeRow_memoryOk (r : LaneRef) (p : Pool) (ws : Msg) {t : State} (he : s.placeRow r p ws = some t) : t.memoryOk := by
  grind [State.placeRow, !State.coreStores_memoryOk, !State.storePieces_memoryOk, !State.setLaneAt_memoryOk]

theorem State.refuseRecord_memoryOk (core : Nat) (hd : Word) (sender : Option LaneRef) : (s.refuseRecord core hd sender).memoryOk := by
  unfold State.refuseRecord
  split <;> exact h

theorem State.intake_memoryOk (o : Origin) (die : Nat) (x : Vector Word 8) (core : Nat) (hd : Word) (sender : Option LaneRef) {t : State}
    (he : s.intake o die x core hd sender = some t) :
    t.memoryOk := by
  grind [State.intake, Ends, Stop.state, !State.refuseRecord_memoryOk, !State.checkRecord_memoryOk, !State.setSettings_memoryOk,
    !State.arriveAll_memoryOk, !State.setDie_memoryOk]

theorem State.recordIntake_memoryOk (m : Flight) {t : State} (he : s.recordIntake m = some t) : t.memoryOk := by
  grind [State.recordIntake, !State.refuseRecord_memoryOk, → State.intake_memoryOk]

theorem State.leaveBuffer_memoryOk (x : Eject) {t : State} (he : s.leaveBuffer x = some t) : t.memoryOk := by
  unfold State.leaveBuffer at he
  split at he
  · exact State.enterRing_memoryOk h _ he
  · obtain ⟨y, _, hy⟩ := Option.bind_eq_some_iff.1 he
    exact State.placeRow_memoryOk h _ _ _ hy
  · obtain ⟨y, _, hy⟩ := Option.bind_eq_some_iff.1 he
    exact State.placeRow_memoryOk h _ _ _ hy
  · exact State.recordIntake_memoryOk h _ he

theorem State.retryBuffer_memoryOk (r : LaneRef) : (s.retryBuffer r).memoryOk := by
  unfold State.retryBuffer
  split
  · exact h
  · next x _ =>
    have ht := State.setLaneAt_memoryOk h r { s.laneAt r with ejbuf := none }
    dsimp only
    split
    · exact State.dropMessage_memoryOk ht ..
    · exact h.getD fun he => State.leaveBuffer_memoryOk ht x he

theorem State.retryCore_memoryOk (c : Nat) : (s.retryCore c).memoryOk := by
  unfold State.retryCore
  exact h.foldl (fun ht l => State.retryBuffer_memoryOk ht ⟨c, l⟩) _

theorem State.enterBuffer_memoryOk (m : Flight) (w : Wanted) {t : State} (he : s.enterBuffer m w = some t) : t.memoryOk := by
  grind [State.enterBuffer, !State.setLaneAt_memoryOk]

theorem State.ringMessage_memoryOk (m : Flight) {t : State} (he : s.ringMessage m = some t) : t.memoryOk := by
  grind [State.ringMessage, → State.enterRing_memoryOk, → State.enterBuffer_memoryOk]

theorem execMessageEjection_memoryOk (core k : Nat) : Leads State.memoryOk (execMessageEjection core k s) :=
  State.take_memoryOk (State.retryCore_memoryOk h core) core k _ fun m ht he => State.ringMessage_memoryOk ht m he

theorem execDispatch_memoryOk (core lane : Nat) : Leads State.memoryOk (execDispatch core lane s) := State.dispatchNow_memoryOk h ..

theorem execMailboxPostArrival_memoryOk (core k : Nat) : Leads State.memoryOk (execMailboxPostArrival core k s) := by
  grind [execMailboxPostArrival, Leads, !State.take_memoryOk, !State.setCore_memoryOk]

theorem State.storeWordsAs_memoryOk (r : LaneRef) (p : BitVec 8) (a : Word) (ws : List Word) {t : State}
    (he : s.storeWordsAs r p a ws = some t) : t.memoryOk := by
  induction ws generalizing s a with
  | nil =>
    cases he
    exact h
  | cons w ws ih =>
    unfold State.storeWordsAs at he
    split at he
    · cases he
    · next hw => exact ih (State.storeAs_memoryOk h _ _ _ _ hw) _ he

theorem State.noticeAt_memoryOk (r : LaneRef) (ws : List Word) {t : State} (he : s.noticeAt r ws = some t) : t.memoryOk := by
  have hlost {u : State} (hu : some (s.countDropcnt r.core 1) = some u) : u.memoryOk := by
    cases hu
    exact State.countDropcnt_keeps State.memoryOk_access h r.core 1
  unfold State.noticeAt at he
  dsimp only at he
  split at he
  · exact hlost he
  · have hx := State.loadAs_memoryOk h r (s.laneAt r).ptag (clearLow (s.laneAt r).noticeq 8 - 64) 1
    split at he
    · cases he
    · exact hlost he
    · next u xs hu =>
      have hu : u.memoryOk := hx.of_ok hu
      split at he
      · cases he
        exact State.setLaneAt_memoryOk hu ..
      · split at he
        · exact hlost he
        · next hv =>
          have hv := State.storeWordsAs_memoryOk hu _ _ _ _ hv
          split at he
          · exact hlost he
          · next hw =>
            cases he
            exact State.storeAs_memoryOk hv _ _ _ _ hw

theorem execNoticeArrival_memoryOk (core k : Nat) : Leads State.memoryOk (execNoticeArrival core k s) := by
  grind [execNoticeArrival, Leads, !State.take_memoryOk, → State.noticeAt_memoryOk]

theorem State.hubRecord_memoryOk (k : Nat) : (s.hubRecord k).memoryOk := by
  unfold State.hubRecord
  split
  · exact h
  · split
    · exact h
    · exact h.getD fun he => State.intake_memoryOk (s := { s with hubLaunch := dropAt s.hubLaunch k }) h _ _ _ _ _ _ he

theorem State.recordMessage_memoryOk (m : Flight) {t : State} (he : s.recordMessage m = some t) : t.memoryOk := by
  grind [State.recordMessage, → State.recordIntake_memoryOk, → State.enterBuffer_memoryOk]

theorem execLaunchRecordIntake_memoryOk (core k : Nat) : Leads State.memoryOk (execLaunchRecordIntake core k s) := by
  grind [execLaunchRecordIntake, Leads, !State.hubRecord_memoryOk, !State.take_memoryOk, !State.retryCore_memoryOk,
    → State.recordMessage_memoryOk]

/-! Events of the scheduler and of pools (R231 to R276). -/

theorem State.dropHere_memoryOk (core : Nat) (hd : Word) : (s.dropHere core hd).memoryOk := h

theorem execDependenceRelease_memoryOk (core k : Nat) : Leads State.memoryOk (execDependenceRelease core k s) := by
  grind [execDependenceRelease, Leads, !State.take_memoryOk, !State.dropHere_memoryOk, !State.fire_memoryOk]

theorem State.workIf_memoryOk (die : Nat) (p : Die → Word → Bool) : (s.workIf die p).memoryOk := by
  unfold State.workIf
  split
  · split
    · exact State.workAt_memoryOk h ..
    · exact h
  · exact h

theorem State.sluice_memoryOk (die k : Nat) : (s.sluice die k).memoryOk := by
  grind [State.sluice, !State.holdOrder_memoryOk, !State.updTask_memoryOk, !State.setDie_memoryOk]

theorem execSchedDieSettings_memoryOk (core k : Nat) : Leads State.memoryOk (execSchedDieSettings core k s) := by
  grind [execSchedDieSettings, Leads, !State.take_memoryOk, !State.dropHere_memoryOk, !State.setDie_memoryOk]

theorem execSchedStampRing_memoryOk (core k : Nat) : Leads State.memoryOk (execSchedStampRing core k s) := by
  grind [execSchedStampRing, Leads, !State.take_memoryOk, !State.setDie_memoryOk, !State.dropHere_memoryOk]

theorem execPoolOpen_memoryOk (die task : Nat) : Leads State.memoryOk (execPoolOpen die task s) := by
  grind [execPoolOpen, Leads, !State.sluice_memoryOk]

theorem State.poolDrop_memoryOk (r : LaneRef) (ws : Msg) : (s.poolDrop r ws).memoryOk := h

theorem State.poolRow_memoryOk (m : Flight) {t : State} (he : s.poolRow m = some t) : t.memoryOk := by
  grind [State.poolRow, !State.poolDrop_memoryOk, → State.enterBuffer_memoryOk, → State.placeRow_memoryOk]

theorem execPoolMessageArrival_memoryOk (core k : Nat) : Leads State.memoryOk (execPoolMessageArrival core k s) :=
  State.take_memoryOk (State.retryCore_memoryOk h core) core k _ fun m ht he => State.poolRow_memoryOk ht m he

theorem State.poolFlush_memoryOk (m : Flight) (close : Bool) {t : State} (he : s.poolFlush m close = some t) : t.memoryOk := by
  grind [State.poolFlush, !State.poolDrop_memoryOk, !State.setLaneAt_memoryOk]

theorem execFlush_memoryOk (core k : Nat) : Leads State.memoryOk (execFlush core k s) :=
  State.take_memoryOk (State.retryCore_memoryOk h core) core k _ fun m ht he => State.poolFlush_memoryOk ht m false he

theorem execClose_memoryOk (core k : Nat) : Leads State.memoryOk (execClose core k s) :=
  State.take_memoryOk (State.retryCore_memoryOk h core) core k _ fun m ht he => State.poolFlush_memoryOk ht m true he

theorem execTileMessageEntry_memoryOk (core lane : Nat) : Leads State.memoryOk (execTileMessageEntry core lane s) := by
  grind [execTileMessageEntry, Leads, → State.acceptRing_memoryOk, !State.setLaneAt_memoryOk]

theorem execPoolForcedLaunch_memoryOk (core lane : Nat) : Leads State.memoryOk (execPoolForcedLaunch core lane s) := by
  grind [execPoolForcedLaunch, Leads, !State.setLaneAt_memoryOk]

/-! Requests of the debugger (R333 to R340). -/

theorem State.dbgTake_memoryOk (c k : Nat) (ok : Nat → Bool) {t} (he : s.dbgTake c k ok = some t) : t.1.memoryOk := by
  grind [State.dbgTake, !State.unflight_memoryOk]

theorem execDebugReadRegister_memoryOk (core k : Nat) : Leads State.memoryOk (execDebugReadRegister core k s) := by
  grind [execDebugReadRegister, Leads, → State.dbgTake_memoryOk, !State.dbgReply_memoryOk]

theorem State.sync_memoryOk (c : Nat) (v : Word) : (s.sync c v).memoryOk := State.trace_memoryOk h ..

theorem State.dbgWrite_memoryOk (c n : Nat) (v : Word) : (s.dbgWrite c n v).memoryOk := by
  grind [State.dbgWrite, !State.setDbg_memoryOk, !State.sync_memoryOk]

theorem execDebugWriteRegister_memoryOk (core k : Nat) : Leads State.memoryOk (execDebugWriteRegister core k s) := by
  grind [execDebugWriteRegister, Leads, → State.dbgTake_memoryOk, !State.dbgReply_memoryOk, !State.dbgWrite_memoryOk]

theorem State.dbgOwe_memoryOk (c : Nat) (m : BitVec 4) (raddr : Word) (status : Nat) : (s.dbgOwe c m raddr status).memoryOk := h

theorem execDebugStop_memoryOk (core k : Nat) : Leads State.memoryOk (execDebugStop core k s) := by
  unfold execDebugStop
  split
  · exact h
  · next t q he =>
    have ht : t.memoryOk := State.dbgTake_memoryOk h core k _ he
    extract_lets named mine u owed
    have hu : u.memoryOk := ht.foldl (fun hv l => by
      dsimp only
      split
      · exact hv
      · exact State.setLaneAt_memoryOk hv ..) _
    have howed : owed.memoryOk :=
      iteInduction (motive := State.memoryOk) (fun _ => State.dbgOwe_memoryOk hu ..) fun _ => State.dbgOwe_memoryOk hu ..
    exact State.dbgSettle_memoryOk howed core

theorem State.dbgRun_memoryOk (r : LaneRef) (skip step : Bool) : (s.dbgRun r skip step).memoryOk := h

theorem execDebugResume_memoryOk (core k : Nat) : Leads State.memoryOk (execDebugResume core k s) := by
  grind [execDebugResume, Leads, → State.dbgTake_memoryOk, !State.dbgReply_memoryOk, !State.dbgRun_memoryOk]

theorem execDebugStep_memoryOk (core k : Nat) : Leads State.memoryOk (execDebugStep core k s) := by
  grind [execDebugStep, Leads, → State.dbgTake_memoryOk, !State.dbgReply_memoryOk, !State.dbgOwe_memoryOk, !State.dbgRun_memoryOk]

theorem execDebugReadLaneState_memoryOk (core k : Nat) : Leads State.memoryOk (execDebugReadLaneState core k s) := by
  grind [execDebugReadLaneState, Leads, → State.dbgTake_memoryOk, !State.dbgReply_memoryOk, !State.meetLost_memoryOk]

theorem State.dbgLaneWrite_memoryOk (r : LaneRef) (sel idx : Nat) (v : Word) {t : State} (he : s.dbgLaneWrite r sel idx v = some t) :
    t.memoryOk := by
  unfold State.dbgLaneWrite at he
  grind [!State.setLaneAt_memoryOk, !State.crSet_memoryOk]

theorem execDebugWriteLaneState_memoryOk (core k : Nat) : Leads State.memoryOk (execDebugWriteLaneState core k s) := by
  grind [execDebugWriteLaneState, Leads, → State.dbgTake_memoryOk, !State.dbgReply_memoryOk, → State.dbgLaneWrite_memoryOk]

theorem execDebugMark_memoryOk (core k : Nat) : Leads State.memoryOk (execDebugMark core k s) := by
  grind [execDebugMark, Leads, → State.dbgTake_memoryOk, !State.dbgReply_memoryOk, !State.trace_memoryOk]

theorem execDebugUnassignedOp_memoryOk (core k : Nat) : Leads State.memoryOk (execDebugUnassignedOp core k s) := by
  grind [execDebugUnassignedOp, Leads, → State.dbgTake_memoryOk, !State.dbgReply_memoryOk]

/-! Power, links and delta logs (R288 to R298, R319 to R332). -/

theorem State.raiseAlert_memoryOk (c : BitVec 8) (v : Word) : (s.raiseAlert c v).memoryOk := h

theorem execSectorSample_memoryOk (sector temp : Nat) : Leads State.memoryOk (execSectorSample sector temp s) := by
  grind [execSectorSample, Leads, !State.setSector_memoryOk, !State.setDie_memoryOk, !State.raiseAlert_memoryOk]

theorem State.memTherm_memoryOk (stack cap : Nat) : (s.memTherm stack cap).memoryOk := by
  unfold State.memTherm
  exact h.foldl (fun ht p => State.sendHw_memoryOk ht ..) _

theorem execStackSample_memoryOk (stack temp : Nat) : Leads State.memoryOk (execStackSample stack temp s) := by
  grind [execStackSample, Leads, State.memoryOk, !State.memTherm_memoryOk, !State.raiseAlert_memoryOk]

theorem State.setPeriod_memoryOk (x : PeriodEnd) (eff : Nat) : (s.setPeriod x eff).memoryOk := h

theorem State.meter_memoryOk : s.meter.memoryOk := by
  unfold State.meter
  refine h.foldl (fun ht p => ?_) _
  exact ht.of_eq rfl rfl

theorem State.roundsDue_memoryOk : s.roundsDue.memoryOk := h

theorem State.endPeriod_memoryOk : s.endPeriod.memoryOk := by
  unfold State.endPeriod
  extract_lets ends u hub v
  have hu : u.memoryOk := State.memoryOk.foldl (State.meter_memoryOk h) (fun ht x => State.setPeriod_memoryOk ht ..) _
  have hv : v.memoryOk := hu.of_eq rfl rfl
  split
  · exact State.roundsDue_memoryOk hv
  · exact hv

theorem execPowerPeriod_memoryOk (period : Nat) : Leads State.memoryOk (execPowerPeriod period s) := by
  grind [execPowerPeriod, Leads, !State.endPeriod_memoryOk]

theorem execRailCurrent_memoryOk (rail amps : Nat) : Leads State.memoryOk (execRailCurrent rail amps s) := by
  grind [execRailCurrent, Leads, State.memoryOk, !State.raiseAlert_memoryOk]

theorem execOperatingPointChange_memoryOk (quad : Nat) : Leads State.memoryOk (execOperatingPointChange quad s) := by
  unfold execOperatingPointChange
  split <;> exact h

theorem execThrottleWrite_memoryOk (v : Word) : Leads State.memoryOk (execThrottleWrite v s) := by
  grind [execThrottleWrite, Ends, Stop.state, Leads, !accessEnd_leads, !State.devRowStore_memoryOk]

theorem execPshareWrite_memoryOk (v : Word) : Leads State.memoryOk (execPshareWrite v s) := by
  grind [execPshareWrite, Ends, Stop.state, Leads, !accessEnd_leads, !State.devRowStore_memoryOk]

theorem execMemguarWrite_memoryOk (v : Word) : Leads State.memoryOk (execMemguarWrite v s) := by
  grind [execMemguarWrite, Ends, Stop.state, Leads, !accessEnd_leads, !State.devRowStore_memoryOk]

theorem execAlertstatClear_memoryOk (v : Word) : Leads State.memoryOk (execAlertstatClear v s) := by
  grind [execAlertstatClear, Ends, Stop.state, Leads, !accessEnd_leads, !State.devRowStore_memoryOk]

theorem State.takeAlert_memoryOk : s.takeAlert.memoryOk := by
  grind [State.takeAlert, State.memoryOk, !State.trapHandler_memoryOk, !State.takeTrapAt_memoryOk]

theorem execAlertTake_memoryOk : Leads State.memoryOk (execAlertTake s) := State.takeAlert_memoryOk h ..

theorem State.setLink_memoryOk (n : Nat) (x : Link) : (s.setLink n x).memoryOk := h

theorem execFlitRetry_memoryOk (router dir : Nat) : Leads State.memoryOk (execFlitRetry router dir s) := by
  grind [execFlitRetry, Leads, !State.setLink_memoryOk]

theorem execLinkRetrain_memoryOk (router dir : Nat) : Leads State.memoryOk (execLinkRetrain router dir s) := by
  grind [execLinkRetrain, Leads, !State.setLink_memoryOk]

theorem execLinkRetrainDone_memoryOk (router dir : Nat) : Leads State.memoryOk (execLinkRetrainDone router dir s) := by
  grind [execLinkRetrainDone, Leads, !State.setLink_memoryOk]

theorem execLinkstatClear_memoryOk (v : Word) : Leads State.memoryOk (execLinkstatClear v s) := by
  grind [execLinkstatClear, Ends, Stop.state, Leads, !accessEnd_leads, !State.devRowStore_memoryOk]

theorem execDltstatClear_memoryOk (v : Word) : Leads State.memoryOk (execDltstatClear v s) := by
  grind [execDltstatClear, Ends, Stop.state, Leads, !accessEnd_leads, !State.devRowStore_memoryOk]

theorem State.logDelta_memoryOk (p : Nat) (ws : List Word) : (s.logDelta p ws).memoryOk := by
  grind [State.logDelta, State.memoryOk, !State.ringPut_memoryOk]

theorem State.homeBytes_memoryOk (a n p : Nat) : (s.homeBytes a n p).1.memoryOk := by
  unfold State.homeBytes
  exact h.foldl (fun ht i => State.readHome_keeps State.memoryOk_access ht _ p none) _

theorem State.framesBytes_memoryOk (p : Nat) (fs : List Nat) : (s.framesBytes p fs).1.memoryOk := by
  induction fs generalizing s with
  | nil => exact h
  | cons f fs ih => exact ih (State.homeBytes_memoryOk h (f * 4096) 4096 p)

theorem State.digest_memoryOk (stack : Nat) : (s.digest stack).memoryOk := by
  grind [State.digest, State.memoryOk, !State.logDelta_memoryOk, !State.framesBytes_memoryOk]

end

end Sys2Proof.Machine

namespace Sys2Proof.Machine

/-! Every step keeps memory and tags in their canonical form: the hub, management and the step itself. Each lemma says that one function keeps the form; its
proof names the lemmas about the functions it calls. -/

section

variable {s : State} (h : s.memoryOk)
include h

/-! The hub: launches of the host, reports, commits and migration (R299 to R309). -/

theorem execHostLaunch_memoryOk (v : Word) : Leads State.memoryOk (execHostLaunch v s) := by
  grind [execHostLaunch, Leads, !State.launchStore_memoryOk]

/-- The ring's put is made a variable, which the kernel cannot evaluate. -/
theorem State.takeReport_memoryOk : s.takeReport.memoryOk := by
  have hput {t : State} (ht : t.memoryOk) := State.ringPut_memoryOk ht
  unfold State.takeReport
  generalize State.ringPut = put at hput ⊢
  as_aux_lemma =>
    split
    · exact h
    · next tag body rest _ =>
      have ht : ({ s with reports := rest } : State).memoryOk := h
      dsimp only
      split
      · exact State.countDrop_keeps State.memoryOk_access ht _ 1
      · split <;> rename_i he
        · exact State.sendMsi_memoryOk (he ▸ hput ht .. :) _
        · exact State.countDrop_keeps State.memoryOk_access (he ▸ hput ht .. :) _ 1

theorem execMsireq_memoryOk (v : Word) : Leads State.memoryOk (execMsireq v s) := by
  grind [execMsireq, Ends, Stop.state, Leads, !accessEnd_leads, !State.devRowStore_memoryOk]

theorem execPartitionCommit_memoryOk (p : Nat) : Leads State.memoryOk (execPartitionCommit p s) := by
  grind [execPartitionCommit, Leads, State.memoryOk, !State.setPart_memoryOk]

theorem execPartitionCommitDone_memoryOk (p : Nat) : Leads State.memoryOk (execPartitionCommitDone p s) := by
  grind [execPartitionCommitDone, Leads, State.memoryOk, !State.setPart_memoryOk]

theorem execTranslationInvalidate_memoryOk : Leads State.memoryOk (execTranslationInvalidate s) := by
  unfold execTranslationInvalidate
  split <;> exact h

theorem execInvalidateDone_memoryOk : Leads State.memoryOk (execInvalidateDone s) := by
  grind [execInvalidateDone, Leads, State.memoryOk]

theorem execPageMigration_memoryOk : Leads State.memoryOk (execPageMigration s) := by
  grind [execPageMigration, Leads, State.memoryOk]

theorem State.copyLine_memoryOk (from_ to_ p : Nat) : (s.copyLine from_ to_ p).memoryOk := by
  unfold State.copyLine
  generalize List.range 8 = ks
  refine State.mergeLine_keeps State.memoryOk_access (State.memoryOk.foldl_fst (β := List Word) (x := (s, [])) (fun hx i => ?_) h ks) ..
  exact State.readHome_keeps State.memoryOk_access hx (from_ + 8 * i) p none

theorem State.copyFrame_memoryOk (old new p : Nat) {t : State} (he : s.copyFrame old new p = some t) : t.memoryOk := by
  unfold State.copyFrame at he
  generalize List.range 64 = ks at he
  split at he
  · cases he
  · cases he
    refine h.foldl (fun ht i => ?_) _
    exact State.copyLine_memoryOk ht (old * 4096 + 64 * i) (new * 4096 + 64 * i) p

theorem State.endMigration_memoryOk (stat : BitVec 8) : (s.endMigration stat).memoryOk := h

theorem State.migrate_memoryOk (m : Migration) : (s.migrate m).memoryOk := by
  grind [State.migrate, State.memoryOk, → State.copyFrame_memoryOk, !State.endMigration_memoryOk,
    !State.readHome_keeps State.memoryOk_access, !State.snoop_keeps State.memoryOk_access, !State.storeAt_keeps State.memoryOk_access,
    !State.uncache_keeps State.memoryOk_access]

theorem execMigrationDone_memoryOk : Leads State.memoryOk (execMigrationDone s) := by
  grind [execMigrationDone, Leads, !State.migrate_memoryOk]

theorem execSliceGateApplied_memoryOk (p : Nat) : Leads State.memoryOk (execSliceGateApplied p s) := by
  unfold execSliceGateApplied
  split <;> exact h

theorem State.setPort_memoryOk (n : Nat) (x : EthPort) : (s.setPort n x).memoryOk := h

theorem execEthernetFrameReceive_memoryOk (f : EthFrame) : Leads State.memoryOk (execEthernetFrameReceive f s) := by
  grind [execEthernetFrameReceive, Leads, State.memoryOk, !State.setPort_memoryOk, !State.countDrop_keeps State.memoryOk_access]

theorem execPeerDown_memoryOk (port : Nat) : Leads State.memoryOk (execPeerDown port s) := by
  unfold execPeerDown
  exact State.setPort_memoryOk (State.memoryOk.foldl h (fun ht f => State.countDrop_keeps State.memoryOk_access ht ..) _) ..

/-! The management core and its mailbox (R341 to R354). -/

theorem State.mboxLoad_memoryOk (pa : Nat) : (s.mboxLoad pa).1.memoryOk := State.readHome_keeps State.memoryOk_access h pa 0 none

theorem State.mboxNext_memoryOk (ok : Nat → Bool) {t} (he : s.mboxNext ok = some t) : t.1.memoryOk := by
  grind [State.mboxNext, !State.mboxLoad_memoryOk]

theorem State.mboxStore_memoryOk (pa : Nat) (v : Word) : (s.mboxStore pa v).memoryOk :=
  State.reexamine_keeps State.memoryOk_access (State.setHome_memoryOk (State.freshCode_keeps State.memoryOk_access h pa) pa v 0) pa _

theorem State.mboxReply_memoryOk (q : MboxReq) (status : Nat) (res : List Word) : (s.mboxReply q status res).memoryOk := by
  unfold State.mboxReply
  generalize List.range 4 = ks
  have hres := h.foldl (f := fun s i => s.mboxStore (slotByte q.slot (4 + i)) (res.getD i 0)) (fun ht i => State.mboxStore_memoryOk ht ..) ks
  have hstatus := State.mboxStore_memoryOk hres (slotByte q.slot 0) (putBits (putBits q.w0 16 8 status) 0 2 2)
  exact State.sendMsi_memoryOk (State.mboxStore_memoryOk (State.mboxLoad_memoryOk hstatus (mboxByte 8)) ..) 0

theorem State.mboxServe_memoryOk (ok : Nat → Bool) {f : State → MboxReq → State}
    (hf : ∀ {t : State} (q : MboxReq), t.memoryOk → (f t q).memoryOk) : (s.mboxServe ok f).memoryOk := by
  unfold State.mboxServe
  split
  · exact h
  · split
    · exact h
    · next t q he =>
      have ht : t.memoryOk := State.mboxNext_memoryOk h ok he
      split
      · exact State.mboxReply_memoryOk ht ..
      · exact hf q ht

theorem execMgmtRead_memoryOk : Leads State.memoryOk (execMgmtRead s) := by
  grind [execMgmtRead, Ends, Stop.state, Leads, !State.mboxServe_memoryOk, !State.mboxReply_memoryOk,
    !State.popFifo_keeps State.memoryOk_access]

theorem execMgmtWrite_memoryOk : Leads State.memoryOk (execMgmtWrite s) := by
  grind [execMgmtWrite, Ends, Stop.state, Leads, !State.mboxServe_memoryOk, !State.mboxReply_memoryOk, !State.pushFifo_memoryOk,
    !State.devWrite_memoryOk]

theorem State.logFirmware_memoryOk (kind : Nat) : (s.logFirmware kind).memoryOk := h

theorem execStage_memoryOk : Leads State.memoryOk (execStage s) := by
  grind [execStage, Leads, State.memoryOk, !State.mboxServe_memoryOk, !State.mboxReply_memoryOk, !State.logFirmware_memoryOk,
    !State.homeBytes_memoryOk]

theorem execActivate_memoryOk : Leads State.memoryOk (execActivate s) := by
  grind [execActivate, Leads, State.memoryOk, !State.mboxServe_memoryOk, !State.mboxReply_memoryOk, !State.logFirmware_memoryOk]

theorem execWarm_memoryOk : Leads State.memoryOk (execWarm s) := by
  grind [execWarm, Leads, !State.mboxServe_memoryOk, !State.beginStart_memoryOk, !State.mboxReply_memoryOk]

theorem execMgmtLog_memoryOk : Leads State.memoryOk (execMgmtLog s) := by
  grind [execMgmtLog, Leads, !State.mboxServe_memoryOk, !State.mboxReply_memoryOk]

theorem State.byteStores_memoryOk (a : Nat) (bs : List Byte) : (s.byteStores a bs).memoryOk := by
  unfold State.byteStores
  exact h.foldl (fun ht b => State.storeAt_keeps State.memoryOk_access ht ..) _

theorem execMgmtSpdm_memoryOk : Leads State.memoryOk (execMgmtSpdm s) := by
  unfold execMgmtSpdm
  generalize List.range 240 = ks
  refine State.mboxServe_memoryOk h _ fun q ht => ?_
  split
  · exact State.mboxReply_memoryOk ht ..
  · have hload := ht.foldl (f := fun s i => (s.mboxLoad (mboxByte (0x800 + 8 * i))).1) (fun hu i => State.mboxLoad_memoryOk hu _) ks
    exact State.mboxReply_memoryOk (State.byteStores_memoryOk hload ..) ..

theorem execMgmtBadOp_memoryOk : Leads State.memoryOk (execMgmtBadOp s) := by
  grind [execMgmtBadOp, Leads, !State.mboxServe_memoryOk, !State.mboxReply_memoryOk]

theorem State.spdmRequest_memoryOk (code : Byte) (req : List Byte) : (s.spdmRequest code req).memoryOk := by
  unfold State.spdmRequest
  split <;> exact h

theorem execResetPin_memoryOk : Leads State.memoryOk (execResetPin s) := by
  grind [execResetPin, Leads, !State.beginStart_memoryOk]

theorem execPcieHotReset_memoryOk (port : Nat) : Leads State.memoryOk (execPcieHotReset port s) := by
  grind [execPcieHotReset, Leads, !State.beginStart_memoryOk]

theorem execRomWatchdog_memoryOk : Leads State.memoryOk (execRomWatchdog s) := by
  grind [execRomWatchdog, Leads, !State.beginStart_memoryOk]

/-! Instructions (R61 to R354). -/

theorem execPatternNotAnInstruction_memoryOk (raw : BitVec 32) : Leads State.memoryOk (execPatternNotAnInstruction raw s) := by
  grind [execPatternNotAnInstruction, Leads, !State.takeTrap_memoryOk]

theorem State.fetchInstr_memoryOk (r : LaneRef) : Ends State.memoryOk Prod.fst (s.fetchInstr r) := by
  grind [State.fetchInstr, Ends, Stop.state, !State.fetchParcel_memoryOk]

theorem execParcelFetchFault_memoryOk : Leads State.memoryOk (execParcelFetchFault s) := by
  grind [execParcelFetchFault, Ends, Stop.state, Leads, !State.fetchInstr_memoryOk, !State.takeTrap_memoryOk]

/-- Whatever an instruction does, memory and tags stay canonical. -/
theorem exec_memoryOk (i : Instr) : Leads State.memoryOk (exec i s) := by
  cases i with
  | ldM | ldA | ldCompact => exact finish_leads _ (State.loadTo_memoryOk h ..)
  | stM | stA | stCompact => exact finish_leads _ (State.storeFrom_memoryOk h ..)
  | ldf | ldw | ste | ldfCompact => exact finish_leads _ (State.tagRequest_memoryOk h ..)
  | stv | reclaim => exact finish_leads _ (State.tagPost_memoryOk h ..)
  | tagrd => exact execTagrd_memoryOk h ..
  | spillm | fillm => exact finish_leads _ (State.spillFill_memoryOk h ..)
  | amoadd | amoand | amoor | amoxor | amomin | amomax | amominu | amomaxu | amoswap | amocas => exact finish_leads _ (State.amo_memoryOk h ..)
  | redadd | redfadd | redmin | redmax | redor => exact finish_leads _ (State.reduce_memoryOk h ..)
  | add | sub | and | or | xor | shl | shr | sra | mul | mulh | mulhu | div | divu | rem | remu | slt | sltu | min | max
  | minu | maxu | clz | ctz | popc | bext | bins | sext | zext | addi | andi | ori | xori | shli | shri | srai | slti
  | sltiu | lui | balign | waddr | coord | mand | mor | mnot | mpop | scord | rand | mpoll | dtcr | nop | addCompactS0
  | addCompact | subCompact | andCompact | orCompact | xorCompact | addiCompactS0 | addiCompact | shliCompact | sraiCompact
  | traceSync | coolant | sliceGate | retransmitTimeout | zeroLengthReadReturn | powerLoss => exact h
  | eaddr => exact execEaddr_memoryOk h ..
  | ediff => exact execEdiff_memoryOk h ..
  | gaddr => exact execGaddr_memoryOk h ..
  | beq | bne | blt | bge | bltu | bgeu => exact State.branch_memoryOk h ..
  | jal => exact execJal_memoryOk h ..
  | jalr | jalrCompact => exact jumpReg_memoryOk h ..
  | loop => exact execLoop_memoryOk h ..
  | endh | endhCompact => exact finish_leads _ (State.endh_memoryOk h ..)
  | vadd | vsub | vmul => exact finish_leads _ (State.varith_memoryOk h ..)
  | vfma => exact execVfma_memoryOk h ..
  | vmin | vmax | vabs | vneg | vsel | vbcast | vperm | vslide | vcord => exact finish_leads _ (State.vmap_memoryOk h ..)
  | vand | vor | vxor | vshl | vshr | vsra => exact finish_leads _ (State.vbits_memoryOk h ..)
  | vcmp => exact execVcmp_memoryOk h ..
  | vredadd => exact execVredadd_memoryOk h ..
  | vredmax | vredmin => exact finish_leads _ (State.vextreme_memoryOk h ..)
  | vmovsv => exact execVmovsv_memoryOk h ..
  | vmovvs => exact execVmovvs_memoryOk h ..
  | vld | vlds | vgather => exact finish_leads _ (State.vload_memoryOk h ..)
  | vst | vscatter => exact finish_leads _ (State.vstore_memoryOk h ..)
  | vcvt => exact execVcvt_memoryOk h ..
  | vpack => exact execVpack_memoryOk h ..
  | vunpack => exact execVunpack_memoryOk h ..
  | hset => exact execHset_memoryOk h ..
  | hwaitf => exact execHwaitf_memoryOk h ..
  | hwaite => exact execHwaite_memoryOk h ..
  | hadv => exact execHadv_memoryOk h ..
  | ldh => exact execLdh_memoryOk h ..
  | sth => exact execSth_memoryOk h ..
  | sbind => exact execSbind_memoryOk h ..
  | sunbind => exact execSunbind_memoryOk h ..
  | mma | mmat => exact finish_leads _ (State.issueMma_memoryOk h ..)
  | mzero | accsp | accfl => exact finish_leads _ (State.labelJob_memoryOk h ..)
  | lmap => exact execLmap_memoryOk h ..
  | accrow => exact execAccrow_memoryOk h ..
  | bind => exact execBind_memoryOk h ..
  | accrd => exact execAccrd_memoryOk h ..
  | mwait => exact execMwait_memoryOk h ..
  | send => exact execSend_memoryOk h ..
  | sendi => exact execSendi_memoryOk h ..
  | cntwait => exact execCntwait_memoryOk h ..
  | mbxpost => exact execMbxpost_memoryOk h ..
  | mbxtake => exact execMbxtake_memoryOk h ..
  | mbxcfg => exact execMbxcfg_memoryOk h ..
  | bcopy | bconv => exact finish_leads _ (State.brookInstr_memoryOk h ..)
  | bevict => exact execBevict_memoryOk h ..
  | bwait => exact execBwait_memoryOk h ..
  | engpush => exact execEngpush_memoryOk h ..
  | engpop => exact execEngpop_memoryOk h ..
  | tspawn => exact execTspawn_memoryOk h ..
  | tspawnr => exact execTspawnr_memoryOk h ..
  | tdep => exact execTdep_memoryOk h ..
  | tdone => exact execTdone_memoryOk h ..
  | ttile => exact execTtile_memoryOk h ..
  | tnote => exact execTnote_memoryOk h ..
  | tval => exact execTval_memoryOk h ..
  | tabort => exact execTabort_memoryOk h ..
  | fence => exact execFence_memoryOk h ..
  | trap => exact execTrap_memoryOk h ..
  | tret => exact execTret_memoryOk h ..
  | sleep => exact finish_leads _ (State.sleep_memoryOk h ..)
  | partset => exact execPartset_memoryOk h ..
  | lanegate => exact execLanegate_memoryOk h ..
  | imgsave => exact execImgsave_memoryOk h ..
  | imgload => exact execImgload_memoryOk h ..
  | crr => exact execCrr_memoryOk h ..
  | crw => exact execCrw_memoryOk h ..
  | bkpt => exact execBkpt_memoryOk h ..
  | beqCompact | bneCompact => exact State.compactBranch_memoryOk h ..
  | jalCompact => exact State.compactTo_memoryOk h ..
  | jobFaultTrap => exact execJobFaultTrap_memoryOk h ..
  | watchdog => exact execWatchdog_memoryOk h ..
  | promiseMissed => exact execPromiseMissed_memoryOk h ..
  | sleepTimer => exact execSleepTimer_memoryOk h ..
  | homeMerge => exact execHomeMerge_memoryOk h ..
  | homeRead => exact execHomeRead_memoryOk h ..
  | parkedRequestReissue => exact execParkedRequestReissue_memoryOk h ..
  | answerArrival => exact execAnswerArrival_memoryOk h ..
  | translationWalk => exact execTranslationWalk_memoryOk h ..
  | matrixJobStart => exact State.startMatrix_memoryOk h ..
  | matrixJobComplete => exact State.finishMatrix_memoryOk h ..
  | teamReservation => exact State.reserveTeam_memoryOk h ..
  | brookJobStart => exact State.startBrook_memoryOk h ..
  | brookJobComplete => exact State.finishBrook_memoryOk h ..
  | barrierArrival => exact State.barrierNow_memoryOk h ..
  | residencyEviction => exact execResidencyEviction_memoryOk h ..
  | mcmdqPush => exact execMcmdqPush_memoryOk h ..
  | mresqPop => exact execMresqPop_memoryOk h ..
  | bcmdqPush => exact execBcmdqPush_memoryOk h ..
  | bresqPop => exact execBresqPop_memoryOk h ..
  | dropcntClear => exact execDropcntClear_memoryOk h ..
  | errcntClear => exact execErrcntClear_memoryOk h ..
  | deviceRegisterWrite => exact execDeviceRegisterWrite_memoryOk h ..
  | messageInject => exact State.inject_memoryOk h ..
  | messageEjection => exact execMessageEjection_memoryOk h ..
  | dispatch => exact execDispatch_memoryOk h ..
  | mailboxPostArrival => exact execMailboxPostArrival_memoryOk h ..
  | noticeArrival => exact execNoticeArrival_memoryOk h ..
  | launchRecordIntake => exact execLaunchRecordIntake_memoryOk h ..
  | dependenceRelease => exact execDependenceRelease_memoryOk h ..
  | evaluation | placementRound | placementAttempt | reserving | steal => exact State.workIf_memoryOk h ..
  | dispense => exact State.sluice_memoryOk h ..
  | schedDieSettings => exact execSchedDieSettings_memoryOk h ..
  | schedStampRing => exact execSchedStampRing_memoryOk h ..
  | poolOpen => exact execPoolOpen_memoryOk h ..
  | poolMessageArrival => exact execPoolMessageArrival_memoryOk h ..
  | flush => exact execFlush_memoryOk h ..
  | close => exact execClose_memoryOk h ..
  | tileMessageEntry => exact execTileMessageEntry_memoryOk h ..
  | poolForcedLaunch => exact execPoolForcedLaunch_memoryOk h ..
  | debugReadRegister => exact execDebugReadRegister_memoryOk h ..
  | debugWriteRegister => exact execDebugWriteRegister_memoryOk h ..
  | debugStop => exact execDebugStop_memoryOk h ..
  | debugResume => exact execDebugResume_memoryOk h ..
  | debugStep => exact execDebugStep_memoryOk h ..
  | debugReadLaneState => exact execDebugReadLaneState_memoryOk h ..
  | debugWriteLaneState => exact execDebugWriteLaneState_memoryOk h ..
  | debugMark => exact execDebugMark_memoryOk h ..
  | debugUnassignedOp => exact execDebugUnassignedOp_memoryOk h ..
  | debugStopEffect => exact execDebugStopEffect_memoryOk h ..
  | sectorSample => exact execSectorSample_memoryOk h ..
  | stackSample => exact execStackSample_memoryOk h ..
  | powerPeriod => exact execPowerPeriod_memoryOk h ..
  | railCurrent => exact execRailCurrent_memoryOk h ..
  | operatingPointChange => exact execOperatingPointChange_memoryOk h ..
  | throttleWrite => exact execThrottleWrite_memoryOk h ..
  | pshareWrite => exact execPshareWrite_memoryOk h ..
  | memguarWrite => exact execMemguarWrite_memoryOk h ..
  | alertstatClear => exact execAlertstatClear_memoryOk h ..
  | alertTake => exact execAlertTake_memoryOk h ..
  | flitRetry => exact execFlitRetry_memoryOk h ..
  | linkRetrain => exact execLinkRetrain_memoryOk h ..
  | linkRetrainDone => exact execLinkRetrainDone_memoryOk h ..
  | linkstatClear => exact execLinkstatClear_memoryOk h ..
  | dltstatClear => exact execDltstatClear_memoryOk h ..
  | deltaRecord => exact State.digest_memoryOk h ..
  | hostLaunch => exact execHostLaunch_memoryOk h ..
  | faultReportMsi => exact State.takeReport_memoryOk h ..
  | msireq => exact execMsireq_memoryOk h ..
  | partitionCommit => exact execPartitionCommit_memoryOk h ..
  | partitionCommitDone => exact execPartitionCommitDone_memoryOk h ..
  | translationInvalidate => exact execTranslationInvalidate_memoryOk h ..
  | invalidateDone => exact execInvalidateDone_memoryOk h ..
  | pageMigration => exact execPageMigration_memoryOk h ..
  | migrationDone => exact execMigrationDone_memoryOk h ..
  | sliceGateApplied => exact execSliceGateApplied_memoryOk h ..
  | ethernetFrameReceive => exact execEthernetFrameReceive_memoryOk h ..
  | peerDown => exact execPeerDown_memoryOk h ..
  | mgmtRead => exact execMgmtRead_memoryOk h ..
  | mgmtWrite => exact execMgmtWrite_memoryOk h ..
  | stage => exact execStage_memoryOk h ..
  | activate => exact execActivate_memoryOk h ..
  | warm => exact execWarm_memoryOk h ..
  | mgmtLog => exact execMgmtLog_memoryOk h ..
  | mgmtSpdm => exact execMgmtSpdm_memoryOk h ..
  | mgmtBadOp => exact execMgmtBadOp_memoryOk h ..
  | getVersion | getCapabilities | negotiateAlgorithms | getDigests | getCertificate | challenge | getMeasurements => exact State.spdmRequest_memoryOk h ..
  | powerOn => exact execPowerOn_memoryOk h ..
  | resetPin => exact execResetPin_memoryOk h ..
  | pcieHotReset => exact execPcieHotReset_memoryOk h ..
  | romWatchdog => exact execRomWatchdog_memoryOk h ..
  | patternNotAnInstruction => exact execPatternNotAnInstruction_memoryOk h ..
  | parcelFetchFault => exact execParcelFetchFault_memoryOk h ..

/-! Turns of a lane (R190 to R192). -/

theorem State.meetReads_memoryOk (i : Instr) : (s.meetReads i).memoryOk := State.meetLost_memoryOk h ..

theorem State.issue_memoryOk (i : Instr) : Leads State.memoryOk (s.issue i) := by
  grind [State.issue, Ends, Stop.state, Leads, !State.afterFence_memoryOk, !State.endSpv_memoryOk, !exec_memoryOk,
    !State.meetReads_memoryOk, !finish_leads]

theorem State.keepWait_memoryOk (fresh : Bool) : (s.keepWait fresh).memoryOk := h

theorem State.resume_memoryOk : Leads State.memoryOk s.resume := by
  grind [State.resume, Leads, !State.issue_memoryOk, !State.keepWait_memoryOk]

theorem State.takeNotice_memoryOk (r : LaneRef) : (s.takeNotice r).memoryOk := by
  grind [State.takeNotice, !State.takeTrapAt_memoryOk, !State.setLaneAt_memoryOk]

theorem State.takeDue_memoryOk : Leads State.memoryOk s.takeDue := by
  grind [State.takeDue, Leads, !State.takeNotice_memoryOk, !execJobFaultTrap_memoryOk]

theorem State.keepSpv_memoryOk : s.keepSpv.memoryOk := by
  grind [State.keepSpv, Ends, Stop.state, !State.setLane_memoryOk, !State.fetchInstr_memoryOk]

theorem State.fetchIssue_memoryOk : Leads State.memoryOk s.fetchIssue := by
  grind [State.fetchIssue, Ends, Stop.state, Leads, !State.fetchInstr_memoryOk, !execParcelFetchFault_memoryOk, !State.issue_memoryOk,
    !execPatternNotAnInstruction_memoryOk]

theorem State.laneTurn_memoryOk : Leads State.memoryOk s.laneTurn := by
  have htick := State.watchTick_memoryOk h s.cur
  have hspv := State.keepSpv_memoryOk h
  have hafter {t : State} (ht : t.memoryOk) := State.afterStep_memoryOk ht s.cur
  unfold State.laneTurn
  dsimp only
  split
  case h_1 => exact htick
  case h_2 => exact execDebugStopEffect_memoryOk h ..
  case h_3 => exact State.enterHandler_memoryOk htick ..
  case h_4 => exact State.counting_leads h _ fun ht => mapNext_leads (execAnswerArrival_memoryOk ht ..) hafter
  case h_5 => exact State.counting_leads h _ fun ht => mapNext_leads (State.resume_memoryOk ht) hafter
  case h_6 => exact State.takeDue_memoryOk hspv
  case h_7 => exact exec_memoryOk hspv (.watchdog s.cur.core s.cur.lane)
  case h_8 => exact exec_memoryOk hspv .alertTake
  case h_9 => exact exec_memoryOk h (.dispatch s.cur.core s.cur.lane)
  case h_10 => exact mapNext_leads (exec_memoryOk htick (.parkedRequestReissue s.cur.core s.cur.lane)) hafter
  case h_11 => exact mapNext_leads (State.issue_memoryOk (State.keepWait_memoryOk htick false) _) hafter
  case h_12 => exact hafter (State.endPast_memoryOk htick s.cur)
  case h_13 => exact State.takeTrap_memoryOk hspv ..
  case h_14 => exact mapNext_leads (State.fetchIssue_memoryOk (State.keepWait_memoryOk htick true)) hafter

/-! Upsets and the host (R318 to R326). -/

theorem State.spoil_memoryOk (pa : Nat) (uncorrectable : Bool) : (s.spoil pa uncorrectable).memoryOk := by
  grind [State.spoil, State.memoryOk, !State.freshCode_keeps State.memoryOk_access]

theorem State.loseCell_memoryOk (r : LaneRef) (slot cell : Nat) : (s.loseCell r slot cell).memoryOk := by
  grind [State.loseCell, !State.setAccSet_memoryOk]

theorem State.spoilSend_memoryOk (r : LaneRef) (msg flit : Nat) : (s.spoilSend r msg flit).memoryOk := by
  grind [State.spoilSend, !State.setCore_memoryOk]

theorem State.upset_memoryOk (u : Upset) : (s.upset u).memoryOk := by
  unfold State.upset
  split
  case h_7 =>
    refine h.foldl (fun ht i => ?_) _
    exact State.spoil_memoryOk ht ..
  case h_1 => exact State.spoil_memoryOk h ..
  case h_6 => exact State.loseCell_memoryOk h ..
  case h_8 => exact State.spoilSend_memoryOk h ..
  case h_10 => exact State.setCluster_memoryOk h ..
  all_goals exact State.setLaneAt_memoryOk h ..

theorem State.busAccess_memoryOk (write : Option (HostOp × Word)) (byteAddr width : Nat) : (s.busAccess write byteAddr width).memoryOk := by
  unfold State.busAccess
  grind [!State.hostMerge_memoryOk, !State.hostRead_memoryOk]

theorem State.vfPage_memoryOk (n : Nat) (write : Option (HostOp × Word)) (off width : Nat) : (s.vfPage n write off width).memoryOk := by
  unfold State.vfPage
  grind [!State.answerHost_memoryOk, !State.launchStore_memoryOk, !State.pageWrite_memoryOk]

theorem State.barAccess_memoryOk (port fn bar : Nat) (write : Option (HostOp × Word)) (off width : Nat) :
    (s.barAccess port fn bar write off width).memoryOk := by
  unfold State.barAccess
  grind [!State.busAccess_memoryOk, !State.vfPage_memoryOk, !State.answerHost_memoryOk]

theorem State.dmaAccess_memoryOk (port fn : Nat) (write : Option (HostOp × Word)) (ioAddr width : Nat) :
    (s.dmaAccess port fn write ioAddr width).memoryOk := by
  grind [State.dmaAccess, !State.answerHost_memoryOk, !State.uncache_keeps State.memoryOk_access, !State.snoop_keeps State.memoryOk_access,
    !State.busAccess_memoryOk]

theorem State.castOut_memoryOk (harts : List Nat) (line : Nat) (keep : Bool) : (s.castOut harts line keep).memoryOk := by
  grind [State.castOut, State.memoryOk]

theorem State.backHome_memoryOk (k : Nat) : (s.backHome k).memoryOk := by
  grind [State.backHome, State.memoryOk, !State.mergeLine_keeps State.memoryOk_access]

theorem State.cached_memoryOk (line : Nat) : (s.cached line).1.memoryOk := by
  unfold State.cached
  generalize List.range 8 = ks
  split
  · exact h
  · have hb := State.drainBacks_keeps State.memoryOk_access h line
    refine State.memoryOk.of_eq (State.memoryOk.foldl_fst (β := List Word) (x := (s.drainBacks line, [])) (fun hx i => ?_) hb ks) rfl rfl
    exact State.readHome_keeps State.memoryOk_access hx (line + 8 * i) 0 none

theorem State.loadOne_memoryOk (byteAddr width : Nat) : (s.loadOne byteAddr width).1.memoryOk := by
  grind [State.loadOne, !State.cached_memoryOk, !State.readOne_memoryOk]

theorem State.hartLoad_memoryOk (byteAddr width : Nat) : (s.hartLoad byteAddr width).memoryOk := by
  grind [State.hartLoad, !State.readWith_memoryOk, !State.loadOne_memoryOk]

theorem State.cacheStore_memoryOk (op : HostOp) (byteAddr width : Nat) (data : Word) : (s.cacheStore op byteAddr width data).memoryOk := by
  grind [State.cacheStore, State.memoryOk, !State.cached_memoryOk, !State.answerHost_memoryOk, !State.mergeOne_memoryOk]

theorem State.hartStore_memoryOk (op : HostOp) (byteAddr width : Nat) (data : Word) : (s.hartStore op byteAddr width data).memoryOk := by
  unfold State.hartStore
  split
  · exact h
  · split
    · exact State.cacheStore_memoryOk h ..
    · split
      · exact h.foldl (fun ht i => State.cacheStore_memoryOk ht ..) _
      · exact State.answerHost_memoryOk h ..

theorem State.blockOp_memoryOk (hart byteAddr : Nat) (keep : Bool) : (s.blockOp hart byteAddr keep).memoryOk := by
  grind [State.blockOp, State.memoryOk, !State.answerHost_memoryOk, !State.castOut_memoryOk]

theorem State.hartFence_memoryOk (hart : Nat) : (s.hartFence hart).memoryOk := by
  unfold State.hartFence
  extract_lets mine
  split
  · exact h
  · exact (h.foldl (fun ht b => State.drainBacks_keeps State.memoryOk_access ht b.line) mine).of_eq rfl rfl

theorem State.updFile_memoryOk (hart file : Nat) (f : ImsicFile → ImsicFile) : (s.updFile hart file f).memoryOk := by
  unfold State.updFile
  split <;> exact h

theorem State.hostAct_memoryOk (hd : HostAct) : (s.hostAct hd).memoryOk := by
  unfold State.hostAct
  grind [!State.barAccess_memoryOk, !State.dmaAccess_memoryOk, !State.castOut_memoryOk, !State.backHome_memoryOk, !State.hartLoad_memoryOk,
    !State.hartStore_memoryOk, !State.blockOp_memoryOk, !State.hartFence_memoryOk, !State.updFile_memoryOk]

theorem State.passLink_memoryOk (n : Nat) : (s.passLink n).memoryOk := State.passLinks_keeps State.memoryOk_access h ..

/-! Steps. -/

theorem State.act_memoryOk (c : Choice) : Leads State.memoryOk (s.act c) := by
  cases c with
  | lane c l =>
    unfold State.act
    dsimp only
    split
    · have hcur : ({ s with cur := ⟨c, l⟩ } : State).memoryOk := h
      exact mapNext_leads (State.laneTurn_memoryOk hcur) fun ht => State.prefetch_memoryOk ht ..
    · exact h
  | event i =>
    unfold State.act
    dsimp only
    split
    · exact exec_memoryOk h i
    · exact h
  | upset u => exact iteInduction (motive := State.memoryOk) (fun _ => State.upset_memoryOk h u) fun _ => h
  | host x => exact State.hostAct_memoryOk h x
  | passLink n => exact State.passLink_memoryOk h n

/-- A step of the machine: the moves of the dies that are due, the agent's move, and the passing of time (log entry 1). -/
theorem State.cycle_memoryOk : Leads State.memoryOk s.cycle := by
  unfold State.cycle
  split
  · split
    · next rest _ =>
      have hpop : ({ s with agenda := rest } : State).memoryOk := h
      exact mapNext_leads (execPowerOn_memoryOk hpop) fun ht => State.pass_memoryOk ht none
    · exact trivial
  · have ht := State.choose_memoryOk (State.caughtUp_memoryOk h)
    dsimp only
    split
    · exact State.pass_memoryOk (State.startStep_memoryOk ht) none
    · exact mapNext_leads (State.act_memoryOk ht _) fun hu => State.pass_memoryOk (State.drainInputs_memoryOk hu) _

end

/-- Settles O3: whatever agent moves and whatever it does, each operation that the step is made of keeps the invariant. -/
theorem stepKeepsMemoryForm : Obligations.StepKeepsMemoryForm := by
  unfold Obligations.StepKeepsMemoryForm
  intro s t h hstep
  have hcycle := State.cycle_memoryOk h
  rw [← step, hstep] at hcycle
  exact hcycle

end Sys2Proof.Machine

namespace Sys2Proof.Machine

/-! Codes of float formats (R29, R31). -/

theorem FFmt.signBit_eq (f : FFmt) : f.signBit = f.infCode + 2 ^ f.mbits := by
  unfold FFmt.signBit FFmt.infCode
  rw [Nat.sub_one_mul, ← Nat.pow_add, Nat.sub_add_cancel (Nat.pow_le_pow_right Nat.two_pos (Nat.le_add_left _ _))]

theorem FFmt.two_mul_signBit (f : FFmt) : 2 * f.signBit = 2 ^ f.width := by
  rw [FFmt.width, FFmt.signBit, Nat.add_assoc, Nat.pow_add 2 1, Nat.pow_one]

theorem FFmt.infCode_lt (f : FFmt) : f.infCode < f.signBit := by
  have := f.signBit_eq
  have : 0 < 2 ^ f.mbits := Nat.two_pow_pos _
  omega

theorem FFmt.nanCode_lt {f : FFmt} (hf : 0 < f.mbits) : f.nanCode < 2 * f.signBit := by
  have := f.signBit_eq
  have : 2 ^ (f.mbits - 1) < 2 ^ f.mbits := Nat.pow_lt_pow_right (by decide) (by omega)
  unfold FFmt.nanCode
  omega

/-- A code of a sign and a magnitude up to infinity's. -/
theorem FFmt.signed_lt (f : FFmt) (n : Bool) {c : Nat} (hc : c ≤ f.infCode) : (if n then f.signBit else 0) + c < 2 * f.signBit := by
  have := f.infCode_lt
  split <;> omega

theorem FFmt.overflow_lt (f : FFmt) (rm : RoundMode) (n : Bool) : f.overflow rm n < 2 * f.signBit := by
  have hi := f.signed_lt n (Nat.le_refl _)
  cases rm <;> cases n <;> simp only [FFmt.overflow, if_true, if_false, Bool.false_eq_true] at hi ⊢ <;> omega

/-- What rounding gives is a code of the format (R31). -/
theorem FFmt.round_lt {f : FFmt} (hf : 0 < f.mbits) (rm : RoundMode) (draw : Nat) (x : FVal) : f.round rm draw x < 2 * f.signBit := by
  cases x with
  | nan => exact FFmt.nanCode_lt hf
  | inf n => exact f.signed_lt n (Nat.le_refl _)
  | fin n m e =>
    unfold FFmt.round
    dsimp only
    split
    · exact f.signed_lt n (Nat.zero_le _)
    · split
      · exact f.overflow_lt rm n
      · next hc => exact f.signed_lt n (Nat.le_of_not_le hc)

theorem FFmt.minmax_lt {f : FFmt} (hf : 0 < f.mbits) (max : Bool) {x y : Nat} (hx : x < 2 * f.signBit) (hy : y < 2 * f.signBit) :
    f.minmax max x y < 2 * f.signBit := by
  unfold FFmt.minmax
  dsimp only
  split
  · exact FFmt.nanCode_lt hf
  · split
    · exact hx
    · exact hy

theorem FVal.isNan_iff (x : FVal) : x.isNan = true ↔ x = .nan := by cases x <;> simp [FVal.isNan]

/-- The float formats of vector elements fill the elements of their view (R49, R115). -/
theorem tyFloat_format {ty : VTy} {f : FFmt} (h : tyFloat ty = some f) : 0 < f.mbits ∧ 2 * f.signBit = 2 ^ viewBits (tyView ty) := by
  cases ty <;> cases h <;> decide

/-! Element operations (R118). -/

theorem State.el_lt (s : State) (r : VReg) (e j : Nat) : s.el r e j < 2 ^ e := Nat.mod_lt _ (Nat.two_pow_pos e)

/-- One draw for each active element under RS, and none in another mode (R30, R115). -/
theorem drawsFor_of_ne_rs {rm : RoundMode} (h : rm ≠ .rs) (act : Nat → Bool) (g : Word) (n : Nat) :
    drawsFor rm act g n = (g, List.replicate n 0) := by
  induction n with
  | zero => rfl
  | succ n ih => simp [drawsFor, ih, h, List.replicate_succ']

theorem State.setSeed_lane (s : State) (g : Word) : (setSeed g s).lane = { s.lane with rseed := g } := State.setLane_lane _ _

theorem State.setSeed_noStreams {s : State} (h : s.lane.noStreams) (g : Word) : (setSeed g s).lane.noStreams := by
  rw [State.setSeed_lane]
  exact h

/-- The generator after the draws of a masked operation, and the draws by element (R115). -/
def Lane.draws (l : Lane) (m : MReg) (e : Nat) : Word × List Nat := drawsFor l.rmode (fun j => (l.m m).getLsbD j) l.rseed (256 / e)

section

variable {s : State} (h : s.lane.noStreams) {i : Instr} {srcs : List VReg} {d : VReg} {e : Nat} {m : MReg}
include h

/-- A masked operation without checks completes with the merged register and its effect on the rest (R115, R134). -/
theorem State.vecRun_vout {run : Unit → Lane → State → State × VOut} {f : Nat → Nat} {fin : State → State}
    (hrun : run () s.lane s = (s, ⟨[vout d e (s.lane.m m) (s.lane.v d) f], fin⟩)) (hfin : (fin s).lane.noStreams) :
    s.vecRun srcs [d] noCheck run = .ok ((fin s).writeV d (vmerge e (s.lane.m m) (s.lane.v d) f)) := by
  refine (State.vecRun_done h srcs [d] (check := noCheck) rfl hrun).trans ?_
  show Except.ok (((fin s).setLane ((fin s).lane.setVecs [(d, _, _)])).advance 32) = _
  rw [Lane.setVecs_one hfin]
  rfl

/-- An operation that makes each active element from the lane's old registers and keeps the others (R115). -/
theorem State.vmap_elementwise {f : Lane → Nat → Nat} (g : Nat → Nat) (hi : exec i s = finish i (s.vmap srcs d e m f))
    (hg : ∀ j, f s.lane j % 2 ^ e = g j) : s.Elementwise i s.lane.rseed d e (fun j => (s.lane.m m).getLsbD j) g := by
  refine ⟨vmerge e (s.lane.m m) (s.lane.v d) (f s.lane), ?_, fun j hj => ?_⟩
  · rw [hi, State.vmap, State.vecRun_vout h (m := m) (fin := id) rfl h, finish_ok, State.writeV_setSeed]
    rfl
  · rw [vget_vmerge e _ _ _ hj, hg j]
    rfl

/-- The same with a draw for each active element under RS, which move the generator (R115). -/
theorem State.vround_elementwise {f : Lane → RoundMode → Nat → Nat → Nat} (g : Nat → Nat)
    (hi : exec i s = finish i (s.vround srcs d e m f))
    (hg : ∀ j, f s.lane s.lane.rmode ((s.lane.draws m e).2.getD j 0) j % 2 ^ e = g j) :
    s.Elementwise i (s.lane.draws m e).1 d e (fun j => (s.lane.m m).getLsbD j) g := by
  refine ⟨vmerge e (s.lane.m m) (s.lane.v d) (fun j => f s.lane s.lane.rmode ((s.lane.draws m e).2.getD j 0) j), ?_, fun j hj => ?_⟩
  · rw [hi, State.vround, State.vecRun_vout h (m := m) (fin := setSeed (s.lane.draws m e).1) rfl (State.setSeed_noStreams h _), finish_ok]
    rfl
  · rw [vget_vmerge e _ _ _ hj, hg j]
    rfl

end

/-! Integer and floating-point operations on the elements of two registers (R118). -/

section

variable {s : State} (h : s.lane.noStreams) {i : Instr} {d a b : VReg} {ty : VTy} {m : MReg} {fi : Nat → Nat → Nat → Nat}
  {ff : RoundMode → FVal → FVal → FVal} (hi : exec i s = finish i (s.varith d a b ty m fi ff))
include h hi

theorem State.varith_int (hty : tyFloat ty = none) :
    let e := viewBits (tyView ty)
    (∀ j, fi e (s.el a e j) (s.el b e j) < 2 ^ e) →
    s.Elementwise i s.lane.rseed d e (fun j => (s.lane.m m).getLsbD j) (fun j => fi e (s.el a e j) (s.el b e j)) := by
  intro e hlt
  rw [State.varith, hty] at hi
  exact State.vmap_elementwise h _ hi fun j => Nat.mod_eq_of_lt (hlt j)

theorem State.varith_float {f : FFmt} (hty : tyFloat ty = some f) :
    let e := viewBits (tyView ty)
    s.Elementwise i (s.lane.draws m e).1 d e (fun j => (s.lane.m m).getLsbD j) (fun j => f.round s.lane.rmode
      ((s.lane.draws m e).2.getD j 0) (ff s.lane.rmode (f.decode (s.el a e j)) (f.decode (s.el b e j)))) := by
  intro e
  obtain ⟨hm, hbits⟩ := tyFloat_format hty
  rw [State.varith, hty] at hi
  exact State.vround_elementwise h _ hi fun j => Nat.mod_eq_of_lt (hbits ▸ FFmt.round_lt hm _ _ _)

end

/-! The element functions are those of R118 on codes of their view. -/

theorem sgN_eq_signed {e : Nat} (he : 0 < e) (x : Nat) : sgN x e = signed e x := by
  rw [sgN_eq_bmod x he, signed]

theorem wrapN_lt (x : Int) (n : Nat) : wrapN x n < 2 ^ n := by
  have hpow : (0 : Int) < 2 ^ n := Int.pow_pos (by decide)
  have hlt := Int.emod_lt_of_pos x hpow
  have hnonneg := Int.emod_nonneg x hpow.ne'
  unfold wrapN
  zify
  rwa [Int.toNat_of_nonneg hnonneg]

theorem signed_of_lt {e x : Nat} (he : 0 < e) (hx : x < 2 ^ e) :
    signed e x = if 2 * x < 2 ^ e then (x : Int) else (x : Int) - (2 ^ e : Nat) := by
  obtain ⟨k, rfl⟩ := Nat.exists_eq_add_of_lt he
  rw [← sgN_eq_signed he, sgN, Nat.mod_eq_of_lt hx, Nat.add_sub_cancel]
  push_cast
  exact if_congr (by rw [Nat.pow_succ]; omega) rfl rfl

theorem vabsElem_int {ty : VTy} (hty : tyFloat ty = none) {x : Nat} (hx : x < 2 ^ viewBits (tyView ty)) :
    vabsElem ty x = (signed (viewBits (tyView ty)) x).natAbs ∧ vabsElem ty x < 2 ^ viewBits (tyView ty) := by
  obtain ⟨he, -⟩ := viewBits_bounds (tyView ty)
  simp only [vabsElem, hty, sgN_eq_signed he, signed_of_lt he hx]
  generalize 2 ^ viewBits (tyView ty) = p at hx ⊢
  by_cases hsmall : 2 * x < p
  · simp only [hsmall, if_true]
    split <;> omega
  · have hmod : (p - x) % p = p - x := Nat.mod_eq_of_lt (by omega)
    simp only [hsmall, if_false, hmod]
    split <;> omega

theorem vabsElem_float {ty : VTy} {f : FFmt} (hty : tyFloat ty = some f) (x : Nat) :
    vabsElem ty x = (if f.decode x = .nan then f.nanCode else x % f.signBit) ∧ vabsElem ty x < 2 ^ viewBits (tyView ty) := by
  obtain ⟨hm, hbits⟩ := tyFloat_format hty
  simp only [vabsElem, hty, FVal.isNan_iff]
  refine ⟨trivial, ?_⟩
  rw [← hbits]
  split
  · exact FFmt.nanCode_lt hm
  · have := Nat.mod_lt x (y := f.signBit) (Nat.two_pow_pos _)
    omega

/-- Flipping the sign bit adds it modulo the codes. -/
theorem FFmt.xor_signBit (f : FFmt) {x : Nat} (hx : x < 2 * f.signBit) : x ^^^ f.signBit = (x + f.signBit) % (2 * f.signBit) := by
  unfold FFmt.signBit at hx ⊢
  have hmod := Nat.xor_mod_two_pow (a := x) (b := 2 ^ (f.ebits + f.mbits)) (n := f.ebits + f.mbits)
  have hdiv := Nat.xor_div_two_pow (a := x) (b := 2 ^ (f.ebits + f.mbits)) (n := f.ebits + f.mbits)
  have hpos : 0 < 2 ^ (f.ebits + f.mbits) := Nat.two_pow_pos _
  generalize 2 ^ (f.ebits + f.mbits) = p at *
  have hlt := Nat.mod_lt x hpos
  have hx' := Nat.div_add_mod x p
  have hxor := Nat.div_add_mod (x ^^^ p) p
  rw [hmod, hdiv, Nat.mod_self, Nat.xor_zero, Nat.div_self hpos] at hxor
  obtain h0 | h1 := Nat.le_one_iff_eq_zero_or_eq_one.mp (Nat.lt_succ_iff.mp (Nat.div_lt_of_lt_mul (show x < p * 2 by omega)))
  · rw [h0, Nat.zero_xor, Nat.mul_one] at hxor
    rw [h0, Nat.mul_zero, Nat.zero_add] at hx'
    rw [Nat.mod_eq_of_lt (by omega)]
    omega
  · rw [h1, Nat.xor_self, Nat.mul_zero, Nat.zero_add] at hxor
    rw [h1, Nat.mul_one] at hx'
    have hsum : x + p = x % p + 2 * p := by omega
    rw [hsum, Nat.add_mod_right, Nat.mod_eq_of_lt (by omega), hxor]

theorem vnegElem_float {ty : VTy} {f : FFmt} (hty : tyFloat ty = some f) {x : Nat} (hx : x < 2 ^ viewBits (tyView ty)) :
    vnegElem ty x = (if f.decode x = .nan then f.nanCode else (x + f.signBit) % (2 * f.signBit)) ∧
    vnegElem ty x < 2 ^ viewBits (tyView ty) := by
  obtain ⟨hm, hbits⟩ := tyFloat_format hty
  rw [← hbits] at hx ⊢
  simp only [vnegElem, hty, FVal.isNan_iff, f.xor_signBit hx]
  refine ⟨trivial, ?_⟩
  split
  · exact FFmt.nanCode_lt hm
  · exact Nat.mod_lt _ (Nat.mul_pos Nat.two_pos (Nat.two_pow_pos _))

theorem vminmax_int {ty : VTy} (hty : tyFloat ty = none) (x y : Nat) :
    vminmax ty false x y = (if signed (viewBits (tyView ty)) x ≤ signed (viewBits (tyView ty)) y then x else y) ∧
    vminmax ty true x y = (if signed (viewBits (tyView ty)) x ≤ signed (viewBits (tyView ty)) y then y else x) := by
  obtain ⟨he, -⟩ := viewBits_bounds (tyView ty)
  simp [vminmax, hty, vminmax.minS, vminmax.maxS, sgN_eq_signed he]

theorem vminmax_lt {ty : VTy} (max : Bool) {x y : Nat} (hx : x < 2 ^ viewBits (tyView ty)) (hy : y < 2 ^ viewBits (tyView ty)) :
    vminmax ty max x y < 2 ^ viewBits (tyView ty) := by
  unfold vminmax
  split
  · next f hty =>
    obtain ⟨hm, hbits⟩ := tyFloat_format hty
    rw [← hbits] at hx hy ⊢
    exact FFmt.minmax_lt hm max hx hy
  · unfold vminmax.minS vminmax.maxS
    split_ifs <;> assumption

theorem vminmax_float {ty : VTy} {f : FFmt} (hty : tyFloat ty = some f) (max : Bool) (x y : Nat) :
    vminmax ty max x y = f.minmax max x y := by
  simp only [vminmax, hty]

/-- Settles O41: each instruction is one masked operation on elements (`State.vmap_elementwise`, `State.vround_elementwise`), whose
element function gives a code of the view. -/
theorem vectorElementResults : Obligations.VectorElementResults := by
  unfold Obligations.VectorElementResults
  intro s d a b ty v m h act g0
  have hvmap {i : Instr} {srcs : List VReg} {e : Nat} {k : Lane → Nat → Nat} (hi : exec i s = finish i (s.vmap srcs d e m k))
      (g : Nat → Nat) (hg : ∀ j, k s.lane j = g j ∧ k s.lane j < 2 ^ e) : s.Elementwise i g0 d e act g :=
    State.vmap_elementwise h g hi fun j => (Nat.mod_eq_of_lt (hg j).2).trans (hg j).1
  refine ⟨fun hty => ?_, fun f hty => ?_, ?_⟩
  · intro e x y z sg done
    have hpow : 0 < 2 ^ e := Nat.two_pow_pos e
    have hx (j : Nat) : x j < 2 ^ e := s.el_lt a e j
    have hy (j : Nat) : y j < 2 ^ e := s.el_lt b e j
    have hfma : exec (.vfma d a b ty m) s = finish (.vfma d a b ty m)
        (s.vmap [a, b, d] d e m (fun l i => (l.elem a e i * l.elem b e i + l.elem d e i) % 2 ^ e)) := by
      show execVfma d a b ty m s = _
      simp only [execVfma, hty, e]
    have hneg (j : Nat) : vnegElem ty (x j) = (2 ^ e - x j) % 2 ^ e := by simp only [vnegElem, hty, e]
    exact ⟨State.varith_int h (fi := fun e x y => (x + y) % 2 ^ e) rfl hty fun j => Nat.mod_lt _ hpow,
      State.varith_int h (fi := fun e x y => (x + 2 ^ e - y) % 2 ^ e) rfl hty fun j => Nat.mod_lt _ hpow,
      State.varith_int h (fi := fun e x y => x * y % 2 ^ e) rfl hty fun j => Nat.mod_lt _ hpow,
      hvmap hfma _ fun j => ⟨rfl, Nat.mod_lt _ hpow⟩,
      hvmap rfl _ fun j => ⟨(vminmax_int hty _ _).1, vminmax_lt false (hx j) (hy j)⟩,
      hvmap rfl _ fun j => ⟨(vminmax_int hty _ _).2, vminmax_lt true (hx j) (hy j)⟩,
      hvmap rfl _ fun j => vabsElem_int hty (hx j),
      hvmap rfl _ fun j => ⟨hneg j, (hneg j).trans_lt (Nat.mod_lt _ hpow)⟩⟩
  · intro e x y z rm g dr done
    obtain ⟨hm, hbits⟩ := tyFloat_format hty
    have ha (j : Nat) : s.el a e j < 2 ^ e := s.el_lt a e j
    have hb (j : Nat) : s.el b e j < 2 ^ e := s.el_lt b e j
    have hfma : exec (.vfma d a b ty m) s = finish (.vfma d a b ty m) (s.vround [a, b, d] d e m (fun l rm dr i =>
        f.round rm dr (FVal.fma rm (f.decode (l.elem a e i)) (f.decode (l.elem b e i)) (f.decode (l.elem d e i))))) := by
      show execVfma d a b ty m s = _
      simp only [execVfma, hty, e]
    have hminmax (max : Bool) (j : Nat) := vminmax_float hty max (s.el a e j) (s.el b e j)
    have hdraw (hrm : rm ≠ .rs) (j : Nat) : dr j = 0 := by
      show (drawsFor rm act g0 (256 / e)).2.getD j 0 = 0
      rw [drawsFor_of_ne_rs hrm]
      simp
    exact ⟨State.varith_float h rfl hty,
      State.varith_float h (ff := fun rm x y => FVal.add rm x y.negate) rfl hty,
      State.varith_float h (ff := fun _ => FVal.mul) rfl hty,
      State.vround_elementwise h _ hfma fun j => Nat.mod_eq_of_lt (hbits ▸ FFmt.round_lt hm _ _ _),
      hvmap rfl _ fun j => ⟨hminmax false j, vminmax_lt false (ha j) (hb j)⟩,
      hvmap rfl _ fun j => ⟨hminmax true j, vminmax_lt true (ha j) (hb j)⟩,
      hvmap rfl _ fun j => vabsElem_float hty _,
      hvmap rfl _ fun j => vnegElem_float hty (ha j),
      fun hrm => ⟨congrArg Prod.fst (drawsFor_of_ne_rs hrm _ _ _), hdraw hrm⟩⟩
  · intro e x y done
    have hx (j : Nat) : x j < 2 ^ e := s.el_lt a e j
    have hy (j : Nat) : y j < 2 ^ e := s.el_lt b e j
    obtain ⟨he, -⟩ := viewBits_bounds v
    have hsra (j : Nat) : wrapN (sgN (x j) e / 2 ^ (y j % e)) e = (signed e (x j) / 2 ^ (y j % e) % 2 ^ e).toNat := by
      rw [wrapN, sgN_eq_signed he]
    exact ⟨hvmap rfl _ fun j => ⟨rfl, Nat.and_lt_two_pow _ (hy j)⟩,
      hvmap rfl _ fun j => ⟨rfl, Nat.or_lt_two_pow (hx j) (hy j)⟩,
      hvmap rfl _ fun j => ⟨rfl, Nat.xor_lt_two_pow (hx j) (hy j)⟩,
      hvmap rfl _ fun j => ⟨rfl, Nat.mod_lt _ (Nat.two_pow_pos e)⟩,
      hvmap rfl _ fun j => ⟨rfl, (Nat.div_le_self _ _).trans_lt (hx j)⟩,
      hvmap rfl _ fun j => ⟨hsra j, wrapN_lt _ _⟩⟩

end Sys2Proof.Machine

namespace Sys2Proof.Machine

/-! Rounding (R30, R31). -/

/-- Two magnitudes compared in units of a power of two that both are multiples of. -/
theorem FVal.lt_fin {q ea eb : Int} (ha : q ≤ ea) (hb : q ≤ eb) (a b : Nat) :
    (FVal.fin false a ea).lt (.fin false b eb) = decide (a * 2 ^ (ea - q).toNat < b * 2 ^ (eb - q).toNat) := by
  have hsplit {x : Int} (hx : min ea eb ≤ x) : (x - q).toNat = (x - min ea eb).toNat + (min ea eb - q).toNat := by omega
  rw [hsplit (min_le_left _ _), hsplit (min_le_right _ _), Nat.pow_add, Nat.pow_add, ← Nat.mul_assoc, ← Nat.mul_assoc]
  have hpos : 0 < 2 ^ (min ea eb - q).toNat := Nat.two_pow_pos _
  simp only [FVal.lt, FVal.at, Bool.false_eq_true, if_false, Nat.mul_lt_mul_right hpos]
  norm_cast

/-- A magnitude of at least `2 ^ j` units is not below `n` units where `n` is at most `2 ^ j`. -/
theorem FVal.not_lt_of_log_le {m n j : Nat} {k e : Int} (hm : m ≠ 0) (hn : n ≤ 2 ^ j) (h : j + e ≤ Nat.log2 m + k) :
    (FVal.fin false m k).lt (.fin false n e) = false := by
  rw [FVal.lt_fin (min_le_left k e) (min_le_right k e)]
  refine decide_eq_false (Nat.not_lt.mpr ?_)
  calc n * 2 ^ (e - min k e).toNat ≤ 2 ^ j * 2 ^ (e - min k e).toNat := Nat.mul_le_mul_right _ hn
    _ = 2 ^ (j + (e - min k e).toNat) := (Nat.pow_add _ _ _).symm
    _ ≤ 2 ^ (Nat.log2 m + (k - min k e).toNat) := Nat.pow_le_pow_right Nat.two_pos (by omega)
    _ = 2 ^ Nat.log2 m * 2 ^ (k - min k e).toNat := Nat.pow_add _ _ _
    _ ≤ m * 2 ^ (k - min k e).toNat := Nat.mul_le_mul_right _ (Nat.log2_self_le hm)

/-- A magnitude of at least `2 ^ j` units is above one whose highest bit lies below that place. -/
theorem FVal.not_lt_of_lt_log {m n j : Nat} {k e : Int} (hn : 2 ^ j ≤ n) (h : Nat.log2 m + 1 + k ≤ j + e) :
    (FVal.fin false n e).lt (.fin false m k) = false := by
  rw [FVal.lt_fin (min_le_right k e) (min_le_left k e)]
  refine decide_eq_false (Nat.not_lt.mpr ?_)
  calc m * 2 ^ (k - min k e).toNat ≤ 2 ^ (Nat.log2 m + 1) * 2 ^ (k - min k e).toNat := Nat.mul_le_mul_right _ Nat.lt_log2_self.le
    _ = 2 ^ (Nat.log2 m + 1 + (k - min k e).toNat) := (Nat.pow_add _ _ _).symm
    _ ≤ 2 ^ (j + (e - min k e).toNat) := Nat.pow_le_pow_right Nat.two_pos (by omega)
    _ = 2 ^ j * 2 ^ (e - min k e).toNat := Nat.pow_add _ _ _
    _ ≤ n * 2 ^ (e - min k e).toNat := Nat.mul_le_mul_right _ hn

/-- The parts of a code: sign, exponent and mantissa (R29). -/
theorem FFmt.code_parts (f : FFmt) {c : Nat} (hc : c < 2 ^ f.width) :
    (if c.testBit (f.ebits + f.mbits) then f.signBit else 0) + (c / 2 ^ f.mbits % 2 ^ f.ebits * 2 ^ f.mbits + c % 2 ^ f.mbits) = c := by
  rw [← f.two_mul_signBit] at hc
  have hlow : c / 2 ^ f.mbits % 2 ^ f.ebits * 2 ^ f.mbits + c % 2 ^ f.mbits = c % f.signBit := by
    rw [FFmt.signBit, Nat.add_comm f.ebits, Nat.pow_add, Nat.mod_mul]
    ring
  have hdiv := Nat.div_add_mod c f.signBit
  rw [hlow, Nat.testBit_eq_decide_div_mod_eq]
  change (if decide (c / f.signBit % 2 = 1) = true then _ else _) + _ = _
  obtain h | h := Nat.le_one_iff_eq_zero_or_eq_one.mp (Nat.lt_succ_iff.mp (Nat.div_lt_of_lt_mul (show c < f.signBit * 2 by omega)))
  · rw [h] at hdiv ⊢
    simpa using hdiv
  · rw [h] at hdiv ⊢
    simpa using hdiv

/-- The code of the rounded magnitude: `k` units of `2 ^ q` (R31). -/
def FFmt.magCode (f : FFmt) (q : Int) (k : Nat) : Nat := (q + f.mbits + f.bias).toNat * 2 ^ f.mbits + k - 2 ^ f.mbits

/-- A magnitude is rounded at the exponent of its own last place, which is not below the least one (R31). -/
theorem FFmt.round_fin (f : FFmt) (rm : RoundMode) (draw : Nat) (n : Bool) {m : Nat} (hm : m ≠ 0) (e : Int) {q : Int}
    (hq : max ((Nat.log2 m : Int) + e - f.mbits) (1 - f.bias - f.mbits) = q) :
    f.round rm draw (.fin n m e) = if f.infCode ≤ f.magCode q (roundMag rm n m e q draw) then f.overflow rm n
      else (if n then f.signBit else 0) + f.magCode q (roundMag rm n m e q draw) := by
  subst hq
  exact if_neg hm

theorem roundMag_self (rm : RoundMode) (n : Bool) (m : Nat) (e : Int) (draw : Nat) : roundMag rm n m e e draw = m := by
  unfold roundMag
  split
  · next h => exact h.symm
  · simp

/-- Rounding gives the code of a finite value back (R29, R31). -/
theorem FFmt.round_decode (f : FFmt) (rm : RoundMode) (draw : Nat) {c : Nat} (hc : c < 2 ^ f.width) (h : f.decode c ≠ .nan) (hf : 0 < f.ebits) :
    f.round rm draw (f.decode c) = c := by
  have hparts := f.code_parts hc
  have hm : c % 2 ^ f.mbits < 2 ^ f.mbits := Nat.mod_lt _ (Nat.two_pow_pos _)
  have he : c / 2 ^ f.mbits % 2 ^ f.ebits < 2 ^ f.ebits := Nat.mod_lt _ (Nat.two_pow_pos _)
  unfold FFmt.decode at h ⊢
  generalize c.testBit (f.ebits + f.mbits) = neg at *
  generalize c / 2 ^ f.mbits % 2 ^ f.ebits = E at *
  generalize c % 2 ^ f.mbits = m at *
  dsimp only at h ⊢
  have htwo : 2 ≤ 2 ^ f.ebits := Nat.le_self_pow hf.ne' 2
  have hfinite (hE : E < 2 ^ f.ebits - 1) : ¬ f.infCode ≤ E * 2 ^ f.mbits + m := by
    have : (E + 1) * 2 ^ f.mbits ≤ f.infCode := Nat.mul_le_mul_right _ (by omega)
    rw [Nat.succ_mul] at this
    omega
  split
  · next hE =>
    rw [if_pos hE] at h
    split
    · next h0 =>
      rw [← hparts, hE, h0]
      rfl
    · next h0 => exact absurd (if_neg h0) h
  · next hE =>
    split
    · next hE0 =>
      subst hE0
      by_cases h0 : m = 0
      · subst h0
        simpa [FFmt.round] using hparts
      · have hlog : Nat.log2 m < f.mbits := (Nat.log2_lt h0).mpr hm
        have hcode : f.magCode (1 - f.bias - f.mbits) m = 0 * 2 ^ f.mbits + m := by
          rw [FFmt.magCode, show (1 - f.bias - f.mbits + f.mbits + f.bias).toNat = 1 by omega]
          omega
        rw [f.round_fin rm draw neg h0 _ (max_eq_right (by omega)), roundMag_self, hcode, if_neg (hfinite (by omega))]
        exact hparts
    · next hE0 =>
      have h0 : 2 ^ f.mbits + m ≠ 0 := by omega
      have hlog : Nat.log2 (2 ^ f.mbits + m) = f.mbits := by
        rw [Nat.log2_eq_iff h0, Nat.pow_succ]
        omega
      have hcode : f.magCode (E - f.bias - f.mbits) (2 ^ f.mbits + m) = E * 2 ^ f.mbits + m := by
        rw [FFmt.magCode, show ((E : Int) - f.bias - f.mbits + f.mbits + f.bias).toNat = E by omega]
        omega
      rw [f.round_fin rm draw neg h0 _ (q := E - f.bias - f.mbits) (by rw [hlog]; omega), roundMag_self, hcode,
        if_neg (hfinite (by omega))]
      exact hparts

/-! Beyond the largest finite value (R31). -/

/-- The exponent of the last place of the largest finite value. -/
def FFmt.topUlp (f : FFmt) : Int := 2 ^ (f.ebits - 1) - 1 - f.mbits

theorem FFmt.bias_cast (f : FFmt) : f.bias = (2 ^ (f.ebits - 1) : Nat) - 1 ∧ f.topUlp = (2 ^ (f.ebits - 1) : Nat) - 1 - f.mbits := by
  unfold FFmt.bias FFmt.topUlp
  push_cast
  exact ⟨rfl, rfl⟩

/-- A magnitude between the largest value and the next power of two is the largest value and a part of its last place (R31). -/
theorem FFmt.above_largest (f : FFmt) {m : Nat} {k : Int} (h : Nat.log2 m + k = f.mbits + f.topUlp)
    (hlt : (FVal.fin false (2 ^ (f.mbits + 1) - 1) f.topUlp).lt (.fin false m k) = true) :
    ∃ sh r : Nat, f.topUlp = k + sh ∧ 0 < sh ∧ 0 < r ∧ r < 2 ^ sh ∧ m = (2 ^ (f.mbits + 1) - 1) * 2 ^ sh + r := by
  have hlog : m < 2 ^ (Nat.log2 m + 1) := Nat.lt_log2_self
  have hpos : 0 < 2 ^ (f.mbits + 1) := Nat.two_pow_pos _
  by_cases hk : f.topUlp ≤ k
  · rw [FVal.lt_fin (le_refl f.topUlp) hk, decide_eq_true_iff] at hlt
    have hbound : m * 2 ^ (k - f.topUlp).toNat < 2 ^ (f.mbits + 1) := by
      calc m * 2 ^ (k - f.topUlp).toNat < 2 ^ (Nat.log2 m + 1) * 2 ^ (k - f.topUlp).toNat :=
            Nat.mul_lt_mul_of_pos_right hlog (Nat.two_pow_pos _)
        _ = 2 ^ (f.mbits + 1) := by rw [← Nat.pow_add]; congr 1; omega
    simp only [sub_self, Int.toNat_zero, Nat.pow_zero, Nat.mul_one] at hlt
    omega
  · rw [FVal.lt_fin (not_le.mp hk).le (le_refl k), decide_eq_true_iff] at hlt
    simp only [sub_self, Int.toNat_zero, Nat.pow_zero, Nat.mul_one] at hlt
    obtain ⟨sh, hsh⟩ : ∃ sh : Nat, f.topUlp = k + sh := ⟨(f.topUlp - k).toNat, by omega⟩
    rw [hsh, add_sub_cancel_left, Int.toNat_natCast] at hlt
    have hbound : m < (2 ^ (f.mbits + 1) - 1) * 2 ^ sh + 2 ^ sh := by
      rw [← Nat.succ_mul, Nat.succ_eq_add_one, Nat.sub_add_cancel hpos, ← Nat.pow_add, show f.mbits + 1 + sh = Nat.log2 m + 1 by omega]
      exact hlog
    exact ⟨sh, m - (2 ^ (f.mbits + 1) - 1) * 2 ^ sh, hsh, by omega, by omega, by omega, by omega⟩

section

variable {f : FFmt} (hf : 2 ≤ f.ebits)
include hf

theorem FFmt.two_pow_ebits : 2 ^ f.ebits = 2 * 2 ^ (f.ebits - 1) ∧ 2 ≤ 2 ^ (f.ebits - 1) := by
  refine ⟨?_, Nat.le_self_pow (by omega) 2⟩
  rw [← Nat.pow_succ', Nat.succ_eq_add_one, Nat.sub_one_add_one (by omega)]

/-- The code below that of infinity is the largest finite value. -/
theorem FFmt.decode_largest : f.decode (f.infCode - 1) = .fin false (2 ^ (f.mbits + 1) - 1) f.topUlp := by
  obtain ⟨hpow, htwo⟩ := FFmt.two_pow_ebits hf
  obtain ⟨hbias, htop⟩ := f.bias_cast
  have hpos : 0 < 2 ^ f.mbits := Nat.two_pow_pos _
  have hcode : f.infCode - 1 = 2 ^ f.mbits * (2 * 2 ^ (f.ebits - 1) - 2) + (2 ^ f.mbits - 1) := by
    rw [FFmt.infCode, hpow, show 2 * 2 ^ (f.ebits - 1) - 1 = 2 * 2 ^ (f.ebits - 1) - 2 + 1 by omega, Nat.succ_mul, Nat.mul_comm]
    omega
  have hdiv : (f.infCode - 1) / 2 ^ f.mbits = 2 * 2 ^ (f.ebits - 1) - 2 := by
    rw [hcode, Nat.mul_add_div hpos, Nat.div_eq_of_lt (by omega), Nat.add_zero]
  have hmod : (f.infCode - 1) % 2 ^ f.mbits = 2 ^ f.mbits - 1 := by
    rw [hcode, Nat.mul_add_mod, Nat.mod_eq_of_lt (by omega)]
  have hsign : (f.infCode - 1).testBit (f.ebits + f.mbits) = false := Nat.testBit_lt_two_pow (by
    have := f.infCode_lt
    rw [FFmt.signBit] at this
    omega)
  unfold FFmt.decode
  rw [hsign, hdiv, hmod, hpow, Nat.mod_eq_of_lt (by omega)]
  dsimp only
  rw [if_neg (by omega), if_neg (by omega), Nat.pow_succ, hbias, htop]
  congr 1 <;> omega

/-- A magnitude beyond the last place of the largest value overflows (R31). -/
theorem FFmt.round_beyond (rm : RoundMode) (draw : Nat) (n : Bool) {m : Nat} {k : Int} (hm : m ≠ 0)
    (h : f.mbits + 1 + f.topUlp ≤ Nat.log2 m + k) : f.round rm draw (.fin n m k) = f.overflow rm n := by
  obtain ⟨hpow, htwo⟩ := FFmt.two_pow_ebits hf
  obtain ⟨hbias, htop⟩ := f.bias_cast
  have hlow : 2 ^ f.mbits ≤ roundMag rm n m k (Nat.log2 m + k - f.mbits) draw := by
    have hlog := Nat.log2_self_le hm
    unfold roundMag
    rw [if_neg hm]
    split
    · next hq =>
      calc 2 ^ f.mbits = 2 ^ Nat.log2 m * 2 ^ (k - (Nat.log2 m + k - f.mbits)).toNat := by
            rw [← Nat.pow_add]; congr 1; omega
        _ ≤ _ := Nat.mul_le_mul_right _ hlog
    · next hq =>
      refine le_trans ?_ (Nat.le_add_right _ _)
      rw [Nat.le_div_iff_mul_le (Nat.two_pow_pos _), ← Nat.pow_add]
      exact le_trans (Nat.pow_le_pow_right Nat.two_pos (by omega)) hlog
  rw [f.round_fin rm draw n hm k (q := Nat.log2 m + k - f.mbits) (max_eq_left (by omega)), if_pos]
  unfold FFmt.magCode FFmt.infCode
  have : (2 ^ f.ebits - 1) * 2 ^ f.mbits ≤ ((Nat.log2 m : Int) + k - f.mbits + f.mbits + f.bias).toNat * 2 ^ f.mbits :=
    Nat.mul_le_mul_right _ (by omega)
  omega

/-- Rounding it gives the largest value, or overflows where the part that is cut off rounds up (R30, R31). -/
theorem FFmt.round_above_largest (rm : RoundMode) (draw : Nat) (n : Bool) {m sh r : Nat} {k : Int} (hm : m ≠ 0)
    (h : Nat.log2 m + k = f.mbits + f.topUlp) (hsh : f.topUlp = k + sh) (hsh0 : 0 < sh) (hr : r < 2 ^ sh)
    (hmr : m = (2 ^ (f.mbits + 1) - 1) * 2 ^ sh + r) :
    f.round rm draw (.fin n m k) = if roundsUp rm n m sh draw then f.overflow rm n else (if n then f.signBit else 0) + f.infCode - 1 := by
  obtain ⟨hpow, htwo⟩ := FFmt.two_pow_ebits hf
  obtain ⟨hbias, htop⟩ := f.bias_cast
  have hpos : 0 < 2 ^ f.mbits := Nat.two_pow_pos _
  have hdiv : m / 2 ^ sh = 2 ^ (f.mbits + 1) - 1 := by
    rw [hmr, Nat.mul_comm, Nat.mul_add_div (Nat.two_pow_pos _), Nat.div_eq_of_lt hr, Nat.add_zero]
  have hmag : roundMag rm n m k f.topUlp draw = 2 ^ (f.mbits + 1) - 1 + b2n (roundsUp rm n m sh draw) := by
    simp only [roundMag, hm, if_false, hsh, add_sub_cancel_left, Int.toNat_natCast, hdiv]
    simp [hsh0.ne']
  have hinf : f.infCode = (2 * 2 ^ (f.ebits - 1) - 2) * 2 ^ f.mbits + 2 ^ f.mbits := by
    rw [FFmt.infCode, hpow, ← Nat.succ_mul]
    congr 1
    omega
  have hcode : f.magCode f.topUlp (2 ^ (f.mbits + 1) - 1 + b2n (roundsUp rm n m sh draw)) =
      f.infCode - 1 + b2n (roundsUp rm n m sh draw) := by
    rw [FFmt.magCode, show (f.topUlp + f.mbits + f.bias).toNat = 2 * 2 ^ (f.ebits - 1) - 2 by omega, hinf, Nat.pow_succ]
    omega
  rw [f.round_fin rm draw n hm k (q := f.topUlp) (by omega), hmag, hcode]
  have hinf0 : 0 < f.infCode := by omega
  cases roundsUp rm n m sh draw with
  | true =>
    rw [if_pos (by simp only [b2n, if_true]; omega)]
    rfl
  | false =>
    rw [if_neg (by simp only [b2n, Bool.false_eq_true, if_false]; omega)]
    simp only [b2n, Bool.false_eq_true, if_false]
    omega

end

/-- Does a magnitude beyond the largest finite value go to infinity in a mode (R31)? To nearest from half a unit of the last place beyond
it on, stochastically where the part beyond it and the draw fill such a unit. -/
def FFmt.ToInf (f : FFmt) (rm : RoundMode) (draw : Nat) (neg : Bool) (m : Nat) (k : Int) : Prop :=
  match rm with
  | .rne => (FVal.fin false m k).lt (.fin false (2 ^ (f.mbits + 2) - 1) (2 ^ (f.ebits - 1) - 2 - f.mbits)) = false
  | .rtz => False
  | .rup => neg = false
  | .rdn => neg = true
  | .rs => (FVal.fin false m k).lt
      (.fin false ((2 ^ (f.mbits + 1) - 1) * 2 ^ 16 + (2 ^ 16 - draw)) (2 ^ (f.ebits - 1) - 17 - f.mbits)) = false

theorem FFmt.toInf_rne (f : FFmt) (draw : Nat) (neg : Bool) (m : Nat) (k : Int) : f.ToInf .rne draw neg m k ↔
    (FVal.fin false m k).lt (.fin false (2 ^ (f.mbits + 2) - 1) (f.topUlp - 1)) = false := by
  rw [FFmt.topUlp, show (2 : Int) ^ (f.ebits - 1) - 1 - f.mbits - 1 = 2 ^ (f.ebits - 1) - 2 - f.mbits by ring]
  rfl

theorem FFmt.toInf_rs (f : FFmt) (draw : Nat) (neg : Bool) (m : Nat) (k : Int) : f.ToInf .rs draw neg m k ↔
    (FVal.fin false m k).lt (.fin false ((2 ^ (f.mbits + 1) - 1) * 2 ^ 16 + (2 ^ 16 - draw)) (f.topUlp - 16)) = false := by
  rw [FFmt.topUlp, show (2 : Int) ^ (f.ebits - 1) - 1 - f.mbits - 16 = 2 ^ (f.ebits - 1) - 17 - f.mbits by ring]
  rfl

/-- Where a magnitude overflows, its mode gives infinity or the largest value as `FFmt.ToInf` says (R31). -/
theorem FFmt.overflow_eq (f : FFmt) (rm : RoundMode) {draw : Nat} (n : Bool) {m : Nat} {k : Int} (hm : m ≠ 0)
    (h : f.mbits + 1 + f.topUlp ≤ Nat.log2 m + k) :
    (f.ToInf rm draw n m k → f.overflow rm n = (if n then f.signBit else 0) + f.infCode) ∧
    (¬ f.ToInf rm draw n m k → f.overflow rm n = (if n then f.signBit else 0) + f.infCode - 1) := by
  cases rm with
  | rne =>
    refine ⟨fun _ => rfl, fun hnot => absurd ((f.toInf_rne draw n m k).mpr ?_) hnot⟩
    exact FVal.not_lt_of_log_le hm (Nat.sub_le _ 1) (by push_cast; omega)
  | rs =>
    refine ⟨fun _ => rfl, fun hnot => absurd ((f.toInf_rs draw n m k).mpr ?_) hnot⟩
    refine FVal.not_lt_of_log_le (j := f.mbits + 1 + 16) hm ?_ (by push_cast; omega)
    have : 0 < 2 ^ (f.mbits + 1) := Nat.two_pow_pos _
    rw [Nat.pow_add 2 (f.mbits + 1) 16]
    omega
  | rtz => exact ⟨False.elim, fun _ => rfl⟩
  | rup => cases n <;> simp [FFmt.ToInf, FFmt.overflow]
  | rdn => cases n <;> simp [FFmt.ToInf, FFmt.overflow]

/-- What is cut off rounds up exactly where the value goes to infinity (R30, R31). -/
theorem FFmt.roundsUp_iff (f : FFmt) (rm : RoundMode) {draw : Nat} (hd : draw < 2 ^ 16) (n : Bool) {m sh r : Nat} {k : Int}
    (hsh : f.topUlp = k + sh) (hsh0 : 0 < sh) (hr0 : 0 < r) (hr : r < 2 ^ sh) (hmr : m = (2 ^ (f.mbits + 1) - 1) * 2 ^ sh + r) :
    roundsUp rm n m sh draw = true ↔ f.ToInf rm draw n m k := by
  have hdiv : m / 2 ^ sh = 2 ^ (f.mbits + 1) - 1 := by
    rw [hmr, Nat.mul_comm, Nat.mul_add_div (Nat.two_pow_pos _), Nat.div_eq_of_lt hr, Nat.add_zero]
  have hmod : m % 2 ^ sh = r := by
    rw [hmr, Nat.mul_comm, Nat.mul_add_mod, Nat.mod_eq_of_lt hr]
  cases rm with
  | rne =>
    obtain ⟨t, rfl⟩ := Nat.exists_eq_add_of_lt hsh0
    have hodd : (2 ^ (f.mbits + 1) - 1).testBit 0 = true := by rw [Nat.testBit_two_pow_sub_one]; simp
    have hunits : (f.topUlp - 1 - k).toNat = t := by push_cast at hsh; omega
    have hwhole : (2 ^ (f.mbits + 1) - 1) * 2 ^ (0 + t + 1) = 2 ^ (f.mbits + 2) * 2 ^ t - 2 * 2 ^ t := by
      rw [Nat.sub_mul]; ring_nf
    have hle : 2 * 2 ^ t ≤ 2 ^ (f.mbits + 2) * 2 ^ t := Nat.mul_le_mul_right _ (Nat.le_self_pow (by omega) 2)
    rw [f.toInf_rne, FVal.lt_fin (le_refl k) (by omega)]
    simp only [roundsUp, hmod, hdiv, hodd, sub_self, Int.toNat_zero, hunits, decide_eq_false_iff_not, Bool.or_eq_true,
      decide_eq_true_iff, Bool.and_true, Nat.sub_mul]
    rw [hwhole] at hmr
    have : 2 ^ (0 + t + 1) = 2 * 2 ^ t := by ring
    omega
  | rs =>
    have hwhole (p : Nat) : (2 ^ (f.mbits + 1) - 1) * (2 ^ 16 * p) = (2 ^ (f.mbits + 1) - 1) * 2 ^ 16 * p := (Nat.mul_assoc _ _ _).symm
    rw [f.toInf_rs]
    by_cases h16 : 16 ≤ sh
    · obtain ⟨t, rfl⟩ := Nat.exists_eq_add_of_le h16
      have hunits : (f.topUlp - 16 - k).toNat = t := by push_cast at hsh; omega
      have hround := Nat.le_div_iff_mul_le (x := 2 ^ 16 - draw) (y := r) (Nat.two_pow_pos t)
      rw [FVal.lt_fin (le_refl k) (by omega)]
      simp only [roundsUp, hmod, h16, if_true, sub_self, Int.toNat_zero, hunits, decide_eq_false_iff_not, decide_eq_true_iff,
        Nat.add_sub_cancel_left, Nat.add_mul, ← hwhole]
      rw [Nat.pow_add 2 16] at hmr
      omega
    · have hunits : (k - (f.topUlp - 16)).toNat = 16 - sh := by omega
      have hpow : 2 ^ 16 = 2 ^ sh * 2 ^ (16 - sh) := by rw [← Nat.pow_add]; congr 1; omega
      have hmr' : m * 2 ^ (16 - sh) = (2 ^ (f.mbits + 1) - 1) * 2 ^ 16 + r * 2 ^ (16 - sh) := by
        rw [hmr, hpow, Nat.add_mul, Nat.mul_assoc]
      rw [FVal.lt_fin (by omega) (le_refl (f.topUlp - 16))]
      simp only [roundsUp, hmod, h16, if_false, sub_self, Int.toNat_zero, hunits, decide_eq_false_iff_not, decide_eq_true_iff, hmr']
      omega
  | rtz => simp [roundsUp, FFmt.ToInf]
  | rup => simp [roundsUp, FFmt.ToInf, hmod, hr0.ne']
  | rdn => simp [roundsUp, FFmt.ToInf, hmod, hr0.ne']

/-- A mode in which a magnitude rounds up overflows to infinity (R30, R31). -/
theorem FFmt.overflow_of_roundsUp (f : FFmt) {rm : RoundMode} {n : Bool} {m sh draw : Nat} (h : roundsUp rm n m sh draw = true) :
    f.overflow rm n = (if n then f.signBit else 0) + f.infCode := by
  cases rm with
  | rne | rs => rfl
  | rtz => cases h
  | rup | rdn => cases n <;> simp [roundsUp, FFmt.overflow] at h ⊢

/-- Every magnitude beyond the largest finite value rounds to infinity or to the largest value by its mode (R31). -/
theorem FFmt.round_overflows {f : FFmt} (hf : 2 ≤ f.ebits) (rm : RoundMode) {draw : Nat} (hd : draw < 2 ^ 16) (n : Bool) {m : Nat} {k : Int}
    (h : (f.decode (f.infCode - 1)).lt (.fin false m k) = true) :
    (f.ToInf rm draw n m k → f.round rm draw (.fin n m k) = (if n then f.signBit else 0) + f.infCode) ∧
    (¬ f.ToInf rm draw n m k → f.round rm draw (.fin n m k) = (if n then f.signBit else 0) + f.infCode - 1) := by
  rw [FFmt.decode_largest hf] at h
  have hm : m ≠ 0 := by
    rintro rfl
    rw [FVal.lt_fin (min_le_left _ _) (min_le_right _ _), Nat.zero_mul] at h
    simp at h
  have hge : f.mbits + f.topUlp ≤ Nat.log2 m + k := by
    by_contra hlt
    have hpow : 2 ^ f.mbits ≤ 2 ^ (f.mbits + 1) - 1 := by
      rw [Nat.pow_succ]
      have := Nat.two_pow_pos f.mbits
      omega
    rw [FVal.not_lt_of_lt_log hpow (by omega)] at h
    cases h
  by_cases hbeyond : f.mbits + 1 + f.topUlp ≤ Nat.log2 m + k
  · rw [FFmt.round_beyond hf rm draw n hm hbeyond]
    exact f.overflow_eq rm n hm hbeyond
  · have hlog : Nat.log2 m + k = f.mbits + f.topUlp := by omega
    obtain ⟨sh, r, hsh, hsh0, hr0, hr, hmr⟩ := f.above_largest hlog h
    rw [FFmt.round_above_largest hf rm draw n hm hlog hsh hsh0 hr hmr, ← f.roundsUp_iff rm hd n hsh hsh0 hr0 hr hmr]
    exact ⟨fun hup => by rw [if_pos hup, f.overflow_of_roundsUp hup], fun hup => if_neg hup⟩

/-- Settles O47: what a format holds is rounded at its own last place (`FFmt.round_decode`), and a magnitude beyond the largest value
either carries out of that value's last place or lies beyond the format (`FFmt.round_overflows`). -/
theorem floatRoundingExact : Obligations.FloatRoundingExact := by
  unfold Obligations.FloatRoundingExact
  intro f rm draw c hf hc hd
  have hbits : 2 ≤ f.ebits := by obtain rfl | rfl | rfl := hf <;> decide
  refine ⟨fun h => by rw [h]; rfl, fun h => f.round_decode rm draw hc h (by omega), fun n m k h => ?_⟩
  have hround := FFmt.round_overflows hbits rm hd n h
  cases rm <;> exact hround

end Sys2Proof.Machine

namespace Sys2Proof
open Machine

/-! Words made of bits (R32, R35, R37). -/

/-- Adding a power of two whose bit is clear sets that bit. -/
theorem testBit_add_two_pow {x p : Nat} (h : x.testBit p = false) (i : Nat) : (x + 2 ^ p).testBit i = (x.testBit i || p == i) := by
  have hmod : x % 2 ^ (p + 1) = x % 2 ^ p := by
    rw [Nat.mod_pow_succ]
    rw [Nat.testBit_eq_decide_div_mod_eq, decide_eq_false_iff_not] at h
    rw [show x / 2 ^ p % 2 = 0 by omega, Nat.mul_zero, Nat.add_zero]
  have hlow : x % 2 ^ p < 2 ^ p := Nat.mod_lt _ (Nat.two_pow_pos p)
  have hx : x = 2 ^ (p + 1) * (x / 2 ^ (p + 1)) + x % 2 ^ p := by rw [← hmod, Nat.div_add_mod]
  have hsum : x + 2 ^ p = 2 ^ (p + 1) * (x / 2 ^ (p + 1)) + (2 ^ p + x % 2 ^ p) := by omega
  have hbits : ∀ y < 2 ^ (p + 1), (2 ^ (p + 1) * (x / 2 ^ (p + 1)) + y).testBit i =
      if i < p + 1 then y.testBit i else (x / 2 ^ (p + 1)).testBit (i - (p + 1)) := fun y hy => Nat.testBit_two_pow_mul_add _ hy _
  rw [hsum, hbits _ (by rw [Nat.pow_succ]; omega)]
  conv_rhs => rw [hx, hbits _ (by rw [Nat.pow_succ]; omega)]
  obtain hi | rfl | hi := Nat.lt_trichotomy i p
  · rw [if_pos (by omega), if_pos (by omega), Nat.testBit_two_pow_add_gt hi, beq_eq_false_iff_ne.mpr hi.ne', Bool.or_false]
  · rw [if_pos (by omega), if_pos (by omega), Nat.testBit_two_pow_add_eq, Nat.testBit_lt_two_pow hlow]
    simp
  · rw [if_neg (by omega), if_neg (by omega), beq_eq_false_iff_ne.mpr hi.ne, Bool.or_false]

/-- The bits of a sum of bits at different places. -/
theorem testBit_bits_sum {pos : Nat → Nat} (b : Nat → Bool) {L : List Nat} (hL : (L.map pos).Nodup) (a : Nat)
    (ha : ∀ j ∈ L, a.testBit (pos j) = false) (i : Nat) :
    (L.foldl (fun a j => a + b2n (b j) * 2 ^ pos j) a).testBit i = (a.testBit i || L.any fun j => b j && pos j == i) := by
  induction L generalizing a with
  | nil => simp
  | cons j L ih =>
    obtain ⟨hj, hL⟩ := List.nodup_cons.mp hL
    have hbit (n : Nat) : (a + b2n (b j) * 2 ^ pos j).testBit n = (a.testBit n || (b j && pos j == n)) := by
      cases b j with
      | false => simp [b2n]
      | true => simpa [b2n] using testBit_add_two_pow (ha j List.mem_cons_self) n
    rw [List.foldl_cons, ih hL _ fun k hk => ?_, hbit, List.any_cons, Bool.or_assoc]
    have hne : pos j ≠ pos k := fun h => hj (h ▸ List.mem_map_of_mem hk)
    rw [hbit, ha k (List.mem_cons_of_mem j hk), beq_eq_false_iff_ne.mpr hne]
    simp

/-- The bit at the place of one of the summands. -/
theorem testBit_bits_sum_at {pos : Nat → Nat} (b : Nat → Bool) {L : List Nat} (hL : (L.map pos).Nodup) {j : Nat} (hj : j ∈ L) :
    (L.foldl (fun a j => a + b2n (b j) * 2 ^ pos j) 0).testBit (pos j) = b j := by
  rw [testBit_bits_sum b hL 0 (fun _ _ => Nat.zero_testBit _), Nat.zero_testBit, Bool.false_or, Bool.eq_iff_iff, List.any_eq_true]
  constructor
  · rintro ⟨k, hk, h⟩
    obtain ⟨hb, hpos⟩ := Bool.and_eq_true_iff.mp h
    rwa [← List.inj_on_of_nodup_map hL hk hj (beq_iff_eq.mp hpos)]
  · exact fun hb => ⟨j, hj, by simp [hb]⟩

/-- The bit of element `j` of a plane is the element's (R32, R35). -/
theorem testBit_planeWord (kquad : Bool) (b : Nat → Bool) {j : Nat} (hj : j < 32) : (planeWord kquad b).testBit (blkPos kquad j) = b j :=
  testBit_bits_sum_at (pos := blkPos kquad) b (by cases kquad <;> decide) (List.mem_range.mpr hj)

/-- The bit of a code that a plane holds (R32, R34). -/
def BlkFmt.planeBit (f : BlkFmt) (p : Nat) : Nat :=
  if f.isInt then f.width - 1 - p else if p = 0 then f.width - 1 else if p ≤ f.mbits then f.mbits - p else f.width - 1 - (p - f.mbits)

/-- The planes hold each bit of a code once. -/
theorem BlkFmt.planeBit_perm (f : BlkFmt) : ((List.range f.width).map f.planeBit).Perm (List.range f.width) := by
  cases f <;> decide

/-- An element's code is that of its bits in the planes (R32, R34). -/
theorem planeCode_planes (f : BlkFmt) (plane : Nat → Nat → Bool) (j : Nat) {c : Nat} (hc : c < 2 ^ f.width)
    (h : ∀ p < f.width, plane p j = c.testBit (f.planeBit p)) : planeCode f plane j = c := by
  have hperm := f.planeBit_perm
  have hnodup : ((List.range f.width).map f.planeBit).Nodup := hperm.nodup_iff.mpr List.nodup_range
  refine Nat.eq_of_testBit_eq fun i => ?_
  show ((List.range f.width).foldl (fun c p => c + b2n (plane p j) * 2 ^ f.planeBit p) 0).testBit i = _
  by_cases hi : i < f.width
  · obtain ⟨p, hp, rfl⟩ := List.mem_map.mp (hperm.mem_iff.mpr (List.mem_range.mpr hi))
    rw [testBit_bits_sum_at (fun p => plane p j) hnodup hp, h p (List.mem_range.mp hp)]
  · rw [testBit_bits_sum (fun p => plane p j) hnodup 0 (fun _ _ => Nat.zero_testBit _), Nat.zero_testBit, Bool.false_or,
      Nat.testBit_lt_two_pow (hc.trans_le (Nat.pow_le_pow_right Nat.two_pos (Nat.le_of_not_lt hi))), List.any_eq_false]
    intro p hp hbit
    have hpos : f.planeBit p ∈ List.range f.width := hperm.mem_iff.mp (List.mem_map_of_mem hp)
    rw [beq_iff_eq.mp (Bool.and_eq_true_iff.mp hbit).2] at hpos
    exact hi (List.mem_range.mp hpos)

/-! Token streams (R37, R38). -/

theorem ceilDiv_bounds (x : Nat) : x ≤ 32 * ceilDiv x 32 ∧ 32 * ceilDiv x 32 < x + 32 := by
  unfold ceilDiv
  omega

theorem streamWords_length (st : List Bool) : (streamWords st).length = ceilDiv st.length 32 := by
  simp [streamWords]

theorem streamWords_getD (st : List Bool) {k : Nat} (hk : k < ceilDiv st.length 32) :
    (streamWords st).getD k 0 = (List.range 32).foldl (fun a j => a + b2n (st.getD (32 * k + j) false) * 2 ^ j) 0 := by
  rw [List.getD_eq_getElem _ _ (by rwa [streamWords_length])]
  unfold streamWords
  rw [List.getElem_map, List.getElem_range]

theorem testBit_streamWords (st : List Bool) {k j : Nat} (hk : k < ceilDiv st.length 32) (hj : j < 32) :
    ((streamWords st).getD k 0).testBit j = st.getD (32 * k + j) false := by
  rw [streamWords_getD st hk]
  exact testBit_bits_sum_at (pos := id) (fun j => st.getD (32 * k + j) false) (by rw [List.map_id]; exact List.nodup_range)
    (List.mem_range.mpr hj)

/-- A stream is read back from its words, with the pad behind it (R37). -/
theorem streamWords_bits (st : List Bool) : (List.range (32 * (streamWords st).length)).map
      (fun i => ((streamWords st).getD (i / 32) 0).testBit (i % 32)) =
    st ++ List.replicate (32 * (streamWords st).length - st.length) false := by
  have hbound := (ceilDiv_bounds st.length).1
  rw [streamWords_length]
  generalize hn : ceilDiv st.length 32 = n at hbound
  refine List.ext_getElem ?_ fun i hi _ => ?_
  · rw [List.length_map, List.length_range, List.length_append, List.length_replicate]
    omega
  · rw [List.length_map, List.length_range] at hi
    rw [List.getElem_map, List.getElem_range, testBit_streamWords st (by omega) (Nat.mod_lt i (by decide)), Nat.div_add_mod]
    by_cases hst : i < st.length
    · rw [List.getElem_append_left hst, List.getD_eq_getElem _ _ hst]
    · rw [List.getElem_append_right (Nat.le_of_not_lt hst), List.getD_eq_default _ _ (Nat.le_of_not_lt hst), List.getElem_replicate]

/-- No token begins another (R38). -/
theorem tokenBits_prefix_free : ∀ cb < 4, ∀ e < 16, ∀ e' < 16, (tokenBits cb e).isPrefixOf (tokenBits cb e') = true → e = e' := by decide

theorem tokenBits_length : ∀ cb < 4, ∀ e < 16, 2 ≤ (tokenBits cb e).length ∧ (tokenBits cb e).length ≤ 8 := by decide

theorem firstSome_range {β : Type} {f : Nat → Option β} {n e : Nat} {b : β} (he : e < n) (hf : f e = some b) (h : ∀ e' < e, f e' = none) :
    firstSome f (List.range n) = some b := by
  have hskip (L M : List Nat) (hL : ∀ x ∈ L, f x = none) : firstSome f (L ++ M) = firstSome f M := by
    induction L with
    | nil => rfl
    | cons x L ih =>
      rw [List.cons_append, firstSome, hL x List.mem_cons_self]
      exact ih fun y hy => hL y (List.mem_cons_of_mem x hy)
  obtain ⟨k, rfl⟩ : ∃ k, n = e + (k + 1) := ⟨n - e - 1, by omega⟩
  rw [List.range_add, hskip _ _ fun x hx => h x (List.mem_range.mp hx), List.range_succ_eq_map, List.map_cons, firstSome, Nat.add_zero, hf]

/-- A token is read back (R37, R38). -/
theorem readToken_token {cb e : Nat} (hcb : cb < 4) (he : e < 16) (st : List Bool) :
    readToken cb (tokenBits cb e ++ st) = some (e, st) := by
  have hself : (tokenBits cb e).isPrefixOf (tokenBits cb e ++ st) = true := List.isPrefixOf_iff_prefix.mpr (List.prefix_append _ _)
  refine firstSome_range he ?_ fun e' he' => ?_
  · simp only [hself, if_true, List.drop_left]
  · have hnot : (tokenBits cb e').isPrefixOf (tokenBits cb e ++ st) = false := by
      refine Bool.eq_false_iff.mpr fun hpre => he'.ne ?_
      obtain h | h := List.prefix_or_prefix_of_prefix (List.isPrefixOf_iff_prefix.mp hpre) (List.prefix_append _ st)
      · exact tokenBits_prefix_free cb hcb e' (he'.trans he) e he (List.isPrefixOf_iff_prefix.mpr h)
      · exact (tokenBits_prefix_free cb hcb e he e' (he'.trans he) (List.isPrefixOf_iff_prefix.mpr h)).symm
    simp only [hnot, Bool.false_eq_true, if_false]

/-- A stream of tokens is read back, up to its pad (R37). -/
theorem readTokens_stream {cb : Nat} (hcb : cb < 4) (codes : List Nat) (pad : List Bool) :
    readTokens cb codes.length (tokenStream cb codes ++ pad) = some (codes.map (fun c => c / 8 % 16), pad) := by
  induction codes with
  | nil => rfl
  | cons c codes ih =>
    have hstream : tokenStream cb (c :: codes) ++ pad = tokenBits cb (c / 8 % 16) ++ (tokenStream cb codes ++ pad) := by
      simp [tokenStream]
    rw [hstream, List.length_cons, readTokens, readToken_token hcb (Nat.mod_lt _ (by decide))]
    simp [ih]

theorem tokenStream_length {cb : Nat} (hcb : cb < 4) (codes : List Nat) :
    2 * codes.length ≤ (tokenStream cb codes).length ∧ (tokenStream cb codes).length ≤ 8 * codes.length := by
  induction codes with
  | nil => exact ⟨le_refl _, le_refl _⟩
  | cons c codes ih =>
    have htoken := tokenBits_length cb hcb (c / 8 % 16) (Nat.mod_lt _ (by decide))
    have hcons : (tokenStream cb (c :: codes)).length = (tokenBits cb (c / 8 % 16)).length + (tokenStream cb codes).length := by
      simp [tokenStream]
    rw [hcons, List.length_cons]
    omega

end Sys2Proof

namespace Sys2Proof
open Machine

/-! The codes that the encoder makes (R46). -/

/-- A code of a format other than the reserved one (R34). -/
def BlkFmt.Valid (f : BlkFmt) (c : Nat) : Prop := c < 2 ^ f.width ∧ c ≠ f.reserved

theorem BlkFmt.width_pos (f : BlkFmt) : 0 < f.width := by cases f <;> decide

/-- A sign above a magnitude that is not 0 only with a clear sign makes a valid code. -/
theorem BlkFmt.valid_encode (f : BlkFmt) (rm : RoundMode) (draw : Nat) (n : Bool) (m : Nat) (e : Int) : f.Valid (f.encode rm draw n m e) := by
  obtain ⟨w, hw⟩ := Nat.exists_eq_add_of_lt f.width_pos
  have hhalf : 0 < 2 ^ w := Nat.two_pow_pos w
  have hpow : 2 ^ (w + 1) = 2 * 2 ^ w := by rw [Nat.pow_succ, Nat.mul_comm]
  have htop (k : Nat) : min k (2 ^ w - 1) < 2 ^ w := (Nat.min_le_right _ _).trans_lt (by omega)
  unfold BlkFmt.Valid BlkFmt.reserved BlkFmt.encode
  rw [hw, Nat.zero_add, Nat.add_sub_cancel, hpow]
  dsimp only
  split
  · generalize hk : min (roundMag rm n m e 0 draw) (2 ^ w - 1) = k
    have := hk ▸ htop _
    split
    · next h =>
      have : k ≠ 0 := by simpa using (Bool.and_eq_true_iff.mp h).2
      omega
    · omega
  · generalize hk : min (_ - 2 ^ f.mbits) (2 ^ w - 1) = k
    have := hk ▸ htop _
    split
    · next h =>
      have : k ≠ 0 := by simpa using (Bool.and_eq_true_iff.mp h).2
      omega
    · omega

theorem encodeElems_length (f : BlkFmt) (s : Nat) (rm : RoundMode) (v : List FVal) (g : Word) : (encodeElems f s rm v g).length = v.length := by
  induction v generalizing g with
  | nil => rfl
  | cons x v ih => exact congrArg (· + 1) (ih _)

theorem encodeElems_valid (f : BlkFmt) (s : Nat) (rm : RoundMode) (v : List FVal) (g : Word) : ∀ c ∈ encodeElems f s rm v g, f.Valid c := by
  have hzero : f.Valid 0 := ⟨Nat.two_pow_pos _, (Nat.two_pow_pos _).ne⟩
  induction v generalizing g with
  | nil => exact fun c hc => absurd hc List.not_mem_nil
  | cons x v ih =>
    refine List.forall_mem_cons.mpr ⟨?_, ih _⟩
    split
    · split
      · exact hzero
      · exact f.valid_encode _ _ _ _ _
    · exact hzero

theorem blkScale_bounds (f : BlkFmt) (m : Nat) (e : Int) : 1 ≤ blkScale f m e ∧ blkScale f m e ≤ 1022 := by
  unfold blkScale
  omega

theorem autoBook_lt (codes : List Nat) : autoBook codes < 4 := by
  have hfold (L : List Nat) (b : Nat) (hb : b < 4) (hL : ∀ c ∈ L, c < 4) : L.foldl (fun b c =>
      if (tokenStream c codes).length < (tokenStream b codes).length then c else b) b < 4 := by
    induction L generalizing b with
    | nil => exact hb
    | cons c L ih =>
      refine ih _ ?_ fun x hx => hL x (List.mem_cons_of_mem c hx)
      beta_reduce
      split
      · exact hL c List.mem_cons_self
      · exact hb
  exact hfold _ 0 (by decide) fun c hc => List.mem_range.mp hc

/-! The blocks that the encoder makes (R33, R46). -/

/-- The header of a block (R33, R36). -/
def blkHeader (f : BlkFmt) (s cb : Nat) (kquad : Bool) (len : Nat) : BlkHdr :=
  ⟨s, f.code, cb, b2n kquad, blkChk s f.code (b2n kquad) len, len⟩

/-- A zero or NaN block, by its scale (R34). -/
def specialWords (f : BlkFmt) (s cb : Nat) (kquad : Bool) : List Nat := (blkHeader f s cb kquad 0).toNat :: List.replicate f.planes 0

/-- A block of a format of fixed size (R32, R34). -/
def fixedWords (f : BlkFmt) (s : Nat) (kquad : Bool) (codes : List Nat) : List Nat :=
  (blkHeader f s 0 kquad 0).toNat ::
    (List.range f.width).map (fun p => planeWord kquad (fun j => (codes.getD j 0).testBit (f.planeBit p)))

/-- The words of a block's tokens (R37). -/
def tokenPart (book : Nat) (codes : List Nat) : List Nat := streamWords (tokenStream book codes)

/-- A block of format cW8: its planes and its tokens (R32, R37). -/
def tokenWords (s book : Nat) (kquad : Bool) (codes : List Nat) : List Nat :=
  (blkHeader .cw8 s book kquad (tokenPart book codes).length).toNat :: planeWord kquad (fun j => (codes.getD j 0).testBit 7)
    :: (List.range 3).map (fun p => planeWord kquad (fun j => (codes.getD j 0).testBit (2 - p))) ++ tokenPart book codes

/-- The codebook of a zero or NaN block: the named one, 0 for a format without tokens (R46). -/
def namedBook (f : BlkFmt) (cb : CbSel) : Nat :=
  match cb with
  | .cb n => if f = .cw8 then n.toNat else 0
  | .auto => 0

/-- The codebook of a block of tokens: the named one or the shortest (R46). -/
def tokenBook (cb : CbSel) (codes : List Nat) : Nat :=
  match cb with
  | .cb n => n.toNat
  | .auto => autoBook codes

theorem namedBook_lt (f : BlkFmt) (cb : CbSel) : namedBook f cb < 4 ∧ (f ≠ .cw8 → namedBook f cb = 0) := by
  cases cb with
  | cb n =>
    refine ⟨?_, fun hf => if_neg hf⟩
    show (if f = .cw8 then n.toNat else 0) < 4
    split
    · exact n.isLt
    · decide
  | auto => exact ⟨Nat.zero_lt_succ 3, fun _ => rfl⟩

theorem tokenBook_lt (cb : CbSel) (codes : List Nat) : tokenBook cb codes < 4 := by
  cases cb with
  | cb n => exact n.isLt
  | auto => exact autoBook_lt codes

/-- What the encoder makes of values: a zero or NaN block, or a block of as many valid codes (R46). -/
theorem encodeBlock_cases (v : List FVal) (f : BlkFmt) (cb : CbSel) (kquad : Bool) (rm : RoundMode) (g : Word) :
    (∃ s, (s = 0 ∨ s = 1023) ∧ encodeBlock v f cb kquad rm g = specialWords f s (namedBook f cb) kquad) ∨
    ∃ s codes, 1 ≤ s ∧ s ≤ 1022 ∧ codes.length = v.length ∧ (∀ c ∈ codes, f.Valid c) ∧
      ((f ≠ .cw8 ∧ encodeBlock v f cb kquad rm g = fixedWords f s kquad codes) ∨
        (f = .cw8 ∧ encodeBlock v f cb kquad rm g = tokenWords s (tokenBook cb codes) kquad codes)) := by
  unfold encodeBlock
  dsimp only
  split
  · exact .inl ⟨1023, .inr rfl, rfl⟩
  · split
    · exact .inl ⟨0, .inl rfl, rfl⟩
    · generalize hs : blkScale f _ _ = s
      obtain ⟨hlow, hhigh⟩ := hs ▸ blkScale_bounds f _ _
      refine .inr ⟨s, encodeElems f s rm v g, hlow, hhigh, encodeElems_length f _ rm v g, encodeElems_valid f _ rm v g, ?_⟩
      split
      · next hf =>
        subst hf
        exact .inr ⟨rfl, rfl⟩
      · next hf => exact .inl ⟨hf, rfl⟩

/-! The decoder on them (R41). -/

/-- A header is read back from its word (R33). -/
theorem BlkHdr.ofNat_toNat {h : BlkHdr} (hs : h.s < 1024) (hfmt : h.fmt < 16) (hcb : h.cb < 4) (hlay : h.layout < 16) (hchk : h.chk < 64)
    (hlen : h.len < 64) : BlkHdr.ofNat h.toNat = h := by
  obtain ⟨s, fmt, cb, layout, chk, len⟩ := h
  dsimp only at *
  unfold BlkHdr.ofNat BlkHdr.toNat
  simp only [BlkHdr.mk.injEq]
  omega

theorem blkFmtOf_code (f : BlkFmt) : blkFmtOf f.code = some f ∧ f.code < 16 := by cases f <;> decide

theorem blkHeader_ofNat (f : BlkFmt) {s cb len : Nat} (kquad : Bool) (hs : s < 1024) (hcb : cb < 4) (hlen : len < 64) :
    BlkHdr.ofNat (blkHeader f s cb kquad len).toNat = blkHeader f s cb kquad len := by
  have hlay : b2n kquad < 16 := by cases kquad <;> decide
  exact BlkHdr.ofNat_toNat hs (blkFmtOf_code f).2 hcb hlay (Nat.mod_lt _ (by decide)) hlen

/-- The header that the encoder makes passes the decoder's checks (R36, R41). -/
theorem checkHeader_blkHeader (f : BlkFmt) (s : Nat) {cb : Nat} (kquad : Bool) (len : Nat) (hcb : f ≠ .cw8 → cb = 0) :
    checkHeader (blkHeader f s cb kquad len) (fun x => x == f) kquad = .ok f := by
  have hbook : ¬(cb ≠ 0 ∧ f ≠ .cw8) := fun ⟨h0, hf⟩ => h0 (hcb hf)
  simp [checkHeader, blkHeader, (blkFmtOf_code f).1, hbook]

/-- The size of a block fits the window that the obligation gives. -/
theorem blkBits_le (f : BlkFmt) {len : Nat} (hlen : len < 64) : blkBits f len ≤ 2 ^ 21 := by
  cases f <;> simp [blkBits, BlkFmt.planes, BlkFmt.width]; omega

section

variable {ws : Nat → Nat} {accepts : BlkFmt → Bool} {kquad : Bool} {room : Nat} {h : BlkHdr} {f : BlkFmt}
  (hw : BlkHdr.ofNat (ws 0) = h) (hcheck : checkHeader h accepts kquad = .ok f) (hroom : blkBits f h.len ≤ room)
include hw hcheck hroom

/-- A header of a zero or NaN block is the whole of it (R34, R41). -/
theorem decodeBlock_special (hs : h.s = 0 ∨ h.s = 1023) (hlen : h.len = 0) :
    ∃ b, decodeBlock ws accepts kquad room = .ok (b, blkBits f h.len) := by
  have hroom' : ¬ room < blkBits f h.len := Nat.not_lt.mpr hroom
  rw [hlen] at hroom'
  simp only [decodeBlock, hw, hcheck, bind, Except.bind, hlen, hroom', hs]
  obtain hs | hs := hs
  · exact ⟨_, by simp [hs]; rfl⟩
  · exact ⟨_, by simp [hs]; rfl⟩

omit hw hcheck hroom in
theorem any_reserved {codes : List Nat} (hvalid : ∀ c ∈ codes, f.Valid c) : (codes.any (· == f.reserved)) = false :=
  List.any_eq_false.mpr fun c hc hreserved => (hvalid c hc).2 (beq_iff_eq.mp hreserved)

/-- A block of fixed size whose planes hold no reserved code (R41). -/
theorem decodeBlock_fixed (hf : f ≠ .cw8) (hlow : h.s ≠ 0) (hhigh : h.s ≠ 1023) (hlen : h.len = 0) {codes : List Nat}
    (hcodes : (List.range 32).map (planeCode f (fun p j => (ws (1 + p)).testBit (blkPos kquad j))) = codes)
    (hvalid : ∀ c ∈ codes, f.Valid c) :
    decodeBlock ws accepts kquad room = .ok (⟨f, h.s, .codes codes⟩, blkBits f h.len) := by
  have hroom' : ¬ room < blkBits f 0 := hlen ▸ Nat.not_lt.mpr hroom
  simp only [decodeBlock, hw, hcheck, bind, Except.bind, pure, Except.pure, hroom', hf, hlen, hlow, hhigh, hcodes, any_reserved hvalid]
  simp

/-- A block of tokens that its planes and its stream make codes of, none of them reserved (R37, R41). -/
theorem decodeBlock_tokens (hf : f = .cw8) (hlow : h.s ≠ 0) (hhigh : h.s ≠ 1023) (hlen : 1 ≤ h.len) (hlen' : h.len ≤ 8)
    {es codes : List Nat} {pad : List Bool}
    (hstream : readTokens h.cb 32 ((List.range (32 * h.len)).map (fun i => (ws (5 + i / 32)).testBit (i % 32))) = some (es, pad))
    (hpad : pad.any id = false) (hpad' : pad.length < 32)
    (hcodes : (List.range 32).map (fun j => b2n ((ws (1 + 0)).testBit (blkPos kquad j)) * 128 + es.getD j 0 * 8 +
      b2n ((ws (1 + 1)).testBit (blkPos kquad j)) * 4 + b2n ((ws (1 + 2)).testBit (blkPos kquad j)) * 2 +
      b2n ((ws (1 + 3)).testBit (blkPos kquad j))) = codes)
    (hvalid : ∀ c ∈ codes, f.Valid c) :
    decodeBlock ws accepts kquad room = .ok (⟨f, h.s, .codes codes⟩, blkBits f h.len) := by
  subst hf
  have hroom' : ¬ room < blkBits .cw8 h.len := Nat.not_lt.mpr hroom
  have hlen0 : h.len ≠ 0 := by omega
  have hlen8 : ¬ 8 < h.len := by omega
  have hpad32 : ¬ 32 ≤ pad.length := by omega
  simp only [decodeBlock, hw, hcheck, bind, Except.bind, pure, Except.pure, hroom', hlow, hhigh, hlen0, hlen8, hstream, hpad, hpad32,
    hcodes, any_reserved hvalid]
  simp

end

/-- A list is what a function of the index gives. -/
theorem map_range_eq {codes : List Nat} {n : Nat} (hn : codes.length = n) {g : Nat → Nat} (hg : ∀ j < n, g j = codes.getD j 0) :
    (List.range n).map g = codes := by
  subst hn
  refine List.ext_getElem (by simp) fun j _ hj => ?_
  rw [List.getElem_map, List.getElem_range, hg j hj, List.getD_eq_getElem _ _ hj]

theorem valid_getD {f : BlkFmt} {codes : List Nat} (hvalid : ∀ c ∈ codes, f.Valid c) {j : Nat} (hj : j < codes.length) :
    f.Valid (codes.getD j 0) := by
  rw [List.getD_eq_getElem _ _ hj]
  exact hvalid _ (List.getElem_mem hj)

/-- The tokens of 32 codes fill one to eight words and are read back from them, with a pad of zeros (R37). -/
theorem tokenPart_reads {book : Nat} (hbook : book < 4) {codes : List Nat} (hcodes : codes.length = 32) :
    1 ≤ (tokenPart book codes).length ∧ (tokenPart book codes).length ≤ 8 ∧ ∃ n < 32,
      readTokens book 32 ((List.range (32 * (tokenPart book codes).length)).map
        fun i => ((tokenPart book codes).getD (i / 32) 0).testBit (i % 32)) =
      some (codes.map (fun c => c / 8 % 16), List.replicate n false) := by
  obtain ⟨hmin, hmax⟩ := tokenStream_length hbook codes
  obtain ⟨hceil, hceil'⟩ := ceilDiv_bounds (tokenStream book codes).length
  rw [← streamWords_length, ← tokenPart] at hceil hceil'
  have hbits := streamWords_bits (tokenStream book codes)
  rw [← tokenPart] at hbits
  rw [hcodes] at hmin hmax
  refine ⟨by omega, by omega, 32 * (tokenPart book codes).length - (tokenStream book codes).length, by omega, ?_⟩
  rw [hbits, ← readTokens_stream hbook codes, hcodes]

section

variable (f : BlkFmt) {s : Nat} (kquad : Bool)

/-- A zero or NaN block is accepted with its size (R34, R41). -/
theorem decode_specialWords (hs : s = 0 ∨ s = 1023) {named : Nat} (hn : named < 4) (hn0 : f ≠ .cw8 → named = 0) :
    ∃ b, decodeBlock (fun k => (specialWords f s named kquad).getD k 0) (fun x => x == f) kquad (2 ^ 21) =
      .ok (b, 32 * (specialWords f s named kquad).length) := by
  have hw : BlkHdr.ofNat ((specialWords f s named kquad).getD 0 0) = blkHeader f s named kquad 0 := by
    rw [specialWords, List.getD_cons_zero, blkHeader_ofNat f kquad (by omega) hn (by decide)]
  have hsize : 32 * (specialWords f s named kquad).length = blkBits f 0 := by
    cases f <;> simp [specialWords, blkBits, BlkFmt.planes]
  rw [hsize]
  exact decodeBlock_special (ws := fun k => (specialWords f s named kquad).getD k 0) hw (checkHeader_blkHeader f s kquad 0 hn0)
    (blkBits_le f (len := 0) (by decide)) hs rfl

/-- A block of a format of fixed size is decoded to its codes (R32, R35, R41). -/
theorem decode_fixedWords (hlow : 1 ≤ s) (hhigh : s ≤ 1022) {codes : List Nat} (hcodes : codes.length = 32)
    (hvalid : ∀ c ∈ codes, f.Valid c) (hf : f ≠ .cw8) :
    decodeBlock (fun k => (fixedWords f s kquad codes).getD k 0) (fun x => x == f) kquad (2 ^ 21) =
      .ok (⟨f, s, .codes codes⟩, 32 * (fixedWords f s kquad codes).length) := by
  have hw : BlkHdr.ofNat ((fixedWords f s kquad codes).getD 0 0) = blkHeader f s 0 kquad 0 := by
    rw [fixedWords, List.getD_cons_zero, blkHeader_ofNat f kquad (by omega) (by decide) (by decide)]
  have hsize : 32 * (fixedWords f s kquad codes).length = blkBits f 0 := by
    cases f <;> simp [fixedWords, blkBits, BlkFmt.planes, BlkFmt.width] at hf ⊢
  have hplane (p j : Nat) (hp : p < f.width) (hj : j < 32) :
      ((fixedWords f s kquad codes).getD (1 + p) 0).testBit (blkPos kquad j) = (codes.getD j 0).testBit (f.planeBit p) := by
    rw [Nat.add_comm, fixedWords, List.getD_cons_succ, List.getD_eq_getElem _ _ (by simpa using hp), List.getElem_map,
      List.getElem_range, testBit_planeWord kquad _ hj]
  rw [hsize]
  refine decodeBlock_fixed (ws := fun k => (fixedWords f s kquad codes).getD k 0) hw (checkHeader_blkHeader f s kquad 0 fun _ => rfl)
    (blkBits_le f (len := 0) (by decide)) hf
    (Nat.pos_iff_ne_zero.mp hlow) (Nat.ne_of_lt (Nat.lt_succ_of_le hhigh)) rfl (map_range_eq hcodes fun j hj => ?_) hvalid
  exact planeCode_planes f _ j (valid_getD hvalid (hcodes ▸ hj)).1 fun p hp => hplane p j hp hj

end

theorem b2n_testBit (c i : Nat) : b2n (c.testBit i) = c / 2 ^ i % 2 := by
  rw [← Nat.toNat_testBit]
  cases c.testBit i <;> rfl

/-- A block of tokens is decoded to its codes (R32, R37, R41). -/
theorem decode_tokenWords {s : Nat} (kquad : Bool) (hlow : 1 ≤ s) (hhigh : s ≤ 1022) {codes : List Nat} (hcodes : codes.length = 32)
    (hvalid : ∀ c ∈ codes, BlkFmt.cw8.Valid c) {book : Nat} (hbook : book < 4) :
    decodeBlock (fun k => (tokenWords s book kquad codes).getD k 0) (fun x => x == .cw8) kquad (2 ^ 21) =
      .ok (⟨.cw8, s, .codes codes⟩, 32 * (tokenWords s book kquad codes).length) := by
  obtain ⟨hlen1, hlen8, n, hn, hread⟩ := tokenPart_reads hbook hcodes
  have hw : BlkHdr.ofNat ((tokenWords s book kquad codes).getD 0 0) = blkHeader .cw8 s book kquad (tokenPart book codes).length := by
    rw [tokenWords, List.cons_append, List.getD_cons_zero, blkHeader_ofNat .cw8 kquad (by omega) hbook (by omega)]
  have hsize : 32 * (tokenWords s book kquad codes).length = blkBits .cw8 (tokenPart book codes).length := by
    simp only [tokenWords, blkBits, List.cons_append, List.length_cons, List.length_append, List.length_map, List.length_range]
    omega
  have htoken (i : Nat) : (tokenWords s book kquad codes).getD (5 + i) 0 = (tokenPart book codes).getD i 0 := by
    rw [Nat.add_comm]
    simp [tokenWords, List.range_succ]
  have hplane (p : Nat) (hp : p < 3) {j : Nat} (hj : j < 32) : ((tokenWords s book kquad codes).getD (1 + (p + 1)) 0).testBit (blkPos kquad j) =
      (codes.getD j 0).testBit (2 - p) := by
    have hword : (tokenWords s book kquad codes).getD (1 + (p + 1)) 0 = planeWord kquad fun j => (codes.getD j 0).testBit (2 - p) := by
      rw [Nat.add_comm, tokenWords, List.cons_append, List.getD_cons_succ, List.cons_append, List.getD_cons_succ,
        List.getD_append _ _ _ _ (by simpa using hp), List.getD_eq_getElem _ _ (by simpa using hp), List.getElem_map, List.getElem_range]
    rw [hword, testBit_planeWord kquad _ hj]
  have hsign {j : Nat} (hj : j < 32) : ((tokenWords s book kquad codes).getD (1 + 0) 0).testBit (blkPos kquad j) =
      (codes.getD j 0).testBit 7 := by
    rw [Nat.add_zero, tokenWords, List.cons_append, List.getD_cons_succ, List.cons_append, List.getD_cons_zero, testBit_planeWord kquad _ hj]
  rw [hsize]
  refine decodeBlock_tokens (ws := fun k => (tokenWords s book kquad codes).getD k 0) hw (checkHeader_blkHeader .cw8 s kquad _ fun h => absurd rfl h)
    (blkBits_le .cw8 (len := (tokenPart book codes).length) (by omega)) rfl (Nat.pos_iff_ne_zero.mp hlow)
    (Nat.ne_of_lt (Nat.lt_succ_of_le hhigh)) hlen1 hlen8 (es := codes.map fun c => c / 8 % 16) (pad := List.replicate n false)
    ?_ (by simp) (by simpa using hn) (map_range_eq hcodes fun j hj => ?_) hvalid
  · simp only [htoken]
    exact hread
  · have hj' : j < codes.length := hcodes ▸ hj
    have hexp : (codes.map fun c => c / 8 % 16).getD j 0 = codes.getD j 0 / 8 % 16 := by
      rw [List.getD_eq_getElem _ _ (by simpa using hj'), List.getElem_map, List.getD_eq_getElem _ _ hj']
    have hlt : codes.getD j 0 < 256 := (valid_getD hvalid hj').1
    rw [hexp, hsign hj, hplane 0 (by decide) hj, hplane 1 (by decide) hj, hplane 2 (by decide) hj]
    simp only [b2n_testBit]
    omega

/-- Settles O46: what the encoder makes is a zero or NaN block or one of 32 valid codes (`encodeBlock_cases`), and the decoder reads each
back from its words. -/
theorem packedBlockDecodes : Obligations.PackedBlockDecodes := by
  unfold Obligations.PackedBlockDecodes
  intro v f cb kq rm g hv hcb
  obtain ⟨s, hs, h⟩ | ⟨s, codes, hlow, hhigh, hlen, hvalid, ⟨hf, h⟩ | ⟨rfl, h⟩⟩ := encodeBlock_cases v f cb kq rm g
  · rw [h]
    exact decode_specialWords f kq hs (namedBook_lt f cb).1 (namedBook_lt f cb).2
  · rw [h]
    exact ⟨_, decode_fixedWords f kq hlow hhigh (hlen.trans hv) hvalid hf⟩
  · rw [h]
    exact ⟨_, decode_tokenWords kq hlow hhigh (hlen.trans hv) hvalid (tokenBook_lt cb codes)⟩

end Sys2Proof

namespace Sys2Proof.Machine

/-! Conversions (R124 to R127). -/

/-- The same lane issues, with the same streams, over the same memory and accesses in flight. -/
structure State.SameAccesses (t s : State) : Prop where
  cur : t.cur = s.cur
  mem : t.mem = s.mem
  inflight : t.inflight = s.inflight
  streams : t.lane.streamcfg = s.lane.streamcfg

theorem State.SameAccesses.trans {s t u : State} (h : u.SameAccesses t) (h' : t.SameAccesses s) : u.SameAccesses s :=
  ⟨h.cur.trans h'.cur, h.mem.trans h'.mem, h.inflight.trans h'.inflight, h.streams.trans h'.streams⟩

theorem State.SameAccesses.noStreams {s t : State} (h : t.SameAccesses s) (hs : s.lane.noStreams) : t.lane.noStreams := by
  intro n
  have hn := hs n
  unfold Lane.streamOf at hn ⊢
  simpa only [h.streams] using hn

theorem setSeed_sameAccesses (g : Word) (s : State) : (setSeed g s).SameAccesses s :=
  ⟨rfl, rfl, rfl, by rw [State.setSeed_lane]⟩

/-- The AMAX updates of an instruction touch AMAX alone (R47). -/
theorem amaxOf_sameAccesses (t : ElemTy) (xs : List FVal) (s : State) : (amaxOf t xs s).SameAccesses s := by
  unfold amaxOf
  split
  · refine ⟨rfl, rfl, rfl, ?_⟩
    show (s.setLane { s.lane with amaxM := _, amaxN := _ }).lane.streamcfg = _
    rw [State.setLane_lane]
  · exact ⟨rfl, rfl, rfl, rfl⟩

/-! VCVT (R125). -/

/-- The elements that VCVT converts: as many as the wider of the two types fills (R125). -/
theorem vget_converted {e k : Nat} {c : Nat → Nat} {j : Nat} (hj : j < 256 / e) :
    vget (vmake e fun i => if i < k then c i else 0) e j = if j < k then c j % 2 ^ e else 0 := by
  rw [vget_vmake _ hj]
  split
  · rfl
  · exact Nat.zero_mod _

theorem State.vcvt_done {s : State} (h : s.lane.noStreams) (d a : VReg) (tt st : ElemTy) (rm : RmField) :
    let mode := s.lane.rm rm
    let w := elemBits st
    let n := 256 / max w (elemBits tt)
    let dr := drawsFor mode (fun _ => (elemFloat st).isSome || (elemFloat tt).isSome) s.lane.rseed n
    let xs := (List.range n).map (fun j => elemVal st (s.el a w j))
    exec (.vcvt d a tt st rm) s = .next ((amaxOf st xs (setSeed dr.1 s)).writeV d
      (vmake (elemBits tt) fun i => if i < n then convert tt mode (dr.2.getD i 0) (xs.getD i .nan) else 0)) := by
  intro mode w n dr xs
  have hz := ((amaxOf_sameAccesses st xs (setSeed dr.1 s)).trans (setSeed_sameAccesses dr.1 s)).noStreams h
  show finish _ (s.vecRun [a] [d] noCheck _) = _
  rw [State.vecRun_done h [a] [d] (check := noCheck) rfl rfl, finish_ok]
  show Host.Outcome.next (((amaxOf st xs (setSeed dr.1 s)).setLane
    ((amaxOf st xs (setSeed dr.1 s)).lane.setVecs [(d, _, _)])).advance 32) = _
  rw [Lane.setVecs_one hz]
  rfl

/-! VPACK (R126): words stored one after the other. -/

/-- A word stored at a memory named directly joins the accesses in flight (R126). -/
theorem State.storeWord_direct {s : State} {a : Word} {p : Place} (ha : decodeWindow a = some p) (hp : p.direct = true)
    (haligned : aligned a 64 = true) (m v : Word) :
    ∃ q : Posted, s.storeWord a m v = s.withInflight (s.inflight ++ [q]) ∧ (q.pa, q.op) = (s.wordAt p, WriteOp.store m v) := by
  obtain ⟨q, hpost, hpa, hop, -⟩ := s.post_inflight s.cur .lane s.turn a (g := s.targetOf p a) (.store m v) false
    (State.wordAt_not_pcie ha hp)
  refine ⟨q, ?_, by rw [hpa, hop]; rfl⟩
  unfold State.storeWord
  rw [State.fates_store ha hp haligned]
  exact hpost

/-- Words that ordinary addresses name are posted in their order, each with its mask and data (R126). -/
theorem State.storeWords_direct {s : State} {pl : Nat → Place} : ∀ (ws : List (Word × Word × Word)) (n : Nat) (t : State), t.cur = s.cur →
    (∀ j, (h : j < ws.length) → s.plain ws[j].1 64 (pl (n + j))) → ∃ qs : List Posted,
      ws.foldl (fun t w => t.storeWord w.1 w.2.1 w.2.2) t = t.withInflight (t.inflight ++ qs) ∧
      qs.map (fun q => (q.pa, q.op)) = (ws.zipIdx n).map fun x => (s.wordAt (pl x.2), WriteOp.store x.1.2.1 x.1.2.2)
  | [], n, t, _, _ => ⟨[], by rw [List.append_nil]; rfl, rfl⟩
  | w :: ws, n, t, hcur, h => by
    have ⟨ha, hp, haligned, _⟩ := h 0 (Nat.zero_lt_succ _)
    obtain ⟨q, hq, hqw⟩ := State.storeWord_direct (s := t) ha hp haligned w.2.1 w.2.2
    obtain ⟨qs, hqs, hmap⟩ := State.storeWords_direct (s := s) (pl := pl) ws (n + 1) (t.withInflight (t.inflight ++ [q])) hcur fun j hj => by
      have := h (j + 1) (Nat.succ_lt_succ hj)
      rwa [show n + (j + 1) = n + 1 + j by omega] at this
    have hword : t.wordAt (pl n) = s.wordAt (pl n) := by rw [State.wordAt, hcur, State.wordAt]
    refine ⟨q :: qs, ?_, ?_⟩
    · rw [List.foldl_cons]
      show ws.foldl _ (t.storeWord w.1 w.2.1 w.2.2) = _
      rw [show t.storeWord w.1 w.2.1 w.2.2 = _ from hq, hqs]
      show (t.withInflight _).withInflight (t.inflight ++ [q] ++ qs) = _
      rw [List.append_assoc]
      rfl
    · rw [List.map_cons, List.zipIdx_cons, List.map_cons, hmap, hqw]
      exact congrArg (· :: _) (congrArg (·, _) hword)

/-- The checks of ordinary addresses pass and change nothing (R116). -/
theorem State.checkWords_plain {s : State} {pl : Nat → Place} : ∀ (ws : List (Word × Word × Word)) (n : Nat),
    (∀ j, (h : j < ws.length) → s.plain ws[j].1 64 (pl (n + j))) → s.checkWords ws = .ok s
  | [], _, _ => rfl
  | w :: ws, n, h => by
    have hw := h 0 (Nat.zero_lt_succ _)
    have ⟨_, hp, haligned, _⟩ := hw
    have hcheck : s.checkAccess s.cur w.1 64 .store = .ok (s, s.targetOf (pl (n + 0)) w.1) := by
      refine State.checkAccess_plain hw (order3_direct hp _ rfl) ?_
      rw [order4_direct hp _ _ _ rfl rfl, show aligned w.1 64 = true from haligned]
      rfl
    have hws := State.checkWords_plain (s := s) (pl := pl) ws (n + 1) fun j hj => by
      have := h (j + 1) (Nat.succ_lt_succ hj)
      rwa [show n + (j + 1) = n + 1 + j by omega] at this
    unfold State.checkWords
    simp only [hcheck, hws]

/-- A block has words, so its store touches some. -/
theorem wordsOf_ne_nil (a : Word) {ws : List Nat} (h : ws ≠ []) : wordsOf a ws ≠ [] := by
  have hpos := List.length_pos_iff.mpr h
  refine List.ne_nil_of_length_pos ?_
  simp only [wordsOf, List.length_map, List.length_range]
  omega

theorem encodeBlock_ne_nil (v : List FVal) (f : BlkFmt) (cb : CbSel) (kquad : Bool) (rm : RoundMode) (g : Word) :
    encodeBlock v f cb kquad rm g ≠ [] := by
  obtain ⟨s, -, h⟩ | ⟨s, codes, -, -, -, -, ⟨-, h⟩ | ⟨-, h⟩⟩ := encodeBlock_cases v f cb kquad rm g
  all_goals rw [h]; exact List.cons_ne_nil _ _

theorem bits_low5 (a : Word) : bits a 4 0 = a.toNat % 32 := bits_low a (n := 5) (by decide)

/-- The check that VPACK and VUNPACK make of their address before they go on with `next` (R126, R127). -/
def blockCheck {α : Type} (a : Word) (next : State → Except Stop (State × α)) (s : State) : Except Stop (State × α) :=
  if bits a 4 0 ≠ 0 then .error (.trap s Cause.alignment a) else if !recordSpace a then .error (.trap s Cause.address a) else next s

theorem blockCheck_eq {α : Type} (a : Word) (next : State → Except Stop (State × α)) (s : State) :
    (a.toNat % 32 ≠ 0 → blockCheck a next s = .error (.trap s 0x04 a)) ∧
    (a.toNat % 32 = 0 → recordSpace a = false → blockCheck a next s = .error (.trap s 0x05 a)) ∧
    (a.toNat % 32 = 0 → recordSpace a = true → blockCheck a next s = next s) := by
  unfold blockCheck
  rw [bits_low5]
  exact ⟨fun h => if_pos h, fun h hr => by rw [if_neg (not_not.mpr h), hr]; rfl, fun h hr => by rw [if_neg (not_not.mpr h), hr]; rfl⟩

section Pack

variable (s : State) (a : VReg) (r : Reg) (fmt : BlkFmt) (st : ElemTy) (rm : RmField) (cb : CbSel) (kq : Bool)

/-- The words that VPACK stores, by address, mask and data (R126). -/
def State.packWords : List (Word × Word × Word) :=
  wordsOf (s.s r) (encodeBlock (packValues s.lane a st) fmt cb kq (s.lane.rm rm) s.lane.rseed)

/-- The state in which VPACK stores its words, after its checks left `u` (R30, R47). -/
def State.packDrawn (u : State) : State :=
  let z := amaxOf st (packValues s.lane a st) u
  if s.lane.rm rm = .rs then setSeed (drawMany s.lane.rseed 32) z else z

theorem State.packDrawn_sameAccesses (u : State) : (s.packDrawn a st rm u).SameAccesses u := by
  unfold State.packDrawn
  dsimp only
  split
  · exact (setSeed_sameAccesses _ _).trans (amaxOf_sameAccesses _ _ _)
  · exact amaxOf_sameAccesses _ _ _

variable (h : s.lane.noStreams)
include h

theorem State.vpack_done {u : State}
    (hc : blockCheck (s.s r) (fun t => unitCheck (t.checkWords (s.packWords a r fmt st rm cb kq))) s = .ok (u, ())) :
    exec (.vpack a r fmt st rm cb kq) s =
      .next (((s.packWords a r fmt st rm cb kq).foldl (fun t w => t.storeWord w.1 w.2.1 w.2.2) (s.packDrawn a st rm u)).advance 32) := by
  show finish _ (s.vecRun _ [] _ _) = _
  rw [State.vecRun_done h _ [] hc rfl, finish_ok]
  exact congrArg Host.Outcome.next (State.setLane_advance _ _)

theorem State.vpack_stop {e : Stop}
    (hc : blockCheck (s.s r) (fun t => unitCheck (t.checkWords (s.packWords a r fmt st rm cb kq))) s = .error e) :
    exec (.vpack a r fmt st rm cb kq) s = finish (.vpack a r fmt st rm cb kq) (.error e) := by
  show finish _ (s.vecRun _ [] _ _) = _
  rw [State.vecRun_stop h _ [] _ hc]

end Pack

section Unpack

variable (s : State) (h : s.lane.noStreams) (d : VReg) (r : Reg) (fmt : BlkFmt) (tt : ElemTy) (rm : RmField)

/-- The block that VUNPACK reads (R127). -/
def readBlockOf (a : Word) (fmt : BlkFmt) (s : State) : Except Stop (State × Blk) :=
  match s.blockAt s.cur true a (· == fmt) false .load with
  | .error e => .error e
  | .ok (s, b, _) => .ok (s, b)

include h

theorem State.vunpack_done {u : State} {blk : Blk} (hc : blockCheck (s.s r) (readBlockOf (s.s r) fmt) s = .ok (u, blk)) {g : Word}
    {ds : List Nat} (hdr : drawsFor (s.lane.rm rm) (fun _ => true) s.lane.rseed 32 = (g, ds)) :
    exec (.vunpack d r fmt tt rm) s = .next (((setSeed g u).setLane ((setSeed g u).lane.setVecs ((elemPack d tt fun j =>
      convert tt (s.lane.rm rm) (ds.getD j 0) (blk.values.getD j .nan)).map (fun x => (x.1, x.2, x.2))))).advance 32) := by
  show finish _ (s.vecRun [] _ _ _) = _
  rw [State.vecRun_done h [] _ hc (z := u) (out := ⟨(elemPack d tt fun j =>
    convert tt (s.lane.rm rm) (ds.getD j 0) (blk.values.getD j .nan)).map (fun x => (x.1, x.2, x.2)), setSeed g⟩) (by simp only [hdr]), finish_ok]

theorem State.vunpack_stop {e : Stop} (hc : blockCheck (s.s r) (readBlockOf (s.s r) fmt) s = .error e) :
    exec (.vunpack d r fmt tt rm) s = finish (.vunpack d r fmt tt rm) (.error e) := by
  show finish _ (s.vecRun [] _ _ _) = _
  rw [State.vecRun_stop h [] _ _ hc]

end Unpack

/-- What VPACK posts at ordinary addresses: its words at their places, over the memory as it was (R126). -/
theorem State.pack_plain {s : State} {a : VReg} {r : Reg} {fmt : BlkFmt} {st : ElemTy} {rm : RmField} {cb : CbSel} {kq : Bool}
    {pl : Nat → Place} {u : State} (hu : s.checkWords (s.packWords a r fmt st rm cb kq) = .ok u)
    (hpl : ∀ j, (h : j < (s.packWords a r fmt st rm cb kq).length) → s.plain (s.packWords a r fmt st rm cb kq)[j].1 64 (pl j)) :
    let t := ((s.packWords a r fmt st rm cb kq).foldl (fun t w => t.storeWord w.1 w.2.1 w.2.2) (s.packDrawn a st rm u)).advance 32
    t.mem = s.mem ∧ t.inflight.map (fun p => (p.pa, p.op)) =
      (s.packWords a r fmt st rm cb kq).zipIdx.map (fun x => (s.wordAt (pl x.2), WriteOp.store x.1.2.1 x.1.2.2)) := by
  intro t
  have hpl' : ∀ j, (h : j < (s.packWords a r fmt st rm cb kq).length) →
      s.plain (s.packWords a r fmt st rm cb kq)[j].1 64 (pl (0 + j)) := fun j h => (Nat.zero_add j).symm ▸ hpl j h
  obtain rfl : s = u := Except.ok.inj ((State.checkWords_plain _ 0 hpl').symm.trans hu)
  have hsame := s.packDrawn_sameAccesses a st rm s
  have hne : s.packWords a r fmt st rm cb kq ≠ [] := wordsOf_ne_nil _ (encodeBlock_ne_nil _ _ _ _ _ _)
  have ⟨_, _, _, _, ⟨hinflight, _⟩, _⟩ := hpl 0 (List.length_pos_iff.mpr hne)
  obtain ⟨qs, hqs, hmap⟩ := State.storeWords_direct _ 0 (s.packDrawn a st rm s) hsame.cur hpl'
  have ht : t = ((s.packDrawn a st rm s).withInflight qs).advance 32 := by
    unfold t
    rw [hqs, hsame.inflight, hinflight, List.nil_append]
  rw [ht]
  exact ⟨hsame.mem, hmap⟩

/-- Settles O45: VCVT makes each element of its own source, and VPACK and VUNPACK end as the checks of their block do; words at ordinary
addresses are posted one by one (`State.pack_plain`). -/
theorem conversionResults : Obligations.ConversionResults := by
  unfold Obligations.ConversionResults
  intro s d a r tt st rm fmt cb kq h mode
  refine ⟨⟨_, State.vcvt_done h d a tt st rm, fun j hj => ?_⟩, ?_, ?_⟩
  · rw [vget_converted hj]
    split
    · next hn =>
      have hx : ((List.range (256 / max (elemBits st) (elemBits tt))).map fun j => elemVal st (s.el a (elemBits st) j)).getD j .nan =
          elemVal st (s.el a (elemBits st) j) := by
        rw [List.getD_eq_getElem _ _ (by simpa using hn), List.getElem_map, List.getElem_range]
      rw [hx]
    · rfl
  · intro at_ vals ws i
    obtain ⟨hmis, hspace, hnext⟩ := blockCheck_eq at_ (fun t => unitCheck (t.checkWords ws)) s
    refine ⟨fun hm => State.vpack_stop s a r fmt st rm cb kq h (hmis hm),
      fun hm hs => State.vpack_stop s a r fmt st rm cb kq h (hspace hm hs), fun hm hs => ⟨fun u hu => ?_, fun u c v hu => ?_⟩⟩
    · refine ⟨_, State.vpack_done s a r fmt st rm cb kq h (u := u) ?_, rfl, fun pl hpl => State.pack_plain hu hpl⟩
      refine (hnext hm hs).trans ?_
      show unitCheck (s.checkWords ws) = _
      rw [hu]
      rfl
    · refine State.vpack_stop s a r fmt st rm cb kq h (e := .trap u c v) ((hnext hm hs).trans ?_)
      show unitCheck (s.checkWords ws) = _
      rw [hu]
      rfl
  · intro at_ i dr
    obtain ⟨hmis, hspace, hnext⟩ := blockCheck_eq at_ (readBlockOf at_ fmt) s
    refine ⟨fun hm => State.vunpack_stop s h d r fmt tt rm (hmis hm), fun hm hs => State.vunpack_stop s h d r fmt tt rm (hspace hm hs),
      fun hm hs u blk size hu => ?_, fun hm hs u c v hu => ?_⟩
    · refine State.vunpack_done s h d r fmt tt rm (u := u) (blk := blk) (g := dr.1) (ds := dr.2) ((hnext hm hs).trans ?_) rfl
      show readBlockOf at_ fmt s = _
      rw [readBlockOf, hu]
    · refine State.vunpack_stop s h d r fmt tt rm (e := .trap u c v) ((hnext hm hs).trans ?_)
      show readBlockOf at_ fmt s = _
      rw [readBlockOf, hu]

end Sys2Proof.Machine

namespace Sys2Proof.Machine

/-! Events at a lane (R42, R53, R60, R70, R106, R166, R183, R205, R206, R312). -/

/-- What a home holds depends on the hub, the partitions, memory and the turn alone (R286, R306). -/
theorem State.peek_congr {s t : State} (hhub : t.hub = s.hub) (hmgmt : t.mgmt = s.mgmt) (hparts : t.parts = s.parts) (hturn : t.turn = s.turn)
    (hmem : t.mem = s.mem) (pa : Nat) : t.peek pa = s.peek pa := by
  have hpart (p : Nat) : t.part p = s.part p := by unfold State.part; rw [hparts]
  have hctl (off : Nat) : t.ctlRead off = s.ctlRead off := by
    unfold State.ctlRead
    simp only [hpart, hhub, hmgmt]
  unfold State.peek
  simp only [hctl, hturn, hmem]

theorem State.setLaneAt_peek (s : State) (r : LaneRef) (l : Lane) (pa : Nat) : (s.setLaneAt r l).peek pa = s.peek pa :=
  State.peek_congr (State.setLaneAt_hub ..) (State.setLaneAt_mgmt ..) (State.setLaneAt_parts ..) (State.setLaneAt_turn ..)
    (State.setLaneAt_mem ..) pa

theorem State.setLaneAt_untraced {s : State} {r : LaneRef} (h : s.untraced r) (l : Lane) : (s.setLaneAt r l).untraced r := by
  unfold State.untraced State.setLaneAt at *
  rw [State.setCore_core_same]
  exact h

/-- What a withdrawal leaves of the lane whose request it was. -/
theorem State.withdraw_laneAt (s : State) (r : LaneRef) : (s.withdraw r).laneAt r = { s.laneAt r with req := none } :=
  State.setLaneAt_laneAt_same s r _

theorem State.withdraw_untraced {s : State} {r : LaneRef} (h : s.untraced r) : (s.withdraw r).untraced r :=
  State.setLaneAt_untraced h _

/-! Traps that park a lane (R42, R53, R166). -/

/-- A lane parked with the registers of a trap (R191). -/
def Lane.parkedBy (l : Lane) (c : BitVec 8) (v pc tick : Word) : Lane :=
  { ({ l with req := none } : Lane).trapRegs c v pc tick with run := .parked }

/-- A lane parked with a report on its way: memory as it was, one message more (R191). -/
theorem State.parked_report (s : State) (r : LaneRef) (l : Lane) (body : List Word) :
    let t := ((s.withdraw r).setLaneAt r l).sendReport r body
    t.mem = s.mem ∧ t.mesh.length = s.mesh.length + 1 ∧ t.laneAt r = l :=
  ⟨rfl, List.length_append, State.setLaneAt_laneAt_same _ r l⟩

/-- At a boundary a job fault parks the lane with the job id, and the job's report is sent (R42, R166). -/
theorem State.takeJobFault_parks {s : State} {r : LaneRef} (h : s.untraced r) (c : BitVec 8) (id : BitVec 32) (rep : List Word) :
    let t := s.takeJobFault r c id rep
    t.mem = s.mem ∧ t.mesh.length = s.mesh.length + 1 ∧
    t.laneAt r = (s.laneAt r).parkedBy c (id.setWidth 64) (s.laneAt r).boundaryPc (s.die (dieOf r.core)).dtc := by
  intro t
  have ht : t = ((s.withdraw r).setLaneAt r
      ((s.laneAt r).parkedBy c (id.setWidth 64) (s.laneAt r).boundaryPc (s.die (dieOf r.core)).dtc)).sendReport r rep := by
    simp only [t, State.takeJobFault, State.trace_off (State.withdraw_untraced h), State.withdraw_laneAt]
    rfl
  rw [ht]
  exact State.parked_report s r _ rep

/-- A trap of delivery P parks the lane (R190, R191). -/
theorem State.takeTrapAt_parks {s : State} {r : LaneRef} (h : s.untraced r) {c : BitVec 8} (hc : delivery c = .p) (v pc : Word) :
    let t := s.takeTrapAt r c v pc
    t.mem = s.mem ∧ t.mesh.length = s.mesh.length + 1 ∧ t.laneAt r = (s.laneAt r).parkedBy c v pc (s.die (dieOf r.core)).dtc := by
  intro t
  have hd : delivery c ≠ .d := by rw [hc]; decide
  have ht : t = _ := State.takeTrapAt_park v pc hd h (.inl hc)
  rw [ht, State.withdraw_laneAt]
  exact State.parked_report s r _ _

theorem Lane.watchLimit_eq (l : Lane) :
    l.watchLimit = if l.wlimit.toNat = 0 then 1 else min l.wlimit.toNat (2 ^ 31 - 1) := by
  unfold Lane.watchLimit
  split
  · rfl
  · split <;> omega

section Boundary

variable {s : State} {c l : Nat}

/-- JOB_FAULT_TRAP at a lane that is at a boundary (R42, R166). -/
theorem exec_jobFaultTrap {cause : BitVec 8} {id : BitVec 32} {rep : List Word} {rest : List Due}
    (hdue : (s.laneAt ⟨c, l⟩).due = .jobFault cause id rep :: rest) (hat : s.atBoundary ⟨c, l⟩ = true) :
    exec (.jobFaultTrap c l) s =
      .next ((s.setLaneAt ⟨c, l⟩ { s.laneAt ⟨c, l⟩ with due := rest }).takeJobFault ⟨c, l⟩ cause id rep) := by
  show execJobFaultTrap c l s = _
  simp only [execJobFaultTrap, hdue, hat, if_true]

/-- WATCHDOG at a lane whose count has reached the limit and whose request has no answer (R53, R106). -/
theorem exec_watchdog (hdue : s.watchDue ⟨c, l⟩ = true) (hanswer : (s.laneAt ⟨c, l⟩).answer = none)
    (hreplied : (s.laneAt ⟨c, l⟩).replied = false) : exec (.watchdog c l) s = .next (s.takeWatchdog ⟨c, l⟩) := by
  show execWatchdog c l s = _
  simp only [execWatchdog, hdue, hanswer, hreplied, Option.isNone_none, Bool.not_false, Bool.and_self, if_true]

/-- A lane that runs or idles and is free is at a boundary (R166). -/
theorem State.atBoundary_of_run (hfree : s.free (s.laneAt ⟨c, l⟩) = true)
    (hrun : (s.laneAt ⟨c, l⟩).run = .running ∨ (s.laneAt ⟨c, l⟩).run = .idle) : s.atBoundary ⟨c, l⟩ = true := by
  unfold State.atBoundary
  obtain hrun | hrun := hrun <;> simp only [hfree, hrun, Bool.and_self]

theorem State.watchDue_of_limit (hen : (s.laneAt ⟨c, l⟩).wen = true) (hfree : s.free (s.laneAt ⟨c, l⟩) = true)
    (hrun : (s.laneAt ⟨c, l⟩).run = .running ∨ (s.laneAt ⟨c, l⟩).run = .stalled)
    (hlimit : (s.laneAt ⟨c, l⟩).watchLimit ≤ (s.laneAt ⟨c, l⟩).wcount.toNat) : s.watchDue ⟨c, l⟩ = true := by
  have hrun' : ((s.laneAt ⟨c, l⟩).run == .running || (s.laneAt ⟨c, l⟩).run == .stalled) = true := by simpa using hrun
  simp only [State.watchDue, State.eligible, hen, hfree, hrun', Bool.and_self, Bool.true_and, decide_eq_true_eq]
  omega

end Boundary

/-! The ends of SLEEP (R183). -/

/-- Only management lane 0 takes alerts, and only when one is queued (R326). -/
theorem State.alertFirst_none {s : State} {r : LaneRef} (h : r ≠ mgmtLane0 ∨ s.mgmt.alerts = []) : s.alertFirst r = false := by
  unfold State.alertFirst
  obtain h | h := h
  · rw [beq_eq_false_iff_ne.mpr h]
    simp only [Bool.false_and]
  · rw [h]
    simp only [List.isEmpty_nil, Bool.not_true, Bool.and_false, Bool.false_and]

/-- The state in which lane `r` issues. -/
def State.turnTo (s : State) (r : LaneRef) : State := { s with cur := r }

/-- What a SLEEP past its tick comes to (R183). -/
theorem State.sleep_late {u : State} {d a : Reg} (hlate : (u.s a).ult u.dtc = true) :
    ((u.s d).truncate 32 = (0 : BitVec 32) → u.sleep d a = .ok (u.writeS d 0)) ∧
    ((u.s d).truncate 32 ≠ (0 : BitVec 32) → u.brookDone ((u.s d).truncate 32) = false →
      u.sleep d a = .error (.trap u 0x0C (((u.s d).truncate 32).setWidth 64))) := by
  refine ⟨fun hj => ?_, fun hj hdone => ?_⟩
  · simp only [State.sleep, hj, hlate, ne_eq, not_true_eq_false, false_and, if_false, Bool.not_true, Bool.false_eq_true, if_true]
  · simp only [State.sleep, hj, hlate, hdone, ne_eq, Bool.false_eq_true, and_false, if_false, Bool.not_true, trapNow]
    rfl

theorem State.turnTo_late {s : State} {c l : Nat} {a : Reg} (h : ((s.laneAt ⟨c, l⟩).s a).toNat < (s.die (dieOf c)).dtc.toNat) :
    ((s.turnTo ⟨c, l⟩).s a).ult (s.turnTo ⟨c, l⟩).dtc = true :=
  decide_eq_true h

section Sleep

variable {s : State} {c l : Nat} {d a : Reg} (hwaiting : (s.laneAt ⟨c, l⟩).waiting = some (.sleep d a))
  (hrun : (s.laneAt ⟨c, l⟩).run = .stalled) (hfree : s.free (s.laneAt ⟨c, l⟩) = true) (hdue : (s.laneAt ⟨c, l⟩).due = [])
  (halert : (⟨c, l⟩ : LaneRef) ≠ mgmtLane0 ∨ s.mgmt.alerts = [])
  (hpast : ((s.laneAt ⟨c, l⟩).s a).toNat < (s.die (dieOf c)).dtc.toNat)
include hwaiting hrun hfree hdue halert hpast

/-- A sleep past its tick ends, by the timer on job 0 and by the promise on a job (R183). -/
theorem State.sleepPast_eq (timer : Bool) (hjob : (((s.laneAt ⟨c, l⟩).s d).truncate 32 == (0 : BitVec 32)) = timer) :
    s.sleepPast ⟨c, l⟩ timer = some (d, a) := by
  have hlate : ((s.laneAt ⟨c, l⟩).s a).ult (s.die (dieOf c)).dtc = true := by simpa [BitVec.ult] using hpast
  have hsleeping : s.sleeping ⟨c, l⟩ = some (d, a) := by
    simp only [State.sleeping, hwaiting, hfree, hrun, hdue, State.alertDue, State.alertFirst_none halert]
    rfl
  simp only [State.sleepPast, hsleeping, hlate, hjob, beq_self_eq_true, Bool.and_self, if_true]

/-- On job 0 SLEEP gives 0 (R183). -/
theorem exec_sleepTimer (hjob : ((s.laneAt ⟨c, l⟩).s d).toNat % 2 ^ 32 = 0) :
    exec (.sleepTimer c l) s = .next ((s.turnTo ⟨c, l⟩).writeS d 0) := by
  have hj : ((s.laneAt ⟨c, l⟩).s d).truncate 32 = (0 : BitVec 32) := BitVec.eq_of_toNat_eq (by simpa using hjob)
  show (match s.sleepPast ⟨c, l⟩ true with
    | some (d, a) => finish (.sleep d a) ((s.turnTo ⟨c, l⟩).sleep d a)
    | none => .next s) = _
  rw [State.sleepPast_eq hwaiting hrun hfree hdue halert hpast true (beq_iff_eq.mpr hj)]
  dsimp only
  rw [(State.sleep_late (State.turnTo_late hpast)).1 hj, finish_ok]

/-- On a job that is not done SLEEP raises PROMISE_MISSED (R183). -/
theorem exec_promiseMissed (hjob : ((s.laneAt ⟨c, l⟩).s d).toNat % 2 ^ 32 ≠ 0)
    (hdone : (s.turnTo ⟨c, l⟩).brookDone (((s.laneAt ⟨c, l⟩).s d).truncate 32) = false) :
    exec (.promiseMissed c l) s =
      .next ((s.turnTo ⟨c, l⟩).takeTrap 0x0C (BitVec.ofNat 64 (((s.laneAt ⟨c, l⟩).s d).toNat % 2 ^ 32))) := by
  have hj : ((s.laneAt ⟨c, l⟩).s d).truncate 32 ≠ (0 : BitVec 32) := fun h => hjob (by simpa using congrArg BitVec.toNat h)
  have hval : (((s.laneAt ⟨c, l⟩).s d).truncate 32).setWidth 64 = BitVec.ofNat 64 (((s.laneAt ⟨c, l⟩).s d).toNat % 2 ^ 32) :=
    BitVec.eq_of_toNat_eq (by simp)
  show (match s.sleepPast ⟨c, l⟩ false with
    | some (d, a) => finish (.sleep d a) ((s.turnTo ⟨c, l⟩).sleep d a)
    | none => .next s) = _
  rw [State.sleepPast_eq hwaiting hrun hfree hdue halert hpast false (beq_eq_false_iff_ne.mpr hj)]
  dsimp only
  rw [(State.sleep_late (State.turnTo_late hpast)).2 hj hdone, finish_trap, ← hval]
  rfl

end Sleep

/-! Answers and parked requests (R104, R106). -/

/-- A lane with no request outstanding. -/
def Lane.unasked (l : Lane) : Lane := { l with req := none }

/-- A register write does not depend on the request of its lane. -/
theorem Lane.setS_advance_req (l : Lane) (d : Reg) (v : Word) (len : Nat) :
    ((l.setS d v).advance len).unasked = (l.unasked.setS d v).advance len := by
  unfold Lane.setS
  split <;> rfl

/-- The answer of an LDF is written when the lane takes it (R104). -/
theorem State.completeTag_ldf (u : State) (d : Reg) (v : Word) :
    u.completeTag u.cur (.ldf d 32) v = (u.setLane u.lane.unasked).writeS d v := by
  show (u.setLane (u.lane.setS d v)).resumeAt u.cur 32 = ((u.setLane u.lane.unasked).setS d v).advance 32
  rw [State.setLane_resumeAt, State.setS_advance, State.setLane_lane, ← Lane.setS_advance_req]
  exact (State.setLane_setLaneAt _ _ _).symm

theorem exec_answerArrival_ldf {s : State} {c l : Nat} {pa : Nat} {d a : Reg} {o : Option Scope} {v : Word}
    (hreq : (s.laneAt ⟨c, l⟩).req = some ⟨pa, .ldf d 32, .answered v⟩) (hwaiting : (s.laneAt ⟨c, l⟩).waiting = some (.ldf d a o))
    (hrun : (s.laneAt ⟨c, l⟩).run = .stalled) (hfree : s.free (s.laneAt ⟨c, l⟩) = true) :
    exec (.answerArrival c l) s = .next (((s.turnTo ⟨c, l⟩).setLane (s.laneAt ⟨c, l⟩).unasked).writeS d v) := by
  have hanswer : (s.laneAt ⟨c, l⟩).answer = some (.ldf d 32, v) := by rw [Lane.answer, hreq]
  have hcomplete : (s.turnTo ⟨c, l⟩).complete (.ldf d 32) v = .ok ((s.turnTo ⟨c, l⟩).completeTag ⟨c, l⟩ (.ldf d 32) v) := rfl
  show execAnswerArrival c l s = _
  unfold execAnswerArrival
  simp only [hanswer, hwaiting, hfree, hrun, beq_self_eq_true, Bool.and_self, if_true]
  exact (congrArg (finish _) hcomplete).trans (congrArg Host.Outcome.next (State.completeTag_ldf (s.turnTo ⟨c, l⟩) d v))

section Reissue

variable {s : State} {r : LaneRef} {pa : Nat} {d : Reg} {len : Nat} (hsettled : s.settled) (hclean : s.clean pa)
include hsettled hclean

/-- An LDF that arrives at a tagged word is answered with it (R104). -/
theorem State.arriveRequest_ldf_answered (htag : s.tag pa ≠ 0) :
    s.arriveRequest r pa (.ldf d len) = s.setLaneAt r ((s.laneAt r).asking ⟨pa, .ldf d len, .answered (s.peek pa)⟩) := by
  have hlane := State.setLaneAt_laneAt_same s r ((s.laneAt r).asking ⟨pa, .ldf d len, .held⟩)
  have htry := State.tryRequest_load (s := s.setLaneAt r ((s.laneAt r).asking ⟨pa, .ldf d len, .held⟩)) (r := r) (k := .ldf d len)
    (congrArg Lane.req hlane) hclean nofun (bne_iff_ne.mpr htag)
  rw [hlane, State.setLaneAt_setLaneAt, State.setLaneAt_peek] at htry
  have hasking : s.setLaneAt r { s.laneAt r with req := some ⟨pa, .ldf d len, .held⟩ } =
      s.setLaneAt r ((s.laneAt r).asking ⟨pa, .ldf d len, .held⟩) := rfl
  simp only [State.arriveRequest, State.drainPath, State.drain_settled hsettled, hasking, htry, State.setLaneAt_laneAt_same]
  rfl

/-- One that arrives at a word of tag 0 is parked there (R104, R106). -/
theorem State.arriveRequest_ldf_parked (hparked : s.parked = []) (htag : s.tag pa = 0) :
    s.arriveRequest r pa (.ldf d len) = { s.setLaneAt r ((s.laneAt r).asking ⟨pa, .ldf d len, .held⟩) with parked := [r] } := by
  have hlane := State.setLaneAt_laneAt_same s r ((s.laneAt r).asking ⟨pa, .ldf d len, .held⟩)
  have htry := State.tryRequest_held (s := s.setLaneAt r ((s.laneAt r).asking ⟨pa, .ldf d len, .held⟩)) (r := r) (k := .ldf d len)
    (congrArg Lane.req hlane) hclean (bne_eq_false_iff_eq.mpr htag)
  have hroom : s.parkRoom pa = true := by rw [State.parkRoom, hparked]; rfl
  have hasking : s.setLaneAt r { s.laneAt r with req := some ⟨pa, .ldf d len, .held⟩ } =
      s.setLaneAt r ((s.laneAt r).asking ⟨pa, .ldf d len, .held⟩) := rfl
  simp only [State.arriveRequest, State.drainPath, State.drain_settled hsettled, hasking, htry, hroom, State.setLaneAt_laneAt_same,
    State.setLaneAt_parked, hparked]
  rfl

end Reissue

theorem exec_parkedRequestReissue {s : State} {c l : Nat} {pa : Nat} {k : Park} (hreq : (s.laneAt ⟨c, l⟩).req = some ⟨pa, k, .sent⟩) :
    exec (.parkedRequestReissue c l) s = .next (s.arriveRequest ⟨c, l⟩ pa k) := by
  show execParkedRequestReissue c l s = _
  simp only [execParkedRequestReissue, hreq, if_true]

/-! Fetch faults and patterns (R60, R70). -/

theorem exec_parcelFetchFault {s : State} (hahead : s.lane.ahead = none) (hpc : decodeWindow s.lane.pc = none) :
    exec .parcelFetchFault s = .next (s.takeTrap 0x05 s.lane.pc) := by
  have hread : s.readBits s.cur s.lane.pc 16 .fetch = .error (.trap s 0x05 s.lane.pc) := by
    simp only [State.readBits, State.checkAccess, State.fates, State.resolve, hpc]
    rfl
  have hparcel : s.fetchParcel s.cur s.lane.pc = .error (.trap s 0x05 s.lane.pc) := by
    have hnone : (s.laneAt s.cur).aheadAt s.lane.pc = none := by
      simp only [Lane.aheadAt, show (s.laneAt s.cur).ahead = none from hahead]
    simp only [State.fetchParcel, hnone, hread]
  show execParcelFetchFault s = _
  simp only [execParcelFetchFault, State.fetchInstr, show (s.laneAt s.cur).pc = s.lane.pc from rfl, hparcel]

theorem rejectCause_eq (e : Reject) : rejectCause e = if e = .reserved then 0x02 else 0x01 := by cases e <;> rfl

/-- A pattern that is no instruction traps with its value, outside inline code (R70). -/
theorem exec_pattern {s : State} (hinl : s.lane.inl = false) {raw : BitVec 32} {e : Reject} :
    (raw.toNat % 2 = 1 → decode32 raw.toNat = .error e →
      exec (.patternNotAnInstruction raw) s = .next (s.takeTrap (if e = .reserved then 0x02 else 0x01) (raw.setWidth 64))) ∧
    (raw.toNat % 2 = 0 → decode16 (raw.toNat % 65536) = .error e → exec (.patternNotAnInstruction raw) s =
      .next (s.takeTrap (if e = .reserved then 0x02 else 0x01) (BitVec.ofNat 64 (raw.toNat % 65536)))) := by
  have hinline : s.lane.inline = false := by rw [Lane.inline, hinl, Bool.false_and]
  have hexec : exec (.patternNotAnInstruction raw) s = execPatternNotAnInstruction raw s := rfl
  refine ⟨fun hodd hd => ?_, fun heven hd => ?_⟩
  · have hval : patternValue s.lane raw.toNat = raw.setWidth 64 := by
      rw [patternValue, hinline, if_neg (by simp [hodd])]
      exact BitVec.eq_of_toNat_eq (by simp [word])
    simp only [hexec, execPatternNotAnInstruction, Lane.decode, hinline, hodd, Bool.false_eq_true, if_false, one_ne_zero, hd, rejectCause_eq, hval]
  · have hval : patternValue s.lane raw.toNat = BitVec.ofNat 64 (raw.toNat % 65536) := by
      rw [patternValue, if_pos (.inl heven)]
      rfl
    simp only [hexec, execPatternNotAnInstruction, Lane.decode, hinline, heven, Bool.false_eq_true, if_false, if_true, hd, rejectCause_eq, hval]

/-! DISPATCH (R205, R206). -/

section Dispatch

variable {s : State} {c l : Nat} {e : RingEntry} (hring : (s.laneAt ⟨c, l⟩).ring = [e]) (hrun : (s.laneAt ⟨c, l⟩).run = .idle)
  (hfree : s.free (s.laneAt ⟨c, l⟩) = true) (hdue : (s.laneAt ⟨c, l⟩).due = []) (hrep : s.mgmt.unrep.contains (c / 4) = false)
  (halert : c ≠ Config.mgmtCore ∨ s.mgmt.alerts = [])
include hring hrun hfree hdue hrep halert

/-- With one message, DISPATCH is that message's fate (R205). -/
theorem exec_dispatch : exec (.dispatch c l) s = .next (s.dispatchHead ⟨c, l⟩) := by
  have halert' : s.alertFirst ⟨c, l⟩ = false := State.alertFirst_none (halert.imp_left fun hc heq => hc (congrArg LaneRef.core heq))
  have hcan : s.canDispatch ⟨c, l⟩ = true := by
    simp only [State.canDispatch, hrep, hrun, hfree, hdue, hring, halert']
    rfl
  show Host.Outcome.next (s.dispatchLoop ⟨c, l⟩ (s.laneAt ⟨c, l⟩).ring.length) = _
  rw [hring]
  show Host.Outcome.next (if s.canDispatch ⟨c, l⟩ then _ else _) = _
  rw [if_pos hcan]
  rfl

end Dispatch

section Head

variable {s : State} {r : LaneRef} {e : RingEntry} {y : Word} (hring : (s.laneAt r).ring = [e])
  (hentry : s.tableEntry r (hdrClass e.hdr) = .ok (s, y))
include hring hentry

/-- A message whose entry is a handler's starts it (R206). -/
theorem State.dispatchHead_begins (hcls : hdrClass e.hdr ≠ 63) (hy : entryValid y = true) : s.dispatchHead r = s.begin_ r e y := by
  simp only [State.dispatchHead, hring, hentry, hcls, hy, if_false, if_true]

/-- One whose entry is not valid is unbound (R205). -/
theorem State.dispatchHead_unbound (hcls : hdrClass e.hdr ≠ 63) (hy : entryValid y = false) : s.dispatchHead r = s.unbound r e := by
  simp only [State.dispatchHead, hring, hentry, hcls, hy, if_false, Bool.false_eq_true]

end Head

/-- An activation begins with the registers of R56 at an untraced lane. -/
theorem State.begin_untraced {s : State} {r : LaneRef} (h : s.untraced r) (e : RingEntry) (y : Word) :
    ∃ p, s.begin_ r e y = s.setLaneAt r { (s.laneAt r).activate r e y with point := p } := by
  refine ⟨_, State.trace_off (State.setLaneAt_untraced h _) 1 _⟩

theorem Lane.setS_get (l : Lane) (d n : Reg) (v : Word) : (l.setS d v).s n = if n = d then if n = 0 then 0 else v else l.s n := by
  unfold Lane.setS Lane.s
  by_cases hn : n = 0
  · simp only [hn, if_true, ite_self]
  by_cases hd : d = 0
  · simp only [hd, hn, if_true, if_false]
  by_cases hnd : n = d
  · subst hnd
    simp only [hn, if_true, if_false, Vector.getElem_set_self]
  · have hne : d.toNat ≠ n.toNat := fun h => hnd (BitVec.eq_of_toNat_eq h.symm)
    simp only [hn, hd, hnd, if_false, Vector.getElem_set_ne _ _ hne]

/-- The registers that an activation finds (R56). -/
theorem Lane.activate_s (l : Lane) (r : LaneRef) (e : RingEntry) (y : Word) (n : Reg) :
    (l.activate r e y).s n = if n = 1 then ringAddr r e.slot else if n = 2 then word (256 * e.flits) else if n = 3 then word (hdrClass e.hdr)
      else if n = 4 then word (hdrSrc e.hdr) else if n = 5 ∧ hdrLn e.hdr = true then word (bits e.w2 23 0) else 0 := by
  have hzero (l : Lane) (h : l.sreg = Vector.replicate 32 0) : l.s n = 0 := by
    simp only [Lane.s, h, Vector.getElem_replicate, ite_self]
  simp only [Lane.activate, Lane.setS_get]
  rw [hzero _ rfl]
  by_cases h : n = 1 ∨ n = 2 ∨ n = 3 ∨ n = 4 ∨ n = 5
  · obtain rfl | rfl | rfl | rfl | rfl := h <;> simp
  · simp only [not_or] at h
    obtain ⟨h1, h2, h3, h4, h5⟩ := h
    simp only [h1, h2, h3, h4, h5, if_false, false_and]

/-- With no error recorded, the words of a ring are read and nothing changes (R100, R330). -/
theorem State.ringWords_clean {s : State} (hunc : s.unc = []) (hcorr : s.corr = []) (r : LaneRef) (slot first n : Nat) :
    ∃ ws, s.ringWords r slot first n = (s, ws) := by
  induction n generalizing first with
  | zero => exact ⟨[], rfl⟩
  | succ n ih =>
    obtain ⟨ws, hws⟩ := ih (first + 1)
    have hclean (pa : Nat) : s.clean pa := ⟨by rw [hunc]; exact List.not_mem_nil, by rw [hcorr]; exact List.not_mem_nil⟩
    refine ⟨s.peek (rawByte r.core (ringOff r slot) + 8 * first) :: ws, ?_⟩
    simp only [State.ringWords, State.readHome_clean (hclean _), hws]

theorem State.countDropcnt_laneAt (s : State) (r : LaneRef) (n : Nat) : (s.countDropcnt r.core n).laneAt r = s.laneAt r := by
  unfold State.countDropcnt State.laneAt
  rw [State.setCore_core_same]
  rfl

theorem State.countDropcnt_dropcnt (s : State) (c n : Nat) : ((s.countDropcnt c n).core c).dropcnt = (s.core c).dropcnt + word n := by
  unfold State.countDropcnt
  rw [State.setCore_core_same]

theorem State.setLaneAt_dropcnt (s : State) (r : LaneRef) (x : Lane) :
    ((s.setLaneAt r x).core r.core).dropcnt = (s.core r.core).dropcnt := by
  unfold State.setLaneAt
  rw [State.setCore_core_same]
  rfl

/-- An unbound message of a class that programs bind, which launches nothing, is freed, counted and told to its lane (R204, R205). -/
theorem State.unbound_counts {s : State} (hunc : s.unc = []) (hcorr : s.corr = []) (r : LaneRef) {e : RingEntry} (hcls : hdrClass e.hdr ≠ 59)
    (hcls' : hdrClass e.hdr ≠ 61) (hln : hdrLn e.hdr = false) :
    let t := s.unbound r e
    t.mem = s.mem ∧ t.laneAt r = (s.laneAt r).freeHead ∧ (t.core r.core).dropcnt = (s.core r.core).dropcnt + 1 ∧
    t.mesh.length = s.mesh.length + 1 := by
  intro t
  obtain ⟨ws, hws⟩ := State.ringWords_clean hunc hcorr r e.slot 1 (4 * e.flits - 1)
  have ht : ∃ body, t = ((s.setLaneAt r (s.laneAt r).freeHead).countDropcnt r.core 1).postNotice r body := by
    simp only [t, State.unbound, hws, hcls, hcls', hln, if_false, Bool.false_eq_true]
    exact ⟨_, rfl⟩
  obtain ⟨body, ht⟩ := ht
  rw [ht]
  refine ⟨rfl, (State.countDropcnt_laneAt _ r 1).trans (State.setLaneAt_laneAt_same s r _), ?_, List.length_append⟩
  exact (State.countDropcnt_dropcnt _ r.core 1).trans (congrArg (· + 1) (State.setLaneAt_dropcnt s r _))

/-- What an activation leaves of its lane and of memory (R56, R206). -/
theorem State.begin_starts {s : State} {r : LaneRef} (h : s.untraced r) (e : RingEntry) (y : Word) :
    let t := s.begin_ r e y
    t.mem = s.mem ∧ (t.laneAt r).run = .running ∧ (t.laneAt r).pc = y ∧ (t.laneAt r).intrap = false ∧ (t.laneAt r).active = true ∧
    (t.laneAt r).ring = (s.laneAt r).ring ∧ ∀ n, (t.laneAt r).s n = ((s.laneAt r).activate r e y).s n := by
  intro t
  obtain ⟨p, ht⟩ := State.begin_untraced h e y
  have hlane : t.laneAt r = { (s.laneAt r).activate r e y with point := p } := by
    rw [show t = _ from ht, State.setLaneAt_laneAt_same]
  rw [hlane]
  refine ⟨by rw [show t = _ from ht, State.setLaneAt_mem], ?_, ?_, ?_, ?_, ?_, fun n => rfl⟩ <;>
    simp only [Lane.activate, Lane.setS_run, Lane.setS_pc, Lane.setS_intrap, Lane.setS_active, Lane.setS_ring]

/-- A handler's entry is a word that is not 0, of a parcel's alignment (R60, R205). -/
theorem entryValid_iff (y : Word) : entryValid y = true ↔ y ≠ 0 ∧ y.toNat % 16 = 0 := by
  simp only [entryValid, bits_low y (by decide : 0 < 4), Bool.and_eq_true, bne_iff_ne, beq_iff_eq]
  rfl

/-- Settles O8: each event that is due comes to its own rule above. -/
theorem laneEventResults : Obligations.LaneEventResults := by
  unfold Obligations.LaneEventResults
  intro s c l hu r x u parked
  refine ⟨?jobFault, ?watchdog, ?sleep, fun p => rfl, ?answer, ?reissue, ?dispatch, ?fetch, ?pattern⟩
  case jobFault =>
    intro cause id rep rest hdue hfree hrun
    refine ⟨_, exec_jobFaultTrap hdue (State.atBoundary_of_run hfree hrun), ?_⟩
    obtain ⟨hmem, hmesh, hlane⟩ := State.takeJobFault_parks (State.setLaneAt_untraced hu { x with due := rest }) cause id rep
    rw [State.setLaneAt_laneAt_same] at hlane
    exact ⟨hmem.trans (State.setLaneAt_mem ..), hmesh, hlane⟩
  case watchdog =>
    intro limit hen hfree hrun hanswer hreplied hlimit
    have hlim : x.watchLimit = limit := Lane.watchLimit_eq x
    refine ⟨_, exec_watchdog (State.watchDue_of_limit hen hfree hrun (hlim.le.trans hlimit)) hanswer hreplied, ?_⟩
    obtain ⟨hmem, hmesh, hlane⟩ := State.takeTrapAt_parks (State.setLaneAt_untraced hu { x with wcount := 0 })
      (c := Cause.watchdog) (by decide) (word x.watchLimit) x.pc
    rw [State.setLaneAt_laneAt_same] at hlane
    have hval : BitVec.ofNat 64 limit = word x.watchLimit := congrArg word hlim.symm
    exact ⟨hmem.trans (State.setLaneAt_mem ..), hmesh, by rw [hval]; exact hlane⟩
  case sleep =>
    intro d a hwaiting hrun hfree hdue halert hpast
    exact ⟨exec_sleepTimer hwaiting hrun hfree hdue halert hpast, exec_promiseMissed hwaiting hrun hfree hdue halert hpast⟩
  case answer => exact fun pa d a o v => exec_answerArrival_ldf
  case reissue =>
    intro pa d hreq hsettled hparked hclean
    refine ⟨_, exec_parkedRequestReissue hreq, ?_⟩
    by_cases htag : s.tag pa = 0
    · rw [State.arriveRequest_ldf_parked hsettled hclean hparked htag]
      exact ⟨rfl, fun h => absurd htag h, fun _ => ⟨congrArg Lane.req (State.setLaneAt_laneAt_same ..), rfl⟩⟩
    · rw [State.arriveRequest_ldf_answered hsettled hclean htag]
      exact ⟨rfl, fun _ => ⟨congrArg Lane.req (State.setLaneAt_laneAt_same ..), hparked⟩, fun h => absurd h htag⟩
  case dispatch =>
    intro e y hring hrun hfree hdue hrep halert hentry cls
    have hexec := exec_dispatch hring hrun hfree hdue hrep halert
    have hln : hdrLn e.hdr = e.hdr.getLsbD 59 := rfl
    refine ⟨fun hcls hy hy' => ⟨_, hexec, ?_⟩, fun hlow hhigh hy hlaunch hunc hcorr => ⟨_, hexec, ?_⟩⟩
    · rw [State.dispatchHead_begins hring hentry hcls ((entryValid_iff y).mpr ⟨hy, hy'⟩)]
      obtain ⟨hmem, hrun, hpc, hintrap, hactive, hring', hregs⟩ := State.begin_starts hu e y
      have hplace : bits e.w2 23 0 = e.w2.toNat % 2 ^ 24 := bits_low e.w2 (by decide : 0 < 24)
      exact ⟨hmem, hrun, hpc, hintrap, hactive, hring'.trans hring, fun n => by rw [hregs, Lane.activate_s, hplace]; rfl⟩
    · have hcls : hdrClass e.hdr ≤ 55 := hhigh
      rw [State.dispatchHead_unbound hring hentry (by omega) (by rw [hy]; decide)]
      obtain ⟨hmem, hlane, hdrop, hmesh⟩ := State.unbound_counts hunc hcorr ⟨c, l⟩ (e := e) (by omega) (by omega) hlaunch
      rw [hlane]
      exact ⟨hmem, hrun, congrArg (List.drop 1) hring, hdrop, hmesh⟩
  case fetch =>
    intro hcur hahead hpc
    have hx : s.lane = x := congrArg s.laneAt hcur
    rw [← hx] at hahead hpc ⊢
    exact exec_parcelFetchFault hahead hpc
  case pattern =>
    intro raw e hcur hinl
    have hx : s.lane = x := congrArg s.laneAt hcur
    exact exec_pattern (hx ▸ hinl)

end Sys2Proof.Machine

namespace Sys2Proof.Machine

/-! Results in a scalar register (R49, R79, R92). -/

/-- COORD's selectors, where the lane's place in its task reads as 0 without a task (R92). -/
theorem exec_coord_place (d : Reg) (s : State) (place : Nat) (hplace : place = if s.lane.task = 0 then 0 else s.lane.place.toNat) :
    exec (.coord d .gxy) s = .next (s.writeS d (word (place % 256))) ∧
    exec (.coord d .gidx) s = .next (s.writeS d (word (place / 256 % 16))) ∧
    exec (.coord d .stage) s = .next (s.writeS d (word (place / 65536 % 256))) := by
  subst hplace
  exact ⟨rfl, rfl, rfl⟩

/-- COREID holds the physical number in bits 19:0 and the logical one in bits 51:32 (R52). -/
theorem State.coreId_fields (s : State) (r : LaneRef) :
    (s.coreId r).toNat % 2 ^ 20 = r.core % 2 ^ 20 ∧ (s.coreId r).toNat / 2 ^ 32 % 2 ^ 20 = s.logical r % 2 ^ 20 := by
  rw [State.coreId, word, BitVec.toNat_ofNat]
  omega

/-- Settles O24: the two numbers are COREID's fields (`State.coreId_fields`), the place is 0 without a task (`exec_coord_place`). -/
theorem coordResults : Obligations.CoordResults := by
  unfold Obligations.CoordResults
  intro s d
  obtain ⟨hphys, hlog⟩ := s.coreId_fields s.cur
  refine ⟨by rw [hphys]; rfl, by rw [hlog]; rfl, fun htask => ?idle, fun htask => ?task⟩
  case idle =>
    obtain ⟨hgxy, hgidx, hstage⟩ := exec_coord_place d s 0 (if_pos htask).symm
    rintro sel (rfl | rfl | rfl)
    · exact hgxy
    · exact hgidx
    · exact hstage
  case task => exact exec_coord_place d s s.lane.place.toNat (if_neg htask).symm

/-- A scalar write ends the errors of its register (R330), so the lane's list of lost parts is no longer what it was. -/
theorem State.writeS_lost (s : State) {d : Reg} (hd : d ≠ 0) (v : Word) :
    (s.writeS d v).lane.lost = s.lane.lost.filter (fun k => k / 4 != d.toNat - 1) := by
  rw [State.writeS_lane]
  show (s.lane.setS d v).lost = _
  rw [Lane.setS, if_neg hd]
  rfl

/-- What `State.SameButScalars` keeps of the lane includes its list of lost parts. -/
theorem State.SameButScalars.lost {s t : State} (h : t.SameButScalars s) : t.lane.lost = s.lane.lost := by
  unfold State.SameButScalars at h
  have hlost := congrArg Lane.lost h
  exact hlost

/-- Refutes O6: the write of s1 also ends an error that s1 has (R330), so a lane that has lost part 0 of s1 is not the same but for its
scalar registers and its progress. -/
theorem not_scalarWriteFrame : ¬ Obligations.ScalarWriteFrame := by
  unfold Obligations.ScalarWriteFrame
  intro h
  let s : State := State.reset.setLane { State.reset.lane with lost := [0] }
  obtain ⟨-, -, -, -, hframe, -⟩ := h s 1 0
  have hkept := hframe.lost
  rw [State.writeS_lost s (by decide), State.setLane_lane] at hkept
  exact absurd hkept (by decide)

end Sys2Proof.Machine
namespace Sys2Proof.Machine

/-! PARTSET and LANEGATE (R195). -/

/-- The fields of PARTSET's and LANEGATE's operand as the arithmetic of its number. -/
theorem setter_fields (v : Word) : bits v 19 0 = v.toNat % 2 ^ 20 ∧ bits v 63 52 = v.toNat / 2 ^ 52 ∧ bits v 63 27 = v.toNat / 2 ^ 27 := by
  have hv := v.isLt
  refine ⟨bits_low v (n := 20) (by decide), ?_, ?_⟩ <;> exact Nat.mod_eq_of_lt (by omega)

/-- A field of a word in a bit vector of its own width. -/
theorem ofNat_bits (v : Word) (h l : Nat) : BitVec.ofNat (h + 1 - l) (bits v h l) = BitVec.ofNat (h + 1 - l) (v.toNat / 2 ^ l) :=
  BitVec.eq_of_toNat_eq (by simp [bits])

/-- Moving on changes nothing that PARTSET writes: the privilege, the tag, the supervisor core and the ring of any lane. -/
theorem State.advance_settings (s : State) (r : LaneRef) (n : Nat) :
    ((s.advance n).laneAt r).sup = (s.laneAt r).sup ∧ ((s.advance n).laneAt r).ptag = (s.laneAt r).ptag ∧
    ((s.advance n).laneAt r).supc = (s.laneAt r).supc ∧ ((s.advance n).laneAt r).ring = (s.laneAt r).ring := by
  by_cases h : r.core ≠ s.cur.core ∨ r.lane % 4 ≠ s.cur.lane % 4
  · have hsame : (s.advance n).laneAt r = s.laneAt r := State.setLaneAt_laneAt_ne s (s.lane.advance n) h
    exact ⟨congrArg Lane.sup hsame, congrArg Lane.ptag hsame, congrArg Lane.supc hsame, congrArg Lane.ring hsame⟩
  · obtain ⟨hcore, hlane⟩ : r.core = s.cur.core ∧ r.lane % 4 = s.cur.lane % 4 := by omega
    have hmine : ∀ t : State, t.cur = s.cur → t.laneAt r = t.lane := fun t ht => by
      rw [State.laneAt, hcore, ← Core.lane_mod, hlane, Core.lane_mod, State.lane, State.laneAt, ht]
    have hadvanced : (s.advance n).laneAt r = s.lane.advance n := (hmine (s.advance n) rfl).trans (State.advance_lane s n)
    rw [hadvanced, hmine s rfl]
    exact ⟨rfl, rfl, rfl, rfl⟩

/-- Moving on leaves a core's counter of drops. -/
theorem State.advance_dropcnt (s : State) (n c : Nat) : ((s.advance n).core c).dropcnt = (s.core c).dropcnt := by
  by_cases h : c = s.cur.core
  · subst h; rw [State.advance, State.setLane, State.setLaneAt, State.setCore_core_same]; rfl
  · rw [State.advance, State.setLane, State.setLaneAt, State.setCore_core_ne _ _ h]

section Partset
variable {s : State} {a : Reg} {v : Word}

theorem exec_partset_unprivileged (h : s.lane.sup = false) : exec (.partset a) s = .next (s.takeTrap 0x03 (instrWord (.partset a))) := by
  show execPartset a s = _
  simp [execPartset, supOnly, h, trapNow, Cause.privilege]

theorem exec_lanegate_unprivileged (h : s.lane.sup = false) : exec (.lanegate a) s = .next (s.takeTrap 0x03 (instrWord (.lanegate a))) := by
  show execLanegate a s = _
  simp [execLanegate, supOnly, h, trapNow, Cause.privilege]

variable (hv : v = s.s a) (hsup : s.lane.sup = true)
include hv hsup

theorem exec_partset_illegal (h : v.toNat / 2 ^ 52 ≠ 0) : exec (.partset a) s = .next (s.takeTrap 0x01 v) := by
  show execPartset a s = _
  rw [execPartset, supOnly, if_pos hsup, ← hv, (setter_fields v).2.1, if_pos h]
  rfl

theorem exec_partset_tagged (h : v.toNat / 2 ^ 52 = 0) (h23 : v.getLsbD 23 = true) (htag : s.lane.ptag ≠ 0) :
    exec (.partset a) s = .next (s.takeTrap 0x03 v) := by
  show execPartset a s = _
  rw [execPartset, supOnly, if_pos hsup, ← hv, (setter_fields v).2.1, if_neg (not_not.mpr h), if_pos ⟨h23, htag⟩]
  rfl

/-- Where the operand is well formed and the issuer may set what it sets, PARTSET turns on the lane that it names. -/
theorem exec_partset_named (h : v.toNat / 2 ^ 52 = 0) (htag : ¬(v.getLsbD 23 = true ∧ s.lane.ptag ≠ 0)) :
    (s.namedLane s.cur (v.toNat % 2 ^ 20) (v.toNat / 2 ^ 20 % 4) = none → exec (.partset a) s = .next (s.takeTrap 0x03 v)) ∧
    (∀ r, s.namedLane s.cur (v.toNat % 2 ^ 20) (v.toNat / 2 ^ 20 % 4) = some r → exec (.partset a) s =
      finish (.partset a) (if bit v 23 ∧ !s.tagSettable r then .error (.wait s 6) else .ok ((s.partset r v).advance 32))) := by
  have hexec : exec (.partset a) s = execPartset a s := rfl
  have hlane : bits v 21 20 = v.toNat / 2 ^ 20 % 4 := rfl
  rw [hexec, execPartset, supOnly, if_pos hsup, ← hv, (setter_fields v).1, (setter_fields v).2.1, hlane, if_neg (not_not.mpr h),
    if_neg (show ¬(bit v 23 = true ∧ s.lane.ptag ≠ 0) from htag)]
  refine ⟨fun hr => ?_, fun r hr => ?_⟩
  · rw [hr]; rfl
  · rw [hr]

theorem exec_lanegate_illegal (h : v.toNat / 2 ^ 27 ≠ 0 ∨ 3 < v.toNat / 2 ^ 24 % 8 ∨ v.toNat / 2 ^ 20 % 16 = 0) :
    exec (.lanegate a) s = .next (s.takeTrap 0x01 v) := by
  show execLanegate a s = _
  have hfields : bits v 26 24 = v.toNat / 2 ^ 24 % 8 ∧ bits v 23 20 = v.toNat / 2 ^ 20 % 16 := ⟨rfl, rfl⟩
  rw [execLanegate, supOnly, if_pos hsup, ← hv, (setter_fields v).2.2, hfields.1, hfields.2, if_pos h]
  rfl

/-- Where the operand is well formed, LANEGATE turns on the lanes that its mask names. -/
theorem exec_lanegate_named (h : v.toNat / 2 ^ 27 = 0) (hop : v.toNat / 2 ^ 24 % 8 ≤ 3) (hmask : v.toNat / 2 ^ 20 % 16 ≠ 0) :
    (s.maskLanes s.cur (v.toNat % 2 ^ 20) (v.toNat / 2 ^ 20 % 16) = none → exec (.lanegate a) s = .next (s.takeTrap 0x03 v)) ∧
    (∀ rs, s.maskLanes s.cur (v.toNat % 2 ^ 20) (v.toNat / 2 ^ 20 % 16) = some rs →
      exec (.lanegate a) s = .next (rs.foldl (fun t r => t.laneGate (v.toNat / 2 ^ 24 % 8) r) (s.advance 32))) := by
  have hexec : exec (.lanegate a) s = execLanegate a s := rfl
  have hfields : bits v 26 24 = v.toNat / 2 ^ 24 % 8 ∧ bits v 23 20 = v.toNat / 2 ^ 20 % 16 := ⟨rfl, rfl⟩
  rw [hexec, execLanegate, supOnly, if_pos hsup, ← hv, (setter_fields v).1, (setter_fields v).2.2, hfields.1, hfields.2,
    if_neg (by omega)]
  refine ⟨fun hr => ?_, fun rs hr => ?_⟩
  · rw [hr]; rfl
  · rw [hr]; rfl

end Partset

/-- PARTSET without SETTAG writes the privilege alone. -/
theorem State.partset_sup {v : Word} (h : v.getLsbD 23 = false) (s : State) (r : LaneRef) :
    s.partset r v = s.setLaneAt r { s.laneAt r with sup := v.getLsbD 22 } := by
  rw [State.partset, if_neg (by rw [show bit v 23 = false from h]; decide)]
  rfl

/-- The messages of a lane that stay when the rest are discarded: that of an activation in progress (R208). -/
def Lane.keptRing (l : Lane) : List RingEntry := if l.active = true then l.ring.take 1 else []

/-- PARTSET with SETTAG: what it writes of its lane, and the drops that it counts. -/
theorem State.partset_tag {v : Word} (h : v.getLsbD 23 = true) (s : State) (r : LaneRef) :
    ((s.partset r v).laneAt r).sup = v.getLsbD 22 ∧ ((s.partset r v).laneAt r).ptag = BitVec.ofNat 8 (v.toNat / 2 ^ 24) ∧
    ((s.partset r v).laneAt r).supc = BitVec.ofNat 20 (v.toNat / 2 ^ 32) ∧ ((s.partset r v).laneAt r).ring = (s.laneAt r).keptRing ∧
    ((s.partset r v).core r.core).dropcnt = (s.core r.core).dropcnt + word ((s.laneAt r).ring.length - (s.laneAt r).keptRing.length) ∧
    (s.partset r v).mem = s.mem := by
  let x : Lane := { s.laneAt r with sup := v.getLsbD 22, ring := (s.laneAt r).keptRing }
  let u : State := (s.setLaneAt r { s.laneAt r with sup := v.getLsbD 22 }).discardRing r
  have hu : u = ((s.setLaneAt r { s.laneAt r with sup := v.getLsbD 22 }).setLaneAt r x).countDropcnt r.core
      ((s.laneAt r).ring.length - (s.laneAt r).keptRing.length) := by
    simp only [u, State.discardRing, State.setLaneAt_laneAt_same]
    rfl
  have hx : u.laneAt r = x := by rw [hu, State.countDropcnt_laneAt, State.setLaneAt_laneAt_same]
  have hset : s.partset r v = u.setLaneAt r { x with ptag := BitVec.ofNat 8 (v.toNat / 2 ^ 24), supc := BitVec.ofNat 20 (v.toNat / 2 ^ 32) } := by
    rw [State.partset, if_pos (show bit v 23 = true from h), ← hx]
    exact congrArg₂ (fun p c => u.setLaneAt r { u.laneAt r with ptag := p, supc := c }) (ofNat_bits v 31 24) (ofNat_bits v 51 32)
  rw [hset, State.setLaneAt_laneAt_same]
  refine ⟨rfl, rfl, rfl, rfl, ?_, by rw [hu]; rfl⟩
  rw [State.setLaneAt_dropcnt, hu, State.countDropcnt_dropcnt, State.setLaneAt_dropcnt, State.setLaneAt_dropcnt]

/-- The lane whose activation has ended, but for its ring and pool (R96). -/
def Lane.ended (l : Lane) : Lane :=
  { l with run := .idle, intrap := false, active := false, inl := false, stall := 0, waiting := none, waitJob := none, spvEnd := false,
           dbgSkip := false, trapWait := false }

theorem State.endActivation_empty {s : State} {r : LaneRef} (h : (s.laneAt r).ring = []) :
    s.endActivation r = s.setLaneAt r (s.laneAt r).ended := by
  simp only [State.endActivation]
  split
  · next h' => rw [h] at h'; cases h'
  · rfl

/-- An activation by the oldest message of the ring frees that message's slots (R96, R235). -/
theorem State.endActivation_active {s : State} {r : LaneRef} {e : RingEntry} {rest : List RingEntry} (ha : (s.laneAt r).active = true)
    (h : (s.laneAt r).ring = e :: rest) :
    s.endActivation r = s.setLaneAt r { (s.laneAt r).ended with ring := rest, pool := Pool.endTile (s.laneAt r).pool e } := by
  simp only [State.endActivation]
  split
  · next h' => rw [h] at h'; cases h'; rfl
  · next h' => exact absurd h (h' e rest ha)

theorem State.dispatchNow_empty {s : State} {r : LaneRef} (h : (s.laneAt r).ring = []) : s.dispatchNow r = s := by
  rw [State.dispatchNow, h]; rfl

/-- A reset of a lane with an empty ring leaves it idle, its request withdrawn (R195). -/
theorem State.laneReset_empty {s : State} {r : LaneRef} (h : (s.laneAt r).ring = []) :
    ((s.laneReset r).laneAt r).run = .idle ∧ ((s.laneReset r).laneAt r).req = none := by
  have hw : (s.withdraw r).laneAt r = { s.laneAt r with req := none } := State.withdraw_laneAt s r
  have hring : ((s.withdraw r).laneAt r).ring = [] := by rw [hw]; exact h
  have hreset : s.laneReset r = ((s.withdraw r).endActivation r).dispatchNow r := by
    simp [State.laneReset, hring]
  have hended : (s.laneReset r).laneAt r = ((s.withdraw r).laneAt r).ended := by
    rw [hreset, State.endActivation_empty hring, State.dispatchNow_empty (by rw [State.setLaneAt_laneAt_same]; exact hring),
      State.setLaneAt_laneAt_same]
  rw [hended, hw]
  exact ⟨rfl, rfl⟩

/-- Settles O39: the two instructions by their outcomes above, a lane's new settings by `State.partset_tag`, and LANEGATE's reset by
`State.laneReset_empty`. -/
theorem systemResults : Obligations.SystemResults := by
  unfold Obligations.SystemResults
  intro s d a v hv
  refine ⟨rfl, rfl, fun hsup => ⟨exec_partset_unprivileged hsup, exec_lanegate_unprivileged hsup⟩, fun hsup => ?privileged, fun t r => ?gate⟩
  case privileged =>
    refine ⟨exec_partset_illegal hv hsup, fun r hlow hr => ⟨fun h23 => ?sup, fun h23 htag hset => ?tag, fun h23 htag hset => ?waits⟩,
      exec_partset_tagged hv hsup, exec_lanegate_illegal hv hsup, fun hlow hop hmask => (exec_lanegate_named hv hsup hlow hop hmask).1,
      fun hlow htag => (exec_partset_named hv hsup hlow htag).1, fun rs hlow hop hmask => (exec_lanegate_named hv hsup hlow hop hmask).2 rs⟩
    case sup =>
      rw [(exec_partset_named hv hsup hlow (by rw [h23]; simp)).2 r hr, if_neg (by rw [show bit v 23 = false from h23]; simp),
        State.partset_sup h23]
      rfl
    case tag =>
      obtain ⟨hs, hp, hc, hring, hdrop, hmem⟩ := State.partset_tag h23 s r
      obtain ⟨hs', hp', hc', hring'⟩ := (s.partset r v).advance_settings r 32
      refine ⟨(s.partset r v).advance 32, ?_, hs'.trans hs, hp'.trans hp, hc'.trans hc, hmem, hring'.trans hring,
        (State.advance_dropcnt ..).trans hdrop⟩
      rw [(exec_partset_named hv hsup hlow (fun h => h.2 htag)).2 r hr, if_neg (by rw [hset]; simp)]
      rfl
    case waits =>
      rw [(exec_partset_named hv hsup hlow (fun h => h.2 htag)).2 r hr, if_pos ⟨h23, by rw [hset]; rfl⟩]
      rfl
  case gate => exact ⟨rfl, rfl, fun h => if_pos h, fun h => if_neg h, State.laneReset_empty⟩

end Sys2Proof.Machine

namespace Sys2Proof.Machine

/-! Control registers (R52, R53, R55, R197). -/

/-- The numbers that R52 assigns. -/
def crAssigned (k : Nat) : Prop :=
  k ≤ 0x007 ∨ (0x010 ≤ k ∧ k ≤ 0x013) ∨ (0x020 ≤ k ∧ k ≤ 0x025) ∨ (0x030 ≤ k ∧ k ≤ 0x037) ∨ (0x040 ≤ k ∧ k ≤ 0x047)

theorem State.crRead_none_iff (s : State) (r : LaneRef) (k : Nat) : s.crRead r k = none ↔ ¬crAssigned k := by
  unfold State.crRead crAssigned
  split
  iterate 18 exact iff_of_false (by simp) (not_not.mpr (by decide))
  split
  · next h => exact iff_of_false (by simp) (not_not.mpr (by omega))
  · split
    · next h => exact iff_of_false (by simp) (not_not.mpr (by omega))
    · simp only [imp_false] at *
      exact iff_of_true trivial (by omega)

theorem State.crRead_region (s : State) (r : LaneRef) {k : Nat} (h : 0x030 ≤ k) (h' : k ≤ 0x037) :
    s.crRead r k = some ((s.laneAt r).region[(k - 0x030) % 8]'(Nat.mod_lt _ (by decide))) := by
  interval_cases k <;> rfl

theorem State.crRead_stream (s : State) (r : LaneRef) {k : Nat} (h : 0x040 ≤ k) (h' : k ≤ 0x047) :
    s.crRead r k = some ((s.laneAt r).streamcfg[(k - 0x040) % 8]'(Nat.mod_lt _ (by decide))) := by
  interval_cases k <;> rfl

theorem crPriv_iff (k : Nat) : crPriv k = true ↔ k = 0x020 ∨ k = 0x023 ∨ k = 0x024 ∨ k = 0x025 := by
  simp [crPriv, or_assoc]

/-- A field of a number kept in place. -/
theorem and_ones_mul_two_pow (x l m : Nat) : x &&& (2 ^ m - 1) * 2 ^ l = x / 2 ^ l % 2 ^ m * 2 ^ l := by
  refine Nat.eq_of_testBit_eq fun i => ?_
  rw [Nat.testBit_and, Nat.testBit_mul_two_pow, Nat.testBit_mul_two_pow, Nat.testBit_mod_two_pow, Nat.testBit_two_pow_sub_one, Nat.testBit_div_two_pow]
  by_cases h : l ≤ i
  · simp [h, Bool.and_comm]
  · simp [h]

/-- The bits that a REGION keeps, as two fields of the written number (R55). -/
theorem regionBits_fields (v : Word) : bit (regionBits v) 63 = v.getLsbD 63 ∧
    bits (regionBits v) 20 0 = v.toNat % 2 ^ 21 / 64 * 64 ∧ bits (regionBits v) 42 21 = v.toNat / 2 ^ 27 % 2 ^ 16 * 64 := by
  have hmask : (regionBits v).toNat = v.toNat &&& 0x800007FFF81FFFC0 := rfl
  refine ⟨?_, ?_, ?_⟩
  · rw [bit, hmask, Nat.testBit_and, show Nat.testBit 0x800007FFF81FFFC0 63 = true by decide, Bool.and_true]; rfl
  · rw [bits, hmask, Nat.pow_zero, Nat.div_one, Nat.and_mod_two_pow,
      show 0x800007FFF81FFFC0 % 2 ^ (20 + 1 - 0) = (2 ^ 15 - 1) * 2 ^ 6 from rfl, and_ones_mul_two_pow]
    omega
  · rw [bits, hmask, Nat.and_div_two_pow, Nat.and_mod_two_pow,
      show 0x800007FFF81FFFC0 / 2 ^ 21 % 2 ^ (42 + 1 - 21) = (2 ^ 16 - 1) * 2 ^ 6 from rfl, and_ones_mul_two_pow]
    omega

theorem crRefuses_iff (k : Nat) (v : Word) : crRefuses k v = true ↔ (k = 0x005 ∧ 5 ≤ v.toNat % 8) ∨
    (0x030 ≤ k ∧ k ≤ 0x037 ∧ v.getLsbD 63 = true ∧ 2097152 < v.toNat % 2 ^ 21 / 64 * 64 + v.toNat / 2 ^ 27 % 2 ^ 16 * 64) ∨
    (0x040 ≤ k ∧ k ≤ 0x047 ∧ v.getLsbD 0 = true ∧ v.toNat / 4 % 4 = 3) := by
  have hmode : bits v 2 0 = v.toNat % 8 := bits_low v (n := 3) (by decide)
  have hwidth : bits v 3 2 = v.toNat / 4 % 4 := rfl
  have hon : bit v 0 = v.getLsbD 0 := rfl
  obtain ⟨hv, hbase, hsize⟩ := regionBits_fields v
  unfold crRefuses regionBad
  by_cases h5 : k = 0x005
  · subst h5; simp [hmode]; omega
  · by_cases hr : 0x030 ≤ k ∧ k ≤ 0x037
    · rw [if_neg h5, if_pos hr]
      simp only [hv, hbase, hsize, Bool.and_eq_true, decide_eq_true_eq]
      exact ⟨fun ⟨hon, hbig⟩ => .inr (.inl ⟨hr.1, hr.2, hon, hbig⟩), fun h => by
        rcases h with ⟨hk, _⟩ | ⟨_, _, hon, hbig⟩ | ⟨hk, _⟩
        · exact absurd hk h5
        · exact ⟨hon, hbig⟩
        · omega⟩
    · rw [if_neg h5, if_neg hr]
      by_cases hs : 0x040 ≤ k ∧ k ≤ 0x047
      · rw [if_pos hs]
        simp only [hwidth, hon, Bool.and_eq_true, decide_eq_true_eq]
        exact ⟨fun ⟨hset, hcode⟩ => .inr (.inr ⟨hs.1, hs.2, hset, hcode⟩), fun h => by
          rcases h with ⟨hk, _⟩ | ⟨_, hk, _⟩ | ⟨_, _, hset, hcode⟩
          · exact absurd hk h5
          · omega
          · exact ⟨hset, hcode⟩⟩
      · rw [if_neg hs]; simp; omega

/-! CRR and CRW: their outcomes. -/

section
variable {s : State} {d a : Reg} {n : BitVec 12}

theorem exec_crr_assigned {x : Word} (h : s.crRead s.cur n.toNat = some x) : exec (.crr d n) s = .next (s.writeS d x) := by
  show execCrr d n s = _
  rw [execCrr, h]; rfl

theorem exec_crr_absent (h : s.crRead s.cur n.toNat = none) : exec (.crr d n) s = .next (s.takeTrap 0x01 (instrWord (.crr d n))) := by
  show execCrr d n s = _
  rw [execCrr, h]; rfl

theorem exec_crw_absent (h : s.crRead s.cur n.toNat = none) : exec (.crw a n) s = .next (s.takeTrap 0x01 (instrWord (.crw a n))) := by
  show execCrw a n s = _
  rw [execCrw, h]; rfl

variable (h : s.crRead s.cur n.toNat ≠ none)
include h

theorem exec_crw_unprivileged (hp : crPriv n.toNat = true) (hsup : s.lane.sup = false) :
    exec (.crw a n) s = .next (s.takeTrap 0x03 (instrWord (.crw a n))) := by
  show execCrw a n s = _
  rw [execCrw, if_neg (by simp [h]), if_pos (by rw [hp, hsup]; rfl)]; rfl

theorem exec_crw_refused (hp : ¬(crPriv n.toNat = true ∧ s.lane.sup = false)) (hb : crRefuses n.toNat (s.s a) = true) :
    exec (.crw a n) s = .next (s.takeTrap 0x01 (s.s a)) := by
  show execCrw a n s = _
  rw [execCrw, if_neg (by simp [h]), if_neg (by simpa using hp), if_pos hb]; rfl

theorem exec_crw_writes (hp : ¬(crPriv n.toNat = true ∧ s.lane.sup = false)) (hb : ¬crRefuses n.toNat (s.s a) = true) :
    exec (.crw a n) s = .next ((s.crSet s.cur n.toNat (s.s a)).advance 32) := by
  show execCrw a n s = _
  rw [execCrw, if_neg (by simp [h]), if_neg (by simpa using hp), if_neg hb]; rfl

end

/-! What a write stores. -/

/-- The lane after a write, register by register: each number changes its own field alone. -/
theorem Lane.crSet_fields (l : Lane) (k : Nat) (v : Word) (x : Lane) (hx : x = l.crSet k v) :
    (x.trapcause = l.trapcause ∧ x.trapval = l.trapval ∧ x.traptick = l.traptick ∧ x.ptag = l.ptag ∧ x.supc = l.supc ∧ x.sreg = l.sreg ∧ x.pc = l.pc) ∧
    (k ≠ 0x002 → x.trappc = l.trappc) ∧ (k ≠ 0x005 → x.rmode = l.rmode) ∧ (k ≠ 0x006 → x.amaxM = l.amaxM ∧ x.amaxN = l.amaxN) ∧
    (k ≠ 0x007 → x.rseed = l.rseed) ∧ (k ≠ 0x010 → x.spillbase = l.spillbase) ∧ (k ≠ 0x011 → x.spilllim = l.spilllim) ∧
    (k ≠ 0x012 → x.spillptr = l.spillptr) ∧ (k ≠ 0x013 → x.accspill = l.accspill) ∧ (k ≠ 0x023 → x.wdog = l.wdog) ∧
    (k ≠ 0x024 → x.handlerbase = l.handlerbase) ∧ (k ≠ 0x025 → x.noticeq = l.noticeq) ∧
    x.region = (if 0x030 ≤ k ∧ k ≤ 0x037 then l.region.set ((k - 0x030) % 8) (regionBits v) (Nat.mod_lt _ (by decide)) else l.region) ∧
    x.streamcfg = (if 0x040 ≤ k ∧ k ≤ 0x047 then l.streamcfg.set ((k - 0x040) % 8) (streamBits v) (Nat.mod_lt _ (by decide)) else l.streamcfg) := by
  subst hx
  unfold Lane.crSet
  split
  iterate 12 simp [Lane.wdog]
  split
  · simp [Lane.wdog, *]; omega
  · split
    · simp [Lane.setStream, Lane.wdog, *]
    · simp [*]

theorem Lane.crSet_region_ne (l : Lane) {k m : Nat} (v : Word) (hm : m ≠ k) (hr : 0x030 ≤ m ∧ m ≤ 0x037) :
    (((l.crSet k v).advance 32).region[(m - 0x030) % 8]'(Nat.mod_lt _ (by decide))) = l.region[(m - 0x030) % 8]'(Nat.mod_lt _ (by decide)) := by
  obtain ⟨-, -, -, -, -, -, -, -, -, -, -, -, hregion, -⟩ := l.crSet_fields k v _ rfl
  have hadvance : ((l.crSet k v).advance 32).region = (l.crSet k v).region := rfl
  simp only [hadvance, hregion]
  split
  · exact Vector.getElem_set_ne _ _ (by omega)
  · rfl

theorem Lane.crSet_stream_ne (l : Lane) {k m : Nat} (v : Word) (hm : m ≠ k) (hr : 0x040 ≤ m ∧ m ≤ 0x047) :
    (((l.crSet k v).advance 32).streamcfg[(m - 0x040) % 8]'(Nat.mod_lt _ (by decide))) = l.streamcfg[(m - 0x040) % 8]'(Nat.mod_lt _ (by decide)) := by
  obtain ⟨-, -, -, -, -, -, -, -, -, -, -, -, -, hstream⟩ := l.crSet_fields k v _ rfl
  have hadvance : ((l.crSet k v).advance 32).streamcfg = (l.crSet k v).streamcfg := rfl
  simp only [hadvance, hstream]
  split
  · exact Vector.getElem_set_ne _ _ (by omega)
  · rfl

section Written
variable (s : State) (k : Nat) (v : Word)

/-- The state in which a CRW that is not refused completes. -/
def State.crWritten : State := (s.crSet s.cur k v).advance 32

@[simp] theorem State.crWritten_cur : (s.crWritten k v).cur = s.cur := by
  unfold State.crWritten State.crSet; split <;> rfl

theorem State.crWritten_mem : (s.crWritten k v).mem = s.mem := by
  unfold State.crWritten State.crSet; split <;> rfl

theorem State.crWritten_parts : (s.crWritten k v).parts = s.parts := by
  unfold State.crWritten State.crSet; split <;> rfl

theorem State.crWritten_lane : (s.crWritten k v).lane = (s.lane.crSet k v).advance 32 := by
  rw [State.crWritten, State.advance_lane, State.crSet]
  split
  · next h =>
    subst h
    have hlane : (s.setMyCore { s.myCore with mw := weight (bits v 3 0), bw := weight (bits v 7 4) }).lane = s.lane := by
      show ((s.setMyCore _).core s.cur.core).lane s.cur.lane = _
      rw [State.setMyCore, State.setCore_core_same]; rfl
    exact congrArg (Lane.advance · 32) hlane
  · exact congrArg (Lane.advance · 32) (State.setLane_lane s _)

/-- The weights of the core, which all its lanes share (R53). -/
theorem State.crWritten_mweight : ((s.crWritten k v).core s.cur.core).mweight =
    if k = 0x020 then word ((weight (bits v 3 0)).toNat + (weight (bits v 7 4)).toNat * 16) else s.myCore.mweight := by
  have hcore (t : State) : ((t.advance 32).core t.cur.core).mweight = (t.core t.cur.core).mweight := by
    rw [State.advance, State.setLane, State.setLaneAt, State.setCore_core_same]; rfl
  have hcur : (s.crSet s.cur k v).cur = s.cur := by unfold State.crSet; split <;> rfl
  have hwritten : ((s.crWritten k v).core s.cur.core).mweight = ((s.crSet s.cur k v).core s.cur.core).mweight := by
    have hadvanced := hcore (s.crSet s.cur k v)
    rwa [hcur] at hadvanced
  rw [hwritten, State.crSet]
  split
  · rw [State.setCore_core_same]; rfl
  · rw [State.setLaneAt, State.setCore_core_same]; rfl

theorem State.crWritten_coreId : (s.crWritten k v).coreId s.cur = s.coreId s.cur := by
  have hpart : ((s.crWritten k v).laneAt s.cur).part = s.lane.part := by
    have hlane := s.crWritten_lane k v
    rw [State.lane, State.crWritten_cur] at hlane
    obtain ⟨⟨-, -, -, htag, -⟩, -⟩ := s.lane.crSet_fields k v _ rfl
    rw [hlane]
    exact congrArg BitVec.toNat htag
  have hlogical : (s.crWritten k v).logical s.cur = s.logical s.cur := by
    unfold State.logical State.part
    rw [hpart, State.crWritten_parts]
    rfl
  rw [State.coreId, State.coreId, hlogical]

/-- Every register but the one written and LANESTAT, whose STATE and STALL are those of a lane that runs, reads as before. -/
theorem State.crWritten_other {m : Nat} (hm : m ≠ k) (hm0 : m ≠ 0) : (s.crWritten k v).crRead s.cur m = s.crRead s.cur m := by
  have hlane : (s.crWritten k v).laneAt s.cur = (s.lane.crSet k v).advance 32 := by
    rw [← s.crWritten_lane k v, State.lane, State.crWritten_cur]
  obtain ⟨⟨hcause, hval, htick, htag, hsupc, -, -⟩, hpc, hmode, hamax, hseed, hbase, hlim, hptr, hacc, hwdog, hhandler, hnotice, hregion, hstream⟩ :=
    s.lane.crSet_fields k v _ rfl
  unfold State.crRead
  rw [hlane]
  split
  · exact absurd rfl hm0
  · exact congrArg (some <| word ·.toNat) hcause
  · exact congrArg some (hpc hm.symm)
  · exact congrArg some hval
  · exact congrArg some htick
  · exact congrArg (some <| word <| rmCode ·) (hmode hm.symm)
  · exact congrArg₂ (fun x y => some (word (x.toNat + b2n y * 2 ^ 32))) (hamax hm.symm).1 (hamax hm.symm).2
  · exact congrArg some (hseed hm.symm)
  · exact congrArg some (hbase hm.symm)
  · exact congrArg some (hlim hm.symm)
  · exact congrArg some (hptr hm.symm)
  · exact congrArg some (hacc hm.symm)
  · rw [State.crWritten_mweight, if_neg hm.symm]; rfl
  · rw [State.crWritten_coreId]
  · exact congrArg₂ (fun x y => some (word (x.toNat + y.toNat * 2 ^ 32))) htag hsupc
  · exact congrArg some (hwdog hm.symm)
  · exact congrArg some (hhandler hm.symm)
  · exact congrArg some (hnotice hm.symm)
  · split
    · next hr => exact congrArg some (Lane.crSet_region_ne s.lane v hm hr)
    · split
      · next hr => exact congrArg some (Lane.crSet_stream_ne s.lane v hm hr)
      · rfl

theorem State.crWritten_laneAt : (s.crWritten k v).laneAt s.cur = (s.lane.crSet k v).advance 32 := by
  rw [← s.crWritten_lane k v, State.lane, State.crWritten_cur]

end Written

theorem word_and_low (v : Word) (n : Nat) (hn : n ≤ 64) : v &&& word (2 ^ n - 1) = word (v.toNat % 2 ^ n) := by
  refine BitVec.eq_of_toNat_eq ?_
  have hle : 2 ^ n ≤ 2 ^ 64 := Nat.pow_le_pow_right (by decide) hn
  have hpos : 0 < 2 ^ n := Nat.two_pow_pos n
  have hlt : v.toNat % 2 ^ n < 2 ^ n := Nat.mod_lt _ hpos
  rw [BitVec.toNat_and, word, word, BitVec.toNat_ofNat, BitVec.toNat_ofNat, Nat.mod_eq_of_lt (by omega), Nat.mod_eq_of_lt (by omega),
    Nat.and_two_pow_sub_one_eq_mod]

/-- A rounding mode that is not reserved reads as its code (R30). -/
theorem rmCode_rmOfCode {c : Nat} (hc : c ≤ 4) (rm : RoundMode) : rmCode ((rmOfCode c).getD rm) = c := by
  interval_cases c <;> rfl

theorem b2n_bit (v : Word) (n : Nat) : b2n (bit v n) = v.toNat / 2 ^ n % 2 := by
  rw [bit, b2n, Nat.testBit_eq_decide_div_mod_eq]
  have hlt : v.toNat / 2 ^ n % 2 < 2 := Nat.mod_lt _ (by decide)
  split
  · next h => exact (of_decide_eq_true h).symm
  · next h => simp at h; omega

/-- The maximum of AMAX as written, with its NaN flag above it (R47, R52). -/
theorem amax_stored (v : Word) : word ((BitVec.ofNat 32 (bits v 31 0)).toNat + b2n (bit v 32) * 2 ^ 32) = v &&& 0x1FFFFFFFF := by
  have hmask : v &&& 0x1FFFFFFFF = word (v.toNat % 2 ^ 33) := word_and_low v 33 (by decide)
  rw [hmask, b2n_bit, bits_low v (n := 32) (by decide), BitVec.toNat_ofNat]
  congr 1; omega

/-- WDOG as written: LIMIT and EN, with COUNT 0 (R53). -/
theorem wdog_stored (v : Word) : word ((BitVec.ofNat 32 (bits v 31 0)).toNat + (0 : BitVec 31).toNat * 2 ^ 32 + b2n (bit v 63) * 2 ^ 63) =
    v &&& 0x80000000FFFFFFFF := by
  refine BitVec.eq_of_toNat_eq ?_
  have hv := v.isLt
  have hmask : (v &&& 0x80000000FFFFFFFF).toNat = v.toNat &&& ((2 ^ 1 - 1) * 2 ^ 63 ||| (2 ^ 32 - 1)) := rfl
  have hlow : v.toNat % 2 ^ 32 < 2 ^ 63 := by omega
  rw [hmask, Nat.and_or_distrib_left, and_ones_mul_two_pow, Nat.and_two_pow_sub_one_eq_mod, Nat.mul_comm (v.toNat / 2 ^ 63 % 2 ^ 1),
    ← Nat.two_pow_add_eq_or_of_lt hlow, b2n_bit, bits_low v (n := 32) (by decide), word, BitVec.toNat_ofNat, BitVec.toNat_ofNat]
  simp only [BitVec.ofNat_eq_ofNat, BitVec.toNat_ofNat]
  omega

/-- A weight as written: 0 stores 1 (R53). -/
theorem weight_toNat {x : Nat} (h : x < 16) : (weight x).toNat = max 1 x := by
  unfold weight
  split
  · next h0 => subst h0; rfl
  · next h0 => rw [BitVec.toNat_ofNat]; omega

theorem mweight_stored (v : Word) : word ((weight (bits v 3 0)).toNat + (weight (bits v 7 4)).toNat * 16) =
    BitVec.ofNat 64 (max 1 (v.toNat % 16) + 16 * max 1 (v.toNat / 16 % 16)) := by
  have hlow : bits v 3 0 = v.toNat % 16 := bits_low v (n := 4) (by decide)
  have hhigh : bits v 7 4 = v.toNat / 16 % 16 := rfl
  rw [hlow, hhigh, weight_toNat (Nat.mod_lt _ (by decide)), weight_toNat (Nat.mod_lt _ (by decide)), Nat.mul_comm 16]
  rfl

/-- What a CRW that is not refused leaves in its own register. -/
theorem State.crWritten_same (s : State) (k : Nat) (v : Word) (hok : ¬crRefuses k v = true) :
    (k = 0x002 → (s.crWritten k v).crRead s.cur k = some (v &&& ~~~(15 : Word))) ∧
    (k = 0x005 → (s.crWritten k v).crRead s.cur k = some (v &&& 7)) ∧
    (k = 0x006 → (s.crWritten k v).crRead s.cur k = some (v &&& 0x1FFFFFFFF)) ∧
    (k = 0x007 → (s.crWritten k v).crRead s.cur k = some (if v = 0 then 1 else v)) ∧
    (0x010 ≤ k → k ≤ 0x012 → (s.crWritten k v).crRead s.cur k = some (v &&& ~~~(63 : Word))) ∧
    (k = 0x013 → (s.crWritten k v).crRead s.cur k = some (v &&& ~~~(0x7FFF : Word))) ∧
    (k = 0x020 → ∀ l, (s.crWritten k v).crRead ⟨s.cur.core, l⟩ k =
      some (BitVec.ofNat 64 (max 1 (v.toNat % 16) + 16 * max 1 (v.toNat / 16 % 16)))) ∧
    (k = 0x023 → (s.crWritten k v).crRead s.cur k = some (v &&& 0x80000000FFFFFFFF)) ∧
    (k = 0x024 → (s.crWritten k v).crRead s.cur k = some (v &&& ~~~(0xFFF : Word))) ∧
    (k = 0x025 → (s.crWritten k v).crRead s.cur k = some (v &&& ~~~(0xF0 : Word))) ∧
    (0x030 ≤ k → k ≤ 0x037 → (s.crWritten k v).crRead s.cur k = some (v &&& 0x800007FFF81FFFC0)) ∧
    (0x040 ≤ k → k ≤ 0x047 → (s.crWritten k v).crRead s.cur k = some (v &&& 0x0000FFFFFFFF00FF)) := by
  have hlane := s.crWritten_laneAt k v
  have hread {α : Type} (f : Lane → α) (x : α) (h : f ((s.lane.crSet k v).advance 32) = x) : f ((s.crWritten k v).laneAt s.cur) = x := by
    rw [hlane]; exact h
  refine ⟨?_, ?_, ?_, ?_, ?_, ?_, ?_, ?_, ?_, ?_, ?_, ?_⟩
  · rintro rfl; exact hread (some ·.trappc) _ rfl
  · rintro rfl
    have hmode : v &&& 7 = word (v.toNat % 2 ^ 3) := word_and_low v 3 (by decide)
    have hcode : bits v 2 0 = v.toNat % 2 ^ 3 := bits_low v (n := 3) (by decide)
    have hle : bits v 2 0 ≤ 4 := by simpa [crRefuses] using hok
    rw [hmode, ← hcode]
    exact hread (some <| word <| rmCode ·.rmode) _ (congrArg (some <| word ·) (rmCode_rmOfCode hle s.lane.rmode))
  · rintro rfl; exact hread (fun l => some (word (l.amaxM.toNat + b2n l.amaxN * 2 ^ 32))) _ (congrArg some (amax_stored v))
  · rintro rfl; exact hread (some ·.rseed) _ rfl
  · intro hk hk'; interval_cases k
    · exact hread (some ·.spillbase) _ rfl
    · exact hread (some ·.spilllim) _ rfl
    · exact hread (some ·.spillptr) _ rfl
  · rintro rfl; exact hread (some ·.accspill) _ rfl
  · rintro rfl l
    exact congrArg some ((s.crWritten_mweight 0x020 v).trans (mweight_stored v))
  · rintro rfl; exact hread (some ·.wdog) _ (congrArg some (wdog_stored v))
  · rintro rfl; exact hread (some ·.handlerbase) _ rfl
  · rintro rfl; exact hread (some ·.noticeq) _ rfl
  · intro hk hk'
    have hset : (s.lane.crSet k v).region = s.lane.region.set ((k - 0x030) % 8) (regionBits v) (Nat.mod_lt _ (by decide)) := by
      interval_cases k <;> rfl
    rw [State.crRead_region _ _ hk hk', hlane]
    simp only [Lane.advance_region, hset, Vector.getElem_set_self]
    rfl
  · intro hk hk'
    have hset : (s.lane.crSet k v).streamcfg = s.lane.streamcfg.set ((k - 0x040) % 8) (streamBits v) (Nat.mod_lt _ (by decide)) := by
      interval_cases k <;> rfl
    rw [State.crRead_stream _ _ hk hk', hlane]
    simp only [Lane.advance_streamcfg, hset, Vector.getElem_set_self]
    rfl

/-- A CRW of a register that is RO leaves it (R52). -/
theorem State.crWritten_readOnly (s : State) {k : Nat} (v : Word) (h : k = 0x001 ∨ k = 0x003 ∨ k = 0x004 ∨ k = 0x021 ∨ k = 0x022) :
    (s.crWritten k v).crRead s.cur k = s.crRead s.cur k := by
  have hlane := s.crWritten_laneAt k v
  have hset : s.lane.crSet k v = s.lane := by rcases h with rfl | rfl | rfl | rfl | rfl <;> rfl
  have hread (f : Lane → Option Word) (h : f (s.lane.advance 32) = f s.lane) : f ((s.crWritten k v).laneAt s.cur) = f s.lane := by
    rw [hlane, hset]; exact h
  rcases h with rfl | rfl | rfl | rfl | rfl
  · exact hread (some <| word ·.trapcause.toNat) rfl
  · exact hread (some ·.trapval) rfl
  · exact hread (some ·.traptick) rfl
  · exact congrArg some (s.crWritten_coreId 0x021 v)
  · exact hread (fun l => some (word (l.ptag.toNat + l.supc.toNat * 2 ^ 32))) rfl

/-- Settles O38: which numbers are assigned (`State.crRead_none_iff`), privileged (`crPriv_iff`) and refused (`crRefuses_iff`) decides
the outcome; a write changes its own register (`State.crWritten_same`) and no other (`State.crWritten_other`). -/
theorem controlRegisterResults : Obligations.ControlRegisterResults := by
  unfold Obligations.ControlRegisterResults
  intro s d a n v hv k priv bad absent
  have hpriv : crPriv k = true ↔ priv := crPriv_iff k
  have hbad : crRefuses k v = true ↔ bad := crRefuses_iff k v
  refine ⟨s.crRead_none_iff s.cur k, fun x hx => exec_crr_assigned hx, fun h => ⟨exec_crr_absent h, exec_crw_absent h⟩,
    fun h hp hsup => exec_crw_unprivileged h (hpriv.mpr hp) hsup, fun h hp hb => ?refused, fun h hp hb => ?writes⟩
  case refused => rw [hv]; exact exec_crw_refused h (by rwa [hpriv]) (by rw [← hv]; exact hbad.mpr hb)
  case writes =>
    have hok : ¬crRefuses k v = true := by rwa [hbad]
    have hexec : exec (.crw a n) s = .next (s.crWritten k v) := by
      rw [hv]; exact exec_crw_writes h (by rwa [hpriv]) (by rw [← hv]; exact hok)
    obtain ⟨⟨-, -, -, -, -, hsreg, hpc⟩, -⟩ := s.lane.crSet_fields k v _ rfl
    have hlane := s.crWritten_lane k v
    obtain ⟨h2, h5, h6, h7, h10, h13, h20, h23, h24, h25, h30, h40⟩ := s.crWritten_same k v hok
    refine ⟨s.crWritten k v, hexec, ?_, fun m => ?_, s.crWritten_mem k v, ?_⟩
    · rw [hlane]; exact congrArg (· + word 32) hpc
    · unfold State.s Lane.s
      rw [hlane, Lane.advance_sreg]
      simp only [hsreg]
    · rw [State.crWritten_cur]
      refine ⟨fun m hm hm0 => s.crWritten_other k v hm hm0, fun h0 => ?_, h2, h5, h6, h7, h10, h13, h20, h23, h24, h25, h30, h40, fun hro => ?_⟩
      · have hset : s.lane.crSet k v = { s.lane with spx := BitVec.ofNat 5 (bits v 12 8), spv := bit v 13 } := by rw [h0]; rfl
        rw [hlane, hset]
        exact ⟨ofNat_bits v 12 8, rfl⟩
      · exact s.crWritten_readOnly v hro

end Sys2Proof.Machine

namespace Sys2Proof.Machine

/-! Compares, moves and mask instructions (R119, R120, R122). -/

/-- What is said of elements depends on the lanes and values of the view's elements alone. -/
theorem State.Elementwise.congr {s : State} {i : Instr} {g : Word} {d : VReg} {e : Nat} {act act' : Nat → Bool} {f f' : Nat → Nat}
    (h : s.Elementwise i g d e act f) (hact : ∀ j, j < 256 / e → act j = act' j) (hf : ∀ j, j < 256 / e → act j = true → f j = f' j) :
    s.Elementwise i g d e act' f' := by
  obtain ⟨x, hexec, hx⟩ := h
  refine ⟨x, hexec, fun j hj => ?_⟩
  rw [hx j hj, ← hact j hj]
  split
  · next ha => exact hf j hj ha
  · rfl

theorem viewBits_elements (v : View) : 256 / viewBits v ≤ 32 := by cases v <;> decide

section
variable {s : State} (h : s.lane.noStreams) {i : Instr} {srcs : List VReg}
include h

/-- An operation that writes no vector register completes with its effect on the rest (R116). -/
theorem State.vecRun_fin {run : Unit → Lane → State → State × VOut} {fin : State → State} (hrun : run () s.lane s = (s, ⟨[], fin⟩)) :
    s.vecRun srcs [] noCheck run = .ok ((fin s).advance 32) := by
  refine (State.vecRun_done h srcs [] (check := noCheck) rfl hrun).trans ?_
  exact congrArg Except.ok (State.setLane_advance (fin s) 32)

/-- An operation that merges under a mask of its own, with one value for every element that the mask names. -/
theorem State.vecRun_elementwise {run : Unit → Lane → State → State × VOut} {d : VReg} {e : Nat} {k : BitVec 32} {x : Nat}
    (hi : exec i s = finish i (s.vecRun srcs [d] noCheck run)) (hrun : run () s.lane s = (s, ⟨[vout d e k (s.lane.v d) (fun _ => x)], id⟩)) :
    s.Elementwise i s.lane.rseed d e (fun j => k.getLsbD j) (fun _ => x % 2 ^ e) := by
  refine ⟨vmerge e k (s.lane.v d) (fun _ => x), ?_, fun j hj => vget_vmerge e _ _ _ hj⟩
  rw [hi, State.vecRun_done h srcs [d] (check := noCheck) rfl hrun, finish_ok, State.writeV_setSeed]
  show Host.Outcome.next ((s.setLane (s.lane.setVecs [(d, _, _)])).advance 32) = _
  rw [Lane.setVecs_one h]
  rfl

end

/-! The lowest active element (R120). -/

theorem lowestActive_some {m : BitVec 32} {n i : Nat} (hi : i < n) (hact : m.getLsbD i = true) (hlow : ∀ j, j < i → m.getLsbD j = false) :
    lowestActive m n = some i := by
  rw [lowestActive, List.find?_range_eq_some]
  exact ⟨hact, List.mem_range.mpr hi, fun j hj => by rw [show m.toNat.testBit j = false from hlow j hj]; rfl⟩

theorem lowestActive_none {m : BitVec 32} {n : Nat} (h : ∀ i, i < n → m.getLsbD i = false) : lowestActive m n = none := by
  rw [lowestActive, List.find?_eq_none]
  intro i hi
  rw [show m.toNat.testBit i = false from h i (List.mem_range.mp hi)]
  decide

section
variable {s : State} (h : s.lane.noStreams)
include h

theorem exec_vmovsv (d : Reg) (a : VReg) (v : View) (m : MReg) :
    (∀ i, lowestActive (s.lane.m m) (256 / viewBits v) = some i →
      exec (.vmovsv d a v m) s = .next (s.writeS d (sextN (s.lane.elem a (viewBits v) i) (viewBits v)))) ∧
    (lowestActive (s.lane.m m) (256 / viewBits v) = none → exec (.vmovsv d a v m) s = .next (s.writeS d 0)) := by
  have hexec (x : Word) (run : Unit → Lane → State → State × VOut) (hi : exec (.vmovsv d a v m) s = finish (.vmovsv d a v m) (s.vecRun [a] [] noCheck run))
      (hrun : run () s.lane s = (s, ⟨[], fun s => s.setS d x⟩)) : exec (.vmovsv d a v m) s = .next (s.writeS d x) := by
    rw [hi, State.vecRun_fin h hrun]; rfl
  exact ⟨fun i hi => hexec _ _ rfl (by simp only [hi]), fun hi => hexec _ _ rfl (by simp only [hi])⟩

theorem exec_vmovvs (d : VReg) (a : Reg) (v : View) (m : MReg) :
    (∀ i, lowestActive (s.lane.m m) (256 / viewBits v) = some i → s.Elementwise (.vmovvs d a v m) s.lane.rseed d (viewBits v)
      (fun j => (BitVec.ofNat 32 (2 ^ i)).getLsbD j) (fun _ => (s.s a).toNat % 2 ^ viewBits v)) ∧
    (lowestActive (s.lane.m m) (256 / viewBits v) = none → s.Elementwise (.vmovvs d a v m) s.lane.rseed d (viewBits v)
      (fun j => (0 : BitVec 32).getLsbD j) (fun _ => (s.s a).toNat % 2 ^ viewBits v)) := by
  have hmerge (k : BitVec 32) (run : Unit → Lane → State → State × VOut)
      (hi : exec (.vmovvs d a v m) s = finish (.vmovvs d a v m) (s.vecRun [] [d] noCheck run))
      (hrun : run () s.lane s = (s, ⟨[vout d (viewBits v) k (s.lane.v d) (fun _ => (s.s a).toNat % 2 ^ viewBits v)], id⟩)) :
      s.Elementwise (.vmovvs d a v m) s.lane.rseed d (viewBits v) (fun j => k.getLsbD j) (fun _ => (s.s a).toNat % 2 ^ viewBits v) :=
    (State.vecRun_elementwise h hi hrun).congr (fun _ _ => rfl) fun _ _ _ => Nat.mod_mod _ _
  exact ⟨fun i hi => hmerge _ _ rfl (by simp only [hi]; rfl), fun hi => hmerge _ _ rfl (by simp only [hi]; rfl)⟩

end

/-! Masks. -/

theorem popN_eq_length (x n : Nat) : popN x n = ((List.range n).filter (fun i => x.testBit i)).length := by
  induction n with
  | zero => rfl
  | succ n ih =>
    rw [popN, ih, List.range_succ, List.filter_append, List.length_append]
    cases hx : x.testBit n <;> simp [hx, b2n]

/-- The bits of VCMP's mask: the active elements of the view for which the condition holds (R119). -/
theorem vcmpMask_getLsbD (l : Lane) (a b : VReg) (c : VCond) (ty : VTy) (m : MReg) {i : Nat} (hi : i < 32) :
    (vcmpMask l a b c ty m).getLsbD i = true ↔ i < 256 / viewBits (tyView ty) ∧ (l.m m).getLsbD i = true ∧
      vcmpHolds c ty (l.elem a (viewBits (tyView ty)) i) (l.elem b (viewBits (tyView ty)) i) = true := by
  let holds (i : Nat) : Bool := (l.m m).toNat.testBit i && vcmpHolds c ty (l.elem a (viewBits (tyView ty)) i) (l.elem b (viewBits (tyView ty)) i)
  have hstep : (fun x i => if holds i then x + 2 ^ i else x) = fun x j => x + b2n (holds j) * 2 ^ id j := by
    funext x j
    cases hj : holds j <;> simp [b2n]
  have hmask : vcmpMask l a b c ty m = BitVec.ofNat 32 ((List.range (256 / viewBits (tyView ty))).foldl
      (fun x j => x + b2n (holds j) * 2 ^ id j) 0) := by rw [← hstep]; rfl
  have hnodup : ((List.range (256 / viewBits (tyView ty))).map id).Nodup := by rw [List.map_id]; exact List.nodup_range
  rw [hmask, BitVec.getLsbD_ofNat, testBit_bits_sum holds hnodup 0 (fun _ _ => Nat.zero_testBit _)]
  simp only [hi, decide_true, Nat.zero_testBit, Bool.false_or, Bool.true_and, List.any_eq_true, List.mem_range, Bool.and_eq_true,
    id, beq_iff_eq, holds]
  exact ⟨fun ⟨j, hj, hjs, hji⟩ => by subst hji; exact ⟨hj, hjs⟩, fun ⟨hj, hjs⟩ => ⟨i, hj, hjs, rfl⟩⟩

/-- The conditions of R119 on codes of the type's view. -/
theorem vcmpHolds_int {ty : VTy} (hty : tyFloat ty = none) (x y : Nat) :
    let e := viewBits (tyView ty)
    (vcmpHolds .eq ty x y = true ↔ x = y) ∧ (vcmpHolds .lt ty x y = true ↔ signed e x < signed e y) ∧
    (vcmpHolds .le ty x y = true ↔ signed e x ≤ signed e y) ∧ (vcmpHolds .ltu ty x y = true ↔ x < y) := by
  obtain ⟨he, -⟩ := viewBits_bounds (tyView ty)
  simp [vcmpHolds, hty, sgN_eq_signed he]

theorem vcmpHolds_float {ty : VTy} {f : FFmt} (hty : tyFloat ty = some f) (x y : Nat) :
    (vcmpHolds .eq ty x y = true ↔ (f.decode x).eqv (f.decode y) = true) ∧ (vcmpHolds .lt ty x y = true ↔ (f.decode x).lt (f.decode y) = true) ∧
    (vcmpHolds .le ty x y = true ↔ (f.decode x).lt (f.decode y) = true ∨ (f.decode x).eqv (f.decode y) = true) ∧
    (vcmpHolds .ltu ty x y = true ↔ False) := by
  simp [vcmpHolds, hty]

/-- Settles O42: the element moves are masked operations, VMOVSV and VMOVVS turn on the lowest active element, VCMP's mask is
`vcmpMask_getLsbD`, and the mask instructions are one write each. -/
theorem vectorMoveResults : Obligations.VectorMoveResults := by
  unfold Obligations.VectorMoveResults
  intro s d a b r q v ty m md ma mb e n h he hn act g x
  subst he hn
  obtain ⟨hpos, -⟩ := viewBits_bounds v
  have hx (c : VReg) (j : Nat) : s.el c (viewBits v) j < 2 ^ viewBits v := s.el_lt c (viewBits v) j
  refine ⟨?vsel, ?vbcast, ?vperm, ?vslide, fun i hi hact hfirst => ?lowest, fun hnone => ?none, fun c => ?vcmp, rfl, rfl, rfl, ?mpop⟩
  case vsel =>
    have hall : s.Elementwise (.vsel d a b v m) g d (viewBits v) (fun j => (s.lane.m 0).getLsbD j)
        (fun j => if act j = true then x j else s.el b (viewBits v) j) :=
      State.vmap_elementwise h _ rfl fun j => Nat.mod_eq_of_lt (by split; exacts [hx a j, hx b j])
    refine hall.congr (fun j hj => ?_) fun _ _ _ => rfl
    have hj32 : j < 32 := hj.trans_le (viewBits_elements v)
    have hones : s.lane.m 0 = BitVec.allOnes 32 := rfl
    rw [hones, BitVec.getLsbD_allOnes]
    exact decide_eq_true hj32
  case vbcast => exact State.vmap_elementwise h _ rfl fun j => Nat.mod_mod _ _
  case vperm => exact State.vmap_elementwise h _ rfl fun j => Nat.mod_eq_of_lt (hx a _)
  case vslide =>
    exact State.vmap_elementwise h _ rfl fun j => Nat.mod_eq_of_lt (by dsimp only; split; exacts [hx a _, Nat.two_pow_pos _])
  case lowest =>
    have hfound := lowestActive_some hi hact hfirst
    have hle : viewBits v ≤ 64 := by cases v <;> decide
    have hvalue : sextN (s.lane.elem a (viewBits v) i) (viewBits v) = BitVec.ofInt 64 (signed (viewBits v) (x i)) :=
      sextN_eq_ofInt_bmod _ hpos hle
    refine ⟨hvalue ▸ (exec_vmovsv h r a v m).1 i hfound, ((exec_vmovvs h d r v m).1 i hfound).congr (fun j hj => ?_) fun _ _ _ => rfl⟩
    have hj32 : j < 32 := hj.trans_le (viewBits_elements v)
    rw [BitVec.getLsbD_ofNat, Nat.testBit_two_pow, decide_eq_true hj32, Bool.true_and]
    exact decide_eq_decide.mpr eq_comm
  case none =>
    have hfound := lowestActive_none hnone
    exact ⟨(exec_vmovsv h r a v m).2 hfound, ((exec_vmovvs h d r v m).2 hfound).congr (fun j _ => BitVec.getLsbD_zero)
      fun j _ hj => absurd hj (by simp)⟩
  case vcmp =>
    refine ⟨vcmpMask s.lane a b c ty m, ?_, fun i hi => ?_⟩
    · have hexec : exec (.vcmp md a b c ty m) s = finish (.vcmp md a b c ty m) (s.vecRun [a, b] [] noCheck (fun _ env s =>
          (s, ⟨[], fun s => s.setM md (vcmpMask env a b c ty m)⟩))) := rfl
      rw [hexec, State.vecRun_fin h (fin := fun s => s.setM md (vcmpMask _ a b c ty m)) rfl]
      rfl
    · rw [vcmpMask_getLsbD s.lane a b c ty m hi]
      refine and_congr_right fun _ => and_congr_right fun _ => ?_
      cases hty : tyFloat ty with
      | none =>
        obtain ⟨heq, hlt, hle, hltu⟩ := vcmpHolds_int hty (s.lane.elem a (viewBits (tyView ty)) i) (s.lane.elem b (viewBits (tyView ty)) i)
        cases c
        · exact heq
        · exact hlt
        · exact hle
        · exact hltu
      | some f =>
        obtain ⟨heq, hlt, hle, hltu⟩ := vcmpHolds_float hty (s.lane.elem a (viewBits (tyView ty)) i) (s.lane.elem b (viewBits (tyView ty)) i)
        cases c
        · exact heq
        · exact hlt
        · exact hle
        · exact hltu
  case mpop =>
    show Host.Outcome.next (s.writeS r (word (popN (s.lane.m ma).toNat 32))) = _
    rw [popN_eq_length]
    rfl

end Sys2Proof.Machine

namespace Sys2Proof.Machine

/-! Ordinary accesses after a lane's request (R99, R130). -/

/-- An access that passes the watchpoints has passed R27. -/
theorem State.fates_of_checkAccess {s : State} {r : LaneRef} {a : Word} {w : Nat} {k : Access} {x : State × Target}
    (h : s.checkAccess r a w k = .ok x) : s.fates r a w k = .ok x := by
  unfold State.checkAccess at h
  split at h
  · cases h
  · next t g hf =>
    split at h
    · cases h
    · rw [hf, ← h]

/-- An ordinary answered read, a load or a record's, answers the field of the word at its home, and the state is as before. -/
theorem State.readBits_plain {s : State} {a : Word} {w : Nat} {p : Place} {k : Access} (hk : k = .load ∨ k = .table) (hw : 0 < w)
    (h : s.plain a w p (k == .load && w == 64)) :
    s.readBits s.cur a w k = .ok (s, fieldOf (s.peek (s.wordAt p)) (a.toNat % 64) w) := by
  have ⟨_, hp, haligned, _, hsettled, hclean, _⟩ := h
  have hcheck : s.checkAccess s.cur a w k = .ok (s, s.targetOf p a) := by
    rcases hk with rfl | rfl
    · exact State.checkAccess_plain_load h
    · exact State.checkAccess_plain h (order3_direct hp _ rfl) (by rw [order4_direct hp _ _ _ rfl rfl, haligned]; rfl)
  have hhome := State.homeWord_clean hsettled hclean s.cur
  have hbits := bits_eq_fieldOf (s.peek (s.wordAt p)) (a.toNat % 64) hw
  unfold State.readBits
  cases p with
  | raw off | global c off | coh off => simp only [hcheck, State.targetOf, hhome, hbits]
  | trans | fmt win off | dev off => cases hp

/-- A lane's new values outside its tag and privilege leave its ordinary accesses ordinary. -/
theorem State.plain_setLane {s : State} {a : Word} {w : Nat} {p : Place} {o : Bool} (h : s.plain a w p o) {l : Lane}
    (hpart : l.part = s.lane.part) (hsup : l.sup = s.lane.sup) : (s.setLane l).plain a w p o := by
  obtain ⟨ha, hp, haligned, hown, hsettled, hclean, hunwatched⟩ := h
  refine ⟨ha, hp, haligned, ?_, hsettled, hclean, ?_⟩
  · unfold State.own
    rw [State.setLane_lane, hpart, hsup]
    exact hown
  · have hdbg : (s.setLane l).myCore.dbg = s.myCore.dbg := by
      show ((s.setLaneAt s.cur l).core s.cur.core).dbg = _
      rw [State.setLaneAt, State.setCore_core_same]; rfl
    unfold State.unwatched
    rw [hdbg]
    exact hunwatched

/-- The partition control area takes no access but ordinary loads and stores, so an AMO's word is not there (R285). -/
theorem State.own_not_control {s : State} {a : Word} {p : Place} (ha : decodeWindow a = some p) (hp : p.direct = true) (h : s.own p false)
    (off : Nat) : homeOf (s.wordAt p) ≠ .control off := by
  intro hc
  obtain ⟨o, rfl⟩ | h := h
  · obtain ⟨⟨c, hspad⟩, -⟩ := State.wordAt_spad (s := s) ha rfl
    rw [hspad] at hc; cases hc
  · simp [State.foreign, hc, mayControl] at h

/-! Requests at a control word (R130). -/

/-- A condition on a control word looks at nothing of its lane but a handle. -/
theorem Park.holds_hreg (k : Park) {l m : Lane} (h : l.hreg = m.hreg) (x : Word) (t : BitVec 4) : k.holds l x t = k.holds m x t := by
  cases k with
  | sth d r n =>
    have hhandle : l.h r = m.h r := by unfold Lane.h; simp only [h]
    show decide (n + 1 + ctlFilled x ≤ (l.h r).slots.toNat) = _
    rw [hhandle]
    rfl
  | _ => rfl

section Ask
variable {s : State} {pa : Nat} {k : Park} (hsettled : s.settled) (hclean : s.clean pa)
include hsettled hclean

/-- A request whose condition holds comes back with the word (R104, R130). -/
theorem State.arriveRequest_holds (hk : ∀ d, k ≠ .ste d) (h : k.holds s.lane (s.peek pa) (s.tag pa) = true) :
    s.arriveRequest s.cur pa k = s.setLane (s.lane.asking ⟨pa, k, .answered (s.peek pa)⟩) := by
  have hpeek : (s.asked pa k).peek pa = s.peek pa := State.setLaneAt_peek ..
  have htry := State.tryRequest_load (congrArg Lane.req (s.asked_lane pa k)) hclean hk
    (by rw [hpeek, State.asked_tag, State.asked_lane]; exact (k.holds_hreg rfl _ _).trans h)
  rw [State.asked_lane, State.asked_setLaneAt, hpeek] at htry
  have hlane := State.setLane_lane s (s.lane.asking ⟨pa, k, .answered (s.peek pa)⟩)
  exact (State.arriveRequest_answered hsettled htry (congrArg Lane.req hlane) (by simp)).2 hk

/-- One whose condition does not hold is parked (R106). -/
theorem State.arriveRequest_waits (hparked : s.parked = []) (h : k.holds s.lane (s.peek pa) (s.tag pa) = false) :
    s.arriveRequest s.cur pa k = { s.asked pa k with parked := [s.cur] } := by
  have hpeek : (s.asked pa k).peek pa = s.peek pa := State.setLaneAt_peek ..
  have hlane := s.asked_lane pa k
  have htry := State.tryRequest_held (congrArg Lane.req hlane) hclean
    (by rw [hpeek, State.asked_tag, hlane]; exact (k.holds_hreg rfl _ _).trans h)
  have harrive := State.arriveRequest_parks hsettled hparked htry (congrArg Lane.req hlane) rfl
  have hnone : (s.asked pa k).parked = [] := hparked
  rwa [hnone, List.nil_append] at harrive

end Ask

/-- Order 4 of R27 asks of an access that is neither an AMO, a reduction nor tagged that it be aligned (R23). -/
theorem State.ctlTarget_plain {s : State} {x : Handle} {p : Place} {k : Access} (hk : k = .table ∨ k = .amo) (h : s.plain x.ctl 64 p) :
    s.ctlTarget s.cur x k = .ok (s, s.wordAt p) := by
  have ⟨_, hp, haligned, _⟩ := h
  have hcheck : s.checkAccess s.cur x.ctl 64 k = .ok (s, s.targetOf p x.ctl) := by
    rcases hk with rfl | rfl
    · exact State.checkAccess_plain h (order3_direct hp _ rfl) (by rw [order4_direct hp _ _ _ rfl rfl, haligned]; rfl)
    · exact State.checkAccess_plain h (order3_direct hp _ rfl) (order4_direct_amo hp _ true haligned)
  simp only [State.ctlTarget, State.fates_of_checkAccess hcheck, State.targetOf]

/-- Once its answer is written, a lane that had no request before goes on as if it had asked nothing. -/
theorem State.asking_writes {s : State} (hreq : s.lane.req = none) (q : Request) (d : Reg) (v : Word) :
    ((s.setLane (s.lane.asking q)).setS d v).resumeAt s.cur 32 = s.writeS d v := by
  have hset : (s.setLane (s.lane.asking q)).setS d v = s.setLane ((s.lane.asking q).setS d v) := by
    rw [State.setS, State.setLane_lane]
    exact State.setLane_setLaneAt _ _ _
  rw [hset, State.setLane_resumeAt, (Lane.resume_asking hreq q d v 32).1, ← State.setS_advance]
  rfl

section Wait
variable {s : State} {x : Handle} {p : Place} {k : Park} (hctl : s.plain x.ctl 64 p)
include hctl

/-- A wait that is over completes its request with the control word (R130). -/
theorem State.handleWait_answered (hk : ∀ d, k ≠ .ste d) (h : k.holds s.lane (s.peek (s.wordAt p)) (s.tag (s.wordAt p)) = true) :
    s.handleWait x k = (s.setLane (s.lane.asking ⟨s.wordAt p, k, .answered (s.peek (s.wordAt p))⟩)).complete k (s.peek (s.wordAt p)) := by
  have ⟨_, _, _, _, hsettled, hclean, _⟩ := hctl
  have hanswer : (s.setLane (s.lane.asking ⟨s.wordAt p, k, .answered (s.peek (s.wordAt p))⟩)).lane.answer = some (k, s.peek (s.wordAt p)) := by
    rw [State.setLane_lane]; rfl
  simp only [State.handleWait, State.ctlTarget_plain (.inl rfl) hctl, State.arriveRequest_holds hsettled hclean hk h, hanswer]

/-- One that is not over parks the lane's request at the control word (R106, R130). -/
theorem State.handleWait_parks (hparked : s.parked = []) (h : k.holds s.lane (s.peek (s.wordAt p)) (s.tag (s.wordAt p)) = false) :
    s.handleWait x k = .error (.wait { s.asked (s.wordAt p) k with parked := [s.cur] } 2) := by
  have ⟨_, _, _, _, hsettled, hclean, _⟩ := hctl
  have hanswer : ({ s.asked (s.wordAt p) k with parked := [s.cur] } : State).lane.answer = none := by
    show ((s.asked (s.wordAt p) k).laneAt s.cur).answer = none
    rw [State.asked_lane]; rfl
  simp only [State.handleWait, State.ctlTarget_plain (.inl rfl) hctl, State.arriveRequest_waits hsettled hclean hparked h, hanswer]

variable (hreq : s.lane.req = none)
include hreq

/-- HWAITF and HWAITE only move on (R130). -/
theorem State.handleWait_count (hk : (∃ n, k = .filled n) ∨ ∃ n m, k = .free n m)
    (h : k.holds s.lane (s.peek (s.wordAt p)) (s.tag (s.wordAt p)) = true) : s.handleWait x k = .ok (s.advance 32) := by
  have hdone (q : Request) : (s.setLane (s.lane.asking q)).resumeAt s.cur 32 = s.advance 32 := by
    rw [State.setLane_resumeAt, (Lane.resume_asking hreq q 0 0 32).2]
    rfl
  obtain ⟨n, rfl⟩ | ⟨n, m, rfl⟩ := hk
  · rw [State.handleWait_answered hctl (by simp) h]
    exact congrArg Except.ok (hdone _)
  · rw [State.handleWait_answered hctl (by simp) h]
    exact congrArg Except.ok (hdone _)

/-- LDH answers the first bits of the slot at HEAD + k (R132). -/
theorem State.handleWait_ldh {d : Reg} {r : HReg} {n : Nat} {q : Place} (hx : x = s.lane.h r) (hbits : 0 < x.bits)
    (h : n + 1 ≤ ctlFilled (s.peek (s.wordAt p)))
    (hslot : s.plain (x.slot (ctlHead (s.peek (s.wordAt p)) + n)) x.bits q (x.bits == 64)) :
    s.handleWait x (.ldh d r n) = .ok (s.writeS d (word (fieldOf (s.peek (s.wordAt q))
      ((x.slot (ctlHead (s.peek (s.wordAt p)) + n)).toNat % 64) x.bits))) := by
  let u := s.setLane (s.lane.asking ⟨s.wordAt p, .ldh d r n, .answered (s.peek (s.wordAt p))⟩)
  have hread : u.readBits s.cur _ _ .load = _ := State.readBits_plain (.inl rfl) hbits (State.plain_setLane hslot rfl rfl)
  have hpeek : u.peek (u.wordAt q) = s.peek (s.wordAt q) := State.setLaneAt_peek ..
  have hh : u.lane.h r = x := by rw [State.setLane_lane, hx]; rfl
  have hdone : u.complete (.ldh d r n) (s.peek (s.wordAt p)) = .ok ((u.setS d (word (fieldOf (s.peek (s.wordAt q))
      ((x.slot (ctlHead (s.peek (s.wordAt p)) + n)).toNat % 64) x.bits))).resumeAt s.cur 32) := by
    simp only [State.complete, hh, State.setLane_cur, u, hread, hpeek]
  rw [State.handleWait_answered (k := .ldh d r n) hctl (by simp) (decide_eq_true h), hdone, State.asking_writes hreq]

/-- STH sends the low bits of its operand to the slot at TAIL + k (R132). -/
theorem State.handleWait_sth {d : Reg} {r : HReg} {n : Nat} {q : Place} (hx : x = s.lane.h r) (hbits : 0 < x.bits)
    (h : n + 1 + ctlFilled (s.peek (s.wordAt p)) ≤ x.slots.toNat)
    (hslot : s.plain (x.slot (ctlTail (s.peek (s.wordAt p)) + n)) x.bits q) :
    let a := x.slot (ctlTail (s.peek (s.wordAt p)) + n)
    ∃ w : Posted, s.handleWait x (.sth d r n) = .ok ((s.withInflight [w]).advance 32) ∧ w.pa = s.wordAt q ∧
      w.addr = a ∧ w.op = .store (maskAt (a.toNat % 64) x.bits) (placeAt (a.toNat % 64) x.bits (s.s d).toNat) := by
  intro a
  let u := s.setLane (s.lane.asking ⟨s.wordAt p, .sth d r n, .answered (s.peek (s.wordAt p))⟩)
  have ⟨ha, hdirect, haligned, _, hsettled, _, _⟩ := hslot
  have huslot : u.plain a x.bits q := State.plain_setLane hslot rfl rfl
  have hcheck : u.checkAccess s.cur a x.bits .store = .ok (u, u.targetOf q a) :=
    State.checkAccess_plain huslot (order3_direct hdirect _ rfl) (by rw [order4_direct hdirect _ _ _ rfl rfl, haligned]; rfl)
  have hh : u.lane.h r = x := by rw [State.setLane_lane, hx]; rfl
  have hvalue : u.s d = s.s d := by rw [State.s, State.setLane_lane]; rfl
  obtain ⟨w, hpost, hpa, hop, -, haddr, -⟩ := u.post_inflight s.cur .lane u.turn a (g := u.targetOf q a)
    (.store (maskAt (a.toNat % 64) x.bits) (placeAt (a.toNat % 64) x.bits (bits (s.s d) (x.bits - 1) 0))) false
    (State.wordAt_not_pcie ha hdirect)
  have hstored : u.storeBits s.cur a x.bits (bits (s.s d) (x.bits - 1) 0) = .ok (u.withInflight [w]) := by
    have hnone : u.inflight = [] := hsettled.1
    rw [hnone, List.nil_append] at hpost
    simp only [State.storeBits, hcheck, State.postStore]
    exact congrArg Except.ok hpost
  have hdone : u.complete (.sth d r n) (s.peek (s.wordAt p)) = .ok ((u.withInflight [w]).resumeAt s.cur 32) := by
    simp only [State.complete, hh, hvalue]
    rw [show u.cur = s.cur from rfl, hstored]
    rfl
  have hresume : (u.withInflight [w]).resumeAt s.cur 32 = (s.withInflight [w]).advance 32 := by
    show ((s.withInflight [w]).setLane (s.lane.asking _)).resumeAt (s.withInflight [w]).cur 32 = _
    rw [State.setLane_resumeAt (s.withInflight [w]), (Lane.resume_asking hreq _ 0 0 32).2]
    rfl
  refine ⟨w, ?_, hpa, haddr, ?_⟩
  · rw [State.handleWait_answered (k := .sth d r n) hctl (by simp) (decide_eq_true (hx ▸ h)), hdone, hresume]
  · rw [hop, bits_low _ hbits, placeAt_mod]

end Wait

/-! Advances (R131). -/

/-- HEAD or TAIL of a control word replaced, the other half kept (R50). -/
theorem control_half (x : Word) (y : Nat) :
    ((x &&& ~~~maskAt 0 32) ||| (placeAt 0 32 y &&& maskAt 0 32)) = BitVec.ofNat 64 (x.toNat / 2 ^ 32 * 2 ^ 32 + y % 2 ^ 32) ∧
    ((x &&& ~~~maskAt 32 32) ||| (placeAt 32 32 y &&& maskAt 32 32)) = BitVec.ofNat 64 (y % 2 ^ 32 * 2 ^ 32 + x.toNat % 2 ^ 32) := by
  have hx := x.isLt
  have hy : y % 2 ^ 32 < 2 ^ 32 := Nat.mod_lt _ (by decide)
  have hlow : x.toNat % 2 ^ 32 < 2 ^ 32 := Nat.mod_lt _ (by decide)
  rw [placeAt_and_maskAt_same, placeAt_and_maskAt_same]
  have hkeep : (x &&& ~~~maskAt 0 32).toNat = x.toNat / 2 ^ 32 * 2 ^ 32 := by
    have hmask : maskAt 0 32 = word (ones 32) := rfl
    rw [hmask, toNat_and_not_ones x (by decide)]
  have hkeep' : (x &&& ~~~maskAt 32 32).toNat = x.toNat % 2 ^ 32 := by
    have hmask : ~~~maskAt 32 32 = word (2 ^ 32 - 1) := by decide
    rw [hmask, word_and_low x 32 (by decide), word, BitVec.toNat_ofNat, Nat.mod_eq_of_lt (by omega)]
  have hlo : (placeAt 0 32 y).toNat = y % 2 ^ 32 := by
    rw [placeAt, word, BitVec.toNat_ofNat, Nat.pow_zero, Nat.mul_one, Nat.mod_eq_of_lt (hy.trans (by decide))]
  have hhi : (placeAt 32 32 y).toNat = y % 2 ^ 32 * 2 ^ 32 := by
    rw [placeAt, word, BitVec.toNat_ofNat, Nat.mod_eq_of_lt (by omega)]
  constructor <;> refine BitVec.eq_of_toNat_eq ?_
  · rw [BitVec.toNat_or, hkeep, hlo, BitVec.toNat_ofNat, Nat.mul_comm (x.toNat / 2 ^ 32), ← Nat.two_pow_add_eq_or_of_lt hy]
    omega
  · rw [BitVec.toNat_or, hkeep', hhi, BitVec.toNat_ofNat, Nat.lor_comm, Nat.mul_comm (y % 2 ^ 32),
      ← Nat.two_pow_add_eq_or_of_lt hlow]
    omega

/-- The fields of a control word as the arithmetic of its number (R50). -/
theorem control_fields (x : Word) : ctlHead x = x.toNat % 2 ^ 32 ∧ ctlTail x = x.toNat / 2 ^ 32 := by
  have hx := x.isLt
  exact ⟨bits_low x (n := 32) (by decide), Nat.mod_eq_of_lt (by omega)⟩

section Advance
variable {s : State} {x : Handle} {p : Place} (hctl : s.plain x.ctl 64 p) (hparked : s.parked = [])
include hctl hparked

theorem State.storeAt_control (m v : Word) (n : Nat) : s.storeAt (s.wordAt p) m v n =
    s.poke (s.wordAt p) ((s.peek (s.wordAt p) &&& ~~~m) ||| (v &&& m)) n := by
  have ⟨ha, hp, _, hown, _, hclean, _⟩ := hctl
  rw [State.storeAt, State.merge_clean hclean,
    State.reexamine_none ((State.poke_parked_eq s _ n (State.own_not_control ha hp hown)).trans hparked)]

/-- An advance that the slots allow adds its count to its own half of the control word (R131). -/
theorem State.advanceCtl_head {n slots : Nat} (h : n ≤ ctlFilled (s.peek (s.wordAt p))) :
    let w := (s.peek (s.wordAt p)).toNat
    s.advanceCtl s.cur (s.wordAt p) false n slots =
      some (s.poke (s.wordAt p) (BitVec.ofNat 64 (w / 2 ^ 32 * 2 ^ 32 + (w % 2 ^ 32 + n) % 2 ^ 32)) s.lane.part) := by
  have ⟨_, _, _, _, hsettled, hclean, _⟩ := hctl
  obtain ⟨hhead, -⟩ := control_fields (s.peek (s.wordAt p))
  simp only [State.advanceCtl, State.drainPath, State.drain_settled hsettled, State.readHome_clean hclean, h, if_true, Bool.false_eq_true,
    if_false, State.storeAt_control hctl hparked, (control_half _ _).1, hhead]
  rfl

theorem State.advanceCtl_tail {n slots : Nat} (h : n + ctlFilled (s.peek (s.wordAt p)) ≤ slots) :
    let w := (s.peek (s.wordAt p)).toNat
    s.advanceCtl s.cur (s.wordAt p) true n slots =
      some (s.poke (s.wordAt p) (BitVec.ofNat 64 ((w / 2 ^ 32 + n) % 2 ^ 32 * 2 ^ 32 + w % 2 ^ 32)) s.lane.part) := by
  have ⟨_, _, _, _, hsettled, hclean, _⟩ := hctl
  obtain ⟨-, htail⟩ := control_fields (s.peek (s.wordAt p))
  simp only [State.advanceCtl, State.drainPath, State.drain_settled hsettled, State.readHome_clean hclean, h, if_true,
    State.storeAt_control hctl hparked, (control_half _ _).2, htail]
  rfl

omit hparked in
/-- One that they do not allow is refused (R131). -/
theorem State.advanceCtl_refused {tail : Bool} {n slots : Nat} (h : if tail then slots < n + ctlFilled (s.peek (s.wordAt p))
    else ctlFilled (s.peek (s.wordAt p)) < n) : s.advanceCtl s.cur (s.wordAt p) tail n slots = none := by
  have ⟨_, _, _, _, hsettled, hclean, _⟩ := hctl
  cases tail <;> simp only [State.advanceCtl, State.drainPath, State.drain_settled hsettled, State.readHome_clean hclean,
    Bool.false_eq_true, if_false, if_true]
  · exact if_neg (Nat.not_le.2 h)
  · exact if_neg (Nat.not_le.2 h)

end Advance

/-! Handles in use (R50, R128). -/

/-- The bits of ROLE are those that the statements name. -/
theorem Handle.serves_eq (x : Handle) (tail : Bool) : x.serves tail = x.role.toNat.testBit (if tail then 1 else 0) := by
  cases tail <;> rfl

section Use
variable (s : State) (h : HReg) (tail : Bool) (slots count : Nat)

theorem State.useHandle_invalid (hx : (s.lane.h h).valid = false ∨ (s.lane.h h).serves tail = false) :
    s.useHandle h tail slots count = .error (.trap s Cause.handle (handleVal h 0)) := by
  refine if_pos ?_
  rcases hx with hx | hx <;> simp [hx]

variable (hvalid : (s.lane.h h).valid = true) (hserves : (s.lane.h h).serves tail = true)
include hvalid hserves

theorem State.useHandle_beyond (hslots : (s.lane.h h).slots.toNat < slots) :
    s.useHandle h tail slots count = .error (.trap s Cause.handle (handleVal h count)) := by
  simp only [State.useHandle, hvalid, hserves, Bool.not_true, Bool.or_self, Bool.false_eq_true, if_false, hslots, if_true]

theorem State.useHandle_ok (hslots : slots ≤ (s.lane.h h).slots.toNat) : s.useHandle h tail slots count = .ok (s.lane.h h) := by
  simp only [State.useHandle, hvalid, hserves, Bool.not_true, Bool.or_self, Bool.false_eq_true, if_false, Nat.not_lt.2 hslots]

end Use

/-- A valid handle's slots are not empty (R50). -/
theorem Handle.bits_pos {x : Handle} (h : x.valid = true) : 0 < x.bits := by
  have hwidth : slotWidthOk x.slotw.toNat = true := by
    simp only [Handle.valid, Bool.and_eq_true] at h
    exact h.2
  refine Nat.pos_of_ne_zero fun hzero => ?_
  have hslotw : x.slotw.toNat = 0 := by
    unfold Handle.bits at hzero
    omega
  rw [hslotw] at hwidth
  exact absurd hwidth (by decide)

/-- TRAPVAL of a HANDLE_FAULT of a 12-bit count (R128). -/
theorem handleVal_of_lt (h : HReg) {c : Nat} (hc : c < 2 ^ 32) : handleVal h c = BitVec.ofNat 64 (h.toNat + c * 2 ^ 32) := by
  rw [handleVal, Nat.mod_eq_of_lt hc]
  rfl

/-- A handle instruction whose handle faults ends in that trap. -/
theorem exec_handle_stops {s : State} {h : HReg} {d : Reg} {n : BitVec 12} {tail : Bool} {need : Nat} {i : Instr} {e : Stop}
    (hi : (i = .hwaitf h n ∧ tail = false ∧ need = n.toNat) ∨ (i = .hwaite h n ∧ tail = true ∧ need = n.toNat) ∨
      (i = .hadv h tail n ∧ need = n.toNat) ∨ (i = .ldh d h n ∧ tail = false ∧ need = n.toNat + 1) ∨
      (i = .sth d h n ∧ tail = true ∧ need = n.toNat + 1))
    (he : s.useHandle h tail need n.toNat = .error e) : exec i s = finish i (.error e) := by
  obtain ⟨rfl, rfl, rfl⟩ | ⟨rfl, rfl, rfl⟩ | ⟨rfl, rfl⟩ | ⟨rfl, rfl, rfl⟩ | ⟨rfl, rfl, rfl⟩ := hi
  · show execHwaitf h n s = _
    rw [execHwaitf, he]
  · show execHwaite h n s = _
    rw [execHwaite, he]
  · show execHadv h tail n s = _
    rw [execHadv, he]
  · show execLdh d h n s = _
    rw [execLdh, he]
  · show execSth d h n s = _
    rw [execSth, he]

/-- The lane of a wait that is not over stalls with STALL 2, its request at the control word (R106, R130). -/
theorem State.finish_parks (s : State) (i : Instr) (pa : Nat) (k : Park) : ∃ t,
    finish i (.error (.wait { s.asked pa k with parked := [s.cur] } 2)) = .next t ∧
    t.lane.run = .stalled ∧ t.lane.stall = 2 ∧ t.parked = [s.cur] ∧ t.lane.pc = s.lane.pc ∧ t.mem = s.mem := by
  refine ⟨_, finish_wait .., ?_, ?_, rfl, ?_, rfl⟩
  · rw [State.stallOn, State.setLane_lane]
  · rw [State.stallOn, State.setLane_lane]
  · rw [State.stallOn, State.setLane_lane]
    show ((s.asked pa k).laneAt s.cur).pc = _
    rw [State.asked_lane]
    rfl

section Advance
variable {s : State} {h : HReg} {n : BitVec 12} {tail : Bool} {p : Place} (hvalid : (s.lane.h h).valid = true)
  (hserves : (s.lane.h h).serves tail = true) (hslots : n.toNat ≤ (s.lane.h h).slots.toNat)
  (hctl : s.plain (s.lane.h h).ctl 64 p) (hreleased : s.released)
include hvalid hserves hslots hctl hreleased

/-- HADV completes with the advance of the control word, or faults where it is refused (R131). -/
theorem exec_hadv {x : Option State}
    (hadvance : s.advanceCtl s.cur (s.wordAt p) tail n.toNat (s.lane.h h).slots.toNat = x) :
    exec (.hadv h tail n) s = match x with
      | none => .next (s.takeTrap Cause.handle (handleVal h n.toNat))
      | some t => .next (t.advance 32) := by
  show execHadv h tail n s = _
  rw [execHadv, State.useHandle_ok s h tail _ _ hvalid hserves hslots]
  simp only [State.release_released hreleased, State.ctlTarget_plain (.inr rfl) hctl, hadvance]
  cases x <;> rfl

end Advance

/-! Descriptors (R129). -/

/-- A word read at an ordinary 64-bit address is the word at its home. -/
theorem State.readBits_word {s : State} {a : Word} {p : Place} {k : Access} (hk : k = .load ∨ k = .table)
    (h : s.plain a 64 p (k == .load)) : s.readBits s.cur a 64 k = .ok (s, (s.peek (s.wordAt p)).toNat) := by
  have hplain : s.plain a 64 p (k == .load && (64 : Nat) == 64) := by simpa using h
  have hmod : a.toNat % 64 = 0 := aligned_mod h.2.2.1 rfl
  have hlt := (s.peek (s.wordAt p)).isLt
  rw [State.readBits_plain hk (by decide) hplain, hmod, fieldOf, Nat.pow_zero, Nat.div_one, Nat.mod_eq_of_lt hlt]

theorem word_toNat (x : Word) : word x.toNat = x := by
  rw [word, BitVec.ofNat_toNat, BitVec.setWidth_eq]

/-- A record of `n` words at ordinary addresses is read whole, and nothing changes. -/
theorem State.readWords_record {s : State} {k : Access} (hk : k = .load ∨ k = .table) (n : Nat) {a : Word} (f : Nat → Place)
    (h : ∀ i, i < n → s.plain (a + word (64 * i)) 64 (f i) (k == .load)) :
    s.readWords s.cur a k n = .ok (s, (List.range n).map (fun i => s.peek (s.wordAt (f i)))) := by
  induction n generalizing a f with
  | zero => rfl
  | succ n ih =>
    have hfirst : s.plain a 64 (f 0) (k == .load) := by
      have h0 := h 0 (by omega)
      rwa [Nat.mul_zero, show a + word 0 = a from BitVec.add_zero a] at h0
    have hrest := ih (a := a + 64) (fun i => f (i + 1)) (fun i hi => by
      have hi := h (i + 1) (by omega)
      rwa [show a + word (64 * (i + 1)) = a + 64 + word (64 * i) by
        rw [show 64 * (i + 1) = 64 + 64 * i by omega, word, BitVec.ofNat_add, BitVec.add_assoc]; rfl] at hi)
    simp only [State.readWords, State.readBits_word hk hfirst, hrest, word_toNat, List.range_succ_eq_map, List.map_cons, List.map_map]
    rfl

/-- A descriptor's fields as R129 places them. -/
theorem Handle.ofWords_eq (b w : Word) : Handle.ofWords b w =
    ⟨b, BitVec.ofNat 16 w.toNat, BitVec.ofNat 16 (w.toNat / 2 ^ 16), BitVec.ofNat 2 (w.toNat / 2 ^ 32)⟩ := by
  unfold Handle.ofWords Machine.bits
  congr 1 <;> refine BitVec.eq_of_toNat_eq ?_ <;> simp only [BitVec.toNat_ofNat] <;> omega

section Descriptor
variable {s : State} (h : HReg) {d : Reg} {p q : Place} (hp : s.plain (s.s d) 64 p true) (hq : s.plain (s.s d + 64) 64 q true)
  (hspace : recordSpace (s.s d) = true) (halign : (s.s d).toNat % 64 = 0)
include hp hq hspace halign

/-- HSET takes the handle that its two words describe where R129 accepts it, and faults otherwise. -/
theorem exec_hset :
    let x := Handle.ofWords (s.peek (s.wordAt p)) (s.peek (s.wordAt q))
    exec (.hset h d) s = if x.valid && Machine.bits x.base 5 0 == 0 && spanOk x then .next ((s.setLane (s.lane.setH h x)).advance 32)
      else .next (s.takeTrap Cause.handle (handleVal h 0)) := by
  intro x
  have hread : s.readWords s.cur (s.s d) .load 2 = .ok (s, [s.peek (s.wordAt p), s.peek (s.wordAt q)]) := by
    refine State.readWords_record (.inl rfl) 2 (fun i => if i = 0 then p else q) (fun i hi => ?_)
    match i, hi with
    | 0, _ => simpa [word] using hp
    | 1, _ => exact hq
  have hbits : bits (s.s d) 5 0 = 0 := (bits_low (s.s d) (n := 6) (by decide)).trans halign
  show execHset h d s = _
  rw [execHset, hread]
  simp only [hspace, Bool.not_true, Bool.false_eq_true, if_false, hbits, ne_eq, not_true_eq_false, List.getD_cons_zero, List.getD_cons_succ]
  split <;> rfl

end Descriptor

/-! Streams (R133). -/

/-- The configuration that SBIND writes, or why it refuses (R133). -/
theorem exec_sbind (s : State) (k : BitVec 3) (h : HReg) (d : Reg) (o : Bool) (v : View) :
    let ok : Prop := (s.lane.h h).valid = true ∧ (s.lane.h h).serves o = true ∧ (s.lane.h h).slotw.toNat = viewBits v
    (¬ok → exec (.sbind k h d o v) s = .next (s.takeTrap Cause.handle (handleVal h 0))) ∧
    (ok → 2 ^ 32 ≤ (s.s d).toNat → exec (.sbind k h d o v) s = .next (s.takeTrap Cause.stream (s.s d))) ∧
    (ok → (s.s d).toNat < 2 ^ 32 → exec (.sbind k h d o v) s = .next ((s.setLane (s.lane.setStream k.toNat
      (word (1 + b2n o * 2 + viewCode v * 4 + h.toNat * 16 + (s.s d).toNat * 2 ^ 16)))).advance 32)) := by
  intro ok
  have hcheck : (!(s.lane.h h).valid || !(s.lane.h h).serves o || (s.lane.h h).slotw.toNat != viewBits v) = true ↔ ¬ok := by
    simp only [ok, Bool.or_eq_true, Bool.not_eq_true', bne_iff_ne, ← Bool.not_eq_true]
    tauto
  have hexec : exec (.sbind k h d o v) s = execSbind k h d o v s := rfl
  refine ⟨fun hok => ?_, fun hok hc => ?_, fun hok hc => ?_⟩ <;> rw [hexec] <;> unfold execSbind <;> dsimp only
  · rw [if_pos (hcheck.2 hok)]
    rfl
  · rw [if_neg (mt hcheck.1 (not_not.2 hok)), if_pos hc]
    rfl
  · rw [if_neg (mt hcheck.1 (not_not.2 hok)), if_neg (Nat.not_le.2 hc)]
    rfl

/-- SUNBIND of a stream with EN set clears it, of another changes nothing (R133). -/
theorem exec_sunbind (s : State) (k : BitVec 3) : exec (.sunbind k) s =
    .next ((if bit (s.lane.streamOf k.toNat) 0 then s.setLane (s.lane.setStream k.toNat 0) else s).advance 32) := rfl

/-! What the handle instructions do at an ordinary control word, by the control word's own fields (R130 to R132). -/

section Control
variable {s : State} {h : HReg} {n : BitVec 12} {p : Place} (hvalid : (s.lane.h h).valid = true) (hctl : s.plain (s.lane.h h).ctl 64 p)
include hvalid hctl

theorem exec_hwaitf_parks (hparked : s.parked = []) (hserves : (s.lane.h h).serves false = true)
    (hslots : n.toNat ≤ (s.lane.h h).slots.toNat) (hcount : ctlFilled (s.peek (s.wordAt p)) < n.toNat) :
    exec (.hwaitf h n) s = finish (.hwaitf h n) (.error (.wait { s.asked (s.wordAt p) (.filled n.toNat) with parked := [s.cur] } 2)) := by
  show execHwaitf h n s = _
  rw [execHwaitf, State.useHandle_ok s h false _ _ hvalid hserves hslots]
  exact congrArg _ (State.handleWait_parks hctl hparked (decide_eq_false (Nat.not_le.2 hcount)))

theorem exec_hwaite_parks (hparked : s.parked = []) (hserves : (s.lane.h h).serves true = true)
    (hslots : n.toNat ≤ (s.lane.h h).slots.toNat) (hcount : (s.lane.h h).slots.toNat < n.toNat + ctlFilled (s.peek (s.wordAt p))) :
    exec (.hwaite h n) s = finish (.hwaite h n) (.error (.wait { s.asked (s.wordAt p) (.free n.toNat (s.lane.h h).slots.toNat) with
      parked := [s.cur] } 2)) := by
  show execHwaite h n s = _
  rw [execHwaite, State.useHandle_ok s h true _ _ hvalid hserves hslots]
  exact congrArg _ (State.handleWait_parks hctl hparked (decide_eq_false (Nat.not_le.2 hcount)))

variable (hreq : s.lane.req = none)
include hreq

theorem exec_hwaitf_done (hserves : (s.lane.h h).serves false = true) (hslots : n.toNat ≤ (s.lane.h h).slots.toNat)
    (hcount : n.toNat ≤ ctlFilled (s.peek (s.wordAt p))) : exec (.hwaitf h n) s = .next (s.advance 32) := by
  show execHwaitf h n s = _
  rw [execHwaitf, State.useHandle_ok s h false _ _ hvalid hserves hslots]
  exact congrArg _ (State.handleWait_count hctl hreq (.inl ⟨_, rfl⟩) (decide_eq_true hcount))

theorem exec_hwaite_done (hserves : (s.lane.h h).serves true = true) (hslots : n.toNat ≤ (s.lane.h h).slots.toNat)
    (hcount : n.toNat + ctlFilled (s.peek (s.wordAt p)) ≤ (s.lane.h h).slots.toNat) : exec (.hwaite h n) s = .next (s.advance 32) := by
  show execHwaite h n s = _
  rw [execHwaite, State.useHandle_ok s h true _ _ hvalid hserves hslots]
  exact congrArg _ (State.handleWait_count hctl hreq (.inr ⟨_, _, rfl⟩) (decide_eq_true hcount))

theorem exec_ldh_plain (d : Reg) {q : Place} (hserves : (s.lane.h h).serves false = true) (hslots : n.toNat + 1 ≤ (s.lane.h h).slots.toNat)
    (hcount : n.toNat + 1 ≤ ctlFilled (s.peek (s.wordAt p))) :
    let a := (s.lane.h h).slot (ctlHead (s.peek (s.wordAt p)) + n.toNat)
    s.plain a (s.lane.h h).bits q ((s.lane.h h).bits == 64) →
    exec (.ldh d h n) s = .next (s.writeS d (word (fieldOf (s.peek (s.wordAt q)) (a.toNat % 64) (s.lane.h h).bits))) := by
  intro a hslot
  show execLdh d h n s = _
  rw [execLdh, State.useHandle_ok s h false _ _ hvalid hserves hslots]
  exact congrArg _ (State.handleWait_ldh hctl hreq rfl (Handle.bits_pos hvalid) hcount hslot)

theorem exec_sth_plain (d : Reg) {q : Place} (hserves : (s.lane.h h).serves true = true)
    (hcount : n.toNat + 1 + ctlFilled (s.peek (s.wordAt p)) ≤ (s.lane.h h).slots.toNat) :
    let a := (s.lane.h h).slot (ctlTail (s.peek (s.wordAt p)) + n.toNat)
    s.plain a (s.lane.h h).bits q → ∃ w : Posted, exec (.sth d h n) s = .next ((s.withInflight [w]).advance 32) ∧
      w.pa = s.wordAt q ∧ w.addr = a ∧
      w.op = .store (maskAt (a.toNat % 64) (s.lane.h h).bits) (placeAt (a.toNat % 64) (s.lane.h h).bits (s.s d).toNat) := by
  intro a hslot
  obtain ⟨w, hdone, hw⟩ := State.handleWait_sth (d := d) hctl hreq rfl (Handle.bits_pos hvalid) hcount hslot
  refine ⟨w, ?_, hw⟩
  show execSth d h n s = _
  rw [execSth, State.useHandle_ok s h true _ _ hvalid hserves (Nat.le_of_add_right_le hcount)]
  exact congrArg _ hdone

end Control

/-- Settles O49: the checks of R128 come first; past them a wait answers at the control word's home or parks there, an advance
rewrites its own half of the word, and a descriptor or a stream is taken by the checks of R129 and R133. -/
theorem handleResults : Obligations.HandleResults := by
  intro s h d n o v k p q pa x fault ops
  have hn : n.toNat < 2 ^ 32 := n.isLt.trans (by decide)
  have hfault : ∀ c, c < 2 ^ 32 → s.takeTrap Cause.handle (handleVal h c) = fault c := fun c hc =>
    congrArg _ (handleVal_of_lt h hc)
  refine ⟨fun tail need i hi hbad => ?_, fun tail need i hi hvalid hserves hslots => ?_, fun hvalid hctl hpa hparked hreq hreleased => ?_,
    fun hp hq hspace halign => ?_, ?_, fun hen => ?_, fun hen => ?_⟩
  · rw [← Handle.serves_eq] at hbad
    rw [exec_handle_stops hi (State.useHandle_invalid s h tail need n.toNat hbad), finish_trap, hfault 0 (by decide)]
  · rw [← Handle.serves_eq] at hserves
    rw [exec_handle_stops hi (State.useHandle_beyond s h tail need n.toNat hvalid hserves hslots), finish_trap, hfault _ hn]
  · subst hpa
    obtain ⟨hhead, htail⟩ := control_fields (s.peek (s.wordAt p))
    intro head tl filled size slot
    have hfilled : ctlFilled (s.peek (s.wordAt p)) = filled := by rw [ctlFilled, hhead, htail]
    refine ⟨fun hrole hslots => ⟨fun hcount => ⟨?_, ?_⟩, fun hcount => ⟨?_, ?_⟩⟩, fun hrole hslots => ⟨fun hcount => ⟨?_, ?_⟩,
      fun hcount => ⟨?_, ?_⟩⟩, fun hrole hslots hcount hslot => ?_, fun hrole hcount hslot => ?_⟩ <;> rw [← hfilled] at hcount
    · exact exec_hwaitf_done hvalid hctl hreq hrole hslots hcount
    · rw [exec_hadv (tail := false) hvalid hrole hslots hctl hreleased (State.advanceCtl_head hctl hparked hcount)]
    · rw [exec_hadv (tail := false) hvalid hrole hslots hctl hreleased (State.advanceCtl_refused (tail := false) hctl hcount)]
      exact congrArg Host.Outcome.next (hfault _ hn)
    · rw [exec_hwaitf_parks hvalid hctl hparked hrole hslots hcount]
      exact State.finish_parks ..
    · exact exec_hwaite_done hvalid hctl hreq hrole hslots hcount
    · rw [exec_hadv (tail := true) hvalid hrole hslots hctl hreleased (State.advanceCtl_tail hctl hparked hcount)]
    · rw [exec_hadv (tail := true) hvalid hrole hslots hctl hreleased (State.advanceCtl_refused (tail := true) hctl hcount)]
      exact congrArg Host.Outcome.next (hfault _ hn)
    · rw [exec_hwaite_parks hvalid hctl hparked hrole hslots hcount]
      exact State.finish_parks ..
    · have hdone := exec_ldh_plain (q := q) hvalid hctl hreq d hrole hslots hcount
      rw [hhead] at hdone
      exact hdone hslot
    · have hdone := exec_sth_plain (q := q) hvalid hctl hreq d hrole hcount
      rw [htail] at hdone
      exact hdone hslot
  · intro b w y
    have hset := exec_hset h hp hq hspace halign
    rw [Handle.ofWords_eq] at hset
    have haccept : (y.valid && Machine.bits y.base 5 0 == 0 && spanOk y) = true ↔ y.valid = true ∧ b.toNat % 64 = 0 ∧ spanOk y = true := by
      rw [show Machine.bits y.base 5 0 = b.toNat % 64 from bits_low b (n := 6) (by decide)]
      simp only [Bool.and_eq_true, beq_iff_eq, and_assoc]
    refine ⟨fun hy => ?_, fun hy => ?_⟩
    · exact hset.trans (if_pos (haccept.2 hy))
    · exact (hset.trans (if_neg (mt haccept.1 hy))).trans (congrArg Host.Outcome.next (hfault 0 (by decide)))
  · obtain ⟨hbad, hbig, hdone⟩ := exec_sbind s k h d o v
    rw [Handle.serves_eq] at hbad hbig hdone
    refine ⟨fun hok hc => ?_, fun hok => ?_, hbig⟩
    · rw [hdone hok hc]
      cases o <;> cases v <;> rfl
    · rw [hbad hok, hfault 0 (by decide)]
  · rw [exec_sunbind, show bit (s.lane.streamOf k.toNat) 0 = true from hen, if_pos rfl]
  · rw [exec_sunbind, show bit (s.lane.streamOf k.toNat) 0 = false from hen]
    rfl

end Sys2Proof.Machine

namespace Sys2Proof.Machine

/-! Records at ordinary addresses (R165, R177). -/

/-- The address of a record's next word. -/
theorem record_next (a : Word) (i : Nat) : a + word (64 * (i + 1)) = a + 64 + word (64 * i) := by
  rw [show 64 * (i + 1) = 64 + 64 * i by omega, word, BitVec.ofNat_add, BitVec.add_assoc]
  rfl

section Record
variable {s : State} {a : Word} {pl : Nat → Place}

theorem State.recordCheck_go_plain {n : Nat} (h : ∀ i, i < n → s.plain (a + word (64 * i)) 64 (pl i)) :
    State.recordCheck.go s.cur s a n = .ok s := by
  induction n generalizing a pl with
  | zero => rfl
  | succ n ih =>
    have h0 : s.plain a 64 (pl 0) := by
      have h0 := h 0 (by omega)
      rwa [Nat.mul_zero, show a + word 0 = a from BitVec.add_zero a] at h0
    have ⟨_, hdirect, haligned, _⟩ := h0
    have hcheck : s.checkAccess s.cur a 64 .table = .ok (s, s.targetOf (pl 0) a) :=
      State.checkAccess_plain h0 (order3_direct hdirect _ rfl) (by rw [order4_direct hdirect _ _ _ rfl rfl, haligned]; rfl)
    have hrest := ih (a := a + 64) (pl := fun i => pl (i + 1)) (fun i hi => by
      have hi := h (i + 1) (by omega)
      rwa [record_next] at hi)
    simp only [State.recordCheck.go, hcheck, hrest]

variable (hspace : recordSpace a = true) (halign : a.toNat % 64 = 0) (hpl : ∀ i, i < 4 → s.plain (a + word (64 * i)) 64 (pl i))
include hspace halign hpl

theorem State.recordCheck_plain : s.recordCheck s.cur a 4 = .ok s := by
  have hbits : bits a 5 0 = 0 := (bits_low a (n := 6) (by decide)).trans halign
  simp only [State.recordCheck, hspace, Bool.not_true, Bool.false_eq_true, if_false, hbits, ne_eq, not_true_eq_false]
  exact State.recordCheck_go_plain hpl

omit hspace halign in
theorem State.readWords_four : s.readWords s.cur a .table 4 =
    .ok (s, [s.peek (s.wordAt (pl 0)), s.peek (s.wordAt (pl 1)), s.peek (s.wordAt (pl 2)), s.peek (s.wordAt (pl 3))]) :=
  State.readWords_record (.inr rfl) 4 pl hpl

omit hspace halign in
theorem State.readWords_three : s.readWords s.cur a .table 3 =
    .ok (s, [s.peek (s.wordAt (pl 0)), s.peek (s.wordAt (pl 1)), s.peek (s.wordAt (pl 2))]) :=
  State.readWords_record (.inr rfl) 3 pl (fun i hi => hpl i (by omega))

variable (hreleased : s.released) (sc : Scope)
include hreleased

/-- A push of an ordinary record to MCMDQ enters the record's job or takes the trap of the rule that it breaks (R165). -/
theorem State.pushMatrix_plain (hroom : s.myCore.mq.length < 16) :
    let w (i : Nat) : Word := s.peek (s.wordAt (pl i))
    s.pushMatrix s.cur a sc = match s.matrixCommand s.cur [w 0, w 1, w 2, w 3] with
      | .error e => .error (.trap s e.1 e.2)
      | .ok op => .ok (s.enterMatrix s.cur op (some ((w 0).toNat % 8))).1 := by
  intro w
  have hop : bits (w 0) 2 0 = (w 0).toNat % 8 := bits_low (w 0) (n := 3) (by decide)
  have hlength : (s.core s.cur.core).mq.length < 16 := hroom
  simp only [State.pushMatrix, State.release_released hreleased, State.recordCheck_plain hspace halign hpl,
    State.readWords_four hpl, if_neg (Nat.not_le.2 hlength), List.getD_cons_zero]
  rw [← hop]
  cases s.matrixCommand s.cur [w 0, w 1, w 2, w 3] <;> rfl

/-- A full queue makes it wait with STALL 3 (R165). -/
theorem State.pushMatrix_full (hfull : 16 ≤ s.myCore.mq.length) : s.pushMatrix s.cur a sc = .error (.wait s 3) := by
  have hlength : 16 ≤ (s.core s.cur.core).mq.length := hfull
  simp only [State.pushMatrix, State.release_released hreleased, State.recordCheck_plain hspace halign hpl, if_pos hlength]

/-- The words of an ordinary descriptor, the barrier that the instruction names in place of the last (R178). -/
def State.descriptorAt (s : State) (pl : Nat → Place) (bar : Option Word) : List Word :=
  [s.peek (s.wordAt (pl 0)), s.peek (s.wordAt (pl 1)), s.peek (s.wordAt (pl 2)), bar.getD (s.peek (s.wordAt (pl 3)))]

section Descriptor
variable {bar : Option Word} {conv : Option Bool}

/-- An ordinary descriptor is read whole, and its rules are checked (R178). -/
theorem State.readBrook_plain : s.readBrook s.cur a bar conv sc =
    match s.lane.brookCheck (s.peek (s.wordAt (pl 0))) (s.peek (s.wordAt (pl 1))) (s.peek (s.wordAt (pl 2)))
      (bar.getD (s.peek (s.wordAt (pl 3)))) conv with
    | .error e => .error (.trap s e.1 e.2)
    | .ok rm => .ok (s, s.descriptorAt pl bar, rm) := by
  have hbits : bits a 5 0 = 0 := (bits_low a (n := 6) (by decide)).trans halign
  have hwords : ∃ ws, s.readWords s.cur a .table (if bar.isSome then 3 else 4) = .ok (s, ws) ∧
      ws.take 3 ++ [bar.getD (ws.getD 3 0)] = s.descriptorAt pl bar := by
    cases bar with
    | none => exact ⟨_, State.readWords_four hpl, rfl⟩
    | some y => exact ⟨_, State.readWords_three hpl, rfl⟩
  obtain ⟨ws, hread, hws⟩ := hwords
  have hlane : s.laneAt s.cur = s.lane := rfl
  simp only [State.readBrook, hbits, ne_eq, not_true_eq_false, if_false, State.recordCheck_plain hspace halign hpl,
    State.release_released hreleased, hread, hws, hlane]
  simp only [State.descriptorAt, List.getD_cons_zero, List.getD_cons_succ]
  cases s.lane.brookCheck (s.peek (s.wordAt (pl 0))) (s.peek (s.wordAt (pl 1))) (s.peek (s.wordAt (pl 2)))
    (bar.getD (s.peek (s.wordAt (pl 3)))) conv <;> rfl

theorem State.readBrook_accepted {rm : RoundMode} (hcheck : s.lane.brookCheck (s.peek (s.wordAt (pl 0))) (s.peek (s.wordAt (pl 1)))
    (s.peek (s.wordAt (pl 2))) (bar.getD (s.peek (s.wordAt (pl 3)))) conv = .ok rm) :
    s.readBrook s.cur a bar conv sc = .ok (s, s.descriptorAt pl bar, rm) := by
  rw [State.readBrook_plain hspace halign hpl hreleased, hcheck]

theorem State.readBrook_refused {e : BitVec 8 × Word} (hcheck : s.lane.brookCheck (s.peek (s.wordAt (pl 0)))
    (s.peek (s.wordAt (pl 1))) (s.peek (s.wordAt (pl 2))) (bar.getD (s.peek (s.wordAt (pl 3)))) conv = .error e) :
    s.readBrook s.cur a bar conv sc = .error (.trap s e.1 e.2) := by
  rw [State.readBrook_plain hspace halign hpl hreleased, hcheck]

end Descriptor

end Record

/-! Brook jobs (R177 to R179). -/

theorem nextJob_eq (x : BitVec 32) : nextJob x = if x = 0xFFFFFFFF then 1 else x + 1 := by
  have hwrap : x + 1 = 0 ↔ x = 0xFFFFFFFF := by
    constructor <;> intro h <;> bv_omega
  simp only [nextJob, hwrap]

/-- The promise of R179 in the terms of the statement. -/
theorem promiseOf_eq (a tprev : Nat) (src dst bar w2 : Word) :
    promiseOf a tprev src dst bar w2 =
      max a tprev + (if w2.getLsbD 58 = true then 4000
        else max (brookLatency src) (max (brookLatency dst) (if bar = 0 then 0 else brookLatency bar))) +
      (if w2.toNat / 2 ^ 37 % 4 = 0 then (w2.toNat % 2 ^ 32 + 255) / 256 else 4 * (w2.toNat % 2 ^ 32)) := by
  have hlen : bLen w2 = w2.toNat % 2 ^ 32 := bits_low w2 (n := 32) (by decide)
  rw [promiseOf, hlen]
  rfl

theorem Vector.set_congr_index {α : Type} {n : Nat} (v : Vector α n) {i j : Nat} (h : i = j) (hi : i < n) (hj : j < n) (x : α) :
    v.set i x hi = v.set j x hj := by
  subst h
  rfl

/-- A Brook job enters the queue behind the others with its promise, and its slot, if it names one, begins to fill (R177, R182). -/
theorem State.enterBrook_eq (s : State) (src dst w2 bar : Word) (rm : RoundMode) (fifo : Bool) :
    let k := s.myCore
    let cl := clusterOf s.cur.core
    let c := s.cluster cl
    let t := word (promiseOf s.dtc.toNat (s.lastPromise cl) src dst bar w2)
    s.enterBrook s.cur src dst w2 bar rm fifo = ((s.setMyCore { k with
        bq := k.bq ++ [⟨k.bnext, s.cur.lane, src, dst, w2, bar, rm, fifo, s.lane.pc, t, c.border, false⟩]
        bnext := if k.bnext = 0xFFFFFFFF then 1 else k.bnext + 1 }).setCluster cl { c with
      border := c.border + 1
      resid := if w2.getLsbD 36 = true then
          c.resid.set (w2.toNat / 2 ^ 32 % 16) (.filling s.cur.core k.bnext) (Nat.mod_lt _ (by decide))
        else c.resid }, k.bnext, t) := by
  intro k cl c t
  have hslot : bRslot w2 % 16 = w2.toNat / 2 ^ 32 % 16 := Nat.mod_mod _ 16
  rw [← nextJob_eq k.bnext]
  unfold State.enterBrook
  by_cases hrv : w2.getLsbD 36 = true
  · have hbit : bRv w2 = true := hrv
    simp only [hbit, hrv, if_true, Vector.set_congr_index _ hslot _ (Nat.mod_lt _ (by decide))]
    rfl
  · have hbit : bRv w2 = false := Bool.eq_false_iff.2 hrv
    simp only [hbit, hrv, if_false, Bool.false_eq_true]
    rfl

/-- An instruction that does not wait with a descriptor of its own reads one now (R178). -/
theorem State.brookDesc_first {s : State} (h : s.lane.waiting = none ∨ s.lane.kept.desc = none) (a : Word) (bar : Option Word)
    (conv : Option Bool) (sc : Scope) : s.brookDesc s.cur a bar conv sc = s.readBrook s.cur a bar conv sc := by
  unfold State.brookDesc
  split
  · next hwaiting hdesc =>
    rcases h with h | h
    · cases h.symm.trans hwaiting
    · cases h.symm.trans hdesc
  · rfl

/-- One that waits with a descriptor goes on with it (R178). -/
theorem State.brookDesc_kept {s : State} {w : List Word} {rm : RoundMode} (hwaiting : s.lane.waiting ≠ none)
    (hdesc : s.lane.kept.desc = some (w, rm)) (a : Word) (bar : Option Word) (conv : Option Bool) (sc : Scope) :
    s.brookDesc s.cur a bar conv sc = .ok (s, w, rm) := by
  obtain ⟨i, hi⟩ := Option.ne_none_iff_exists'.1 hwaiting
  have hlane : s.laneAt s.cur = s.lane := rfl
  simp only [State.brookDesc, hlane, hi, hdesc]

section Issue
variable {s : State} {a : Word} {bar : Option Word} {conv : Option Bool} {sc : Scope} {x y z b : Word} {rm : RoundMode}
  (hdesc : s.brookDesc s.cur a bar conv sc = .ok (s, [x, y, z, b], rm))
include hdesc

/-- A job with room in the queue is entered (R178). -/
theorem State.issueBrook_room (hroom : s.myCore.bq.length < 16) :
    s.issueBrook s.cur a bar conv sc = .ok (s.enterBrook s.cur x y z b rm bar.isNone) := by
  have hlength : (s.core s.cur.core).bq.length < 16 := hroom
  simp only [State.issueBrook, hdesc, if_neg (Nat.not_le.2 hlength), List.getD_cons_zero, List.getD_cons_succ]

/-- Without room it waits with STALL 3, its descriptor kept (R178). -/
theorem State.issueBrook_full (hfull : 16 ≤ s.myCore.bq.length) :
    s.issueBrook s.cur a bar conv sc =
      .error (.wait (s.setLane { s.lane with kept := { s.lane.kept with desc := some ([x, y, z, b], rm) } }) 3) := by
  have hlength : 16 ≤ (s.core s.cur.core).bq.length := hfull
  simp only [State.issueBrook, hdesc, if_pos hlength]
  rfl

omit hdesc in
/-- One whose descriptor breaks a rule takes its trap (R178). -/
theorem State.issueBrook_refused {e : Stop} (hdesc : s.brookDesc s.cur a bar conv sc = .error e) :
    s.issueBrook s.cur a bar conv sc = .error e := by
  simp only [State.issueBrook, hdesc]

end Issue

/-- BCOPY and BCONV are one instruction but for the kind that they demand (R178). -/
theorem exec_brook (s : State) (d a b : Reg) (conv : Bool) (sc : Scope) :
    let i : Instr := if conv then .bconv d a b sc else .bcopy d a b sc
    exec i s = finish i (s.brookInstr d a b conv sc) := by
  cases conv <;> rfl

theorem exec_engpush (s : State) (f : Fifo) (a : Reg) (sc : Scope) :
    exec (.engpush f a sc) s = finish (.engpush f a sc) (match s.pushFifo s.cur f (s.s a) sc with
      | .error e => .error e
      | .ok s => .ok (s.advance 32)) := rfl

theorem exec_engpop (s : State) (f : Fifo) (d : Reg) : exec (.engpop f d) s = finish (.engpop f d) (match s.popFifo s.cur f with
    | .error e => .error e
    | .ok (s, x) => .ok (s.writeS d x)) := rfl

/-! A pop of a result FIFO: the oldest word, or a wait (R58, R184). -/

section Pop
variable {s : State} {x : Word} {t : List Word}

theorem State.popFifo_matrix_nil (h : s.myCore.mresq = []) : s.popFifo s.cur .matrix = .error (.wait s 3) := by
  have hcore : (s.core s.cur.core).mresq = [] := h
  simp only [State.popFifo, hcore]

theorem State.popFifo_matrix_cons (h : s.myCore.mresq = x :: t) :
    s.popFifo s.cur .matrix = .ok (s.setMyCore { s.myCore with mresq := t }, x) := by
  have hcore : (s.core s.cur.core).mresq = x :: t := h
  simp only [State.popFifo, hcore]
  rfl

theorem State.popFifo_brook_nil (h : s.myCore.bresq = []) : s.popFifo s.cur .brook = .error (.wait s 3) := by
  have hcore : (s.core s.cur.core).bresq = [] := h
  simp only [State.popFifo, hcore]

theorem State.popFifo_brook_cons (h : s.myCore.bresq = x :: t) :
    s.popFifo s.cur .brook = .ok (s.setMyCore { s.myCore with bresq := t }, x) := by
  have hcore : (s.core s.cur.core).bresq = x :: t := h
  simp only [State.popFifo, hcore]
  rfl

end Pop

/-- BEVICT posts an eviction in order with the jobs, or refuses a slot beyond 15 (R182). -/
theorem exec_bevict (s : State) (b : Reg) :
    let cl := clusterOf s.cur.core
    let c := s.cluster cl
    exec (.bevict b) s = if (s.s b).toNat < 16 then
      .next ((s.setCluster cl { c with
        evicts := c.evicts ++ [⟨(s.s b).toNat, c.border, c.fillerOf (s.s b).toNat⟩], border := c.border + 1 }).advance 32)
      else .next (s.takeTrap Cause.illegal (s.s b)) := by
  intro cl c
  have hlt := (s.s b).isLt
  have hbits : bits (s.s b) 63 4 = (s.s b).toNat / 16 := by
    unfold bits
    omega
  show finish (.bevict b) (if bits (s.s b) 63 4 ≠ 0 then _ else _) = _
  rw [hbits]
  by_cases hslot : (s.s b).toNat < 16
  · rw [if_neg (not_not.2 (Nat.div_eq_of_lt hslot)), if_pos hslot]
    rfl
  · rw [if_pos (by omega), if_neg hslot]
    rfl

/-- Settles O55: a descriptor at ordinary addresses is read whole, and the issue goes on from it or from the kept one. -/
theorem brookIssueResults : Obligations.BrookIssueResults := by
  intro s d a b conv sc pl hreleased hspace halign hpl w cl k c i slot promise entered first keeps
  have henter (x y z bar : Word) (rm : RoundMode) (fifo : Bool) :
      s.enterBrook s.cur x y z bar rm fifo = (entered x y z bar rm fifo, k.bnext, promise x y z bar) := by
    rw [State.enterBrook_eq, promiseOf_eq]
    rfl
  have haccepted (hfirst : first) (bar : Option Word) (kind : Option Bool) {rm : RoundMode}
      (hcheck : s.lane.brookCheck (w 0) (w 1) (w 2) (bar.getD (w 3)) kind = .ok rm) :
      s.brookDesc s.cur (s.s a) bar kind sc = .ok (s, s.descriptorAt pl bar, rm) :=
    (State.brookDesc_first hfirst ..).trans (State.readBrook_accepted hspace halign hpl hreleased sc hcheck)
  have hrefused (hfirst : first) (bar : Option Word) (kind : Option Bool) {e : BitVec 8 × Word}
      (hcheck : s.lane.brookCheck (w 0) (w 1) (w 2) (bar.getD (w 3)) kind = .error e) :
      s.issueBrook s.cur (s.s a) bar kind sc = .error (.trap s e.1 e.2) :=
    State.issueBrook_refused ((State.brookDesc_first hfirst ..).trans (State.readBrook_refused hspace halign hpl hreleased sc hcheck))
  have hissued (x y z bar : Word) (rm : RoundMode) (hdesc : s.brookDesc s.cur (s.s a) (some (s.s b)) (some conv) sc = .ok (s, [x, y, z, bar], rm))
      (hroom : k.bq.length < 16) : exec i s = .next ((((entered x y z bar rm false).setS d (k.bnext.setWidth 64)).setS (d + 1)
        (promise x y z bar)).advance 32) := by
    rw [exec_brook, State.brookInstr, State.issueBrook_room hdesc hroom, henter]
    rfl
  have hpushed (x y z bar : Word) (rm : RoundMode) (hdesc : s.brookDesc s.cur (s.s a) none none sc = .ok (s, [x, y, z, bar], rm))
      (hroom : k.bq.length < 16) : exec (.engpush .brook a sc) s = .next ((entered x y z bar rm true).advance 32) := by
    rw [exec_engpush, State.pushFifo, State.pushBrook, State.release_released hreleased]
    simp only [State.issueBrook_room hdesc hroom, henter]
    rfl
  refine ⟨fun rm hfirst hcheck => ⟨fun hroom => ?_, fun hfull => ?_⟩, fun e hfirst hcheck => ?_, fun rm hfirst hcheck hroom => ?_,
    fun e hfirst hcheck => ?_, fun x y z bar rm hwaiting hkept hroom => ⟨?_, ?_⟩, fun hroom => ⟨fun op hop => ?_, fun e he => ?_⟩,
    fun hempty => ?_, fun x t hpop => ?_, fun hempty => ?_, fun x t hpop => ?_, fun hslot => ?_, fun hslot => ?_⟩
  · exact hissued _ _ _ _ _ (haccepted hfirst (some (s.s b)) (some conv) hcheck) hroom
  · rw [exec_brook, State.brookInstr, State.issueBrook_full (haccepted hfirst (some (s.s b)) (some conv) hcheck) hfull]
    rfl
  · rw [exec_brook, State.brookInstr, hrefused hfirst (some (s.s b)) (some conv) hcheck]
    rfl
  · exact hpushed _ _ _ _ _ (haccepted hfirst none none hcheck) hroom
  · rw [exec_engpush, State.pushFifo, State.pushBrook, State.release_released hreleased]
    simp only [hrefused hfirst none none hcheck]
    rfl
  · exact hissued _ _ _ _ _ (State.brookDesc_kept hwaiting hkept ..) hroom
  · exact hpushed _ _ _ _ _ (State.brookDesc_kept hwaiting hkept ..) hroom
  · rw [exec_engpush, State.pushFifo, State.pushMatrix_plain hspace halign hpl hreleased sc hroom, hop]
    rfl
  · rw [exec_engpush, State.pushFifo, State.pushMatrix_plain hspace halign hpl hreleased sc hroom, he]
    rfl
  · rw [exec_engpop, State.popFifo_matrix_nil hempty]
    rfl
  · rw [exec_engpop, State.popFifo_matrix_cons hpop]
    rfl
  · rw [exec_engpop, State.popFifo_brook_nil hempty]
    rfl
  · rw [exec_engpop, State.popFifo_brook_cons hpop]
    rfl
  · exact (exec_bevict s b).trans (if_pos hslot)
  · exact (exec_bevict s b).trans (if_neg (Nat.not_lt.2 hslot))

end Sys2Proof.Machine

namespace Sys2Proof.Machine

/-! A refused push to a full queue (R58, R178, R190): its trap reads the lane's handler table, and R100 rewrites an uncorrectable word
that the read meets. -/

open Sys2Proof.Tests in
/-- Lane 0 of core 0 with a full Brook queue, a record of zeros at raw byte 0x8000, and entry 0 of its handler table, the word 5 at raw byte
0x9000, uncorrectable. -/
def refusedPush : State :=
  let s := withSpad (here (fun l => { l with handlerbase := rawAt 0x9000 })) 0x9000 5
  { s.setMyCore { s.myCore with bq := List.replicate 16 ⟨1, 0, 0, 0, 64, 0, .rne, true, 0, 0, 0, false⟩ } with unc := [rawByte 0 0x48000] }

open Sys2Proof.Tests in
theorem refusedPush_record : ∀ i, i < 4 →
    refusedPush.plain (rawAt 0x8000 + BitVec.ofNat 64 (64 * i)) 64 (.raw (0x40000 + 64 * i)) := by
  intro i hi
  refine ⟨?_, rfl, ?_, .inl ⟨_, rfl⟩, ⟨rfl, rfl, rfl⟩, ⟨?_, List.not_mem_nil⟩, rfl⟩ <;> revert i <;> decide

/-- The byte of the handler's entry before the push. -/
theorem refusedPush_byte : Memory.byte refusedPush.mem (rawByte 0 0x48000) = 5 := by
  decide

open Sys2Proof.Tests in
/-- The push takes the trap of its record, and the entry is rewritten as zeros. -/
theorem refusedPush_rewrites : got (exec (.bcmdqPush .dev (rawAt 0x8000)) refusedPush)
    (fun t => (t.lane.trapcause, Memory.byte t.mem (rawByte 0 0x48000))) = some (Cause.illegal, 0) := by
  decide

open Sys2Proof.Tests in
/-- Refutes O10: a push to a full BCMDQ whose record breaks a rule takes its trap before it looks for room (R178), and the trap's read of
the handler table rewrites an uncorrectable entry (R100), so memory is not as it was. -/
theorem not_deviceRegisterResults : ¬ Obligations.DeviceRegisterResults := by
  unfold Obligations.DeviceRegisterResults
  intro h
  obtain ⟨hpush, -⟩ := h refusedPush .dev 0 (rawAt 0x8000) rfl
  obtain ⟨-, -, -, hfull⟩ := hpush (fun i => .raw (0x40000 + 64 * i)) ⟨⟨rfl, rfl, rfl⟩, by decide, rfl⟩ (by decide) (by decide)
    refusedPush_record
  obtain ⟨t, hexec, -, hmem⟩ := hfull (by decide) rfl
  have hrewritten := refusedPush_rewrites
  rw [hexec] at hrewritten
  have hbyte : Memory.byte t.mem (rawByte 0 0x48000) = 0 := congrArg Prod.snd (Option.some.inj hrewritten)
  rw [hmem, refusedPush_byte] at hbyte
  exact absurd hbyte (by decide)

end Sys2Proof.Machine

namespace Sys2Proof.Machine
theorem placeAt_whole (v : Word) : placeAt 0 64 v.toNat = v := by
  rw [placeAt, Nat.mod_eq_of_lt v.isLt, Nat.pow_zero, Nat.mul_one, word, BitVec.ofNat_toNat, BitVec.setWidth_eq]

theorem maskAt_whole : maskAt 0 64 = BitVec.allOnes 64 := by
  decide


/-! A spill area in the local raw window (R108). -/

/-- The bit address at which the local raw window begins (R17). -/
def rawStart : Nat := 0xC000000000000000

theorem decodeWindow_word_raw {x : Nat} (hlo : rawStart ≤ x) (hhi : x < rawStart + 2 ^ 21) :
    decodeWindow (word x) = some (.raw (x - rawStart)) := by
  unfold rawStart at *
  have hnat : (word x).toNat = x := by rw [word, BitVec.toNat_ofNat, Nat.mod_eq_of_lt (by omega)]
  have hspace : bits (word x) 62 59 = 8 := by rw [bits, hnat]; omega
  have hzero : bits (word x) 58 21 = 0 := by rw [bits, hnat]; omega
  have hoff : bits (word x) 20 0 = x - 0xC000000000000000 := by rw [bits, hnat]; omega
  have hbit : bit (word x) 63 = true := by
    show (word x).toNat.testBit 63 = true
    rw [hnat, Nat.testBit_eq_decide_div_mod_eq]
    simp only [decide_eq_true_eq]
    omega
  simp only [decodeWindow, hspace, hzero, hoff, hbit, Bool.not_true, Bool.false_eq_true, if_false, ne_eq, not_true_eq_false,
    show ¬(8 : Nat) = 0 by decide, show ¬(8 : Nat) = 1 by decide, show ¬(8 : Nat) = 2 by decide, show ¬(8 : Nat) < 8 by decide, if_true]

/-- A word of the window lies at a byte address of its own word. -/
theorem rawByte_word (core off : Nat) (h : off % 64 = 0) : rawByte core off / 8 * 8 = rawByte core off := by
  have hspad : Config.spadBase % 8 = 0 := by decide
  have hmgmt : Config.mgmtSpadBase % 8 = 0 := by decide
  have hoff : off % 2 ^ 19 % 64 = 0 := by omega
  unfold rawByte
  split <;> omega

/-- The word of the spill area at a bit address: its address and where an access of it goes. -/
def State.spillSlot (s : State) (x : Nat) : Word × Target := (word x, s.targetOf (.raw (x - rawStart)) (word x))

theorem State.spillSlot_pa (s : State) {x : Nat} (hlo : rawStart ≤ x) (halign : x % 64 = 0) :
    (s.spillSlot x).2.pa = rawByte s.cur.core (x - rawStart) := by
  have hoff : (x - rawStart) % 64 = 0 := by unfold rawStart at *; omega
  exact rawByte_word _ _ hoff

section Targets
variable (s : State) {k : Access} (hk : k = .store ∨ k = .load)
include hk

/-- An access of a word of the local raw window passes R27, whatever is in flight. -/
theorem State.fates_raw {x : Nat} (hlo : rawStart ≤ x) (hhi : x < rawStart + 2 ^ 21) (halign : x % 64 = 0) :
    s.fates s.cur (word x) 64 k = .ok (s, (s.spillSlot x).2) := by
  have hnat : (word x).toNat = x := by
    unfold rawStart at *
    rw [word, BitVec.toNat_ofNat, Nat.mod_eq_of_lt (by omega)]
  have haligned : aligned (word x) 64 = true := by
    have hdvd : x % 64 + 64 ≤ 64 := by omega
    simp [aligned, hnat, halign]
  have h4 : order4 (decide (Config.mgmtCore ≤ s.cur.core)) (.raw (x - rawStart)) (word x) 64 k = false := by
    rcases hk with rfl | rfl <;> rw [order4_direct rfl _ _ _ rfl rfl, haligned] <;> rfl
  have h3 : order3 (decide (Config.mgmtCore ≤ s.cur.core)) (.raw (x - rawStart)) k = false := rfl
  simp only [State.fates, State.resolve_direct (decodeWindow_word_raw hlo hhi) rfl h3 h4]
  rcases hk with rfl | rfl <;> rfl

/-- The words of a register pass their checks together. -/
theorem State.spillTargets_raw (n : Nat) {x : Nat} (hlo : rawStart ≤ x) (hhi : x + 64 * n ≤ rawStart + 2 ^ 21) (halign : x % 64 = 0) :
    s.spillTargets s.cur (word x) k n = .ok (s, (List.range n).map (fun i => s.spillSlot (x + 64 * i))) := by
  induction n generalizing x with
  | zero => rfl
  | succ n ih =>
    have hspace : spillSpace (word x) = true := by
      simp only [spillSpace, decodeWindow_word_raw hlo (by omega : x < rawStart + 2 ^ 21)]
    have hnext : word x + 64 = word (x + 64) := (BitVec.ofNat_add ..).symm
    have hrest := ih (x := x + 64) (by omega) (by omega) (by omega)
    have hslots : (fun i => s.spillSlot (x + 64 + 64 * i)) = (fun i => s.spillSlot (x + 64 * i)) ∘ Nat.succ := by
      funext i
      exact congrArg s.spillSlot (by simp only [Nat.succ_eq_add_one]; omega)
    simp only [State.spillTargets, hspace, Bool.not_true, Bool.false_eq_true, if_false, s.fates_raw hk hlo (by omega) halign, hnext, hrest,
      List.range_succ_eq_map, List.map_cons, List.map_map, hslots]
    rfl

end Targets

/-- No watchpoint stops a spill or fill of a core without one (R334). -/
theorem State.spillWatch_unwatched {s : State} (h : s.unwatched) (spill : Bool) (x n : Nat) : s.spillWatch spill x n = none := by
  simp only [State.spillWatch, State.watched_unwatched h]
  induction List.range n with
  | nil => rfl
  | cons i t ih => exact ih

/-! SPILLM: one whole store for each word (R108). -/

/-- The words of one register of a file (R108). -/
def fileWords (file : Bool) : Nat := if file then 4 else 1

/-- Word `j` of the registers of a file from register `d` up (R108). -/
def Lane.fileWord (l : Lane) (file : Bool) (d j : Nat) : Word :=
  if file then BitVec.ofNat 64 ((l.v (BitVec.ofNat 5 (d + j / 4))).toNat / 2 ^ (64 * (j % 4))) else l.s (BitVec.ofNat 5 (d + j))

theorem Lane.spillWords_eq (l : Lane) (file : Bool) (d n : Nat) (h : d ≤ n) :
    l.spillWords file n = (List.range (fileWords file)).map (fun i => l.fileWord file d ((n - d) * fileWords file + i)) := by
  cases file with
  | false =>
    have hn : d + ((n - d) * 1 + 0) = n := by omega
    simp only [Lane.spillWords, fileWords, Lane.fileWord, Bool.false_eq_true, if_false, List.range_one, List.map_cons, List.map_nil, hn]
  | true =>
    simp only [Lane.spillWords, fileWords, Lane.fileWord, if_true]
    refine List.map_congr_left fun i hi => ?_
    have hi4 := List.mem_range.1 hi
    rw [show (((n - d) * 4 + i) / 4) = n - d by omega, show ((n - d) * 4 + i) % 4 = i by omega, Nat.add_sub_cancel' h]

/-- What shows of an access in flight. -/
def Posted.effect (q : Posted) : Nat × WriteOp := (q.pa, q.op)

/-- Whole words stored at targets that begin at bit 0 and are no host memory: one access in flight for each, in order. -/
theorem State.postStores (xs : List ((Word × Target) × Word)) {s : State} (h : ∀ x ∈ xs, homeOf x.1.2.pa ≠ .pcie ∧ x.1.2.sh = 0) :
    ∃ ws : List Posted, xs.foldl (fun s x => s.postStore s.cur .lane s.turn x.1.1 x.1.2 64 x.2.toNat) s = s.withInflight (s.inflight ++ ws) ∧
      ws.map Posted.effect = xs.map (fun x => (x.1.2.pa, .store (BitVec.allOnes 64) x.2)) := by
  induction xs generalizing s with
  | nil => exact ⟨[], by rw [List.append_nil]; rfl, rfl⟩
  | cons x t ih =>
    obtain ⟨hhome, hsh⟩ := h x (List.mem_cons_self ..)
    obtain ⟨q, hpost, hpa, hop, -⟩ := s.post_inflight s.cur .lane s.turn x.1.1 (g := x.1.2)
      (.store (maskAt x.1.2.sh 64) (placeAt x.1.2.sh 64 x.2.toNat)) false hhome
    rw [hsh, maskAt_whole, placeAt_whole] at hop
    obtain ⟨ws, hrest, hws⟩ := ih (s := s.withInflight (s.inflight ++ [q])) (fun y hy => h y (List.mem_cons_of_mem _ hy))
    refine ⟨q :: ws, ?_, ?_⟩
    · rw [List.foldl_cons, State.postStore, hpost]
      refine hrest.trans ?_
      show s.withInflight (s.inflight ++ [q] ++ ws) = _
      rw [List.append_assoc, List.singleton_append]
    · rw [List.map_cons, List.map_cons, hws, Posted.effect, hpa, hop]

/-- The store of word `j` of a spill from bit address `x` up (R108). -/
def State.spillStore (s : State) (file : Bool) (d x j : Nat) : Nat × WriteOp :=
  (rawByte s.cur.core (x - rawStart + 64 * j), .store (BitVec.allOnes 64) (s.lane.fileWord file d j))

/-- One register of a spill whose words pass their checks. -/
theorem State.moveRegs_spill_succ {s : State} {file : Bool} {x d n : Nat} {ts : List (Word × Target)} (m : Nat)
    (h : s.spillTargets s.cur (word (x + (n - d) * 64 * fileWords file)) .store (fileWords file) = .ok (s, ts)) :
    s.moveRegs true file x d n (m + 1) = ((ts.zip (s.lane.spillWords file n)).foldl
      (fun s x => s.postStore s.cur .lane s.turn x.1.1 x.1.2 64 x.2.toNat) s).moveRegs true file x d (n + 1) m := by
  unfold fileWords at h
  simp only [State.moveRegs, if_true, h]

/-- The registers from `n` up are stored in order, and nothing else changes. -/
theorem State.moveRegs_spill {s : State} {file : Bool} {d x k : Nat} (hfile : fileWords file = k) (hlo : rawStart ≤ x) (halign : x % 64 = 0)
    (m : Nat) {n : Nat} (hn : d ≤ n) (hhi : x + 64 * ((n - d + m) * k) ≤ rawStart + 2 ^ 21) (qs : List Posted) :
    ∃ ws : List Posted, (s.withInflight qs).moveRegs true file x d n m = .ok (s.withInflight (qs ++ ws)) ∧
      ws.map Posted.effect = (List.range (m * k)).map (fun j => s.spillStore file d x ((n - d) * k + j)) := by
  induction m generalizing n qs with
  | zero => exact ⟨[], by rw [List.append_nil]; rfl, by rw [Nat.zero_mul]; rfl⟩
  | succ m ih =>
    let t := s.withInflight qs
    have hsum : 64 * ((n - d + (m + 1)) * k) = 64 * ((n - d) * k) + 64 * k + 64 * (m * k) := by ring
    have hnext : n + 1 - d = n - d + 1 := by omega
    have hsum' : (n + 1 - d + m) * k = (n - d) * k + k + m * k := by rw [hnext]; ring
    have hx : x + (n - d) * 64 * k = x + 64 * ((n - d) * k) := by ring
    have htargets := t.spillTargets_raw (.inl rfl) k (x := x + (n - d) * 64 * k) (by omega) (by omega) (by omega)
    have hwords : t.lane.spillWords file n = (List.range k).map (fun i => s.lane.fileWord file d ((n - d) * k + i)) := by
      subst hfile
      exact s.lane.spillWords_eq file d n hn
    rw [← hfile] at htargets
    rw [State.moveRegs_spill_succ m htargets, hfile, hwords, List.zip_map']
    have hslot : ∀ i, i < k → (t.spillSlot (x + (n - d) * 64 * k + 64 * i)).2.sh = 0 ∧
        homeOf (t.spillSlot (x + (n - d) * 64 * k + 64 * i)).2.pa ≠ .pcie ∧
        (t.spillSlot (x + (n - d) * 64 * k + 64 * i)).2.pa = rawByte s.cur.core (x - rawStart + 64 * ((n - d) * k + i)) := by
      intro i hi
      have hmul : 64 * i < 64 * k := by omega
      have hin : rawStart ≤ x + (n - d) * 64 * k + 64 * i := by omega
      have hdec := decodeWindow_word_raw hin (by omega)
      have hoff : x + (n - d) * 64 * k + 64 * i - rawStart = x - rawStart + 64 * ((n - d) * k + i) := by rw [Nat.mul_add]; omega
      refine ⟨?_, State.wordAt_not_pcie (s := t) hdec rfl, ?_⟩
      · have hlt : x + (n - d) * 64 * k + 64 * i < 2 ^ 64 := by unfold rawStart at *; omega
        show (word (x + (n - d) * 64 * k + 64 * i)).toNat % 64 = 0
        rw [word, BitVec.toNat_ofNat, Nat.mod_eq_of_lt hlt]
        omega
      · rw [t.spillSlot_pa hin (by omega), hoff]
        rfl
    obtain ⟨ws, hposts, hws⟩ := State.postStores ((List.range k).map (fun i => (t.spillSlot (x + (n - d) * 64 * k + 64 * i),
      s.lane.fileWord file d ((n - d) * k + i)))) (s := t) (by
        intro y hy
        obtain ⟨i, hi, rfl⟩ := List.mem_map.1 hy
        obtain ⟨hsh, hhome, -⟩ := hslot i (List.mem_range.1 hi)
        exact ⟨hhome, hsh⟩)
    obtain ⟨ws', hrest, hws'⟩ := ih (n := n + 1) (by omega) (by omega) (qs ++ ws)
    refine ⟨ws ++ ws', ?_, ?_⟩
    · rw [hposts]
      show (s.withInflight (qs ++ ws)).moveRegs true file x d (n + 1) m = _
      rw [hrest, List.append_assoc]
    · rw [List.map_append, hws, hws', Nat.succ_mul, Nat.add_comm (m * k), List.range_add, List.map_append, List.map_map, List.map_map]
      refine congrArg₂ (· ++ ·) (List.map_congr_left fun i hi => ?_) (List.map_congr_left fun i _ => ?_)
      · obtain ⟨-, -, hpa⟩ := hslot i (List.mem_range.1 hi)
        exact Prod.ext hpa rfl
      · have hindex : (n + 1 - d) * k + i = (n - d) * k + (k + i) := by rw [hnext]; ring
        exact congrArg (s.spillStore file d x) hindex

/-! FILLM: one answered read for each word (R108). -/

/-- `t` is at the same lane as `s`, nothing is in flight to a home, no word has an error, and every home reads as in `s`. -/
structure State.Quiet (s t : State) : Prop where
  cur : t.cur = s.cur
  settled : t.settled
  unc : t.unc = []
  corr : t.corr = []
  mem : t.mem = s.mem
  peek : ∀ pa, t.peek pa = s.peek pa

theorem State.Quiet.setLane {s t : State} (h : s.Quiet t) (l : Lane) : s.Quiet (t.setLane l) :=
  ⟨h.cur, h.settled, h.unc, h.corr, h.mem, fun pa => (State.setLaneAt_peek ..).trans (h.peek pa)⟩

theorem State.Quiet.clean {s t : State} (h : s.Quiet t) (pa : Nat) : t.clean pa := by
  rw [State.clean, h.unc, h.corr]
  exact ⟨List.not_mem_nil, List.not_mem_nil⟩

/-- Words read at their homes, in order, with nothing changed. -/
theorem State.readTargets {s t : State} (h : s.Quiet t) (c : LaneRef) (ts : List (Word × Target)) (ws : List Word) :
    ts.foldl (fun (acc : State × List Word) x => ((acc.1.homeWord c x.2.pa).1, acc.2 ++ [(acc.1.homeWord c x.2.pa).2.1])) (t, ws) =
      (t, ws ++ ts.map (fun x => s.peek x.2.pa)) := by
  induction ts generalizing ws with
  | nil => rw [List.foldl_nil, List.map_nil, List.append_nil]
  | cons x xs ih =>
    have hread := State.homeWord_clean h.settled (h.clean x.2.pa) c
    simp only [List.foldl_cons, hread, h.peek, List.map_cons]
    exact (ih _).trans (by rw [List.append_assoc, List.singleton_append])

/-- The lane after the `m` registers of a file from `n` up have taken their words, where `word j` is word `j` of the registers from `d` up. -/
def Lane.filled (word : Nat → Word) (file : Bool) (d : Nat) : Nat → Nat → Lane → Lane
  | _, 0, l => l
  | n, m + 1, l => Lane.filled word file d (n + 1) m
      (l.fillWords file n ((List.range (fileWords file)).map (fun i => word ((n - d) * fileWords file + i))))

/-- One register of a fill whose words pass their checks. -/
theorem State.moveRegs_fill_succ {s t : State} (ht : s.Quiet t) {file : Bool} {x d n : Nat} {ts : List (Word × Target)} (m : Nat)
    (h : t.spillTargets t.cur (word (x + (n - d) * 64 * fileWords file)) .load (fileWords file) = .ok (t, ts)) :
    t.moveRegs false file x d n (m + 1) =
      (t.setLane (t.lane.fillWords file n (ts.map (fun x => s.peek x.2.pa)))).moveRegs false file x d (n + 1) m := by
  unfold fileWords at h
  simp only [State.moveRegs, Bool.false_eq_true, if_false, h]
  exact congrArg (fun r : State × List Word => (r.1.setLane (r.1.lane.fillWords file n r.2)).moveRegs false file x d (n + 1) m)
    (State.readTargets ht t.cur ts [])

/-- The registers from `n` up take their words in order, and nothing but the lane changes. -/
theorem State.moveRegs_fill {s : State} {file : Bool} {d x k : Nat} (hfile : fileWords file = k) (hlo : rawStart ≤ x) (halign : x % 64 = 0)
    (m : Nat) {n : Nat} (hn : d ≤ n) (hhi : x + 64 * ((n - d + m) * k) ≤ rawStart + 2 ^ 21) {t : State} (ht : s.Quiet t) :
    ∃ u, t.moveRegs false file x d n m = .ok u ∧ s.Quiet u ∧
      u.lane = Lane.filled (fun j => s.peek (rawByte s.cur.core (x - rawStart + 64 * j))) file d n m t.lane := by
  induction m generalizing n t with
  | zero => exact ⟨t, rfl, ht, rfl⟩
  | succ m ih =>
    have hsum : 64 * ((n - d + (m + 1)) * k) = 64 * ((n - d) * k) + 64 * k + 64 * (m * k) := by ring
    have hsum' : (n + 1 - d + m) * k = (n - d) * k + k + m * k := by rw [show n + 1 - d = n - d + 1 by omega]; ring
    have hx : x + (n - d) * 64 * k = x + 64 * ((n - d) * k) := by ring
    have htargets := t.spillTargets_raw (.inr rfl) k (x := x + (n - d) * 64 * k) (by omega) (by omega) (by omega)
    have hwords : ((List.range k).map (fun i => t.spillSlot (x + (n - d) * 64 * k + 64 * i))).map (fun x => s.peek x.2.pa) =
        (List.range k).map (fun i => s.peek (rawByte s.cur.core (x - rawStart + 64 * ((n - d) * k + i)))) := by
      rw [List.map_map]
      refine List.map_congr_left fun i _ => ?_
      have hoff : x + (n - d) * 64 * k + 64 * i - rawStart = x - rawStart + 64 * ((n - d) * k + i) := by rw [Nat.mul_add]; omega
      show s.peek (t.spillSlot (x + (n - d) * 64 * k + 64 * i)).2.pa = _
      rw [t.spillSlot_pa (by omega) (by omega), hoff, ht.cur]
    rw [← hfile] at htargets
    obtain ⟨u, hrest, hu, hlane⟩ := ih (n := n + 1) (by omega) (by omega) (ht.setLane (t.lane.fillWords file n
      ((List.range k).map (fun i => s.peek (rawByte s.cur.core (x - rawStart + 64 * ((n - d) * k + i)))))))
    refine ⟨u, ?_, hu, ?_⟩
    · rw [State.moveRegs_fill_succ ht m htargets, hfile, hwords, hrest]
    · rw [hlane, State.setLane_lane, Lane.filled, hfile]

/-! What a filled lane's registers hold (R49, R108). -/

section Filled
variable (word : Nat → Word) {d : Nat} (m : Nat) {n : Nat} (hd : d ≤ n) (hm : n + m ≤ 32) (l : Lane)

theorem Lane.fillWords_pc (file : Bool) (n : Nat) (ws : List Word) : (l.fillWords file n ws).pc = l.pc := by
  cases file
  · exact Lane.setS_pc ..
  · exact Lane.setV_pc ..

theorem Lane.filled_pc (file : Bool) : (Lane.filled word file d n m l).pc = l.pc := by
  induction m generalizing n l with
  | zero => rfl
  | succ m ih => rw [Lane.filled, ih, Lane.fillWords_pc]

theorem Lane.filled_v_scalar (r : VReg) : (Lane.filled word false d n m l).v r = l.v r := by
  induction m generalizing n l with
  | zero => rfl
  | succ m ih =>
    rw [Lane.filled, ih]
    exact congrArg (fun x : Vector VWord 32 => x[r.toNat]'(r.isLt)) (Lane.setS_vreg ..)

theorem Lane.filled_s_vector (r : Reg) : (Lane.filled word true d n m l).s r = l.s r := by
  induction m generalizing n l with
  | zero => rfl
  | succ m ih =>
    rw [Lane.filled, ih]
    rfl

include hd hm

theorem Lane.filled_s_scalar (r : Reg) : (Lane.filled word false d n m l).s r =
    if r ≠ 0 ∧ n ≤ r.toNat ∧ r.toNat < n + m then word (r.toNat - d) else l.s r := by
  induction m generalizing n l with
  | zero => exact (if_neg (by omega)).symm
  | succ m ih =>
    have hn : (BitVec.ofNat 5 n).toNat = n := by rw [BitVec.toNat_ofNat]; omega
    have hfill : l.fillWords false n ((List.range (fileWords false)).map (fun i => word ((n - d) * fileWords false + i))) =
        l.setS (BitVec.ofNat 5 n) (word (n - d)) := by
      show l.setS _ (word ((n - d) * 1 + 0)) = _
      rw [Nat.mul_one, Nat.add_zero]
    rw [Lane.filled, hfill, ih (by omega) (by omega), Lane.s_setS]
    by_cases hr : r = 0
    · rw [if_neg (fun h => h.1 hr), if_pos hr, if_neg (fun h => h.1 hr), hr]
      rfl
    · by_cases hrn : r = BitVec.ofNat 5 n
      · subst hrn
        rw [hn, if_neg (by omega), if_neg hr, if_pos rfl, if_pos ⟨hr, le_refl n, by omega⟩]
      · have hne : r.toNat ≠ n := fun h => hrn (BitVec.eq_of_toNat_eq (h.trans hn.symm))
        rw [if_neg hr, if_neg hrn]
        exact if_congr (and_congr_right fun _ => by omega) rfl rfl

theorem Lane.filled_v_vector (r : VReg) : (Lane.filled word true d n m l).v r =
    if n ≤ r.toNat ∧ r.toNat < n + m then BitVec.ofNat 256 (((List.range 4).map (fun i => word ((r.toNat - d) * 4 + i))).zipIdx.foldl
      (fun x w => x + w.1.toNat * 2 ^ (64 * w.2)) 0) else l.v r := by
  induction m generalizing n l with
  | zero => exact (if_neg (by omega)).symm
  | succ m ih =>
    have hn : (BitVec.ofNat 5 n).toNat = n := by rw [BitVec.toNat_ofNat]; omega
    rw [Lane.filled, ih (by omega) (by omega)]
    show (if _ then _ else (l.setV (BitVec.ofNat 5 n) _).v r) = _
    rw [Lane.v_setV]
    by_cases hrn : r = BitVec.ofNat 5 n
    · subst hrn
      rw [hn, if_neg (by omega), if_pos rfl, if_pos ⟨le_refl n, by omega⟩]
      rfl
    · have hne : r.toNat ≠ n := fun h => hrn (BitVec.eq_of_toNat_eq (h.trans hn.symm))
      rw [if_neg hrn]
      exact if_congr (by omega) rfl rfl

end Filled

/-- Four 64-bit words side by side, and each of them again. -/
theorem split_words {a b c d : Nat} (ha : a < 2 ^ 64) (hb : b < 2 ^ 64) (hc : c < 2 ^ 64) (hd : d < 2 ^ 64) {i : Nat} (hi : i < 4) :
    (a + b * 2 ^ 64 + c * 2 ^ 128 + d * 2 ^ 192) % 2 ^ 256 / 2 ^ (64 * i) % 2 ^ 64 = [a, b, c, d].getD i 0 := by
  have hlt : a + b * 2 ^ 64 + c * 2 ^ 128 + d * 2 ^ 192 < 2 ^ 256 := by omega
  rw [Nat.mod_eq_of_lt hlt]
  match i, hi with
  | 0, _ => show _ / 2 ^ 0 % _ = a; omega
  | 1, _ => show _ / 2 ^ 64 % _ = b; omega
  | 2, _ => show _ / 2 ^ 128 % _ = c; omega
  | 3, _ => show _ / 2 ^ 192 % _ = d; omega

theorem foldl_four (g : Word → Nat → Nat) (a b c d : Word) :
    [a, b, c, d].zipIdx.foldl (fun x w => x + g w.1 w.2) 0 = g a 0 + g b 1 + g c 2 + g d 3 := by
  simp only [List.zipIdx_cons, List.zipIdx_nil, List.foldl_cons, List.foldl_nil, Nat.zero_add, Nat.reduceAdd]

/-- The parts of a vector register taken from four words. -/
theorem vector_part (f : Nat → Word) {i : Nat} (hi : i < 4) :
    (BitVec.ofNat 256 (((List.range 4).map f).zipIdx.foldl (fun x w => x + w.1.toNat * 2 ^ (64 * w.2)) 0)).toNat / 2 ^ (64 * i) % 2 ^ 64 =
      (f i).toNat := by
  have hlist : (List.range 4).map f = [f 0, f 1, f 2, f 3] := rfl
  rw [hlist, foldl_four (fun w i => w.toNat * 2 ^ (64 * i))]
  simp only [BitVec.toNat_ofNat, Nat.mul_zero, Nat.pow_zero, Nat.mul_one, Nat.reduceMul]
  rw [split_words (f 0).isLt (f 1).isLt (f 2).isLt (f 3).isLt hi]
  match i, hi with
  | 0, _ | 1, _ | 2, _ | 3, _ => rfl

/-! SPILLM and FILLM as a whole (R108). -/

/-- A spill or fill completes with SPILLPTR at `y`. -/
def State.spilled (s : State) (y : Nat) : State := (s.setLane { s.lane with spillptr := word y }).advance 32

theorem State.spilled_lane (s : State) (y : Nat) : (s.spilled y).lane = ({ s.lane with spillptr := word y } : Lane).advance 32 := by
  rw [State.spilled, State.advance_lane, State.setLane_lane]

section SpillFill
variable {s : State} {d a : Reg} {file : Bool} (hspv : s.lane.spv = false) (hend : s.lane.spvEnd = false)
include hspv hend

omit hspv in
/-- Where the area is too small, both trap with the size, nothing moved. -/
theorem State.spillFill_limit (spill : Bool) (h : ¬(if spill then s.lane.spillbase.toNat ≤ s.lane.spillptr.toNat ∧
      s.lane.spillptr.toNat + (a.toNat - d.toNat + 1) * (64 * fileWords file) ≤ s.lane.spilllim.toNat
    else s.lane.spillptr.toNat ≤ s.lane.spilllim.toNat ∧
      s.lane.spillbase.toNat + (a.toNat - d.toNat + 1) * (64 * fileWords file) ≤ s.lane.spillptr.toNat)) :
    s.spillFill spill d a file = .error (.trap s Cause.spillLimit (word ((a.toNat - d.toNat + 1) * (64 * fileWords file)))) := by
  unfold fileWords at h ⊢
  unfold State.spillFill
  cases spill <;> simp only [Bool.false_eq_true, if_false, if_true] at h <;> simp only [hend, Bool.false_eq_true, if_false, if_true,
    ← Bool.decide_and, h, decide_false, Bool.not_false]

/-- Where it is large enough, the registers move in order, and SPILLPTR with them. -/
theorem State.spillFill_moves (spill : Bool) (hwaiting : s.lane.waiting = none) (hunwatched : s.unwatched) (hda : d.toNat ≤ a.toNat)
    (h : if spill then s.lane.spillbase.toNat ≤ s.lane.spillptr.toNat ∧
      s.lane.spillptr.toNat + (a.toNat - d.toNat + 1) * (64 * fileWords file) ≤ s.lane.spilllim.toNat
    else s.lane.spillptr.toNat ≤ s.lane.spilllim.toNat ∧
      s.lane.spillbase.toNat + (a.toNat - d.toNat + 1) * (64 * fileWords file) ≤ s.lane.spillptr.toNat) {x y : Nat}
    (hx : x = if spill then s.lane.spillptr.toNat else s.lane.spillptr.toNat - (a.toNat - d.toNat + 1) * (64 * fileWords file))
    (hy : y = if spill then s.lane.spillptr.toNat + (a.toNat - d.toNat + 1) * (64 * fileWords file)
      else s.lane.spillptr.toNat - (a.toNat - d.toNat + 1) * (64 * fileWords file))
    {t : State} (hmoves : s.moveRegs spill file x d.toNat d.toNat (a.toNat - d.toNat + 1) = .ok t) :
    s.spillFill spill d a file = .ok (t.spilled y) := by
  have hcount : a.toNat + 1 - d.toNat = a.toNat - d.toNat + 1 := by omega
  rw [← hcount] at hmoves
  subst hx hy
  unfold fileWords at h hmoves ⊢
  unfold State.spillFill
  cases spill <;> simp only [Bool.false_eq_true, if_false, if_true] at h hmoves ⊢ <;> obtain ⟨hfirst, hlast⟩ := h <;>
    simp only [hend, hspv, hwaiting, hfirst, hlast, hmoves, State.spillWatch_unwatched hunwatched, Bool.false_eq_true, if_false,
      decide_true, Bool.not_true, Bool.false_and, Bool.and_self, Option.isSome_none, State.spilled]

end SpillFill

/-- Settles O35: each word of the range passes its checks at its own place in the local raw window (`State.spillTargets_raw`), and the
registers move one after the other (`State.moveRegs_spill`, `State.moveRegs_fill`). -/
theorem spillFillResults : Obligations.SpillFillResults := by
  intro s d a file k z size ptr hda hk hz hsize hptr hspv hend hwaiting halign hsettled hunc hcorr hunwatched
  have hfile : fileWords file = k := hk.symm
  have hbytes : size = (a.toNat - d.toNat + 1) * (64 * fileWords file) := by rw [hsize, hz, hfile]
  have ha := a.isLt
  have hspill : exec (.spillm d a file) s = finish (.spillm d a file) (s.spillFill true d a file) := rfl
  have hfill : exec (.fillm d a file) s = finish (.fillm d a file) (s.spillFill false d a file) := rfl
  have hmul : size = 64 * ((a.toNat - d.toNat + 1) * k) := by rw [hsize, hz]; ring
  subst hptr
  refine ⟨fun hlo hhi hbase hlim => ?_, fun hfit hlo hhi hbase hlim => ?_, fun hbad => ?_, fun hbad => ?_⟩
  · obtain ⟨ws, hmoves, hws⟩ := State.moveRegs_spill (s := s) hfile (x := s.lane.spillptr.toNat) hlo halign
      (a.toNat - d.toNat + 1) (le_refl d.toNat) (by rw [Nat.sub_self, Nat.zero_add, ← hmul]; exact hhi) s.inflight
    obtain ⟨hempty, -⟩ := hsettled
    rw [hempty, List.nil_append] at hmoves
    have hself : s.withInflight [] = s := by rw [← hempty]; rfl
    rw [hself] at hmoves
    rw [hspill, State.spillFill_moves hspv hend true hwaiting hunwatched hda ⟨hbase, hbytes ▸ hlim⟩ rfl
      (y := s.lane.spillptr.toNat + size) (by rw [hbytes]; rfl) hmoves]
    have hlane := (s.withInflight ws).spilled_lane (s.lane.spillptr.toNat + size)
    have hsizes : size / 64 = (a.toNat - d.toNat + 1) * k := by omega
    refine ⟨_, rfl, ?_, ?_, fun n => ?_, fun n => ?_, rfl, ?_⟩
    · rw [hlane]
      show (word (s.lane.spillptr.toNat + size)).toNat = _
      rw [word, BitVec.toNat_ofNat, Nat.mod_eq_of_lt (by omega)]
    · rw [hlane]
      rfl
    · rw [hlane]
      rfl
    · rw [hlane]
      rfl
    · show ws.map Posted.effect = _
      rw [hws, hsizes]
      refine List.map_congr_left fun j _ => ?_
      rw [Nat.sub_self, Nat.zero_mul, Nat.zero_add]
      rfl
  · have hquiet : s.Quiet s := ⟨rfl, hsettled, hunc, hcorr, rfl, fun _ => rfl⟩
    obtain ⟨u, hmoves, hu, hfilled⟩ := State.moveRegs_fill (s := s) hfile (x := s.lane.spillptr.toNat - size) hlo (by omega)
      (a.toNat - d.toNat + 1) (le_refl d.toNat) (by rw [Nat.sub_self, Nat.zero_add, ← hmul]; unfold rawStart; omega) hquiet
    rw [hfill, State.spillFill_moves hspv hend false hwaiting hunwatched hda ⟨hlim, hbytes ▸ hbase⟩ (by rw [hbytes]; rfl)
      (y := s.lane.spillptr.toNat - size) (by rw [hbytes]; rfl) hmoves]
    have hlane := u.spilled_lane (s.lane.spillptr.toNat - size)
    have hrange (n : BitVec 5) : d.toNat ≤ n.toNat ∧ n.toNat < d.toNat + (a.toNat - d.toNat + 1) ↔ d.toNat ≤ n.toNat ∧ n.toNat ≤ a.toNat := by
      omega
    have hregs : d.toNat + (a.toNat - d.toNat + 1) ≤ 32 := by omega
    refine ⟨_, rfl, ?_, ?_, hu.mem, hu.settled.1, fun hscalar => ?_, fun hvector => ?_⟩
    · rw [hlane]
      show (word (s.lane.spillptr.toNat - size)).toNat = _
      rw [word, BitVec.toNat_ofNat, Nat.mod_eq_of_lt (by omega)]
    · rw [hlane]
      show u.lane.pc + 32 = _
      rw [hfilled, Lane.filled_pc]
    · subst hscalar
      refine ⟨fun n => ?_, fun n => ?_⟩
      · rw [hlane]
        show u.lane.v n = _
        rw [hfilled, Lane.filled_v_scalar]
      · rw [hlane]
        show u.lane.s n = _
        rw [hfilled, Lane.filled_s_scalar _ _ (le_refl _) hregs]
        exact if_congr (and_congr_right fun _ => hrange n) rfl rfl
    · subst hvector
      refine ⟨fun n => ?_, fun n => ?_⟩
      · rw [hlane]
        show u.lane.s n = _
        rw [hfilled, Lane.filled_s_vector]
      · have hv := Lane.filled_v_vector (fun j => s.peek (rawByte s.cur.core (s.lane.spillptr.toNat - size - rawStart + 64 * j)))
          (a.toNat - d.toNat + 1) (le_refl d.toNat) hregs s.lane n
        rw [← hfilled, if_congr (hrange n) rfl rfl] at hv
        rw [hlane]
        by_cases hin : d.toNat ≤ n.toNat ∧ n.toNat ≤ a.toNat
        · rw [if_pos hin] at hv ⊢
          intro i hi
          show (u.lane.v n).toNat / 2 ^ (64 * i) % 2 ^ 64 = _
          rw [hv, vector_part _ hi, Nat.mul_comm 4]
          rfl
        · rw [if_neg hin] at hv ⊢
          exact hv
  · rw [hspill, State.spillFill_limit hend true (by rw [← hbytes]; exact hbad), ← hbytes]
    rfl
  · rw [hfill, State.spillFill_limit hend false (by rw [← hbytes]; exact hbad), ← hbytes]
    rfl

end Sys2Proof.Machine

namespace Sys2Proof.Machine

/-! A store that a link holds back (R331). -/

theorem Table.mem_of_find {α : Type} {t : List (Nat × α)} {n : Nat} {x : α} (h : Table.find t n = some x) : (n, x) ∈ t := by
  induction t with
  | nil => cases h
  | cons y t ih =>
    obtain ⟨k, w⟩ := y
    by_cases hk : k = n
    · subst hk
      rw [Table.find, if_pos rfl] at h
      cases h
      exact List.mem_cons_self ..
    · rw [Table.find, if_neg hk] at h
      exact List.mem_cons_of_mem _ (ih h)

/-- A link that retrains is not clear. -/
theorem State.linksClear_of_down {s : State} {n : Nat} (h : (s.link n).down = true) : s.linksClear = false := by
  refine Bool.eq_false_iff.2 fun hclear => ?_
  cases hfind : Table.find s.links n with
  | none =>
    rw [State.link, Table.get, hfind] at h
    exact absurd h (by decide)
  | some x =>
    rw [State.link, Table.get, hfind] at h
    have hx : (!x.down && x.fails == 0) = true := List.all_eq_true.1 hclear (n, x) (Table.mem_of_find hfind)
    rw [show x.down = true from h] at hx
    exact absurd hx (by simp)

/-- A posted access whose path has a link that retrains stays where it is. -/
theorem State.postWait_down {s : State} {q : Posted} {n : Nat} (hpath : n ∈ q.path) (hdown : (s.link n).down = true) (k : Nat) :
    s.postWait k q = true := by
  have hstopped : (s.link n).stopped = true := by rw [Link.stopped, hdown, Bool.true_or]
  rw [State.postWait, State.heldOn, State.linksClear_of_down hdown, Bool.not_false, Bool.true_and]
  exact List.any_eq_true.2 ⟨n, hpath, by rw [hstopped, Bool.true_or]⟩

section Held
variable {s : State} {q : Posted} {n : Nat} (hflight : s.inflight = [q]) (hdropped : s.dropped = []) (hpath : n ∈ q.path)
  (hdown : (s.link n).down = true)
include hflight hdropped hpath hdown

/-- The only access in flight, held by a link, is not drained. -/
theorem State.drain_down (p : Posted → Bool) : s.drain p = s := by
  have hwait := State.postWait_down hpath hdown 0
  have hmoves : s.movable (needed p [q]) = [(q, false)] := by
    simp [State.movable, needed, hwait]
  unfold State.drain
  simp only [hflight, State.linksClear_of_down hdown, Bool.false_eq_true, if_false, hmoves]
  cases s
  simp only at hflight hdropped
  subst hflight hdropped
  rfl

/-- ENDH waits for a store of the lane that a link holds (R96, R331). -/
theorem State.endh_waits {r : LaneRef} (hwho : q.who = r) (hwriter : q.writer = .lane) : s.endh r = .error (.wait s 6) := by
  have hdrain : s.drainLane r = s := State.drain_down hflight hdropped hpath hdown _
  have hlanded : s.landed r (· == .lane) = false := by simp [State.landed, hflight, hwho, hwriter]
  simp only [State.endh, hdrain, hlanded, Bool.false_eq_true, if_false]

end Held

/-- ENDH of an activation by the only message of its ring leaves the lane idle (R96). -/
theorem State.endh_last {s : State} {r : LaneRef} {e : RingEntry} (huntraced : s.untraced r) (hsettled : s.settled)
    (hactive : (s.laneAt r).active = true) (hring : (s.laneAt r).ring = [e]) :
    s.endh r = .ok (s.setLaneAt r { (s.laneAt r).ended with ring := [], pool := Pool.endTile (s.laneAt r).pool e }) := by
  have hdrain : s.drainLane r = s := State.drain_settled hsettled _
  have hlanded : s.landed r (· == .lane) = true := by simp [State.landed, hsettled.1]
  have hempty : ((s.setLaneAt r { (s.laneAt r).ended with ring := [], pool := Pool.endTile (s.laneAt r).pool e }).laneAt r).ring = [] := by
    rw [State.setLaneAt_laneAt_same]
  simp only [State.endh, hdrain, hlanded, if_true, State.trace_off huntraced, State.endActivation_active hactive hring,
    State.dispatchNow_empty hempty]

/-! Compact branches and jumps (R68, R69). -/

/-- Where a taken compact branch or jump leaves the lane: in inline code a target beyond the twelfth parcel ends the activation (R69). -/
def State.compactGoes (s : State) (pc : Word) : State :=
  let j := s.setLane (s.lane.jump pc)
  if s.lane.inl && !s.lane.intrap && s.pastInline s.cur pc then j.endPast s.cur else j

section Branch
variable {s : State} (huntraced : s.untraced s.cur)
include huntraced

/-- A branch of an untraced core is its jump. -/
theorem State.branchTo_untraced (pc : Word) : s.branchTo pc = s.setLane (s.lane.jump pc) :=
  State.trace_off (State.setLaneAt_untraced huntraced _) 3 pc

theorem State.compactTo_untraced (pc : Word) : s.compactTo pc = s.compactGoes pc := by
  rw [State.compactTo, State.branchTo_untraced huntraced]
  rfl

/-- A compact branch goes on at its target where its condition on s[a] and 0 holds. -/
theorem State.compactBranch_untraced (c : BCond) (a : Reg) (off : BitVec 6) : s.compactBranch c a off =
    if c.holds (s.s a) 0 then s.compactGoes (s.lane.pc + off.zeroExtend 64 * 16) else s.advance 16 := by
  have htarget : word (16 * off.toNat) = off.zeroExtend 64 * 16 := by
    refine BitVec.eq_of_toNat_eq ?_
    have hoff := off.isLt
    simp [word, Nat.mul_comm]
  rw [State.compactBranch, State.compactTo_untraced huntraced, htarget]
  rfl

/-- The compact JALR jumps to s[a], or traps where the address is not a parcel's. -/
theorem exec_jalrCompact (a : Reg) : exec (.jalrCompact a) s =
    if (s.s a).toNat % 16 = 0 then .next (s.setLane (s.lane.jump (s.s a))) else .next (s.takeTrap Cause.alignment (s.s a)) := by
  have hbits : bits (s.s a) 3 0 = (s.s a).toNat % 16 := bits_low (s.s a) (n := 4) (by decide)
  have hexec : exec (.jalrCompact a) s = jumpReg 0 (s.s a) 16 s := rfl
  rw [hexec, jumpReg, hbits]
  by_cases halign : (s.s a).toNat % 16 = 0
  · rw [if_neg (not_not.2 halign), if_pos halign]
    have hjump := State.branchTo_untraced (s := s.setS 0 (s.lane.pc + word 16)) (State.setLaneAt_untraced huntraced _) (s.s a)
    have hlane : (s.setS 0 (s.lane.pc + word 16)).lane = s.lane := State.setLane_lane ..
    rw [hjump, hlane]
    exact congrArg Host.Outcome.next (State.setLane_setLaneAt ..)
  · rw [if_pos halign, if_neg halign]

end Branch

/-- Settles O40: ENDH ends an activation or waits (`State.endh_last`, `State.endh_waits`), and each compact control form is one jump. -/
theorem endhAndCompactControlResults : Obligations.EndhAndCompactControlResults := by
  intro s a off far huntraced goes
  have hendh (i : Instr) (hi : i = .endh ∨ i = .endhCompact) : exec i s = finish i (s.endh s.cur) := by
    rcases hi with rfl | rfl <;> rfl
  have heq : BCond.eq.holds (s.s a) 0 = true ↔ s.s a = 0 := beq_iff_eq
  have hne : BCond.ne.holds (s.s a) 0 = true ↔ s.s a ≠ 0 := bne_iff_ne
  have hbeq : exec (.beqCompact a off) s = .next (s.compactBranch .eq a off) := rfl
  have hbne : exec (.bneCompact a off) s = .next (s.compactBranch .ne a off) := rfl
  have hjal : exec (.jalCompact far) s = .next (s.compactTo (s.lane.pc + far.signExtend 64 * 16)) := rfl
  rw [State.compactBranch_untraced huntraced] at hbeq hbne
  rw [State.compactTo_untraced huntraced] at hjal
  refine ⟨fun i hi => ⟨fun t ht => ?_, fun q n hflight hdropped hwho hwriter hpath hdown => ?_⟩, fun e hactive hring hsettled => ?_,
    fun hzero => ⟨?_, ?_⟩, fun hzero => ⟨?_, ?_⟩, hjal, fun halign => ?_, fun halign => ?_⟩
  · rw [hendh i hi, ht]
    rfl
  · rw [hendh i hi, State.endh_waits hflight hdropped hpath hdown hwho hwriter]
    rfl
  · have hlast := State.endh_last huntraced hsettled hactive hring
    refine ⟨_, (hendh .endh (.inl rfl)).trans (by rw [hlast]; rfl), (hendh .endhCompact (.inr rfl)).trans (by rw [hlast]; rfl), ?_⟩
    rw [show ∀ l, (s.setLaneAt s.cur l).lane = l from fun l => State.setLane_lane s l]
    exact ⟨rfl, rfl, rfl, rfl, fun x => rfl⟩
  · exact hbeq.trans (congrArg Host.Outcome.next (if_pos (heq.2 hzero)))
  · exact hbne.trans (congrArg Host.Outcome.next (if_neg (fun h => hne.1 h hzero)))
  · exact hbne.trans (congrArg Host.Outcome.next (if_pos (hne.2 hzero)))
  · exact hbeq.trans (congrArg Host.Outcome.next (if_neg (fun h => hzero (heq.1 h))))
  · exact (exec_jalrCompact huntraced a).trans (if_pos halign)
  · exact (exec_jalrCompact huntraced a).trans (if_neg halign)

end Sys2Proof.Machine

namespace Sys2Proof.Machine

/-! A debug request at a core (R336). -/

/-- The fields of a request as R336 places them. -/
theorem dbgReqOf_eq (ws : Msg) :
    let h := (ws.headD 0).toNat
    let w := (ws.getD 1 0).toNat
    dbgReqOf ws = ⟨w % 16, w / 2 ^ 4 % 4, w / 2 ^ 8 % 4, w / 2 ^ 16 % 2 ^ 12, ws.getD 2 0, ws.getD 3 0, h / 2 ^ 28 % 256⟩ := by
  intro h w
  have hop : bits (ws.getD 1 0) 3 0 = w % 16 := bits_low (ws.getD 1 0) (n := 4) (by decide)
  unfold dbgReqOf
  dsimp only
  rw [hop]
  rfl

section Take
variable {s : State} {src : Nat} {lane : Option Nat} {c : Nat} {ws : Msg} (hmesh : s.mesh = [⟨src, lane, c, ws⟩]) (hlinks : s.linksClear = true)
  (hstuck : s.stuck = []) (hbuf : ∀ l e, ((s.core c).lane l).ejbuf = some e → e.flight.isDebug = false)
  (hmb : (ws.headD 0).toNat / 2 ^ 61 % 2 = 0) (hclass : (ws.headD 0).toNat / 2 ^ 22 % 64 = 60)
include hmb hclass

theorem Flight.isDebug_of_fields : (⟨src, lane, c, ws⟩ : Flight).isDebug = true := by
  have hbit : hdrMb (ws.headD 0) = false := by
    show (ws.headD 0).toNat.testBit 61 = false
    rw [Nat.testBit_eq_decide_div_mod_eq, hmb]
    rfl
  have hcls : hdrClass (ws.headD 0) = 60 := hclass
  rw [Flight.isDebug, hbit, hcls]
  rfl

include hmesh hlinks hstuck hbuf

omit hstuck in
/-- It may arrive: no message waits before it on its own channel. -/
theorem State.arriving_debug : s.arriving c 0 = some (0, ⟨src, lane, c, ws⟩) := by
  have hdebug := Flight.isDebug_of_fields (src := src) (lane := lane) (c := c) hmb hclass
  have hlanes := Core.lanes_all (P := fun l => ∀ e, l.ejbuf = some e → e.flight.isDebug = false) hbuf
  have hheld : s.inputHeld ⟨src, lane, c, ws⟩ = false := by simp [State.inputHeld, hdebug]
  have hwait : s.linkWait 0 ⟨src, lane, c, ws⟩ = false := by simp [State.linkWait, State.heldOn_clear hlinks]
  unfold State.arriving
  simp only [hmesh, List.zipIdx_cons, List.zipIdx_nil, List.filter_cons, beq_self_eq_true, if_true, List.filter_nil,
    List.getElem?_cons_zero, List.take_zero, List.any_nil, hheld, hwait, Bool.or_false, Bool.false_or]
  refine if_neg ?_
  rw [Bool.not_eq_true]
  refine List.any_eq_false.mpr fun x hx => ?_
  cases hx' : x.ejbuf with
  | none => exact Bool.false_ne_true
  | some e =>
    have hother := hlanes x hx e hx'
    simp [Flight.inOrder, hdebug, hother]

/-- An event that takes requests of its OP takes it. -/
theorem State.dbgTake_debug {ok : Nat → Bool} (hok : ok ((ws.getD 1 0).toNat % 16) = true) :
    s.dbgTake c 0 ok = some (s.withMesh [], dbgReqOf ws) := by
  have hkind : s.msgKind c ws = .debug := by
    have hbit : hdrMb (ws.headD 0) = false := by
      have hdebug := Flight.isDebug_of_fields (src := src) (lane := lane) (c := c) hmb hclass
      rw [Flight.isDebug, Bool.and_eq_true, Bool.not_eq_true'] at hdebug
      exact hdebug.1
    have hcls : hdrClass (ws.headD 0) = 60 := hclass
    simp only [State.msgKind, hbit, hcls, Bool.false_eq_true, if_false]
  have hunflight : s.unflight 0 = s.withMesh [] := by
    simp [State.unflight, hmesh, State.passLinks_clear hlinks, dropAt, State.withMesh, hstuck]
  have hop : ok (dbgReqOf ws).op = true := by rw [dbgReqOf_eq]; exact hok
  simp only [State.dbgTake, State.arriving_debug hmesh hlinks hbuf hmb hclass, hkind, hop, and_self, if_true, hunflight]

end Take

/-! Module registers (R333). -/

section Registers
variable (k : Core)

theorem Core.dbgRead_control : k.dbgRead 0 = some (BitVec.ofNat 64 (k.dbg.arm.toNat + k.dbg.ten.toNat * 2 ^ 4 + k.dbg.tlm.toNat * 2 ^ 8 +
    k.dbg.tkind.toNat * 2 ^ 16)) := by
  show some (word (k.dbg.arm.toNat + b2n k.dbg.ten * 2 ^ 4 + k.dbg.tlm.toNat * 2 ^ 8 + k.dbg.tkind.toNat * 2 ^ 16)) = _
  cases k.dbg.ten <;> rfl

theorem Core.dbgRead_status : k.dbgRead 1 = some (BitVec.ofNat 64 ((k.lane 0).dstop.toNat + (k.lane 1).dstop.toNat * 2 +
    (k.lane 2).dstop.toNat * 4 + (k.lane 3).dstop.toNat * 8)) := by
  have hnat (b : Bool) : b2n b = b.toNat := by cases b <;> rfl
  show some (word (0 + b2n (k.lane 0).dstop * 2 ^ 0 + b2n (k.lane 1).dstop * 2 ^ 1 + b2n (k.lane 2).dstop * 2 ^ 2 +
    b2n (k.lane 3).dstop * 2 ^ 3)) = _
  rw [Nat.zero_add, Nat.pow_zero, Nat.mul_one, hnat, hnat, hnat, hnat]
  rfl

theorem Core.dbgRead_lanes (n : Fin 4) : k.dbgRead (2 + n.val) = some k.dbg.bp[n] ∧ k.dbgRead (16 + n.val) = some k.dbg.dpc[n] ∧
    k.dbgRead (20 + n.val) = some ((k.dbg.dcause[n]).setWidth 64) ∧ k.dbgRead (24 + n.val) = some k.dbg.dval[n] := by
  match n with
  | 0 | 1 | 2 | 3 => exact ⟨rfl, rfl, rfl, rfl⟩

theorem Core.dbgRead_watch (n : Fin 2) : k.dbgRead (7 + n.val) = some k.dbg.wp[n] := by
  match n with
  | 0 | 1 => rfl

/-- The numbers without a register. -/
theorem Core.dbgRead_absent {n : Nat} (h : (12 ≤ n ∧ n < 16) ∨ 28 ≤ n) : k.dbgRead n = none := by
  obtain ⟨m, rfl⟩ : ∃ m, n = m + 12 := ⟨n - 12, by omega⟩
  unfold Core.dbgRead
  simp only
  rw [if_neg (by omega), if_neg (by omega), if_neg (by omega), if_neg (by omega), if_neg (by omega)]

/-- The numbers with one. -/
theorem Core.dbgRead_present {n : Nat} (h : n < 12 ∨ (16 ≤ n ∧ n < 28)) : (k.dbgRead n).isSome = true := by
  rcases h with h | ⟨hlo, hhi⟩ <;> interval_cases n <;> rfl

end Registers

section Write
variable (d : Debug) (v : Word)

theorem Debug.write_control : d.write 0 v = { d with arm := v.truncate 4, ten := v.getLsbD 4, tlm := BitVec.ofNat 4 (v.toNat / 2 ^ 8),
                                                     tkind := BitVec.ofNat 6 (v.toNat / 2 ^ 16) } := by
  have harm : BitVec.ofNat 4 (bits v 3 0) = v.truncate 4 := BitVec.eq_of_toNat_eq (by simp [bits])
  have htlm : BitVec.ofNat 4 (bits v 11 8) = BitVec.ofNat 4 (v.toNat / 2 ^ 8) := BitVec.eq_of_toNat_eq (by simp [bits])
  have htkind : BitVec.ofNat 6 (bits v 21 16) = BitVec.ofNat 6 (v.toNat / 2 ^ 16) := BitVec.eq_of_toNat_eq (by simp [bits])
  unfold Debug.write
  rw [harm, htlm, htkind]
  rfl

theorem Debug.write_ring : d.write 11 v = { d with nsz := v.truncate 4, tdrop := BitVec.ofNat 32 (v.toNat / 2 ^ 32) } := by
  have hnsz : BitVec.ofNat 4 (bits v 3 0) = v.truncate 4 := BitVec.eq_of_toNat_eq (by simp [bits])
  have htdrop : BitVec.ofNat 32 (bits v 63 32) = BitVec.ofNat 32 (v.toNat / 2 ^ 32) := BitVec.eq_of_toNat_eq (by simp [bits])
  unfold Debug.write
  rw [hnsz, htdrop]
  rfl

theorem Debug.write_lanes (n : Fin 4) : d.write (2 + n.val) v = { d with bp := d.bp.set n v } ∧
    d.write (16 + n.val) v = { d with dpc := d.dpc.set n (v &&& ~~~(15 : Word)) } := by
  match n with
  | 0 | 1 | 2 | 3 => exact ⟨rfl, rfl⟩

theorem Debug.write_watch (n : Fin 2) : d.write (7 + n.val) v = { d with wp := d.wp.set n v } := by
  match n with
  | 0 | 1 => rfl

/-- A write to a read-only register changes nothing. -/
theorem Debug.write_readOnly {n : Nat} (h : n = 1 ∨ (20 ≤ n ∧ n < 28)) : d.write n v = d := by
  rcases h with rfl | ⟨hlo, hhi⟩
  · rfl
  · interval_cases n <;> rfl

end Write

end Sys2Proof.Machine

namespace Sys2Proof.Machine

/-! What a module's register and a lane's state are apart from each other. -/

theorem State.setDbg_laneAt (s : State) (c : Nat) (d : Debug) (r : LaneRef) : (s.setDbg c d).laneAt r = s.laneAt r := by
  by_cases h : r.core = c
  · subst h
    rw [State.laneAt, State.setDbg, State.setCore_core_same]
    rfl
  · rw [State.laneAt, State.setDbg, State.setCore_core_ne _ _ h]
    rfl

theorem State.setDbg_dbg (s : State) (c : Nat) (d : Debug) : ((s.setDbg c d).core c).dbg = d := by
  rw [State.setDbg, State.setCore_core_same]

theorem State.setLaneAt_dbg (s : State) (r : LaneRef) (l : Lane) (c : Nat) : ((s.setLaneAt r l).core c).dbg = (s.core c).dbg := by
  by_cases h : c = r.core
  · subst h
    rw [State.setLaneAt, State.setCore_core_same]
    rfl
  · rw [State.setLaneAt, State.setCore_core_ne _ _ h]

/-- An array of four by a lane's number. -/
theorem vector_lane {α : Type} (v : Vector α 4) {n : Fin 4} {l : Nat} (h : n.val = l) : v[l % 4]'(Nat.mod_lt _ (by decide)) = v[n] := by
  subst h
  exact getElem_congr_idx (Nat.mod_eq_of_lt n.isLt)

/-! The events of requests (R336, R337). -/

section Event
variable {s t : State} {c : Nat} {q : DbgReq}

theorem exec_debugReadRegister (h : s.dbgTake c 0 (· == 0) = some (t, q)) : exec (.debugReadRegister c 0) s =
    .next (if q.ptag = 0 then t.dbgReply q.raddr (((t.core c).dbgRead q.idx).getD 0) (if ((t.core c).dbgRead q.idx).isSome then 1 else 4)
      else t.dbgReply q.raddr 0 2) := by
  show execDebugReadRegister c 0 s = _
  simp only [execDebugReadRegister, h]
  by_cases hp : q.ptag = 0
  · rw [if_neg (not_not.2 hp), if_pos hp]
    cases (t.core c).dbgRead q.idx <;> rfl
  · rw [if_pos hp, if_neg hp]

theorem exec_debugWriteRegister (h : s.dbgTake c 0 (· == 1) = some (t, q)) : exec (.debugWriteRegister c 0) s =
    .next (if q.ptag = 0 then
        if ((t.core c).dbgRead q.idx).isSome then (t.dbgWrite c q.idx q.data).dbgReply q.raddr 0 1 else t.dbgReply q.raddr 0 4
      else t.dbgReply q.raddr 0 2) := by
  show execDebugWriteRegister c 0 s = _
  simp only [execDebugWriteRegister, h]
  by_cases hp : q.ptag = 0
  · rw [if_neg (not_not.2 hp), if_pos hp]
    split <;> rfl
  · rw [if_pos hp, if_neg hp]

/-- Is event `i` one of the four that act on one stopped lane, with its OP (R336)? -/
def LaneEvent (c op : Nat) (i : Instr) : Prop :=
  (op = 3 ∧ i = .debugResume c 0) ∨ (op = 4 ∧ i = .debugStep c 0) ∨ (op = 5 ∧ i = .debugReadLaneState c 0) ∨
    (op = 6 ∧ i = .debugWriteLaneState c 0)

/-- Each of the four refuses a lane of another partition, and one that is not stopped. -/
theorem exec_laneEvent_refused {op : Nat} {i : Instr} (hi : LaneEvent c op i) (h : s.dbgTake c 0 (· == op) = some (t, q)) :
    (t.dbgMay c q q.lane = false → exec i s = .next (t.dbgReply q.raddr 0 2)) ∧
    (t.dbgMay c q q.lane = true → (t.laneAt ⟨c, q.lane⟩).dstop = false → exec i s = .next (t.dbgReply q.raddr 0 3)) := by
  obtain ⟨rfl, rfl⟩ | ⟨rfl, rfl⟩ | ⟨rfl, rfl⟩ | ⟨rfl, rfl⟩ := hi
  · have hexec : exec (.debugResume c 0) s = execDebugResume c 0 s := rfl
    refine ⟨fun hmay => ?_, fun hmay hstop => ?_⟩ <;> rw [hexec] <;> simp only [execDebugResume, h, hmay, Bool.not_false, if_true]
    simp only [hstop, Bool.not_true, Bool.not_false, Bool.false_eq_true, if_false, if_true]
  · have hexec : exec (.debugStep c 0) s = execDebugStep c 0 s := rfl
    refine ⟨fun hmay => ?_, fun hmay hstop => ?_⟩ <;> rw [hexec] <;> simp only [execDebugStep, h, hmay, Bool.not_false, if_true]
    simp only [hstop, Bool.not_true, Bool.not_false, Bool.false_eq_true, if_false, if_true]
  · have hexec : exec (.debugReadLaneState c 0) s = execDebugReadLaneState c 0 s := rfl
    refine ⟨fun hmay => ?_, fun hmay hstop => ?_⟩ <;> rw [hexec] <;> simp only [execDebugReadLaneState, h, hmay, Bool.not_false, if_true]
    simp only [hstop, Bool.not_true, Bool.not_false, Bool.false_eq_true, if_false, if_true]
  · have hexec : exec (.debugWriteLaneState c 0) s = execDebugWriteLaneState c 0 s := rfl
    refine ⟨fun hmay => ?_, fun hmay hstop => ?_⟩ <;> rw [hexec] <;> simp only [execDebugWriteLaneState, h, hmay, Bool.not_false, if_true]
    simp only [hstop, Bool.not_true, Bool.not_false, Bool.false_eq_true, if_false, if_true]

section Stopped
variable (hmay : t.dbgMay c q q.lane = true) (hstop : (t.laneAt ⟨c, q.lane⟩).dstop = true)
include hmay hstop

theorem exec_debugResume_stopped (h : s.dbgTake c 0 (· == 3) = some (t, q)) :
    exec (.debugResume c 0) s = .next ((t.dbgRun ⟨c, q.lane⟩ (bit q.data 0) false).dbgReply q.raddr 0 1) := by
  show execDebugResume c 0 s = _
  simp only [execDebugResume, h, hmay, hstop, Bool.not_true, Bool.false_eq_true, if_false]

theorem exec_debugStep_stopped (h : s.dbgTake c 0 (· == 4) = some (t, q)) :
    exec (.debugStep c 0) s = .next ((t.dbgRun ⟨c, q.lane⟩ false true).dbgOwe c (BitVec.ofNat 4 (2 ^ q.lane)) q.raddr 1) := by
  show execDebugStep c 0 s = _
  simp only [execDebugStep, h, hmay, hstop, Bool.not_true, Bool.false_eq_true, if_false]

theorem exec_debugReadLaneState_stopped (h : s.dbgTake c 0 (· == 5) = some (t, q)) :
    (∀ v, t.dbgLaneRead ⟨c, q.lane⟩ q.sel q.idx = some v → exec (.debugReadLaneState c 0) s =
      .next ((t.meetLost ⟨c, q.lane⟩ (· == dbgPart q.sel q.idx)).dbgReply q.raddr v 1)) ∧
    (t.dbgLaneRead ⟨c, q.lane⟩ q.sel q.idx = none → exec (.debugReadLaneState c 0) s = .next (t.dbgReply q.raddr 0 4)) := by
  have hexec : exec (.debugReadLaneState c 0) s = execDebugReadLaneState c 0 s := rfl
  refine ⟨fun v hv => ?_, fun hv => ?_⟩ <;> rw [hexec] <;>
    simp only [execDebugReadLaneState, h, hmay, hstop, hv, Bool.not_true, Bool.false_eq_true, if_false]

theorem exec_debugWriteLaneState_stopped (h : s.dbgTake c 0 (· == 6) = some (t, q)) :
    (∀ u, t.dbgLaneWrite ⟨c, q.lane⟩ q.sel q.idx q.data = some u → exec (.debugWriteLaneState c 0) s = .next (u.dbgReply q.raddr 0 1)) ∧
    (t.dbgLaneWrite ⟨c, q.lane⟩ q.sel q.idx q.data = none → exec (.debugWriteLaneState c 0) s = .next (t.dbgReply q.raddr 0 4)) := by
  have hexec : exec (.debugWriteLaneState c 0) s = execDebugWriteLaneState c 0 s := rfl
  refine ⟨fun u hu => ?_, fun hu => ?_⟩ <;> rw [hexec] <;>
    simp only [execDebugWriteLaneState, h, hmay, hstop, hu, Bool.not_true, Bool.false_eq_true, if_false]

end Stopped

theorem exec_debugMark (h : s.dbgTake c 0 (· == 7) = some (t, q)) : exec (.debugMark c 0) s =
    .next (if t.dbgMay c q q.lane then (t.trace ⟨c, q.lane⟩ 7 q.data).dbgReply q.raddr 0 1 else t.dbgReply q.raddr 0 2) := by
  show execDebugMark c 0 s = _
  simp only [execDebugMark, h]
  cases t.dbgMay c q q.lane <;> rfl

theorem exec_debugUnassignedOp (h : s.dbgTake c 0 (fun op => 8 ≤ op) = some (t, q)) :
    exec (.debugUnassignedOp c 0) s = .next (t.dbgReply q.raddr 0 4) := by
  show execDebugUnassignedOp c 0 s = _
  simp only [execDebugUnassignedOp, h]

end Event

/-- A lane that leaves its stop goes on at its DPC; an idle one with DPC 0 is idle again (R337). -/
theorem State.dbgRun_eq (s : State) (c : Nat) {l : Nat} {n : Fin 4} (h : n.val = l) (skip step : Bool) :
    let x := s.laneAt ⟨c, l⟩
    let d := (s.core c).dbg
    let back : Lane := { x with dstop := false, dbgStopReq := false, dbgStep := step, ahead := none, dbgSkip := skip || d.dcause[n] == 0x14 }
    s.dbgRun ⟨c, l⟩ skip step = s.setLaneAt ⟨c, l⟩ (if x.run = .idle ∧ d.dpc[n] = 0 then back
      else { back with pc := d.dpc[n], run := if x.run = .idle then .running else x.run }) := by
  have hpc := vector_lane (s.core c).dbg.dpc h
  have hcause := vector_lane (s.core c).dbg.dcause h
  simp only [State.dbgRun, hpc, hcause]
  rfl

/-! The registers of a stopped lane (R336). -/

section LaneState
variable (s : State) (r : LaneRef) {sel idx : Nat} (v : Word)

theorem State.dbgLaneRead_eq (hsel : sel < 4) :
    (sel = 0 → idx < 32 → s.dbgLaneRead r sel idx = some ((s.laneAt r).s (BitVec.ofNat 5 idx))) ∧
    (sel = 1 → s.dbgLaneRead r sel idx = s.crRead r idx) ∧
    (sel = 2 → s.dbgLaneRead r sel idx = some (s.laneAt r).pc) ∧
    (sel = 3 → idx < 128 → s.dbgLaneRead r sel idx =
      some (BitVec.ofNat 64 (vget ((s.laneAt r).v (BitVec.ofNat 5 (idx / 4))) 64 (idx % 4)))) ∧
    ((sel = 0 ∧ 32 ≤ idx) ∨ (sel = 3 ∧ 128 ≤ idx) → s.dbgLaneRead r sel idx = none) := by
  refine ⟨?_, ?_, ?_, ?_, ?_⟩
  · rintro rfl hidx
    exact if_pos hidx
  · rintro rfl
    rfl
  · rintro rfl
    rfl
  · rintro rfl hidx
    exact if_pos hidx
  · rintro (⟨rfl, hidx⟩ | ⟨rfl, hidx⟩)
    · exact if_neg (Nat.not_lt.2 hidx)
    · exact if_neg (Nat.not_lt.2 hidx)

theorem State.dbgLaneWrite_eq :
    (sel = 0 → idx < 32 → s.dbgLaneWrite r sel idx v = some (s.setLaneAt r ((s.laneAt r).setS (BitVec.ofNat 5 idx) v))) ∧
    (sel = 1 → (s.crRead r idx).isSome = true → crRefuses idx v = false → s.dbgLaneWrite r sel idx v = some (s.crSet r idx v)) ∧
    (sel = 2 → s.dbgLaneWrite r sel idx v = some (s.setLaneAt r { s.laneAt r with pc := v &&& ~~~(15 : Word) })) ∧
    (sel = 3 → idx < 128 → ∃ y, s.dbgLaneWrite r sel idx v = some (s.setLaneAt r ((s.laneAt r).setV (BitVec.ofNat 5 (idx / 4)) y)) ∧
      ∀ j, j < 4 → vget y 64 j = if j = idx % 4 then v.toNat else vget ((s.laneAt r).v (BitVec.ofNat 5 (idx / 4))) 64 j) ∧
    ((sel = 0 ∧ 32 ≤ idx) ∨ (sel = 1 ∧ s.crRead r idx = none) ∨ (sel = 3 ∧ 128 ≤ idx) → s.dbgLaneWrite r sel idx v = none) := by
  refine ⟨?_, ?_, ?_, ?_, ?_⟩
  · rintro rfl hidx
    exact if_pos hidx
  · rintro rfl hread hvalue
    exact if_pos ⟨hread, by rw [hvalue]; rfl⟩
  · rintro rfl
    rfl
  · rintro rfl hidx
    refine ⟨_, if_pos hidx, fun j hj => ?_⟩
    rw [vget_vmake _ hj]
    by_cases hpart : j = idx % 4
    · rw [if_pos hpart, Nat.mod_eq_of_lt v.isLt]
    · rw [if_neg hpart]
      exact Nat.mod_mod ..
  · rintro (⟨rfl, hidx⟩ | ⟨rfl, hread⟩ | ⟨rfl, hidx⟩)
    · exact if_neg (Nat.not_lt.2 hidx)
    · exact if_neg (fun h => by rw [hread] at h; exact absurd h.1 (by decide))
    · exact if_neg (Nat.not_lt.2 hidx)

end LaneState

/-! Stops (R337). -/

/-- A lane is asked to stop, unless it is stopped. -/
def State.askStop (s : State) (r : LaneRef) : State :=
  if (s.laneAt r).dstop then s else s.setLaneAt r { s.laneAt r with dbgStopReq := true }

/-- Lanes of a core asked to stop, in order. -/
def State.askStops (s : State) (c : Nat) (ls : List Nat) : State := ls.foldl (fun s l => s.askStop ⟨c, l⟩) s

theorem State.askStop_laneAt (s : State) (c : Nat) {l n : Nat} (hl : l < 4) (hn : n < 4) : (s.askStop ⟨c, l⟩).laneAt ⟨c, n⟩ =
    if n = l ∧ (s.laneAt ⟨c, n⟩).dstop = false then { s.laneAt ⟨c, n⟩ with dbgStopReq := true } else s.laneAt ⟨c, n⟩ := by
  by_cases hnl : n = l
  · subst hnl
    unfold State.askStop
    cases hstop : (s.laneAt ⟨c, n⟩).dstop with
    | true => rw [if_pos rfl, if_neg (by simp)]
    | false => rw [if_neg Bool.false_ne_true, if_pos ⟨rfl, rfl⟩, State.setLaneAt_laneAt_same]
  · rw [if_neg (show ¬(n = l ∧ _) from fun h => hnl h.1)]
    unfold State.askStop
    split
    · rfl
    · exact State.setLaneAt_laneAt_ne s _ (.inr (by show n % 4 ≠ l % 4; omega))

theorem State.askStop_rest (s : State) (r : LaneRef) (c : Nat) : (s.askStop r).mesh = s.mesh ∧ (s.askStop r).mem = s.mem ∧
    ((s.askStop r).core c).dbg = (s.core c).dbg := by
  unfold State.askStop
  split
  · exact ⟨rfl, rfl, rfl⟩
  · exact ⟨rfl, rfl, State.setLaneAt_dbg ..⟩

theorem State.askStops_laneAt (c : Nat) {ls : List Nat} (hls : ∀ l ∈ ls, l < 4) (s : State) {n : Nat} (hn : n < 4) :
    (s.askStops c ls).laneAt ⟨c, n⟩ =
      if n ∈ ls ∧ (s.laneAt ⟨c, n⟩).dstop = false then { s.laneAt ⟨c, n⟩ with dbgStopReq := true } else s.laneAt ⟨c, n⟩ := by
  induction ls generalizing s with
  | nil => exact (if_neg (fun h => absurd h.1 List.not_mem_nil)).symm
  | cons l t ih =>
    have hone := State.askStop_laneAt s c (hls l (List.mem_cons_self ..)) hn
    have hstop : ((s.askStop ⟨c, l⟩).laneAt ⟨c, n⟩).dstop = (s.laneAt ⟨c, n⟩).dstop := by
      rw [hone]
      split <;> rfl
    show ((s.askStop ⟨c, l⟩).askStops c t).laneAt ⟨c, n⟩ = _
    rw [ih (fun x hx => hls x (List.mem_cons_of_mem _ hx)), hstop, hone]
    by_cases hdstop : (s.laneAt ⟨c, n⟩).dstop = false
    · by_cases hnl : n = l
      · subst hnl
        by_cases hnt : n ∈ t <;> simp [hdstop, hnt]
      · by_cases hnt : n ∈ t <;> simp [hdstop, hnt, hnl]
    · simp [hdstop]

theorem State.askStops_rest (c : Nat) (ls : List Nat) (s : State) : (s.askStops c ls).mesh = s.mesh ∧ (s.askStops c ls).mem = s.mem ∧
    ((s.askStops c ls).core c).dbg = (s.core c).dbg := by
  induction ls generalizing s with
  | nil => exact ⟨rfl, rfl, rfl⟩
  | cons l t ih =>
    obtain ⟨hmesh, hmem, hdbg⟩ := s.askStop_rest ⟨c, l⟩ c
    obtain ⟨hmesh', hmem', hdbg'⟩ := ih (s.askStop ⟨c, l⟩)
    exact ⟨hmesh'.trans hmesh, hmem'.trans hmem, hdbg'.trans hdbg⟩

/-- Bit `n` of the mask of the lanes that a test names. -/
theorem maskOf_filter (P : Nat → Bool) {n : Nat} (hn : n < 4) :
    (BitVec.ofNat 4 ((((List.range 4).filter P).map (2 ^ ·)).sum)).getLsbD n = P n := by
  have hlist : List.range 4 = [0, 1, 2, 3] := rfl
  rw [hlist]
  simp only [List.filter_cons, List.filter_nil]
  match n, hn with
  | 0, _ | 1, _ | 2, _ | 3, _ =>
    generalize P 0 = b0, P 1 = b1, P 2 = b2, P 3 = b3
    revert b0 b1 b2 b3
    decide

/-- The lanes of a mask are those of its bits. -/
theorem mem_namedLanes (m : BitVec 4) (n : Nat) : n ∈ namedLanes m ↔ n < 4 ∧ m.getLsbD n = true := by
  simp only [namedLanes, List.mem_filter, List.mem_range]
  rfl

/-- A reply that waits for a lane which is not stopped stays owed. -/
theorem State.dbgSettle_waits {s : State} {c : Nat} {m : BitVec 4} {y : Word × Nat} (h : (s.core c).dbg.replies = [(m, y)]) {n : Nat}
    (hn : n ∈ namedLanes m) (hstop : (s.laneAt ⟨c, n⟩).dstop = false) : s.dbgSettle c = s := by
  have hall : ¬(namedLanes m).all (fun l => (s.laneAt ⟨c, l⟩).dstop) = true := fun hall => by
    rw [List.all_eq_true.1 hall n hn] at hstop
    cases hstop
  rw [State.dbgSettle, h, List.foldl_cons, List.foldl_nil, State.dbgSettleOne, if_neg hall]

/-- One that waits for no lane is written at once. -/
theorem State.dbgSettle_empty {s : State} {c : Nat} {a : Word} {st : Nat} (h : (s.core c).dbg.replies = [(0, a, st)]) :
    s.dbgSettle c = (s.setDbg c { (s.core c).dbg with replies := [] }).dbgReply a 0 st := by
  have hnone : namedLanes 0 = [] := by decide
  have herase : [((0 : BitVec 4), a, st)].erase (0, a, st) = [] := List.erase_cons_head ..
  rw [State.dbgSettle, h, List.foldl_cons, List.foldl_nil, State.dbgSettleOne]
  simp only [hnone, List.all_nil, if_true, List.foldl_nil, h, herase]

/-- The lanes that a stop names, of its own partition or of others. -/
def DbgReq.named (q : DbgReq) : List Nat := (List.range 4).filter (fun l => bit q.data l)

/-- Those of them that it may act on. -/
def State.stopped (t : State) (c : Nat) (q : DbgReq) : List Nat := q.named.filter (t.dbgMay c q)

theorem exec_debugStop {s t : State} {c : Nat} {q : DbgReq} (h : s.dbgTake c 0 (· == 2) = some (t, q)) :
    exec (.debugStop c 0) s = .next ((if (t.stopped c q).length < q.named.length
      then (t.askStops c (t.stopped c q)).dbgOwe c (BitVec.ofNat 4 ((t.stopped c q).map (2 ^ ·)).sum) q.raddr 2
      else (t.askStops c (t.stopped c q)).dbgOwe c (BitVec.ofNat 4 (bits q.data 3 0)) q.raddr 1).dbgSettle c) := by
  show execDebugStop c 0 s = _
  simp only [execDebugStop, h]
  rfl

end Sys2Proof.Machine

namespace Sys2Proof.Machine

/-! A stop takes effect (R335, R337). -/

/-- The module's record of a stop of lane `n` (R335). -/
def Debug.stopped (d : Debug) (n : Fin 4) (c : BitVec 8) (v pc : Word) : Debug :=
  { d with dpc := d.dpc.set n (parcelAlign pc), dcause := d.dcause.set n c, dval := d.dval.set n v }

/-- The lane at its stop. -/
def Lane.halted (l : Lane) : Lane :=
  { l with dstop := true, stall := 0, waiting := none, waitJob := none, dbgSkip := false, dbgStep := false,
           run := if l.run = .stalled then .running else l.run }

/-- A lane of an untraced core stops at its debug module. -/
theorem State.debugHalt_untraced {s : State} {c l : Nat} {n : Fin 4} (hn : n.val = l) (huntraced : s.untraced ⟨c, l⟩) (x : BitVec 8)
    (v pc : Word) :
    (s.debugHalt ⟨c, l⟩ x v pc).laneAt ⟨c, l⟩ = (s.laneAt ⟨c, l⟩).halted ∧ ((s.debugHalt ⟨c, l⟩ x v pc).core c).dbg =
      (s.core c).dbg.stopped n x v pc ∧ (s.debugHalt ⟨c, l⟩ x v pc).mem = s.mem := by
  have hmod : l % 4 = n.val := by subst hn; exact Nat.mod_eq_of_lt n.isLt
  let k : Core := ({ s.core c with dbg := (s.core c).dbg.stopped n x v pc } : Core).setLane l (s.laneAt ⟨c, l⟩).halted
  have hdbg : k.dbg = (s.core c).dbg.stopped n x v pc := rfl
  have hoff : (s.setCore c k).untraced ⟨c, l⟩ := by
    show ((s.setCore c k).core c).dbg.ten = false
    rw [State.setCore_core_same]
    exact huntraced
  have hhalt : s.debugHalt ⟨c, l⟩ x v pc = s.setCore c k := by
    have hset {α : Type} (w : Vector α 4) (y : α) : w.set (l % 4) y (Nat.mod_lt _ (by decide)) = w.set n.val y n.isLt := by
      simp only [hmod]
    unfold State.debugHalt
    simp only [hset]
    exact State.trace_off hoff 6 (parcelAlign pc)
  rw [hhalt]
  refine ⟨?_, ?_, rfl⟩
  · show ((s.setCore c k).core c).lane l = _
    rw [State.setCore_core_same]
    exact Core.setLane_lane_same ..
  · rw [State.setCore_core_same]
    exact hdbg

/-- A module that owes no reply writes none. -/
theorem State.dbgSettle_none {s : State} {c : Nat} (h : (s.core c).dbg.replies = []) : s.dbgSettle c = s := by
  rw [State.dbgSettle, h]
  rfl

/-- A requested stop of a running lane takes effect (R337). -/
theorem exec_debugStopEffect {s : State} {c l : Nat} {n : Fin 4} (hn : n.val = l) (huntraced : s.untraced ⟨c, l⟩)
    (hreq : (s.laneAt ⟨c, l⟩).dbgStopReq = true) (hrun : (s.laneAt ⟨c, l⟩).run = .running) (hstop : (s.laneAt ⟨c, l⟩).dstop = false)
    (hstep : (s.laneAt ⟨c, l⟩).dbgStep = false) (hreplies : (s.core c).dbg.replies = []) :
    ∃ t, exec (.debugStopEffect c l) s = .next t ∧ t.mem = s.mem ∧
      t.laneAt ⟨c, l⟩ = ({ s.laneAt ⟨c, l⟩ with dbgStopReq := false, req := none } : Lane).halted ∧
      (t.core c).dbg = (s.core c).dbg.stopped n Cause.debugStop 0 (s.laneAt ⟨c, l⟩).pc := by
  have hexec : exec (.debugStopEffect c l) s = execDebugStopEffect c l s := rfl
  have hdue : s.stopDue ⟨c, l⟩ = true := by simp [State.stopDue, Lane.stoppable, hreq, hrun]
  let u := (s.setLaneAt ⟨c, l⟩ { s.laneAt ⟨c, l⟩ with dbgStopReq := false }).withdraw ⟨c, l⟩
  have hlane : u.laneAt ⟨c, l⟩ = { s.laneAt ⟨c, l⟩ with dbgStopReq := false, req := none } := by
    rw [State.withdraw_laneAt, State.setLaneAt_laneAt_same]
  have hdbg : (u.core c).dbg = (s.core c).dbg := (State.setLaneAt_dbg ..).trans (State.setLaneAt_dbg ..)
  have hoff : u.untraced ⟨c, l⟩ := State.withdraw_untraced (State.setLaneAt_untraced huntraced _)
  have hpc : (s.laneAt ⟨c, l⟩).boundaryPc = (s.laneAt ⟨c, l⟩).pc := by rw [Lane.boundaryPc, hrun]; rfl
  obtain ⟨hhalted, hstopped, hmem⟩ := State.debugHalt_untraced hn hoff Cause.debugStop 0 (s.laneAt ⟨c, l⟩).pc
  have hsettle : (u.debugHalt ⟨c, l⟩ Cause.debugStop 0 (s.laneAt ⟨c, l⟩).pc).dbgSettle c = _ :=
    State.dbgSettle_none (by rw [hstopped, hdbg]; exact hreplies)
  refine ⟨u.debugHalt ⟨c, l⟩ Cause.debugStop 0 (s.laneAt ⟨c, l⟩).pc, ?_, hmem, by rw [hhalted, hlane], by rw [hstopped, hdbg]⟩
  have hnow : s.dbgStopNow ⟨c, l⟩ = (u.debugHalt ⟨c, l⟩ Cause.debugStop (if (s.laneAt ⟨c, l⟩).dbgStep then 1 else 0)
      (s.laneAt ⟨c, l⟩).boundaryPc).dbgSettle c := if_neg (by rw [hstop]; decide)
  rw [hexec, execDebugStopEffect, if_pos hdue, hnow, hpc, hstep, if_neg Bool.false_ne_true, hsettle]

/-! Trace packets (R339, R340). -/

theorem packetHead_eq (tick : Word) (kind lane core : Nat) : packetHead tick kind lane core =
    BitVec.ofNat 64 (tick.toNat % 2 ^ 36 + kind * 2 ^ 36 + lane * 2 ^ 40 + core % 2 ^ 20 * 2 ^ 44) := by
  rw [packetHead, bits_low tick (n := 36) (by decide)]
  rfl

theorem Debug.emit_eq (d : Debug) (p : Word × Word) : d.emit p =
    if d.packets.length < 32 then { d with packets := d.packets ++ [p] } else { d with tdrop := d.tdrop + 1 } := by
  unfold Debug.emit
  by_cases h : d.packets.length < 32
  · rw [if_pos h, if_neg (Nat.not_le.2 h)]
  · rw [if_neg h, if_pos (Nat.not_lt.1 h)]

theorem Debug.emitSync_none {d : Debug} (h : d.syncDue = []) (c : Nat) : d.emitSync c = d := by
  unfold Debug.emitSync
  rw [h]
  cases d
  simp only at h
  subst h
  rfl

/-- The SYNC packets that are due, each with its tick. -/
theorem Debug.emitSync_eq (d : Debug) (c : Nat) : d.emitSync c = d.syncDue.foldl (fun e tick => if e.packets.length < 32 then
    { e with packets := e.packets ++ [(BitVec.ofNat 64 (tick.toNat % 2 ^ 36 + c % 2 ^ 20 * 2 ^ 44), tick)] }
    else { e with tdrop := e.tdrop + 1 }) { d with syncDue := [] } := by
  unfold Debug.emitSync
  refine List.foldl_ext _ _ _ fun e tick _ => ?_
  rw [Debug.emit_eq, packetHead_eq, Nat.zero_mul, Nat.zero_mul, Nat.add_zero]

/-- The trace changes nothing but the module of a traced core. -/
theorem State.trace_rest (s : State) (r : LaneRef) (kind : Nat) (data : Word) :
    (s.trace r kind data).mem = s.mem ∧ (s.trace r kind data).mesh = s.mesh := by
  unfold State.trace
  dsimp only
  split <;> exact ⟨rfl, rfl⟩

/-- A packet that the core's module emits. -/
theorem State.trace_emits {s : State} {r : LaneRef} {kind : Nat} (hten : (s.core r.core).dbg.ten = true) (hsync : (s.core r.core).dbg.syncDue = [])
    (hkind : kind = 0 ∨ kind = 7 ∨ ((s.core r.core).dbg.tlm.getLsbD r.lane = true ∧ (s.core r.core).dbg.tkind.getLsbD (kind - 1) = true))
    (data : Word) : ((s.trace r kind data).core r.core).dbg =
      (s.core r.core).dbg.emit (packetHead (s.die (dieOf r.core)).dtc kind r.lane r.core, data) := by
  have hemits : ((s.core r.core).dbg.ten && (kind == 0 || kind == 7 || ((s.core r.core).dbg.tlm.toNat.testBit r.lane &&
      (s.core r.core).dbg.tkind.toNat.testBit (kind - 1)))) = true := by
    rw [hten, Bool.true_and]
    obtain rfl | rfl | ⟨hlane, hkind⟩ := hkind
    · rfl
    · rfl
    · rw [show (s.core r.core).dbg.tlm.toNat.testBit r.lane = true from hlane,
        show (s.core r.core).dbg.tkind.toNat.testBit (kind - 1) = true from hkind, Bool.and_self, Bool.or_true]
  unfold State.trace
  simp only [if_pos hemits, Debug.emitSync_none hsync, State.setCore_core_same]

theorem exec_traceSync (s : State) (c : Nat) :
    exec (.traceSync c) s = .next (s.setCore c { s.core c with dbg := (s.core c).dbg.emitSync c }) := rfl

end Sys2Proof.Machine

namespace Sys2Proof.Machine

/-! The words of a reply (R336). -/

/-- The physical byte address of a bit offset of a core's global scratchpad window (R18, R306). -/
def spadByte (core off : Nat) : Nat := Config.spadBase + core * 65536 + off / 8

theorem ringByte_global {a : Word} {core off : Nat} (ha : decodeWindow a = some (.global core off)) : ringByte a = some (spadByte core off) := by
  rw [ringByte, ha]
  rfl

theorem InSpad.spadByte {core off : Nat} (hcore : core < Config.mgmtCore) (hoff : off < 2 ^ 19) : InSpad (spadByte core off) := by
  simp only [InSpad, Machine.spadByte, Config.mgmtCore] at hcore ⊢
  omega

/-- A whole word stored in a scratchpad is the word found there, and every other word of a memory stays. -/
theorem State.storeAt_spad_peek {s : State} (hok : s.memoryOk) (hparked : s.parked = []) {pa : Nat} (h : InSpad pa) (v : Word) (p : Nat) :
    (s.storeAt pa (BitVec.allOnes 64) v p).peek pa = v ∧
    ∀ x, MemoryHome x → x + 8 ≤ pa ∨ pa + 8 ≤ x → (s.storeAt pa (BitVec.allOnes 64) v p).peek x = s.peek x := by
  obtain ⟨-, hmem⟩ := State.storeAt_spad hparked h v p
  refine ⟨?_, fun x hx hout => ?_⟩
  · rw [State.peek_memory _ h.memory, hmem]
    exact Memory.word_setWord_same hok.1 pa v
  · rw [State.peek_memory _ hx, State.peek_memory _ hx, hmem]
    exact Memory.word_setWord_out _ _ _ _ hout

theorem State.setTag_peek_memory (s : State) (pa : Nat) (t : BitVec 4) {x : Nat} (h : MemoryHome x) : (s.setTag pa t).peek x = s.peek x := by
  rw [State.peek_memory _ h, State.peek_memory _ h]
  rfl

/-- A whole word's store into a scratchpad reads nothing of the word (R26). -/
theorem State.merge_word_spad {pa : Nat} (h : InSpad pa) (s : State) (v : Word) (p : Nat) :
    s.merge pa (BitVec.allOnes 64) v p = (s.freshCode pa).poke pa v p :=
  if_pos ⟨rfl, by rw [h.home]; exact Home.noConfusion⟩

theorem State.storeAt_word_spad {s : State} (hparked : s.parked = []) {pa : Nat} (h : InSpad pa) (v : Word) (p : Nat) :
    s.storeAt pa (BitVec.allOnes 64) v p = (s.freshCode pa).poke pa v p := by
  rw [State.storeAt, State.merge_word_spad h]
  exact State.reexamine_none (State.poke_parked (s := s.freshCode pa) v p h.memory h.writable hparked) _ _

section Reply
variable {s : State} {a : Word} {core off : Nat} (ha : decodeWindow a = some (.global core off))
include ha

/-- The value's word is a store at its home. -/
theorem State.dbgStore_value (v : Word) : s.dbgStore a v false = s.storeAt (spadByte core off) (BitVec.allOnes 64) v 0 := by
  rw [State.dbgStore, ringByte_global ha]
  rfl

/-- The status word's one sets the word's tag too. -/
theorem State.dbgStore_status (hparked : s.parked = []) (hcore : core < Config.mgmtCore) (v : Word) :
    s.dbgStore a v true = (s.storeAt (spadByte core off) (BitVec.allOnes 64) v 0).setTag (spadByte core off) 1 := by
  obtain ⟨-, -, hoff⟩ := decodeWindow_global ha
  have hspad := InSpad.spadByte hcore hoff
  let u := (s.freshCode (spadByte core off)).poke (spadByte core off) v 0
  have hnone : u.parked = [] := State.poke_parked _ _ hspad.memory hspad.writable hparked
  have htagged : (True ∧ decodeWindow a ≠ some (.coh (bits a 28 0))) := ⟨trivial, by rw [ha]; simp⟩
  rw [State.storeAt_word_spad hparked hspad, State.dbgStore, ringByte_global ha]
  simp only [if_pos htagged, State.merge_word_spad hspad]
  exact State.reexamine_none (s := u.setTag (spadByte core off) 1) hnone _ _

/-- The reply's words are where its address names them, the status word with tag 1. -/
theorem State.dbgReply_words (hok : s.memoryOk) (hparked : s.parked = []) (halign : a.toNat % 64 = 0) (hcore : core < Config.mgmtCore)
    (hnext : decodeWindow (a + 64) = some (.global core (off + 64))) (y : Word) (st : Nat) :
    (s.dbgReply a y st).peek (spadByte core off) = BitVec.ofNat 64 st ∧ (s.dbgReply a y st).peek (spadByte core off + 8) = y ∧
      (s.dbgReply a y st).tag (spadByte core off) = 1 := by
  obtain ⟨-, -, hoff⟩ := decodeWindow_global ha
  obtain ⟨-, -, hoff'⟩ := decodeWindow_global hnext
  have hspad := InSpad.spadByte hcore hoff
  have hspad' := InSpad.spadByte hcore hoff'
  have hplace : spadByte core (off + 64) = spadByte core off + 8 := by simp only [spadByte]; omega
  have hlow : bits a 5 0 = 0 := (bits_low a (n := 6) (by decide)).trans halign
  obtain ⟨hsame, -⟩ := State.storeAt_spad hparked hspad' y 0
  obtain ⟨hvalue, -⟩ := State.storeAt_spad_peek hok hparked hspad' y 0
  have hreply : s.dbgReply a y st = ((s.storeAt (spadByte core (off + 64)) (BitVec.allOnes 64) y 0).storeAt (spadByte core off)
      (BitVec.allOnes 64) (word st) 0).setTag (spadByte core off) 1 := by
    rw [State.dbgReply, if_neg (not_not.2 hlow), State.dbgStore_value hnext, State.dbgStore_status ha (hsame.parked.trans hparked) hcore]
  rw [hreply]
  have hu : (s.storeAt (spadByte core (off + 64)) (BitVec.allOnes 64) y 0).memoryOk := State.storeAt_keeps State.memoryOk_access hok _ _ _ _
  generalize s.storeAt (spadByte core (off + 64)) (BitVec.allOnes 64) y 0 = u at hsame hvalue hu
  obtain ⟨hstatus, hkept⟩ := State.storeAt_spad_peek hu (hsame.parked.trans hparked) hspad (word st) 0
  have hw := State.storeAt_keeps State.memoryOk_access hu (spadByte core off) (BitVec.allOnes 64) (word st) 0
  rw [hplace] at hspad' hvalue
  rw [State.setTag_peek_memory _ _ _ hspad.memory, State.setTag_peek_memory _ _ _ hspad'.memory]
  refine ⟨hstatus, ?_, State.tag_setTag_same hw _ _⟩
  exact (hkept _ hspad'.memory (.inr (Nat.le_refl _))).trans hvalue

end Reply

end Sys2Proof.Machine

namespace Sys2Proof.Machine

/-! The encoder's stores (R340). -/

/-- A whole word stored in a scratchpad makes no word faulty. -/
theorem State.storeAt_spad_clean {s : State} (hparked : s.parked = []) {pa x : Nat} (h : InSpad pa) (v : Word) (p : Nat) (hx : s.clean x) :
    (s.storeAt pa (BitVec.allOnes 64) v p).clean x := by
  have herrors : ((s.freshCode pa).poke pa v p).corr = (s.freshCode pa).corr ∧ ((s.freshCode pa).poke pa v p).unc = (s.freshCode pa).unc := by
    rw [State.poke_memory _ v p h.memory h.writable]
    simp only [State.markWritten, State.markDirty, h.home, and_self]
  obtain ⟨hunc, hcorr⟩ := hx
  rw [State.storeAt_word_spad hparked h, State.clean, herrors.1, herrors.2]
  exact ⟨fun hmem => hunc (List.mem_of_mem_filter hmem), fun hmem => hcorr (List.mem_of_mem_filter hmem)⟩

/-- `t` is `s` with word `v` of a packet stored at `pa`, and module state `d` of core `c`. -/
structure State.PacketWord (t s : State) (c : Nat) (d : Debug) (pa : Nat) (v : Word) : Prop where
  memoryOk : t.memoryOk
  parked : t.parked = []
  dbg : (t.core c).dbg = d
  clean : ∀ x, s.clean x → t.clean x
  word : t.peek pa = v
  others : ∀ x, MemoryHome x → x + 8 ≤ pa ∨ pa + 8 ≤ x → t.peek x = s.peek x

theorem State.packetWord {s : State} (hok : s.memoryOk) (hparked : s.parked = []) {pa : Nat} (h : InSpad pa) (c : Nat) (d : Debug) (v : Word) :
    ((s.setDbg c d).storeAt pa (BitVec.allOnes 64) v 0).PacketWord s c d pa v := by
  have hok' : (s.setDbg c d).memoryOk := hok
  obtain ⟨hsame, -⟩ := State.storeAt_spad (s := s.setDbg c d) hparked h v 0
  obtain ⟨hword, hkept⟩ := State.storeAt_spad_peek hok' hparked h v 0
  refine ⟨State.storeAt_keeps State.memoryOk_access hok' _ _ _ _, hsame.parked.trans hparked, ?_,
    fun x hx => State.storeAt_spad_clean (s := s.setDbg c d) hparked h v 0 hx, hword, fun x hx hout => (hkept x hx hout).trans ?_⟩
  · rw [hsame.2 c, State.setDbg_dbg]
  · rw [State.peek_memory _ hx, State.peek_memory _ hx]
    rfl

theorem Debug.ring_global {d : Debug} {core off off' : Nat} (hbase : decodeWindow d.trcbase = some (.global core off))
    (hctl : decodeWindow (d.trcbase - 64) = some (.global core off')) : d.ring = some (spadByte core off, spadByte core off') := by
  rw [Debug.ring, ringByte_global hbase, ringByte_global hctl]

section Store
variable {s : State} {c base ctl : Nat} {p : Word × Word} {rest : List (Word × Word)} (hpackets : (s.core c).dbg.packets = p :: rest)
  (hring : (s.core c).dbg.ring = some (base, ctl)) (hclean : s.clean ctl)
include hpackets hring hclean

/-- The first of a packet's stores finds the ring full, or is of the packet's word 0. -/
theorem State.encoderStore_first (hstored : (s.core c).dbg.stored = 0) :
    (ctlFilled (s.peek ctl) = 2 ^ (s.core c).dbg.nsz.toNat → s.encoderStore c = s.setDbg c ((s.core c).dbg.shift true)) ∧
    (ctlFilled (s.peek ctl) ≠ 2 ^ (s.core c).dbg.nsz.toNat → s.encoderStore c = (s.setDbg c { (s.core c).dbg with stored := 1 }).storeAt
      (base + 16 * (ctlTail (s.peek ctl) % 2 ^ (s.core c).dbg.nsz.toNat)) (BitVec.allOnes 64) p.1 0) := by
  refine ⟨fun hfull => ?_, fun hroom => ?_⟩
  · simp only [State.encoderStore, hpackets, hring, State.readHome_clean hclean, hstored, if_pos hfull]
    rfl
  · simp only [State.encoderStore, hpackets, hring, State.readHome_clean hclean, hstored, if_neg hroom]
    rfl

/-- The second is of its word 1. -/
theorem State.encoderStore_second (hstored : (s.core c).dbg.stored = 1) :
    s.encoderStore c = (s.setDbg c { (s.core c).dbg with stored := 2 }).storeAt
      (base + 16 * (ctlTail (s.peek ctl) % 2 ^ (s.core c).dbg.nsz.toNat) + 8) (BitVec.allOnes 64) p.2 0 := by
  simp only [State.encoderStore, hpackets, hring, State.readHome_clean hclean, hstored]
  rfl

/-- The third advances TAIL. -/
theorem State.encoderStore_third (hstored : (s.core c).dbg.stored = 2) :
    s.encoderStore c = (s.setDbg c ((s.core c).dbg.shift false)).storeAt ctl (maskAt 32 32) (placeAt 32 32 (ctlTail (s.peek ctl) + 1)) 0 := by
  simp only [State.encoderStore, hpackets, hring, State.readHome_clean hclean, hstored]
  rfl

end Store

/-- TAIL of a control word in a scratchpad is replaced. -/
theorem State.storeAt_tail {s : State} (hok : s.memoryOk) (hparked : s.parked = []) {ctl : Nat} (hspad : InSpad ctl) (hclean : s.clean ctl) (y : Nat) :
    let t := s.storeAt ctl (maskAt 32 32) (placeAt 32 32 y) 0
    t.SameButMemory s ∧ t.peek ctl = BitVec.ofNat 64 (y % 2 ^ 32 * 2 ^ 32 + (s.peek ctl).toNat % 2 ^ 32) ∧
      ∀ x, MemoryHome x → x + 8 ≤ ctl ∨ ctl + 8 ≤ x → t.peek x = s.peek x := by
  intro t
  have hpoke : t = s.poke ctl (BitVec.ofNat 64 (y % 2 ^ 32 * 2 ^ 32 + (s.peek ctl).toNat % 2 ^ 32)) 0 := by
    obtain ⟨-, htail⟩ := control_half (s.peek ctl) y
    rw [← htail]
    exact State.storeAt_clean hparked hclean hspad.memory hspad.writable _ _ _
  rw [hpoke]
  exact ⟨State.poke_same _ _ hspad.memory hspad.writable, State.peek_poke_same hok.1 _ _ hspad.memory hspad.writable,
    fun x hx hout => State.peek_poke_out _ _ hspad.memory hx hout⟩

/-- The third store of a packet: TAIL counts one more, and the module has its next packet first. -/
theorem State.encoderStore_advances {s : State} {c base ctl : Nat} {p : Word × Word} {rest : List (Word × Word)} (hok : s.memoryOk)
    (hparked : s.parked = []) (hpackets : (s.core c).dbg.packets = p :: rest) (hring : (s.core c).dbg.ring = some (base, ctl))
    (hclean : s.clean ctl) (hspad : InSpad ctl) (hstored : (s.core c).dbg.stored = 2) :
    (s.encoderStore c).peek ctl = BitVec.ofNat 64 ((ctlTail (s.peek ctl) + 1) % 2 ^ 32 * 2 ^ 32 + (s.peek ctl).toNat % 2 ^ 32) ∧
    (∀ x, MemoryHome x → x + 8 ≤ ctl ∨ ctl + 8 ≤ x → (s.encoderStore c).peek x = s.peek x) ∧
    ((s.encoderStore c).core c).dbg = (s.core c).dbg.shift false := by
  let v := s.setDbg c ((s.core c).dbg.shift false)
  have hpeek (y : Nat) (hy : MemoryHome y) : v.peek y = s.peek y := by
    rw [State.peek_memory _ hy, State.peek_memory _ hy]
    rfl
  obtain ⟨hsame, htail, hkept⟩ := State.storeAt_tail (s := v) hok hparked hspad hclean (ctlTail (s.peek ctl) + 1)
  rw [State.encoderStore_third hpackets hring hclean hstored]
  refine ⟨?_, fun x hx hout => (hkept x hx hout).trans (hpeek x hx), ?_⟩
  · rw [htail, hpeek _ hspad.memory]
  · rw [hsame.2 c, State.setDbg_dbg]

section Packet
variable {s : State} {c core off : Nat} {p : Word × Word} {rest : List (Word × Word)} (hpackets : (s.core c).dbg.packets = p :: rest)
  (hstored : (s.core c).dbg.stored = 0) (hring : (s.core c).dbg.ring = some (spadByte core off, spadByte core (off - 64)))
  (hclean : s.clean (spadByte core (off - 64)))
include hpackets hstored hring hclean

/-- A packet that finds the ring full is lost. -/
theorem State.encoderStores_full (hfull : ctlFilled (s.peek (spadByte core (off - 64))) = 2 ^ (s.core c).dbg.nsz.toNat) :
    (s.encoderStores c 1).mem = s.mem ∧
    ((s.encoderStores c 1).core c).dbg = { (s.core c).dbg with packets := rest, tdrop := (s.core c).dbg.tdrop + 1 } := by
  obtain ⟨hlost, -⟩ := State.encoderStore_first hpackets hring hclean hstored
  have hone : s.encoderStores c 1 = s.setDbg c ((s.core c).dbg.shift true) := hlost hfull
  rw [hone]
  refine ⟨rfl, ?_⟩
  rw [State.setDbg_dbg, Debug.shift, hpackets, hstored.symm]
  rfl

/-- A packet that finds room goes into the ring's next entry, and TAIL after it. -/
theorem State.encoderStores_room (hok : s.memoryOk) (hparked : s.parked = []) (hcore : core < Config.mgmtCore) (hoff : 64 ≤ off) {k : Nat}
    (hroom : ctlFilled (s.peek (spadByte core (off - 64))) ≠ 2 ^ (s.core c).dbg.nsz.toNat)
    (hk : k = off + 128 * (ctlTail (s.peek (spadByte core (off - 64))) % 2 ^ (s.core c).dbg.nsz.toNat)) (hend : k + 128 ≤ 524288) :
    let t := s.encoderStores c 3
    t.peek (spadByte core k) = p.1 ∧ t.peek (spadByte core (k + 64)) = p.2 ∧
    t.peek (spadByte core (off - 64)) = BitVec.ofNat 64 ((ctlTail (s.peek (spadByte core (off - 64))) + 1) % 2 ^ 32 * 2 ^ 32 +
      (s.peek (spadByte core (off - 64))).toNat % 2 ^ 32) ∧ (t.core c).dbg = { (s.core c).dbg with packets := rest } := by
  intro t
  set ctl := spadByte core (off - 64) with hctl
  set x := s.peek ctl
  set d := (s.core c).dbg
  have hplace : spadByte core off + 16 * (ctlTail x % 2 ^ d.nsz.toNat) = spadByte core k := by simp only [spadByte]; omega
  have hnext : spadByte core (k + 64) = spadByte core k + 8 := by simp only [spadByte]; omega
  have hapart : ctl + 8 ≤ spadByte core k := by simp only [hctl, spadByte]; omega
  have hspad : InSpad (spadByte core k) := InSpad.spadByte hcore (by omega)
  have hspad' : InSpad (spadByte core k + 8) := hnext ▸ InSpad.spadByte hcore (by omega)
  have hctlspad : InSpad ctl := InSpad.spadByte hcore (by omega)
  have hput₁ : (s.encoderStore c).PacketWord s c { d with stored := 1 } (spadByte core k) p.1 := by
    obtain ⟨-, hfirst⟩ := State.encoderStore_first hpackets hring hclean hstored
    rw [hfirst hroom, ← hplace]
    exact State.packetWord hok hparked (hplace ▸ hspad) c _ _
  have hthree : t = ((s.encoderStore c).encoderStore c).encoderStore c := rfl
  generalize s.encoderStore c = u at hput₁ hthree
  obtain ⟨hok₁, hparked₁, hdbg₁, hclean₁, hword₁, hkept₁⟩ := hput₁
  have hctl₁ : u.peek ctl = x := hkept₁ ctl hctlspad.memory (.inl hapart)
  have hput₂ : (u.encoderStore c).PacketWord u c { d with stored := 2 } (spadByte core k + 8) p.2 := by
    have hsecond := State.encoderStore_second (s := u) (c := c) (by rw [hdbg₁]; exact hpackets) (by rw [hdbg₁]; exact hring)
      (hclean₁ ctl hclean) (by rw [hdbg₁])
    rw [hdbg₁, hctl₁, hplace] at hsecond
    rw [hsecond]
    exact State.packetWord hok₁ hparked₁ hspad' c _ _
  generalize u.encoderStore c = w at hput₂ hthree
  obtain ⟨hok₂, hparked₂, hdbg₂, hclean₂, hword₂, hkept₂⟩ := hput₂
  have hctl₂ : w.peek ctl = x := (hkept₂ ctl hctlspad.memory (.inl (by omega))).trans hctl₁
  obtain ⟨htail, hkept, hdbg⟩ := State.encoderStore_advances (s := w) (c := c) hok₂ hparked₂ (by rw [hdbg₂]; exact hpackets)
    (by rw [hdbg₂]; exact hring) (hclean₂ ctl (hclean₁ ctl hclean)) hctlspad (by rw [hdbg₂])
  rw [hthree, hnext]
  refine ⟨?_, ?_, ?_, ?_⟩
  · exact (hkept _ hspad.memory (.inr hapart)).trans ((hkept₂ _ hspad.memory (.inl (Nat.le_refl _))).trans hword₁)
  · exact (hkept _ hspad'.memory (.inr (by omega))).trans hword₂
  · rw [htail, hctl₂]
  · rw [hdbg, hdbg₂, Debug.shift]
    simp only [hpackets]
    rw [← hstored]
    rfl

end Packet

end Sys2Proof.Machine

namespace Sys2Proof.Machine

/-! Requests by their OP (R336, R337). -/

section Request
variable {s t : State} {c : Nat} {q : DbgReq}

/-- OP 0 reads a module register. -/
theorem debugReadRegister_results (h : s.dbgTake c 0 (· == 0) = some (t, q)) :
    let d := (t.core c).dbg
    let ans (y : Word) (st : Nat) : Prop := exec (.debugReadRegister c 0) s = .next (t.dbgReply q.raddr y st)
    (q.ptag ≠ 0 → ans 0 2) ∧ (q.ptag = 0 →
      (q.idx = 0 → ans (BitVec.ofNat 64 (d.arm.toNat + d.ten.toNat * 2 ^ 4 + d.tlm.toNat * 2 ^ 8 + d.tkind.toNat * 2 ^ 16)) 1) ∧
      (q.idx = 1 → ans (BitVec.ofNat 64 ((t.laneAt ⟨c, 0⟩).dstop.toNat + (t.laneAt ⟨c, 1⟩).dstop.toNat * 2 +
        (t.laneAt ⟨c, 2⟩).dstop.toNat * 4 + (t.laneAt ⟨c, 3⟩).dstop.toNat * 8)) 1) ∧
      (∀ n : Fin 4, (q.idx = 2 + n.val → ans d.bp[n] 1) ∧ (q.idx = 16 + n.val → ans d.dpc[n] 1) ∧
        (q.idx = 20 + n.val → ans ((d.dcause[n]).setWidth 64) 1) ∧ (q.idx = 24 + n.val → ans d.dval[n] 1)) ∧
      (q.idx = 6 → ans d.bpcfg 1) ∧ (∀ n : Fin 2, q.idx = 7 + n.val → ans d.wp[n] 1) ∧ (q.idx = 9 → ans d.wpcfg 1) ∧
      (q.idx = 10 → ans d.trcbase 1) ∧ (q.idx = 11 → ans (BitVec.ofNat 64 (d.nsz.toNat + d.tdrop.toNat * 2 ^ 32)) 1) ∧
      ((12 ≤ q.idx ∧ q.idx < 16) ∨ 28 ≤ q.idx → ans 0 4)) := by
  intro d ans
  have hexec := exec_debugReadRegister h
  refine ⟨fun hp => by rw [if_neg hp] at hexec; exact hexec, fun hp => ?_⟩
  rw [if_pos hp] at hexec
  have read {n : Nat} {y : Word} (hy : (t.core c).dbgRead n = some y) (hn : q.idx = n) : ans y 1 := by
    rw [hn, hy] at hexec
    exact hexec
  refine ⟨read (t.core c).dbgRead_control, read (t.core c).dbgRead_status, fun n => ?_, read rfl, fun n => read ((t.core c).dbgRead_watch n),
    read rfl, read rfl, read rfl, fun hidx => ?_⟩
  · obtain ⟨hbp, hdpc, hdcause, hdval⟩ := (t.core c).dbgRead_lanes n
    exact ⟨read hbp, read hdpc, read hdcause, read hdval⟩
  · rw [(t.core c).dbgRead_absent hidx] at hexec
    exact hexec

theorem Debug.emitSync_ten (d : Debug) (c : Nat) : (d.emitSync c).ten = d.ten := by
  have hfold (ts : List Word) (e : Debug) : (ts.foldl (fun e tick => e.emit (packetHead tick 0 0 c, tick)) e).ten = e.ten := by
    induction ts generalizing e with
    | nil => rfl
    | cons tick ts ih =>
      rw [List.foldl_cons, ih, Debug.emit]
      split <;> rfl
  exact hfold d.syncDue _

/-- A write of another register than the control one traces nothing. -/
theorem State.dbgWrite_other (s : State) (c : Nat) {n : Nat} (hn : n ≠ 0) (v : Word) :
    s.dbgWrite c n v = s.setDbg c (((s.core c).dbg.emitSync c).write n v) := if_neg fun h => hn h.1

/-- A write of the control register that enables the trace emits a SYNC packet. -/
theorem State.dbgWrite_control (s : State) (c : Nat) (v : Word) :
    let e := ((s.core c).dbg.emitSync c).write 0 v
    ((s.core c).dbg.ten = true ∨ v.getLsbD 4 = false → s.dbgWrite c 0 v = s.setDbg c e) ∧
    ((s.core c).dbg.ten = false → v.getLsbD 4 = true → s.dbgWrite c 0 v = (s.setDbg c e).trace ⟨c, 0⟩ 0 (s.die (dieOf c)).dtc) := by
  have hbit : bit v 4 = v.getLsbD 4 := rfl
  refine ⟨fun h => if_neg fun hnew => ?_, fun hten hv => if_pos ⟨rfl, by rw [hten]; rfl, hbit.trans hv⟩⟩
  obtain ⟨-, hten, hv⟩ := hnew
  rw [hbit] at hv
  rcases h with h | h
  · rw [h] at hten
    exact absurd hten (by decide)
  · rw [h] at hv
    cases hv

/-- OP 1 writes a module register. -/
theorem debugWriteRegister_results (h : s.dbgTake c 0 (· == 1) = some (t, q)) :
    let d := ((t.core c).dbg.emitSync c)
    let v := q.data
    let ans (u : State) (st : Nat) : Prop := exec (.debugWriteRegister c 0) s = .next (u.dbgReply q.raddr 0 st)
    (q.ptag ≠ 0 → ans t 2) ∧ (q.ptag = 0 →
      (q.idx = 0 → let e : Debug := { d with arm := v.truncate 4, ten := v.getLsbD 4, tlm := BitVec.ofNat 4 (v.toNat / 2 ^ 8),
                                             tkind := BitVec.ofNat 6 (v.toNat / 2 ^ 16) }
        (d.ten = true ∨ v.getLsbD 4 = false → ans (t.setDbg c e) 1) ∧
        (d.ten = false → v.getLsbD 4 = true → ans ((t.setDbg c e).trace ⟨c, 0⟩ 0 (t.die (dieOf c)).dtc) 1)) ∧
      (∀ n : Fin 4, (q.idx = 2 + n.val → ans (t.setDbg c { d with bp := d.bp.set n v }) 1) ∧
        (q.idx = 16 + n.val → ans (t.setDbg c { d with dpc := d.dpc.set n (v &&& ~~~(15 : Word)) }) 1)) ∧
      (q.idx = 6 → ans (t.setDbg c { d with bpcfg := v &&& 0x1F1F1F1F }) 1) ∧
      (∀ n : Fin 2, q.idx = 7 + n.val → ans (t.setDbg c { d with wp := d.wp.set n v }) 1) ∧
      (q.idx = 9 → ans (t.setDbg c { d with wpcfg := v &&& 0xFFFF00F7FFFF00F7 }) 1) ∧
      (q.idx = 10 → ans (t.setDbg c { d with trcbase := v &&& ~~~(127 : Word) }) 1) ∧
      (q.idx = 11 → ans (t.setDbg c { d with nsz := v.truncate 4, tdrop := BitVec.ofNat 32 (v.toNat / 2 ^ 32) }) 1) ∧
      (q.idx = 1 ∨ (20 ≤ q.idx ∧ q.idx < 28) → ans (t.setDbg c d) 1) ∧
      ((12 ≤ q.idx ∧ q.idx < 16) ∨ 28 ≤ q.idx → ans t 4)) := by
  intro d v ans
  have hexec := exec_debugWriteRegister h
  refine ⟨fun hp => by rw [if_neg hp] at hexec; exact hexec, fun hp => ?_⟩
  rw [if_pos hp] at hexec
  have present (hn : q.idx < 12 ∨ (16 ≤ q.idx ∧ q.idx < 28)) : ans (t.dbgWrite c q.idx v) 1 := by
    rw [if_pos ((t.core c).dbgRead_present hn)] at hexec
    exact hexec
  have write {n : Nat} {e : Debug} (hn : 0 < n ∧ n < 12 ∨ (16 ≤ n ∧ n < 28)) (he : d.write n v = e) (hidx : q.idx = n) : ans (t.setDbg c e) 1 := by
    have hwrite := present (by omega)
    rw [hidx, State.dbgWrite_other t c (by omega)] at hwrite
    exact he ▸ hwrite
  refine ⟨?_, fun n => ?_, write (by omega) rfl, fun n => write (by omega) (d.write_watch v n), write (by omega) rfl,
    write (by omega) rfl, write (by omega) (d.write_ring v), fun hidx => write (by omega) (d.write_readOnly v hidx) rfl, fun hidx => ?_⟩
  · intro hidx e
    have hwrite := present (by omega)
    obtain ⟨hquiet, hsync⟩ := t.dbgWrite_control c v
    have he : d.write 0 v = e := d.write_control v
    have hten : d.ten = (t.core c).dbg.ten := Debug.emitSync_ten _ c
    rw [hidx] at hwrite
    rw [he] at hquiet hsync
    rw [hten]
    exact ⟨fun h => hquiet h ▸ hwrite, fun h hv => hsync h hv ▸ hwrite⟩
  · obtain ⟨hbp, hdpc⟩ := d.write_lanes v n
    exact ⟨write (by omega) hbp, write (by omega) hdpc⟩
  · rw [(t.core c).dbgRead_absent hidx] at hexec
    exact hexec

end Request

end Sys2Proof.Machine

namespace Sys2Proof.Machine

section Request
variable {s t : State} {c : Nat} {q : DbgReq}

/-- May a request's partition tag act on a lane (R336)? -/
theorem State.dbgMay_iff (t : State) (c : Nat) (q : DbgReq) (l : Nat) :
    t.dbgMay c q l = true ↔ q.ptag = 0 ∨ (t.laneAt ⟨c, l⟩).part = q.ptag := by
  rw [State.dbgMay, Bool.or_eq_true, beq_iff_eq, beq_iff_eq]

theorem DbgReq.mem_named (q : DbgReq) (n : Nat) : n ∈ q.named ↔ n < 4 ∧ q.data.getLsbD n = true := by
  rw [DbgReq.named, List.mem_filter, List.mem_range]
  rfl

theorem State.mem_stopped (t : State) (c : Nat) (q : DbgReq) (n : Nat) :
    n ∈ t.stopped c q ↔ (n < 4 ∧ q.data.getLsbD n = true) ∧ (q.ptag = 0 ∨ (t.laneAt ⟨c, n⟩).part = q.ptag) := by
  rw [State.stopped, List.mem_filter, DbgReq.mem_named, State.dbgMay_iff]

/-- The reply that a stop owes: the lanes that it waits for, and its status. -/
theorem exec_debugStop_owes (h : s.dbgTake c 0 (· == 2) = some (t, q)) : ∃ (m : BitVec 4) (st : Nat),
    exec (.debugStop c 0) s = .next (((t.askStops c (t.stopped c q)).dbgOwe c m q.raddr st).dbgSettle c) ∧
    (∀ n, n < 4 → (m.getLsbD n = true ↔ n ∈ t.stopped c q)) ∧
    ((∃ n ∈ q.named, t.dbgMay c q n = false) → st = 2) ∧ ((∀ n ∈ q.named, t.dbgMay c q n = true) → st = 1) := by
  have hexec := exec_debugStop h
  have hall : (t.stopped c q).length = q.named.length ↔ ∀ n ∈ q.named, t.dbgMay c q n = true := List.length_filter_eq_length_iff
  have hle : (t.stopped c q).length ≤ q.named.length := List.length_filter_le ..
  by_cases hlt : (t.stopped c q).length < q.named.length
  · refine ⟨BitVec.ofNat 4 ((t.stopped c q).map (2 ^ ·)).sum, 2, ?_, fun n hn => ?_, fun _ => rfl, fun hmine => ?_⟩
    · exact hexec.trans (by rw [if_pos hlt])
    · have hfilter : t.stopped c q = (List.range 4).filter (fun l => t.dbgMay c q l && bit q.data l) := List.filter_filter ..
      rw [hfilter, maskOf_filter _ hn, List.mem_filter, List.mem_range]
      exact (and_iff_right hn).symm
    · exact absurd (hall.2 hmine) (Nat.ne_of_lt hlt)
  · have hmine := hall.1 (Nat.le_antisymm hle (Nat.not_lt.1 hlt))
    refine ⟨BitVec.ofNat 4 (bits q.data 3 0), 1, ?_, fun n hn => ?_, fun ⟨n, hn, hother⟩ => ?_, fun _ => rfl⟩
    · exact hexec.trans (by rw [if_neg hlt])
    · rw [State.stopped, List.filter_eq_self.2 hmine, DbgReq.mem_named, bits_low q.data (n := 4) (by decide), and_iff_right hn]
      rw [BitVec.getLsbD_ofNat, Nat.testBit_mod_two_pow, decide_eq_true hn, Bool.true_and, Bool.true_and]
      rfl
    · rw [hmine n hn] at hother
      cases hother

/-- What asking lanes of a core to stop leaves, in terms of the obligation's words. -/
theorem State.askStops_asked (t : State) (c : Nat) (q : DbgReq) (m : BitVec 4) (st : Nat) :
    let u := (t.askStops c (t.stopped c q)).dbgOwe c m q.raddr st
    u.mesh = t.mesh ∧ u.mem = t.mem ∧ (u.core c).dbg = { (t.core c).dbg with replies := (t.core c).dbg.replies ++ [(m, q.raddr, st)] } ∧
    ∀ n, n < 4 → u.laneAt ⟨c, n⟩ = if n ∈ t.stopped c q ∧ (t.laneAt ⟨c, n⟩).dstop = false then { t.laneAt ⟨c, n⟩ with dbgStopReq := true }
      else t.laneAt ⟨c, n⟩ := by
  obtain ⟨hmesh, hmem, hdbg⟩ := State.askStops_rest c (t.stopped c q) t
  refine ⟨hmesh, hmem, ?_, fun n hn => ?_⟩
  · rw [State.dbgOwe, State.setDbg_dbg, hdbg]
  · rw [State.dbgOwe, State.setDbg_laneAt]
    exact State.askStops_laneAt c (fun l hl => ((t.mem_stopped c q l).1 hl).1.1) t hn

/-- OP 2 asks the named lanes of the tag to stop. -/
theorem debugStop_results (h : s.dbgTake c 0 (· == 2) = some (t, q)) (hreplies : (t.core c).dbg.replies = []) :
    let named (n : Nat) : Prop := n < 4 ∧ q.data.getLsbD n = true
    let mine (n : Nat) : Prop := q.ptag = 0 ∨ (t.laneAt ⟨c, n⟩).part = q.ptag
    let asked (u : State) : Prop := u.mesh = t.mesh ∧ u.mem = t.mem ∧ ∀ n, n < 4 →
      (named n ∧ mine n ∧ (t.laneAt ⟨c, n⟩).dstop = false → u.laneAt ⟨c, n⟩ = { t.laneAt ⟨c, n⟩ with dbgStopReq := true }) ∧
      (¬(named n ∧ mine n ∧ (t.laneAt ⟨c, n⟩).dstop = false) → u.laneAt ⟨c, n⟩ = t.laneAt ⟨c, n⟩)
    ((∃ n, named n) → (∀ n, named n → ¬mine n) →
      ∃ u, exec (.debugStop c 0) s = .next (u.dbgReply q.raddr 0 2) ∧ asked u ∧ (u.core c).dbg = (t.core c).dbg) ∧
    ((∃ n, named n ∧ mine n ∧ (t.laneAt ⟨c, n⟩).dstop = false) → ∃ u m st, exec (.debugStop c 0) s = .next u ∧ asked u ∧
      (u.core c).dbg.replies = [(m, q.raddr, st)] ∧ (∀ n, n < 4 → (m.getLsbD n = true ↔ named n ∧ mine n)) ∧
      ((∃ n, named n ∧ ¬mine n) → st = 2) ∧ ((∀ n, named n → mine n) → st = 1)) := by
  intro named mine asked
  obtain ⟨m, st, hexec, hmask, hother, hall⟩ := exec_debugStop_owes h
  obtain ⟨hmesh, hmem, hdbg, hlane⟩ := t.askStops_asked c q m st
  have hstopped (n : Nat) : n ∈ t.stopped c q ↔ named n ∧ mine n := t.mem_stopped c q n
  have hmay (n : Nat) : t.dbgMay c q n = true ↔ mine n := t.dbgMay_iff c q n
  set u := (t.askStops c (t.stopped c q)).dbgOwe c m q.raddr st with hu
  clear_value u
  rw [hreplies] at hdbg
  have hlanes (n : Nat) (hn : n < 4) :
      (named n ∧ mine n ∧ (t.laneAt ⟨c, n⟩).dstop = false → u.laneAt ⟨c, n⟩ = { t.laneAt ⟨c, n⟩ with dbgStopReq := true }) ∧
      (¬(named n ∧ mine n ∧ (t.laneAt ⟨c, n⟩).dstop = false) → u.laneAt ⟨c, n⟩ = t.laneAt ⟨c, n⟩) := by
    have hiff : n ∈ t.stopped c q ∧ (t.laneAt ⟨c, n⟩).dstop = false ↔ named n ∧ mine n ∧ (t.laneAt ⟨c, n⟩).dstop = false := by
      rw [hstopped, and_assoc]
    exact ⟨fun hask => (hlane n hn).trans (if_pos (hiff.2 hask)), fun hask => (hlane n hn).trans (if_neg (mt hiff.1 hask))⟩
  have hst : (∃ n, named n ∧ ¬mine n) → st = 2 := fun ⟨n, hn, hmine⟩ =>
    hother ⟨n, (q.mem_named n).2 hn, Bool.eq_false_iff.2 (mt (hmay n).1 hmine)⟩
  refine ⟨fun ⟨k, hk⟩ hnone => ?_, fun ⟨k, hk, hkmine, hkstop⟩ => ?_⟩
  · have hm : m = 0 := BitVec.eq_of_getLsbD_eq fun n hn => by
      rw [Bool.eq_false_iff.2 (mt (hmask n hn).1 (mt (hstopped n).1 (fun hn => hnone n hn.1 hn.2)))]
      exact BitVec.getLsbD_zero.symm
    obtain rfl := hst ⟨k, hk, hnone k hk⟩
    subst hm
    have hsettle : u.dbgSettle c = (u.setDbg c { (u.core c).dbg with replies := [] }).dbgReply q.raddr 0 2 :=
      State.dbgSettle_empty (by rw [hdbg]; rfl)
    refine ⟨u.setDbg c { (u.core c).dbg with replies := [] }, hexec.trans (congrArg _ hsettle), ⟨hmesh, hmem, fun n hn => ?_⟩, ?_⟩
    · rw [State.setDbg_laneAt]
      exact hlanes n hn
    · rw [State.setDbg_dbg, hdbg, ← hreplies]
  · have hkm : k ∈ namedLanes m := (mem_namedLanes m k).2 ⟨hk.1, (hmask k hk.1).2 ((hstopped k).2 ⟨hk, hkmine⟩)⟩
    have hwait : (u.laneAt ⟨c, k⟩).dstop = false := by
      rw [(hlanes k hk.1).1 ⟨hk, hkmine, hkstop⟩]
      exact hkstop
    have hsettle : u.dbgSettle c = u := State.dbgSettle_waits (by rw [hdbg]; rfl) hkm hwait
    refine ⟨u, m, st, hexec.trans (congrArg _ hsettle), ⟨hmesh, hmem, hlanes⟩, by rw [hdbg]; rfl,
      fun n hn => (hmask n hn).trans (hstopped n), hst, fun hmine => ?_⟩
    exact hall fun n hn => (hmay n).2 (hmine n ((q.mem_named n).1 hn))

end Request

end Sys2Proof.Machine

namespace Sys2Proof.Machine

section Stopped
variable {s t : State} {c : Nat} {q : DbgReq} (hmay : t.dbgMay c q q.lane = true) (hstop : (t.laneAt ⟨c, q.lane⟩).dstop = true)
include hmay hstop

/-- OP 4: the lane goes on for one instruction, and the reply is owed. -/
theorem debugStep_results (h : s.dbgTake c 0 (· == 4) = some (t, q)) {l : Lane} (hrun : t.dbgRun ⟨c, q.lane⟩ false true = t.setLaneAt ⟨c, q.lane⟩ l) :
    ∃ u, exec (.debugStep c 0) s = .next u ∧ u.laneAt ⟨c, q.lane⟩ = l ∧ u.mem = t.mem ∧ (u.core c).dbg =
      { (t.core c).dbg with replies := (t.core c).dbg.replies ++ [(BitVec.ofNat 4 (2 ^ q.lane), q.raddr, 1)] } := by
  have hdbg : ((t.setLaneAt ⟨c, q.lane⟩ l).core c).dbg = (t.core c).dbg := State.setLaneAt_dbg ..
  refine ⟨_, exec_debugStep_stopped hmay hstop h, ?_, ?_, ?_⟩ <;> rw [hrun, State.dbgOwe]
  · rw [State.setDbg_laneAt, State.setLaneAt_laneAt_same]
  · rfl
  · rw [State.setDbg_dbg, hdbg]

/-- OP 5 reads a register of the lane. -/
theorem debugReadLaneState_results (h : s.dbgTake c 0 (· == 5) = some (t, q)) (hsel : q.sel < 4) :
    let x := t.laneAt ⟨c, q.lane⟩
    let ans (u : State) (y : Word) (st : Nat) : Prop := exec (.debugReadLaneState c 0) s = .next (u.dbgReply q.raddr y st)
    let u := t.meetLost ⟨c, q.lane⟩ (· == dbgPart q.sel q.idx)
    (q.sel = 0 → q.idx < 32 → ans u (x.s (BitVec.ofNat 5 q.idx)) 1) ∧
    (q.sel = 1 → ∀ y, t.crRead ⟨c, q.lane⟩ q.idx = some y → ans u y 1) ∧ (q.sel = 2 → ans u x.pc 1) ∧
    (q.sel = 3 → q.idx < 128 → ans u (BitVec.ofNat 64 (vget (x.v (BitVec.ofNat 5 (q.idx / 4))) 64 (q.idx % 4))) 1) ∧
    ((q.sel = 0 ∧ 32 ≤ q.idx) ∨ (q.sel = 1 ∧ t.crRead ⟨c, q.lane⟩ q.idx = none) ∨ (q.sel = 3 ∧ 128 ≤ q.idx) → ans t 0 4) := by
  intro x ans u
  obtain ⟨hread, hnone⟩ := exec_debugReadLaneState_stopped hmay hstop h
  obtain ⟨hs, hcr, hpc, hv, habsent⟩ := t.dbgLaneRead_eq ⟨c, q.lane⟩ (idx := q.idx) hsel
  refine ⟨fun h0 hidx => hread _ (hs h0 hidx), fun h1 y hy => hread y ((hcr h1).trans hy), fun h2 => hread _ (hpc h2),
    fun h3 hidx => hread _ (hv h3 hidx), ?_⟩
  rintro (h0 | ⟨h1, hy⟩ | h3)
  · exact hnone (habsent (.inl h0))
  · exact hnone ((hcr h1).trans hy)
  · exact hnone (habsent (.inr h3))

/-- OP 6 writes one. -/
theorem debugWriteLaneState_results (h : s.dbgTake c 0 (· == 6) = some (t, q)) :
    let r : LaneRef := ⟨c, q.lane⟩
    let x := t.laneAt r
    let v := q.data
    let ans (u : State) (st : Nat) : Prop := exec (.debugWriteLaneState c 0) s = .next (u.dbgReply q.raddr 0 st)
    (q.sel = 0 → q.idx < 32 → ans (t.setLaneAt r (x.setS (BitVec.ofNat 5 q.idx) v)) 1) ∧
    (q.sel = 1 → (t.crRead r q.idx).isSome = true → crRefuses q.idx v = false → ans (t.crSet r q.idx v) 1) ∧
    (q.sel = 2 → ans (t.setLaneAt r { x with pc := v &&& ~~~(15 : Word) }) 1) ∧
    (q.sel = 3 → q.idx < 128 → ∃ y, ans (t.setLaneAt r (x.setV (BitVec.ofNat 5 (q.idx / 4)) y)) 1 ∧
      ∀ j, j < 4 → vget y 64 j = if j = q.idx % 4 then v.toNat else vget (x.v (BitVec.ofNat 5 (q.idx / 4))) 64 j) ∧
    ((q.sel = 0 ∧ 32 ≤ q.idx) ∨ (q.sel = 1 ∧ t.crRead r q.idx = none) ∨ (q.sel = 3 ∧ 128 ≤ q.idx) → ans t 4) := by
  intro r x v ans
  obtain ⟨hwrite, hnone⟩ := exec_debugWriteLaneState_stopped hmay hstop h
  obtain ⟨hs, hcr, hpc, hv, habsent⟩ := t.dbgLaneWrite_eq r (sel := q.sel) (idx := q.idx) v
  refine ⟨fun h0 hidx => hwrite _ (hs h0 hidx), fun h1 hread hvalue => hwrite _ (hcr h1 hread hvalue), fun h2 => hwrite _ (hpc h2),
    fun h3 hidx => ?_, fun hidx => hnone (habsent hidx)⟩
  obtain ⟨y, hy, hparts⟩ := hv h3 hidx
  exact ⟨y, hwrite _ hy, hparts⟩

end Stopped

/-! The events of a traced core and of its encoder. -/

/-- A packet of a traced core enters the encoder's buffer or is counted (R339). -/
theorem State.trace_results (s : State) (r : LaneRef) (kind : Nat) (data : Word) :
    let d := (s.core r.core).dbg
    let t := s.trace r kind data
    let head := BitVec.ofNat 64 ((s.die (dieOf r.core)).dtc.toNat % 2 ^ 36 + kind * 2 ^ 36 + r.lane * 2 ^ 40 + r.core % 2 ^ 20 * 2 ^ 44)
    t.mem = s.mem ∧ t.mesh = s.mesh ∧ (d.ten = false → t = s) ∧
    (d.ten = true → d.syncDue = [] →
      (kind = 0 ∨ kind = 7 ∨ (0 < kind ∧ kind < 7 ∧ r.lane < 4 ∧ d.tlm.getLsbD r.lane = true ∧ d.tkind.getLsbD (kind - 1) = true)) →
      (t.core r.core).dbg = if d.packets.length < 32 then { d with packets := d.packets ++ [(head, data)] } else { d with tdrop := d.tdrop + 1 }) := by
  intro d t head
  obtain ⟨hmem, hmesh⟩ := s.trace_rest r kind data
  refine ⟨hmem, hmesh, fun hten => State.trace_off hten kind data, fun hten hsync hkind => ?_⟩
  have hkind' : kind = 0 ∨ kind = 7 ∨ (d.tlm.getLsbD r.lane = true ∧ d.tkind.getLsbD (kind - 1) = true) := by
    obtain h | h | ⟨-, -, -, hmasks⟩ := hkind
    · exact .inl h
    · exact .inr (.inl h)
    · exact .inr (.inr hmasks)
  rw [State.trace_emits hten hsync hkind', packetHead_eq, Debug.emit_eq]

/-- The encoder's stores of its first packet (R340). -/
theorem State.encoderStores_results {s : State} {c core off : Nat} {p : Word × Word} {rest : List (Word × Word)} (hok : s.memoryOk)
    (hparked : s.parked = []) (hcore : core < Config.mgmtCore) (hoff : 64 ≤ off) (hpackets : (s.core c).dbg.packets = p :: rest)
    (hstored : (s.core c).dbg.stored = 0) (hring : (s.core c).dbg.ring = some (spadByte core off, spadByte core (off - 64)))
    (hclean : s.clean (spadByte core (off - 64))) :
    let d := (s.core c).dbg
    let x := (s.peek (spadByte core (off - 64))).toNat
    let n := x / 2 ^ 32
    let k := off + 128 * (n % 2 ^ d.nsz.toNat)
    k + 128 ≤ 524288 →
    ((n + 2 ^ 32 - x % 2 ^ 32) % 2 ^ 32 ≠ 2 ^ d.nsz.toNat → let t := s.encoderStores c 3
      t.peek (spadByte core k) = p.1 ∧ t.peek (spadByte core (k + 64)) = p.2 ∧
      t.peek (spadByte core (off - 64)) = BitVec.ofNat 64 (x % 2 ^ 32 + (n + 1) % 2 ^ 32 * 2 ^ 32) ∧ (t.core c).dbg = { d with packets := rest }) ∧
    ((n + 2 ^ 32 - x % 2 ^ 32) % 2 ^ 32 = 2 ^ d.nsz.toNat → let t := s.encoderStores c 1
      t.mem = s.mem ∧ (t.core c).dbg = { d with packets := rest, tdrop := d.tdrop + 1 }) := by
  intro d x n k hend
  obtain ⟨hhead, htail⟩ := control_fields (s.peek (spadByte core (off - 64)))
  have hfilled : ctlFilled (s.peek (spadByte core (off - 64))) = (n + 2 ^ 32 - x % 2 ^ 32) % 2 ^ 32 := by rw [ctlFilled, htail, hhead]
  refine ⟨fun hroom => ?_, fun hfull => ?_⟩
  · obtain ⟨hfirst, hsecond, hctl, hdbg⟩ := State.encoderStores_room hpackets hstored hring hclean hok hparked hcore hoff
      (k := k) (by rw [hfilled]; exact hroom) (by rw [htail]) hend
    rw [htail, Nat.add_comm (_ * 2 ^ 32)] at hctl
    exact ⟨hfirst, hsecond, hctl, hdbg⟩
  · exact State.encoderStores_full hpackets hstored hring hclean (hfilled.trans hfull)

/-- Settles O14: each OP through the request that its event takes (`State.dbgTake_debug`), then the module's own registers, stops, replies,
packets and ring. -/
theorem debugResults : Obligations.DebugResults := by
  unfold Obligations.DebugResults
  refine ⟨?_, ?_, ?_, State.trace_results, ?_⟩
  · intro s src lane c ws hmesh hlinks hstuck hbuf h w v ra op l sel idx p r s0 x d mine ans withDbg hmb hclass
    have hreq : dbgReqOf ws = ⟨op, l, sel, idx, v, ra, p⟩ := dbgReqOf_eq ws
    have take {ok : Nat → Bool} (hop : ok op = true) : s.dbgTake c 0 ok = some (s0, ⟨op, l, sel, idx, v, ra, p⟩) :=
      hreq ▸ State.dbgTake_debug hmesh hlinks hstuck hbuf hmb hclass hop
    have hmay (n : Nat) : s0.dbgMay c ⟨op, l, sel, idx, v, ra, p⟩ n = true ↔ mine n := s0.dbgMay_iff c _ n
    refine ⟨fun hop => ?_, fun hop => ?_, fun hop hreplies => ?_, fun i hi => ?_, fun hmine hstop n hn => ?_, fun hop => ?_, fun hop => ?_⟩
    · exact debugReadRegister_results (take (by rw [hop]; rfl))
    · exact debugWriteRegister_results (take (by rw [hop]; rfl))
    · have hresults := debugStop_results (take (by rw [hop]; rfl)) hreplies
      rw [show s0.mesh = [] from rfl] at hresults
      exact hresults
    · obtain ⟨hother, hrunning⟩ := exec_laneEvent_refused hi (take (beq_self_eq_true op))
      exact ⟨fun hmine => hother (Bool.eq_false_iff.2 (mt (hmay l).1 hmine)), fun hmine => hrunning ((hmay l).2 hmine)⟩
    · have hrun := s0.dbgRun_eq c hn
      refine ⟨fun hop => ?_, fun hop => ?_, fun hop => ?_, fun hop => ?_⟩
      · refine (exec_debugResume_stopped ((hmay l).2 hmine) hstop (take (by rw [hop]; rfl))).trans ?_
        exact congrArg (fun u : State => Host.Outcome.next (u.dbgReply ra 0 1)) (hrun (v.getLsbD 0) false)
      · exact debugStep_results ((hmay l).2 hmine) hstop (take (by rw [hop]; rfl)) (hrun false true)
      · exact debugReadLaneState_results ((hmay l).2 hmine) hstop (take (by rw [hop]; rfl)) (Nat.mod_lt _ (by decide))
      · exact debugWriteLaneState_results ((hmay l).2 hmine) hstop (take (by rw [hop]; rfl))
    · have hmark := exec_debugMark (take (ok := (· == 7)) (by rw [hop]; rfl))
      exact ⟨fun hmine => hmark.trans (by rw [if_pos ((hmay l).2 hmine)]), fun hmine => hmark.trans (by rw [if_neg (mt (hmay l).1 hmine)])⟩
    · exact exec_debugUnassignedOp (take (decide_eq_true hop))
  · intro s c l n hn r x
    refine ⟨fun huntraced hreq hrun hstop hstep hreplies => ?_, ?_⟩
    · obtain ⟨t, hexec, hmem, hlane, hdbg⟩ := exec_debugStopEffect hn huntraced hreq hrun hstop hstep hreplies
      refine ⟨t, hexec, hmem, by rw [hlane]; rfl, by rw [hlane]; rfl, ?_, ?_, ?_, ?_⟩
      · rw [hlane]
        exact (if_neg (by rw [hrun]; decide)).trans hrun
      · rw [hdbg]
        exact Vector.getElem_set_self ..
      · rw [hdbg]
        exact Vector.getElem_set_self ..
      · rw [hdbg]
        exact Vector.getElem_set_self ..
    · intro first all
      rw [exec_traceSync, Debug.emitSync_eq]
  · intro s a y st core off hok hparked halign _ hcore ha hnext pa
    exact State.dbgReply_words ha hok hparked halign hcore hnext y st
  · intro s c core off p rest hok hparked hcore hoff _ d at_ x n k hpackets hstored hbase hctl hend hclean
    exact State.encoderStores_results hok hparked hcore hoff hpackets hstored (Debug.ring_global hbase hctl) hclean hend

end Sys2Proof.Machine
